-- ==== Sys2Proof/Word.lean ====
section
/-! DEFINITION. The word types of the VX-940 (spec 01 R8, 02 R27) and the plainest bits of arithmetic on them. -/

namespace Sys2Proof

/-- A byte of memory. -/
abbrev Byte := BitVec 8
/-- One instruction word (R27). -/
abbrev Word := BitVec 32
/-- A scalar register, a predicate, a control register or an address (R8). -/
abbrev Dword := BitVec 64
/-- A vector register, and also one 64-byte line (R8, R211). -/
abbrev VReg := BitVec 512
/-- The number of a scalar or vector register (R28). -/
abbrev Reg := BitVec 5
/-- The number of a predicate register (R28). -/
abbrev PReg := BitVec 3

/-- The signed value of the low `w` bits of `x`. -/
def signedOf (w x : Nat) : Int :=
  let y := x % 2 ^ w
  if y < 2 ^ (w - 1) then (y : Int) else (y : Int) - (2 ^ w : Nat)

/-- The `w`-bit pattern of an integer, wrapping modulo `2^w` (R52). -/
def wrapTo (w : Nat) (i : Int) : Nat := (i % ((2 ^ w : Nat) : Int)).toNat

/-- `1` or `0` as a dword. -/
def Dword.ofBool (b : Bool) : Dword := if b then 1 else 0

end Sys2Proof
end

