-- ==== Sys2Proof/Syntax.lean ====
section
/-! DEFINITION. The syntax of the VX-940: one constructor of `Instr` for every row of spec/opcode_table.json, the 203
instruction words (spec 02, 04, 05, 08, 11, 14, 15, 17, 19) and the 93 steps of the hardware that have no encoding
(spec/95_what_each_step_holds.md), with the packets and happenings that those steps carry. -/

namespace Sys2Proof

/-- Element types of vector lanes, in the order of their codes (R28). -/
inductive ETy where
  | i8 | i16 | i32 | i64 | f16 | bf16 | f32 | f64
  deriving DecidableEq, Repr

/-- Access sizes 1, 2, 4 and 8 bytes (R33, R45). -/
inductive Size where
  | b | h | w | d
  deriving DecidableEq, Repr

/-- Scopes, in the order of their codes (R227). -/
inductive Scope where
  | ctx | core | die | pkg | dom | sys
  deriving DecidableEq, Repr

/-- The control registers of R15. -/
inductive CReg where
  | core | die | pkg | slot | region | cycle | pool
  | fpm | chkint | tags | tagerrs | sqlim | utvec | ucause | upc | uval
  | lcnt | lstart | lend | pfx | suit | kiln | lvt | akey | astate | kwin
  | cbtl | cbth | spbase | spadj | spstat | rngk | rngc | sampctx | lmap
  | scause | spc | sval | stvec | sstat | deleg | ptroot | asid
  deriving DecidableEq, Repr

/-- The two drops of `tlbinv` that name no page, and the two that do (R243). -/
inductive TlbKind where
  | all | asid | page | pageAny
  deriving DecidableEq, Repr

/-- The networks of the mesh that carry packets of programs and dealers (R131). -/
inductive Net where
  | req | rpl | sys
  deriving DecidableEq, Repr

/-- A task: a program counter and four arguments, a0 in the low quarter (R123), and the logical time at which it was made (R178). -/
structure Task where
  pc   : Dword
  args : BitVec 256
  lt   : Nat := 0
  deriving DecidableEq, Repr

/-- A scalar message: header of R135 and four words, word 0 in the low quarter, with a poison bit each, and the logical time at which it
was sent (R136). -/
structure Message where
  hdr  : Dword
  data : BitVec 256
  pois : BitVec 4
  lt   : Nat := 0
  deriving DecidableEq, Repr

/-- An event or cancelling event (R146), with the logical time at which it was sent (R191). -/
structure Event where
  time    : Dword
  hix     : BitVec 16
  dst     : BitVec 48
  cancel  : Bool
  src     : BitVec 48
  serial  : BitVec 32
  payload : BitVec 256
  poison  : Bool
  lt      : Nat := 0
  deriving DecidableEq, Repr

/-- What a packet carries (R131). `flight` numbers the sender's in-flight entry (R164); `rslot` is the landing slot
that waits, where one does (R177). -/
inductive Body where
  | message (m : Message)
  | vector (tag : Byte) (rslot : BitVec 4) (v : VReg) (pois : Bool)
  | task (t : Task) (tag : Byte) (rslot : BitVec 4)
  | event (e : Event) (rslot : Option (BitVec 4)) (flight : Nat)
  | probe
  | reply (m : Message)
  | error (m : Message) (flight : Option (Nat × Option (BitVec 4)))
  | ack (rslot : BitVec 4)
  | eventAck (rslot : Option (BitVec 4)) (flight : Nat)
  | probeAnswer (t : Option Task)
  | homeInvalidate (actor : BitVec 48)
  | sealNotice (core : Nat)
  deriving DecidableEq, Repr

/-- A packet; `src` and `dst` are endpoint addresses (R134), with slot and incarnation 0 for a core as a whole; `rcb` is the
region that it belongs to (R140), which the mesh keeps with it; `lt` is the logical time of its sender (R136). -/
structure Packet where
  net  : Net
  src  : BitVec 40
  dst  : BitVec 40
  rcb  : Nat
  body : Body
  lt   : Nat := 0
  deriving DecidableEq, Repr

/-- Where an uncorrectable error struck (R335), or the core whose checker met a second mismatch (R334). An entry of a core's L1 TLB or of its quad's
TLB is named by its place among them; a copy in an L1 is one of data, or of instructions (`fetched`). -/
inductive ErrPlace where
  | check (core : Nat)
  | l1 (core line : Nat) (fetched : Bool)
  | tlb (core entry : Nat)
  | pool (core : Nat)
  | slice (line : Nat)
  | memory (line : Nat)
  | copyEngine (cmd : Nat)
  | attnUnit (cmd : Nat)
  | wedging (request : Nat)
  deriving DecidableEq, Repr

/-- A correctable error (R334, R335): the core, and whether it is a first mismatch of a check whose retry mends it. -/
structure Corrected where
  core  : Nat
  retry : Bool
  deriving DecidableEq, Repr

/-- What the verifications of a boot find (R406): whether the ROM accepts stage one, whether stage one accepts firmware and kernel, and the
security version of those. -/
structure BootCheck where
  rom      : Bool
  images   : Bool
  security : Nat
  deriving DecidableEq, Repr

/-- What interrupts an application core (R382): a SIGNAL vector of a resident-kernel queue, a root port's MSI-X, or the endpoint's error. -/
inductive IrqSource where
  | signal (queue vector : Nat)
  | port (n : Nat)
  | endpoint
  deriving DecidableEq, Repr

/-- A register of an application core (R382), as the published RISC-V specifications name it; a vector register by its four dwords. -/
inductive AppReg where
  | pc
  | x (n : BitVec 5)
  | f (n : BitVec 5)
  | v (n : BitVec 5) (part : BitVec 2)
  | csr (n : BitVec 12)
  | mode
  deriving DecidableEq, Repr

/-- What the outside writes as a register (R6): one of the endpoint block by its offset (R380), a trigger of the checkpoints, which the resident
kernel sets (R400), and what kernel, firmware and debugger set without a register of the spec's (log 39): the ASID that a memory key identifier is
assigned to (R407), the translation of a process that owns queues (R366), an entry of the gateway table (R385), whether firmware has supervisor
work for an S context (R116), whether a debugger halts a context (R357); and what reaches this package from the others: LAUNCH packets
that they have processed (R400), the scope of a society that has regions there (R165), the least floor that they sampled for it (R399), a move of an actor that lives
here to a home there, and that they have carried out or heard of a move (R196); what the application cores make of their own registers and of the interrupt controller, and
an interrupt that arises at a port (R382, log 52); and what a loop core keeps: a dword of its memory, a sequence that enters its batch with the counter of its draws and its
committed length (the value is their key), a commit of it by the number of accepted drafts (the value is the counter that RNGC gives), and its end (R328, R330). -/
inductive HostReg where
  | endpoint (off : Nat)
  | ckper | ckstep
  | memoryKey (key : Nat)
  | ownerRoot (owner : Nat)
  | ownerAsid (owner : Nat)
  | gateway (entry : Nat)
  | supWork (core : Nat)
  | halt (core slot : Nat)
  | otherLaunches
  | societyScope (soc : Nat)
  | otherFloor (soc : Nat)
  | moveHome (soc : Nat) (actor : BitVec 48)
  | moved (soc : Nat) (actor : BitVec 48)
  | appCore (core : BitVec 4) (reg : AppReg)
  | raise (source : IrqSource)
  | irqPriority (source : IrqSource)
  | irqEnable (target : Nat) (source : IrqSource)
  | irqThreshold (target : Nat)
  | claim (target : Nat)
  | complete (source : IrqSource)
  | tcm (core off : Nat)
  | loopStart (seq : Nat) (ctr : Dword) (len : Nat)
  | loopCommit (seq accepted : Nat)
  | loopEnd (seq : Nat)
  deriving DecidableEq, Repr

/-- What a forward asks of the holder of a copy (R391, R392). -/
inductive FwdKind where
  | supplyKeep | supplyDrop | invalidate
  deriving DecidableEq, Repr

/-- One reading of the monitors (R409): the hottest sensor in degrees Celsius, the averaged module power in watts, and
whether a voltage stayed outside its window for 10 µs. -/
structure Sample where
  temp       : Nat
  power      : Nat
  voltageOut : Bool
  deriving DecidableEq, Repr

/-- The instructions and steps of the VX-940. Registers are `Reg`, predicates `PReg`; an `imm` of 64 bits is the
immediate after prefixes are joined and sign-extended (R37); `w` selects the 32-bit form (R33). In the steps, `core`
is a logical core number, `slot` a context slot and `q` a queue number. -/
inductive Instr where
  -- alu (R77)
  | add (d a b : Reg) (w : Bool)
  | sub (d a b : Reg) (w : Bool)
  | and (d a b : Reg)
  | or (d a b : Reg)
  | xor (d a b : Reg)
  | andn (d a b : Reg)
  | sll (d a b : Reg) (w : Bool)
  | srl (d a b : Reg) (w : Bool)
  | sra (d a b : Reg) (w : Bool)
  | slt (d a b : Reg)
  | sltn (d a b : Reg)
  | min (d a b : Reg)
  | max (d a b : Reg)
  | minn (d a b : Reg)
  | maxn (d a b : Reg)
  | mul (d a b : Reg) (w : Bool)
  | mulh (d a b : Reg)
  | mulhn (d a b : Reg)
  | mulhsn (d a b : Reg)
  | div (d a b : Reg) (w : Bool)
  | divn (d a b : Reg) (w : Bool)
  | rem (d a b : Reg) (w : Bool)
  | remn (d a b : Reg) (w : Bool)
  | clz (d a : Reg)
  | ctz (d a : Reg)
  | popc (d a : Reg)
  | bswap (d a : Reg)
  -- immediates (R78 to R80)
  | addi (d a : Reg) (imm : Dword)
  | andi (d a : Reg) (imm : Dword)
  | ori (d a : Reg) (imm : Dword)
  | xori (d a : Reg) (imm : Dword)
  | slti (d a : Reg) (imm : Dword)
  | sltni (d a : Reg) (imm : Dword)
  | slli (d a : Reg) (c : BitVec 6)
  | srli (d a : Reg) (c : BitVec 6)
  | srai (d a : Reg) (c : BitVec 6)
  | bfx (d a : Reg) (l p : BitVec 6)
  | bfxs (d a : Reg) (l p : BitVec 6)
  | bfi (d a : Reg) (l p : BitVec 6)
  -- loads and stores (R81)
  | ld (d a : Reg) (z : Size) (off : Dword)
  | ldn (d a : Reg) (z : Size) (off : Dword)
  | st (b a : Reg) (z : Size) (off : Dword)
  | ldx (d a b : Reg) (k : BitVec 2) (z : Size)
  | ldnx (d a b : Reg) (k : BitVec 2) (z : Size)
  | stx (d a b : Reg) (k : BitVec 2) (z : Size)
  -- branches, jumps, loop (R84 to R87)
  | beq (b a : Reg) (i : BitVec 16)
  | bne (b a : Reg) (i : BitVec 16)
  | blt (b a : Reg) (i : BitVec 16)
  | bge (b a : Reg) (i : BitVec 16)
  | bltn (b a : Reg) (i : BitVec 16)
  | bgen (b a : Reg) (i : BitVec 16)
  | jal (d : Reg) (i : BitVec 21)
  | jalr (d a : Reg) (off : Dword)
  | loop (a : Reg) (n : BitVec 12)
  -- control registers (R89)
  | crr (d : Reg) (n : CReg)
  | crw (a : Reg) (n : CReg)
  | crs (a : Reg) (n : CReg)
  | crc (a : Reg) (n : CReg)
  -- system (R91 to R93, R345)
  | nop
  | trap (n : BitVec 15)
  | eret
  | brkpt (n : BitVec 15)
  | wfe
  | chkerr (m : BitVec 3)
  -- atomics (R234 to R236); `z` true selects the 8-byte form
  | amoAdd (d a b : Reg) (z : Bool)
  | amoAnd (d a b : Reg) (z : Bool)
  | amoOr (d a b : Reg) (z : Bool)
  | amoXor (d a b : Reg) (z : Bool)
  | amoMin (d a b : Reg) (z : Bool)
  | amoMax (d a b : Reg) (z : Bool)
  | amoMinn (d a b : Reg) (z : Bool)
  | amoMaxn (d a b : Reg) (z : Bool)
  | amoSwap (d a b : Reg) (z : Bool)
  | amoFadd (d a b : Reg) (z : Bool)
  | cas (d a b : Reg) (z : Bool)
  -- fences and caches (R237 to R244)
  | fence (s : Scope)
  | fenceIo
  | cflush (a : Reg) (s : Scope)
  | cinval (a : Reg) (s : Scope)
  | prefetch (i : Bool) (a : Reg)
  | tlbinv (k : TlbKind) (a b : Reg) (s : Scope)
  -- valu (R97)
  | vadd (d a b : Reg) (g : PReg) (t : ETy)
  | vsub (d a b : Reg) (g : PReg) (t : ETy)
  | vmul (d a b : Reg) (g : PReg) (t : ETy)
  | vmin (d a b : Reg) (g : PReg) (t : ETy)
  | vmax (d a b : Reg) (g : PReg) (t : ETy)
  | vminn (d a b : Reg) (g : PReg) (t : ETy)
  | vmaxn (d a b : Reg) (g : PReg) (t : ETy)
  | vabs (d a : Reg) (g : PReg) (t : ETy)
  | vneg (d a : Reg) (g : PReg) (t : ETy)
  | vand (d a b : Reg) (g : PReg) (t : ETy)
  | vor (d a b : Reg) (g : PReg) (t : ETy)
  | vxor (d a b : Reg) (g : PReg) (t : ETy)
  | vandn (d a b : Reg) (g : PReg) (t : ETy)
  | vsll (d a b : Reg) (g : PReg) (t : ETy)
  | vsrl (d a b : Reg) (g : PReg) (t : ETy)
  | vsra (d a b : Reg) (g : PReg) (t : ETy)
  | vaddsat (d a b : Reg) (g : PReg) (t : ETy)
  | vsubsat (d a b : Reg) (g : PReg) (t : ETy)
  | vaddsatn (d a b : Reg) (g : PReg) (t : ETy)
  | vsubsatn (d a b : Reg) (g : PReg) (t : ETy)
  | vdiv (d a b : Reg) (g : PReg) (t : ETy)
  | vsqrt (d a : Reg) (g : PReg) (t : ETy)
  | vmulh (d a b : Reg) (g : PReg) (t : ETy)
  | vmulhn (d a b : Reg) (g : PReg) (t : ETy)
  | vsel (d a b : Reg) (g : PReg) (t : ETy)
  -- vsfu (R98)
  | vrcp (d a : Reg) (g : PReg)
  | vrsqrt (d a : Reg) (g : PReg)
  | vexp2 (d a : Reg) (g : PReg)
  | vlog2 (d a : Reg) (g : PReg)
  | vtanh (d a : Reg) (g : PReg)
  -- fused multiply-add (R99)
  | vfma (d a b c : Reg) (g : PReg) (t : ETy)
  | vfms (d a b c : Reg) (g : PReg) (t : ETy)
  | vfnma (d a b c : Reg) (g : PReg) (t : ETy)
  | vfnms (d a b c : Reg) (g : PReg) (t : ETy)
  -- vector memory (R100 to R102)
  | vld (d a : Reg) (g : PReg) (z : Size) (off : BitVec 11)
  | vldff (d a : Reg) (g : PReg) (z : Size) (off : BitVec 11)
  | vst (b a : Reg) (g : PReg) (z : Size) (off : BitVec 11)
  | vgather (d a b : Reg) (g : PReg) (t : ETy)
  | vscatter (d a b : Reg) (g : PReg) (t : ETy)
  -- compares and predicates (R103, R104)
  | vcmpEq (p : PReg) (a b : Reg) (g : PReg) (t : ETy)
  | vcmpNe (p : PReg) (a b : Reg) (g : PReg) (t : ETy)
  | vcmpLt (p : PReg) (a b : Reg) (g : PReg) (t : ETy)
  | vcmpLe (p : PReg) (a b : Reg) (g : PReg) (t : ETy)
  | vcmpLtn (p : PReg) (a b : Reg) (g : PReg) (t : ETy)
  | vcmpLen (p : PReg) (a b : Reg) (g : PReg) (t : ETy)
  | vcmpUnord (p : PReg) (a b : Reg) (g : PReg) (t : ETy)
  | pand (d a b : PReg)
  | por (d a b : PReg)
  | pxor (d a b : PReg)
  | pnot (d a : PReg)
  | pcnt (d : PReg) (a : Reg)
  | ppop (d : Reg) (a : PReg)
  | pfirst (d a : PReg)
  | pbrk (d a : PReg)
  -- lane movement (R105)
  | vbcast (d a : Reg) (g : PReg) (t : ETy)
  | vins (d a b : Reg) (g : PReg) (t : ETy)
  | vext (d a b : Reg) (t : ETy)
  | vperm (d a b : Reg) (g : PReg) (t : ETy)
  | vslide (d a b : Reg) (g : PReg) (t : ETy)
  | vcompress (d a : Reg) (g : PReg) (t : ETy)
  -- conversions (R106 to R110); `e` is the destination type, `t` the source type, `u` unsigned
  | vcvt (d a : Reg) (u : Bool) (e : ETy) (g : PReg) (t : ETy)
  | vcvtw (d a : Reg) (u : Bool) (e : ETy) (g : PReg) (t : ETy)
  | vcvtn (d a : Reg) (u : Bool) (e : ETy) (g : PReg) (t : ETy)
  | vcvtq (d a b : Reg) (g : PReg)
  | vcvte (d a b : Reg) (g : PReg)
  | vcbx (d a : Reg) (g : PReg)
  | vcvtsp (d a : Reg) (g : PReg)
  | vcvtfs (d a : Reg) (g : PReg)
  -- reductions (R111)
  | vredsum (d a : Reg) (g : PReg) (t : ETy)
  | vredmin (d a : Reg) (g : PReg) (t : ETy)
  | vredmax (d a : Reg) (g : PReg) (t : ETy)
  | vredminn (d a : Reg) (g : PReg) (t : ETy)
  | vredmaxn (d a : Reg) (g : PReg) (t : ETy)
  | vredand (d a : Reg) (g : PReg) (t : ETy)
  | vredor (d a : Reg) (g : PReg) (t : ETy)
  -- tasks (R178 to R182)
  | spawn (a b : Reg)
  | callat (d a b : Reg)
  | halt
  | haltR (a : Reg)
  | yield
  | tret (a : Reg)
  -- messages (R183 to R189)
  | send (a b : Reg)
  | sendv (a b : Reg)
  | reply (a b : Reg)
  | bind (p : BitVec 2) (a : Reg)
  | unbind (p : BitVec 2)
  | wait (d a b : Reg)
  | poll (d : Reg)
  | recv (d b : Reg)
  -- actors (R190 to R196)
  | esend (d a b : Reg)
  | fend
  | defer (k : Size) (a b : Reg)
  | deferN (a : Reg)
  | kwait (a : Reg)
  | acre (d a b : Reg)
  | arehome (a b : Reg)
  -- barriers (R197 to R201)
  | barArr (d a : Reg)
  | barWait (a : Reg)
  | barCfg (d a b : Reg)
  | chred (d a b : Reg)
  -- copies and tags (R291 to R295); `q` acquire, `l` release, `c` scope
  | dcopy (r s d : Reg) (t : BitVec 5) (q l : Bool) (c : Scope)
  | dwaitAny (d a : Reg)
  | dwaitAll (a : Reg)
  | dffr (d a : Reg)
  | rflush (a : Reg)
  | dtagst (d a b : Reg)
  -- matrix (R296 to R300); `x` scale record of A, `y` of B
  | mma (m : BitVec 7) (a b : Reg) (y x : Bool)
  | mzero (m : BitVec 7)
  | mld (m : BitVec 7) (a b : Reg)
  | mst (m : BitVec 7) (a b : Reg)
  | mstc (m : BitVec 7) (a b : Reg)
  | cbld (a : Reg)
  -- sum-product (R284 to R288); `sp` selects sp32
  | spup (n : Byte) (l w : Reg) (k : BitVec 6) (sp : Bool)
  | spdown (n : Byte) (l w : Reg) (k : BitVec 6) (sp : Bool)
  -- attention (R301)
  | attn (q t d : Reg) (g : BitVec 5) (acq rel : Bool) (c : Scope)
  -- sampling (R322 to R327)
  | spivot (d a : Reg)
  | sdraw (d a : Reg)
  | sverify (d a b : Reg)
  | cfinc (a : Reg)
  | cfapply (a : Reg)
  | spshape (a : Reg) (k : BitVec 6)
  -- safe point (R40)
  | safe (i : BitVec 16)
  -- traps and waits
  | queuedTrapEntry (core : Nat)
  | wfeTimeout (core slot : Nat)
  -- the dealer
  | dealerPark (core slot : Nat)
  | dealerWake (core slot : Nat)
  | wakeDone (core slot : Nat)
  | taskStart (core : Nat)
  | stealProbe (core : Nat)
  | stealProbeReceive (p : Packet)
  | stealProbeAnswer (p : Packet)
  | stealPauseExpiry (core : Nat)
  | timeSliceEnd (core : Nat)
  | priorityYield (core : Nat)
  | yieldRequest (core slot : Nat)
  | preemptTimeout (core slot : Nat)
  | savedContextResume (core : Nat)
  | firingStart (core : Nat)
  | firingSquash (core slot : Nat)
  | tagHoldRelease (core slot : Nat)
  -- events and kiln time
  | eventArrival (p : Packet)
  | cancelArrival (p : Packet)
  | inFlightAck (p : Packet)
  | sweepStart (soc : Nat)
  | sweepSample (soc core : Nat)
  | kilnPublish (soc : Nat)
  | homeCacheInvalidate (p : Packet)
  -- packets
  | messageArrival (p : Packet)
  | portPacketArrival (p : Packet)
  | callatTaskArrival (p : Packet)
  | replyArrival (p : Packet)
  | errorReply (p : Packet)
  | ackArrival (p : Packet)
  | sendQueueDrain (core slot : Nat)
  | sendStallTimeout (core slot : Nat)
  | chredPartialArrival (core slot : Nat)
  | regionDoneReport (rcb : Nat)
  | ltTick
  -- engines
  | copyPiece (cmd : Nat)
  | attnBlock (cmd : Nat)
  | attnResult (cmd : Nat)
  | matrixRetire (core : Nat)
  | spRetire (core : Nat)
  | spAccept (core slot : Nat)
  | promotion (request : Nat)
  -- faults
  | uncorrectableError (p : ErrPlace)
  | containmentNotice (p : Packet)
  | sealedEventResend (core flight : Nat)
  | windowRead (core slot off : Nat)
  | windowWrite (core slot off : Nat) (v : Dword)
  -- queues and packets
  | doorbellTail (q : Nat) (v : Dword)
  | doorbellReset (q : Nat) (v : Dword)
  | nopPacket (q : Nat)
  | launch (q : Nat)
  | ib (q : Nat)
  | pred (q : Nat)
  | loopPacket (q : Nat)
  | write (q : Nat)
  | signal (q : Nat)
  | waitPacket (q : Nat)
  | waitPacketTest (q : Nat)
  | fencePacket (q : Nat)
  | ffence (q : Nat)
  | promote (q : Nat)
  | qcmdRegister
  | qcmdUnregister
  | commit
  | registerWrite (r : HostReg) (v : Dword)
  | liveUpdate (version security : Nat) (signed : Bool)
  | packageReset (verified : BootCheck)
  | attestation (nonce : BitVec 256)
  | monitorSample (m : Sample)
  -- the domain
  | linkReplay (link : Nat)
  | gets (line pkg : Nat)
  | getm (line pkg : Nat)
  | puts (line pkg : Nat)
  | pute (line pkg : Nat)
  | putm (line pkg : Nat) (data : VReg) (pois : Bool)
  | puto (line pkg : Nat) (data : VReg) (pois : Bool)
  | forward (line pkg : Nat) (k : FwdKind)
  | recall (line : Nat)
  | heartbeat (plane : Nat) (arrived : Bool)
  | planeLost (plane : Nat)
  | recoveryReport (pkg : Nat)
  | packageLost (pkg : Nat)
  | checkpointStart
  | checkpointSnapshot
  | checkpointFrame
  | restore
  | unpublishedSweepInstant (soc : Nat)
  | correctableError (e : Corrected)
  | endpointReset
  | hostDeviceAccess (isWrite : Bool) (pa : Nat) (data : List Byte)
  | applicationCoreAccess (isWrite : Bool) (pa : Nat) (data : List Byte)
  | regionStop (rcb : Nat)
  deriving DecidableEq, Repr

end Sys2Proof
end

