-- ==== Sys2Proof/WellFormed.lean ====
section
/-! DEFINITION. Which terms of `Instr` are instructions that decode accepts: the conditions that an instruction's own
fields decide (spec 02 R9, R30 to R37 and the decode-time rules of the entries). -/

namespace Sys2Proof

/-- Width of a lane in bits (R94). -/
def ETy.width : ETy → Nat
  | .i8 => 8 | .i16 => 16 | .i32 => 32 | .i64 => 64 | .f16 => 16 | .bf16 => 16 | .f32 => 32 | .f64 => 64

/-- Whether a type is a floating-point one (R94: F; else I). -/
def ETy.isFloat : ETy → Bool
  | .i8 => false | .i16 => false | .i32 => false | .i64 => false | .f16 => true | .bf16 => true | .f32 => true | .f64 => true

/-- Whether a dword is the sign extension of its low `n` bits (R37). -/
def fits (n : Nat) (x : Dword) : Bool := (x.extractLsb' 0 n).signExtend 64 == x

/-- Whether a register may start a block of four (R175). -/
def blockOk (r : Reg) : Bool := r.extractLsb' 0 2 == 0

/-- Whether a register may start a destination block, and the single register lies outside it (R175). -/
def destBlockOk (d x : Reg) : Bool := blockOk d && d != 0 && x.extractLsb' 2 3 != d.extractLsb' 2 3

/-- Whether a register pair starts at an even register, and the single register lies outside it (R34, R107). -/
def pairOk (d x : Reg) : Bool := d.extractLsb' 0 1 == 0 && x.extractLsb' 1 4 != d.extractLsb' 1 4

/-- Whether a conversion's types and its U bit are allowed, `k` relating the widths (R106). -/
def cvtOk (k : Nat → Nat → Bool) (same : Bool) (u : Bool) (e t : ETy) : Bool :=
  k e.width t.width && (!same || e.isFloat || t.isFloat) && (!u || !e.isFloat || !t.isFloat)

/-- Whether a term is one of the 203 instruction words; the others are steps of the hardware. -/
def Instr.isWord : Instr → Bool
  | .add .. => true
  | .sub .. => true
  | .and .. => true
  | .or .. => true
  | .xor .. => true
  | .andn .. => true
  | .sll .. => true
  | .srl .. => true
  | .sra .. => true
  | .slt .. => true
  | .sltn .. => true
  | .min .. => true
  | .max .. => true
  | .minn .. => true
  | .maxn .. => true
  | .mul .. => true
  | .mulh .. => true
  | .mulhn .. => true
  | .mulhsn .. => true
  | .div .. => true
  | .divn .. => true
  | .rem .. => true
  | .remn .. => true
  | .clz .. => true
  | .ctz .. => true
  | .popc .. => true
  | .bswap .. => true
  | .addi .. => true
  | .andi .. => true
  | .ori .. => true
  | .xori .. => true
  | .slti .. => true
  | .sltni .. => true
  | .slli .. => true
  | .srli .. => true
  | .srai .. => true
  | .bfx .. => true
  | .bfxs .. => true
  | .bfi .. => true
  | .ld .. => true
  | .ldn .. => true
  | .st .. => true
  | .ldx .. => true
  | .ldnx .. => true
  | .stx .. => true
  | .beq .. => true
  | .bne .. => true
  | .blt .. => true
  | .bge .. => true
  | .bltn .. => true
  | .bgen .. => true
  | .jal .. => true
  | .jalr .. => true
  | .loop .. => true
  | .crr .. => true
  | .crw .. => true
  | .crs .. => true
  | .crc .. => true
  | .nop => true
  | .trap .. => true
  | .eret => true
  | .brkpt .. => true
  | .wfe => true
  | .chkerr .. => true
  | .amoAdd .. => true
  | .amoAnd .. => true
  | .amoOr .. => true
  | .amoXor .. => true
  | .amoMin .. => true
  | .amoMax .. => true
  | .amoMinn .. => true
  | .amoMaxn .. => true
  | .amoSwap .. => true
  | .amoFadd .. => true
  | .cas .. => true
  | .fence .. => true
  | .fenceIo => true
  | .cflush .. => true
  | .cinval .. => true
  | .prefetch .. => true
  | .tlbinv .. => true
  | .vadd .. => true
  | .vsub .. => true
  | .vmul .. => true
  | .vmin .. => true
  | .vmax .. => true
  | .vminn .. => true
  | .vmaxn .. => true
  | .vabs .. => true
  | .vneg .. => true
  | .vand .. => true
  | .vor .. => true
  | .vxor .. => true
  | .vandn .. => true
  | .vsll .. => true
  | .vsrl .. => true
  | .vsra .. => true
  | .vaddsat .. => true
  | .vsubsat .. => true
  | .vaddsatn .. => true
  | .vsubsatn .. => true
  | .vdiv .. => true
  | .vsqrt .. => true
  | .vmulh .. => true
  | .vmulhn .. => true
  | .vsel .. => true
  | .vrcp .. => true
  | .vrsqrt .. => true
  | .vexp2 .. => true
  | .vlog2 .. => true
  | .vtanh .. => true
  | .vfma .. => true
  | .vfms .. => true
  | .vfnma .. => true
  | .vfnms .. => true
  | .vld .. => true
  | .vldff .. => true
  | .vst .. => true
  | .vgather .. => true
  | .vscatter .. => true
  | .vcmpEq .. => true
  | .vcmpNe .. => true
  | .vcmpLt .. => true
  | .vcmpLe .. => true
  | .vcmpLtn .. => true
  | .vcmpLen .. => true
  | .vcmpUnord .. => true
  | .pand .. => true
  | .por .. => true
  | .pxor .. => true
  | .pnot .. => true
  | .pcnt .. => true
  | .ppop .. => true
  | .pfirst .. => true
  | .pbrk .. => true
  | .vbcast .. => true
  | .vins .. => true
  | .vext .. => true
  | .vperm .. => true
  | .vslide .. => true
  | .vcompress .. => true
  | .vcvt .. => true
  | .vcvtw .. => true
  | .vcvtn .. => true
  | .vcvtq .. => true
  | .vcvte .. => true
  | .vcbx .. => true
  | .vcvtsp .. => true
  | .vcvtfs .. => true
  | .vredsum .. => true
  | .vredmin .. => true
  | .vredmax .. => true
  | .vredminn .. => true
  | .vredmaxn .. => true
  | .vredand .. => true
  | .vredor .. => true
  | .spawn .. => true
  | .callat .. => true
  | .halt => true
  | .haltR .. => true
  | .yield => true
  | .tret .. => true
  | .send .. => true
  | .sendv .. => true
  | .reply .. => true
  | .bind .. => true
  | .unbind .. => true
  | .wait .. => true
  | .poll .. => true
  | .recv .. => true
  | .esend .. => true
  | .fend => true
  | .defer .. => true
  | .deferN .. => true
  | .kwait .. => true
  | .acre .. => true
  | .arehome .. => true
  | .barArr .. => true
  | .barWait .. => true
  | .barCfg .. => true
  | .chred .. => true
  | .dcopy .. => true
  | .dwaitAny .. => true
  | .dwaitAll .. => true
  | .dffr .. => true
  | .rflush .. => true
  | .dtagst .. => true
  | .mma .. => true
  | .mzero .. => true
  | .mld .. => true
  | .mst .. => true
  | .mstc .. => true
  | .cbld .. => true
  | .spup .. => true
  | .spdown .. => true
  | .attn .. => true
  | .spivot .. => true
  | .sdraw .. => true
  | .sverify .. => true
  | .cfinc .. => true
  | .cfapply .. => true
  | .spshape .. => true
  | .safe .. => true
  | .queuedTrapEntry .. => false
  | .wfeTimeout .. => false
  | .dealerPark .. => false
  | .dealerWake .. => false
  | .wakeDone .. => false
  | .taskStart .. => false
  | .stealProbe .. => false
  | .stealProbeReceive .. => false
  | .stealProbeAnswer .. => false
  | .stealPauseExpiry .. => false
  | .timeSliceEnd .. => false
  | .priorityYield .. => false
  | .yieldRequest .. => false
  | .preemptTimeout .. => false
  | .savedContextResume .. => false
  | .firingStart .. => false
  | .firingSquash .. => false
  | .tagHoldRelease .. => false
  | .eventArrival .. => false
  | .cancelArrival .. => false
  | .inFlightAck .. => false
  | .sweepStart .. => false
  | .sweepSample .. => false
  | .kilnPublish .. => false
  | .homeCacheInvalidate .. => false
  | .messageArrival .. => false
  | .portPacketArrival .. => false
  | .callatTaskArrival .. => false
  | .replyArrival .. => false
  | .errorReply .. => false
  | .ackArrival .. => false
  | .sendQueueDrain .. => false
  | .sendStallTimeout .. => false
  | .chredPartialArrival .. => false
  | .regionDoneReport .. => false
  | .ltTick => false
  | .copyPiece .. => false
  | .attnBlock .. => false
  | .attnResult .. => false
  | .matrixRetire .. => false
  | .spRetire .. => false
  | .spAccept .. => false
  | .promotion .. => false
  | .uncorrectableError .. => false
  | .containmentNotice .. => false
  | .sealedEventResend .. => false
  | .windowRead .. => false
  | .windowWrite .. => false
  | .doorbellTail .. => false
  | .doorbellReset .. => false
  | .nopPacket .. => false
  | .launch .. => false
  | .ib .. => false
  | .pred .. => false
  | .loopPacket .. => false
  | .write .. => false
  | .signal .. => false
  | .waitPacket .. => false
  | .waitPacketTest .. => false
  | .fencePacket .. => false
  | .ffence .. => false
  | .promote .. => false
  | .qcmdRegister => false
  | .qcmdUnregister => false
  | .commit => false
  | .registerWrite .. => false
  | .liveUpdate .. => false
  | .packageReset .. => false
  | .attestation .. => false
  | .monitorSample .. => false
  | .linkReplay .. => false
  | .gets .. => false
  | .getm .. => false
  | .puts .. => false
  | .pute .. => false
  | .putm .. => false
  | .puto .. => false
  | .forward .. => false
  | .recall .. => false
  | .heartbeat .. => false
  | .planeLost .. => false
  | .recoveryReport .. => false
  | .packageLost .. => false
  | .checkpointStart => false
  | .checkpointSnapshot => false
  | .checkpointFrame => false
  | .restore => false
  | .unpublishedSweepInstant .. => false
  | .correctableError .. => false
  | .endpointReset => false
  | .hostDeviceAccess .. => false
  | .applicationCoreAccess .. => false
  | .regionStop .. => false

/-- Whether the fields of an instruction are ones that decode accepts. A step of the hardware has no fields to check. A single scalar destination that
is also a scalar source is accepted in every entry (DESIGN CHOICE, log 49: R34 allows exact overlap only where the entry says so, and the
spec's programs use it in entries that do not). -/
def Instr.wf : Instr → Bool
  | .add .. => true
  | .sub .. => true
  | .and .. => true
  | .or .. => true
  | .xor .. => true
  | .andn .. => true
  | .sll .. => true
  | .srl .. => true
  | .sra .. => true
  | .slt .. => true
  | .sltn .. => true
  | .min .. => true
  | .max .. => true
  | .minn .. => true
  | .maxn .. => true
  | .mul .. => true
  | .mulh .. => true
  | .mulhn .. => true
  | .mulhsn .. => true
  | .div .. => true
  | .divn .. => true
  | .rem .. => true
  | .remn .. => true
  | .clz .. => true
  | .ctz .. => true
  | .popc .. => true
  | .bswap .. => true
  | .addi _ _ imm => fits 60 imm
  | .andi _ _ imm => fits 60 imm
  | .ori _ _ imm => fits 60 imm
  | .xori _ _ imm => fits 60 imm
  | .slti _ _ imm => fits 60 imm
  | .sltni _ _ imm => fits 60 imm
  | .slli .. => true
  | .srli .. => true
  | .srai .. => true
  | .bfx _ _ l p => decide (p.toNat + (l.toNat + 1) ≤ 64)
  | .bfxs _ _ l p => decide (p.toNat + (l.toNat + 1) ≤ 64)
  | .bfi _ _ l p => decide (p.toNat + (l.toNat + 1) ≤ 64)
  | .ld _ _ _ off => fits 58 off
  | .ldn _ _ z off => fits 58 off && z != .d
  | .st _ _ _ off => fits 58 off
  | .ldx .. => true
  | .ldnx _ _ _ _ z => z != .d
  | .stx .. => true
  | .beq .. => true
  | .bne .. => true
  | .blt .. => true
  | .bge .. => true
  | .bltn .. => true
  | .bgen .. => true
  | .jal .. => true
  | .jalr _ _ off => fits 60 off
  | .loop _ n => n != 0
  | .crr .. => true
  | .crw .. => true
  | .crs .. => true
  | .crc .. => true
  | .nop => true
  | .trap .. => true
  | .eret => true
  | .brkpt .. => true
  | .wfe => true
  | .chkerr m => m != 0
  | .amoAdd .. => true
  | .amoAnd .. => true
  | .amoOr .. => true
  | .amoXor .. => true
  | .amoMin .. => true
  | .amoMax .. => true
  | .amoMinn .. => true
  | .amoMaxn .. => true
  | .amoSwap .. => true
  | .amoFadd .. => true
  | .cas .. => true
  | .fence .. => true
  | .fenceIo => true
  | .cflush _ s => s != .ctx
  | .cinval _ s => s == .core || s == .die || s == .pkg
  | .prefetch .. => true
  | .tlbinv k a b s => s != .ctx && (match k with | .all => a == 0 && b == 0 | .asid => a == 0 | .page => true | .pageAny => b == 0)
  | .vadd .. => true
  | .vsub .. => true
  | .vmul .. => true
  | .vmin .. => true
  | .vmax .. => true
  | .vminn _ _ _ _ t => !t.isFloat
  | .vmaxn _ _ _ _ t => !t.isFloat
  | .vabs .. => true
  | .vneg .. => true
  | .vand .. => true
  | .vor .. => true
  | .vxor .. => true
  | .vandn .. => true
  | .vsll _ _ _ _ t => !t.isFloat
  | .vsrl _ _ _ _ t => !t.isFloat
  | .vsra _ _ _ _ t => !t.isFloat
  | .vaddsat _ _ _ _ t => !t.isFloat
  | .vsubsat _ _ _ _ t => !t.isFloat
  | .vaddsatn _ _ _ _ t => !t.isFloat
  | .vsubsatn _ _ _ _ t => !t.isFloat
  | .vdiv .. => true
  | .vsqrt _ _ _ t => t.isFloat
  | .vmulh _ _ _ _ t => !t.isFloat
  | .vmulhn _ _ _ _ t => !t.isFloat
  | .vsel .. => true
  | .vrcp .. => true
  | .vrsqrt .. => true
  | .vexp2 .. => true
  | .vlog2 .. => true
  | .vtanh .. => true
  | .vfma _ _ _ _ _ t => t.isFloat
  | .vfms _ _ _ _ _ t => t.isFloat
  | .vfnma _ _ _ _ _ t => t.isFloat
  | .vfnms _ _ _ _ _ t => t.isFloat
  | .vld .. => true
  | .vldff _ _ g _ _ => g != 0
  | .vst .. => true
  | .vgather .. => true
  | .vscatter .. => true
  | .vcmpEq p _ _ _ _ => p != 0
  | .vcmpNe p _ _ _ _ => p != 0
  | .vcmpLt p _ _ _ _ => p != 0
  | .vcmpLe p _ _ _ _ => p != 0
  | .vcmpLtn p _ _ _ t => p != 0 && !t.isFloat
  | .vcmpLen p _ _ _ t => p != 0 && !t.isFloat
  | .vcmpUnord p _ _ _ t => p != 0 && t.isFloat
  | .pand d _ _ => d != 0
  | .por d _ _ => d != 0
  | .pxor d _ _ => d != 0
  | .pnot d _ => d != 0
  | .pcnt d _ => d != 0
  | .ppop .. => true
  | .pfirst d _ => d != 0
  | .pbrk d _ => d != 0
  | .vbcast .. => true
  | .vins .. => true
  | .vext .. => true
  | .vperm .. => true
  | .vslide .. => true
  | .vcompress .. => true
  | .vcvt _ _ u e _ t => cvtOk (fun x y => x == y) true u e t
  | .vcvtw d a u e _ t => cvtOk (fun x y => x == 2 * y) false u e t && pairOk d a
  | .vcvtn d a u e _ t => cvtOk (fun x y => 2 * x == y) false u e t && pairOk a d
  | .vcvtq .. => true
  | .vcvte .. => true
  | .vcbx d a _ => pairOk d a
  | .vcvtsp .. => true
  | .vcvtfs .. => true
  | .vredsum .. => true
  | .vredmin .. => true
  | .vredmax .. => true
  | .vredminn _ _ _ t => !t.isFloat
  | .vredmaxn _ _ _ t => !t.isFloat
  | .vredand .. => true
  | .vredor .. => true
  | .spawn _ b => blockOk b
  | .callat _ _ b => blockOk b
  | .halt => true
  | .haltR .. => true
  | .yield => true
  | .tret .. => true
  | .send _ b => blockOk b
  | .sendv .. => true
  | .reply _ b => blockOk b
  | .bind .. => true
  | .unbind .. => true
  | .wait d a b => destBlockOk d a && destBlockOk d b
  | .poll .. => true
  | .recv d b => destBlockOk d b
  | .esend _ _ b => blockOk b
  | .fend => true
  | .defer .. => true
  | .deferN .. => true
  | .kwait .. => true
  | .acre .. => true
  | .arehome .. => true
  | .barArr .. => true
  | .barWait .. => true
  | .barCfg .. => true
  | .chred .. => true
  | .dcopy .. => true
  | .dwaitAny .. => true
  | .dwaitAll .. => true
  | .dffr .. => true
  | .rflush .. => true
  | .dtagst .. => true
  | .mma .. => true
  | .mzero .. => true
  | .mld .. => true
  | .mst .. => true
  | .mstc .. => true
  | .cbld .. => true
  | .spup .. => true
  | .spdown .. => true
  | .attn .. => true
  | .spivot .. => true
  | .sdraw .. => true
  | .sverify _ _ b => b.extractLsb' 0 1 == 0 && b != 0
  | .cfinc .. => true
  | .cfapply .. => true
  | .spshape .. => true
  | .safe .. => true
  | .queuedTrapEntry .. => true
  | .wfeTimeout .. => true
  | .dealerPark .. => true
  | .dealerWake .. => true
  | .wakeDone .. => true
  | .taskStart .. => true
  | .stealProbe .. => true
  | .stealProbeReceive .. => true
  | .stealProbeAnswer .. => true
  | .stealPauseExpiry .. => true
  | .timeSliceEnd .. => true
  | .priorityYield .. => true
  | .yieldRequest .. => true
  | .preemptTimeout .. => true
  | .savedContextResume .. => true
  | .firingStart .. => true
  | .firingSquash .. => true
  | .tagHoldRelease .. => true
  | .eventArrival .. => true
  | .cancelArrival .. => true
  | .inFlightAck .. => true
  | .sweepStart .. => true
  | .sweepSample .. => true
  | .kilnPublish .. => true
  | .homeCacheInvalidate .. => true
  | .messageArrival .. => true
  | .portPacketArrival .. => true
  | .callatTaskArrival .. => true
  | .replyArrival .. => true
  | .errorReply .. => true
  | .ackArrival .. => true
  | .sendQueueDrain .. => true
  | .sendStallTimeout .. => true
  | .chredPartialArrival .. => true
  | .regionDoneReport .. => true
  | .ltTick => true
  | .copyPiece .. => true
  | .attnBlock .. => true
  | .attnResult .. => true
  | .matrixRetire .. => true
  | .spRetire .. => true
  | .spAccept .. => true
  | .promotion .. => true
  | .uncorrectableError .. => true
  | .containmentNotice .. => true
  | .sealedEventResend .. => true
  | .windowRead .. => true
  | .windowWrite .. => true
  | .doorbellTail .. => true
  | .doorbellReset .. => true
  | .nopPacket .. => true
  | .launch .. => true
  | .ib .. => true
  | .pred .. => true
  | .loopPacket .. => true
  | .write .. => true
  | .signal .. => true
  | .waitPacket .. => true
  | .waitPacketTest .. => true
  | .fencePacket .. => true
  | .ffence .. => true
  | .promote .. => true
  | .qcmdRegister => true
  | .qcmdUnregister => true
  | .commit => true
  | .registerWrite .. => true
  | .liveUpdate .. => true
  | .packageReset .. => true
  | .attestation .. => true
  | .monitorSample .. => true
  | .linkReplay .. => true
  | .gets .. => true
  | .getm .. => true
  | .puts .. => true
  | .pute .. => true
  | .putm .. => true
  | .puto .. => true
  | .forward .. => true
  | .recall .. => true
  | .heartbeat .. => true
  | .planeLost .. => true
  | .recoveryReport .. => true
  | .packageLost .. => true
  | .checkpointStart => true
  | .checkpointSnapshot => true
  | .checkpointFrame => true
  | .restore => true
  | .unpublishedSweepInstant .. => true
  | .correctableError .. => true
  | .endpointReset => true
  | .hostDeviceAccess .. => true
  | .applicationCoreAccess .. => true
  | .regionStop .. => true

end Sys2Proof
end

