-- ==== Sys2Proof/Decode.lean ====
section
/-! DEFINITION. Decoding, total on any words (spec 02 R27 to R41): a word's fields, the consumer of a group, the group's
prefixes; and after it the encoder, written from the same encoding tables. -/

namespace Sys2Proof

/-- The prefixes of a group fed so far: a hint, a mod and the imm payloads, the first one first (R36). -/
structure Prefixes where
  hint : Bool
  mod  : Option (BitVec 22)
  imms : List (BitVec 22)
  deriving DecidableEq, Repr

/-- No prefix yet. -/
def Prefixes.empty : Prefixes := { hint := false, mod := none, imms := [] }

/-- The element type of a code (R28). -/
def ETy.ofBits (b : BitVec 3) : ETy :=
  match b.toNat with
  | 0 => .i8 | 1 => .i16 | 2 => .i32 | 3 => .i64 | 4 => .f16 | 5 => .bf16 | 6 => .f32 | _ => .f64

/-- The size of a code (R33). -/
def Size.ofBits (b : BitVec 2) : Size :=
  match b.toNat with
  | 0 => .b | 1 => .h | 2 => .w | _ => .d

/-- The scope of a code; 6 and 7 name none (R33). -/
def Scope.ofBits (b : BitVec 3) : Option Scope :=
  match b.toNat with
  | 0 => some .ctx | 1 => some .core | 2 => some .die | 3 => some .pkg | 4 => some .dom | 5 => some .sys | _ => none

/-- The kind of a `tlbinv` (R243). -/
def TlbKind.ofBits (b : BitVec 2) : TlbKind :=
  match b.toNat with
  | 0 => .all | 1 => .asid | 2 => .page | _ => .pageAny

/-- The control register of a number (R15); a number outside the table names none (R13). -/
def CReg.ofBits (b : BitVec 12) : Option CReg :=
  match b.toNat with
  | 0 => some .core
  | 1 => some .die
  | 2 => some .pkg
  | 3 => some .slot
  | 4 => some .region
  | 5 => some .cycle
  | 6 => some .pool
  | 8 => some .fpm
  | 9 => some .chkint
  | 10 => some .tags
  | 11 => some .tagerrs
  | 12 => some .sqlim
  | 13 => some .utvec
  | 14 => some .ucause
  | 15 => some .upc
  | 16 => some .uval
  | 17 => some .lcnt
  | 18 => some .lstart
  | 19 => some .lend
  | 20 => some .pfx
  | 21 => some .suit
  | 24 => some .kiln
  | 25 => some .lvt
  | 26 => some .akey
  | 27 => some .astate
  | 28 => some .kwin
  | 32 => some .cbtl
  | 33 => some .cbth
  | 36 => some .spbase
  | 37 => some .spadj
  | 38 => some .spstat
  | 40 => some .rngk
  | 41 => some .rngc
  | 44 => some .sampctx
  | 48 => some .lmap
  | 256 => some .scause
  | 257 => some .spc
  | 258 => some .sval
  | 259 => some .stvec
  | 260 => some .sstat
  | 261 => some .deleg
  | 264 => some .ptroot
  | 265 => some .asid
  | _ => none

/-- The major opcode of a word (R27). -/
def fop (w : Word) : BitVec 6 := w.extractLsb' 26 6
/-- Field [25:21] of a word (R28). -/
def fd (w : Word) : Reg := w.extractLsb' 21 5
/-- Field [20:16] of a word (R28). -/
def fa (w : Word) : Reg := w.extractLsb' 16 5
/-- Field [15:11] of a word (R28). -/
def fb (w : Word) : Reg := w.extractLsb' 11 5
/-- Field fn[10:0] of a word (R28). -/
def fn (w : Word) : BitVec 11 := w.extractLsb' 0 11
/-- Field imm[15:0] of a word (R28). -/
def fimm (w : Word) : BitVec 16 := w.extractLsb' 0 16

/-- A 16-bit immediate joined with the imm prefixes and sign-extended (R37). -/
def join16 (ps : List (BitVec 22)) (lo : BitVec 16) : Dword :=
  match ps with
  | [] => lo.signExtend 64
  | [p] => (p ++ lo).signExtend 64
  | p :: q :: _ => (p ++ q ++ lo).signExtend 64

/-- A 14-bit offset joined with the imm prefixes and sign-extended (R37). -/
def join14 (ps : List (BitVec 22)) (lo : BitVec 14) : Dword :=
  match ps with
  | [] => lo.signExtend 64
  | [p] => (p ++ lo).signExtend 64
  | p :: q :: _ => (p ++ q ++ lo).signExtend 64

/-- An instruction, if the reserved fields are zero (R30). -/
def okIf (c : Bool) (i : Instr) : Option Instr := if c then some i else none

/-- The alu family (R33, R77). -/
def rawAlu (w : Word) : Option Instr :=
  let d := fd w; let a := fa w; let b := fb w; let f := fn w
  let k := f.extractLsb' 10 1 == 1
  if f.extractLsb' 5 5 != 0 then none else
  match (f.extractLsb' 0 5).toNat with
  | 0 => some (.add d a b k)
  | 1 => some (.sub d a b k)
  | 2 => okIf (!k) (.and d a b)
  | 3 => okIf (!k) (.or d a b)
  | 4 => okIf (!k) (.xor d a b)
  | 5 => okIf (!k) (.andn d a b)
  | 6 => some (.sll d a b k)
  | 7 => some (.srl d a b k)
  | 8 => some (.sra d a b k)
  | 9 => okIf (!k) (.slt d a b)
  | 10 => okIf (!k) (.sltn d a b)
  | 11 => okIf (!k) (.min d a b)
  | 12 => okIf (!k) (.max d a b)
  | 13 => okIf (!k) (.minn d a b)
  | 14 => okIf (!k) (.maxn d a b)
  | 15 => some (.mul d a b k)
  | 16 => okIf (!k) (.mulh d a b)
  | 17 => okIf (!k) (.mulhn d a b)
  | 18 => okIf (!k) (.mulhsn d a b)
  | 19 => some (.div d a b k)
  | 20 => some (.divn d a b k)
  | 21 => some (.rem d a b k)
  | 22 => some (.remn d a b k)
  | 23 => okIf (!k && b == 0) (.clz d a)
  | 24 => okIf (!k && b == 0) (.ctz d a)
  | 25 => okIf (!k && b == 0) (.popc d a)
  | 26 => okIf (!k && b == 0) (.bswap d a)
  | _ => none

/-- The shift immediates (R79). -/
def rawShi (w : Word) : Option Instr :=
  let d := fd w; let a := fa w; let m := fimm w
  if m.extractLsb' 6 8 != 0 then none else
  match (m.extractLsb' 14 2).toNat with
  | 0 => some (.slli d a (m.extractLsb' 0 6))
  | 1 => some (.srli d a (m.extractLsb' 0 6))
  | 2 => some (.srai d a (m.extractLsb' 0 6))
  | _ => none

/-- The bit-field extracts and insert (R80); `ins` for `bfi`. -/
def rawBf (ins : Bool) (w : Word) : Option Instr :=
  let d := fd w; let a := fa w; let m := fimm w
  let p := m.extractLsb' 0 6; let l := m.extractLsb' 6 6
  if m.extractLsb' 13 3 != 0 then none
  else if ins then okIf (m.extractLsb' 12 1 == 0) (.bfi d a l p)
  else if m.extractLsb' 12 1 == 1 then some (.bfxs d a l p) else some (.bfx d a l p)

/-- The indexed loads and stores (R33, R81). -/
def rawIndexed (w : Word) : Option Instr :=
  let d := fd w; let a := fa w; let b := fb w; let f := fn w
  let k := f.extractLsb' 4 2; let z := Size.ofBits (f.extractLsb' 0 2)
  if f.extractLsb' 6 5 != 0 then none else
  match (f.extractLsb' 2 2).toNat with
  | 0 => some (.ldx d a b k z)
  | 1 => some (.ldnx d a b k z)
  | 2 => some (.stx d a b k z)
  | _ => none

/-- The control-register instructions (R33, R89). -/
def rawCr (w : Word) : Option Instr :=
  let d := fd w; let a := fa w; let m := fimm w
  if m.extractLsb' 12 2 != 0 then none else
  match CReg.ofBits (m.extractLsb' 0 12) with
  | none => none
  | some n =>
    match (m.extractLsb' 14 2).toNat with
    | 0 => okIf (a == 0) (.crr d n)
    | 1 => okIf (d == 0) (.crw a n)
    | 2 => okIf (d == 0) (.crs a n)
    | _ => okIf (d == 0) (.crc a n)

/-- The system instructions (R91, R345). -/
def rawSys (w : Word) : Option Instr :=
  let f := fn w; let n : BitVec 15 := w.extractLsb' 11 15
  if f.extractLsb' 5 6 != 0 then none else
  match (f.extractLsb' 0 5).toNat with
  | 0 => okIf (n == 0) .nop
  | 1 => some (.trap n)
  | 2 => okIf (n == 0) .eret
  | 3 => some (.brkpt n)
  | 4 => okIf (n == 0) .wfe
  | 5 => okIf (n.extractLsb' 3 12 == 0) (.chkerr (n.extractLsb' 0 3))
  | _ => none

/-- The atomics (R33, R234). -/
def rawAmo (w : Word) : Option Instr :=
  let d := fd w; let a := fa w; let b := fb w; let f := fn w
  let z := f.extractLsb' 4 1 == 1
  if f.extractLsb' 5 6 != 0 then none else
  match (f.extractLsb' 0 4).toNat with
  | 0 => some (.amoAdd d a b z)
  | 1 => some (.amoAnd d a b z)
  | 2 => some (.amoOr d a b z)
  | 3 => some (.amoXor d a b z)
  | 4 => some (.amoMin d a b z)
  | 5 => some (.amoMax d a b z)
  | 6 => some (.amoMinn d a b z)
  | 7 => some (.amoMaxn d a b z)
  | 8 => some (.amoSwap d a b z)
  | 9 => some (.amoFadd d a b z)
  | _ => none

/-- The fences and cache instructions (R237). -/
def rawMem (w : Word) : Option Instr :=
  let d := fd w; let a := fa w; let b := fb w; let f := fn w
  if f.extractLsb' 5 3 != 0 then none else
  match Scope.ofBits (f.extractLsb' 8 3) with
  | none => none
  | some s =>
    match (f.extractLsb' 0 5).toNat with
    | 0 => if a == 0 && b == 0 then
             if d == 0 then some (.fence s) else okIf (d == 1 && s == .sys) .fenceIo
           else none
    | 1 => okIf (d == 0 && b == 0) (.cflush a s)
    | 2 => okIf (d == 0 && b == 0) (.cinval a s)
    | 3 => okIf (d.extractLsb' 1 4 == 0 && b == 0 && s == .ctx) (.prefetch (d.extractLsb' 0 1 == 1) a)
    | 4 => okIf (d.extractLsb' 2 3 == 0) (.tlbinv (TlbKind.ofBits (d.extractLsb' 0 2)) a b s)
    | _ => none

/-- The lane arithmetic (R97). -/
def rawValu (w : Word) : Option Instr :=
  let d := fd w; let a := fa w; let b := fb w; let f := fn w
  let g := f.extractLsb' 8 3; let t := ETy.ofBits (f.extractLsb' 5 3)
  match (f.extractLsb' 0 5).toNat with
  | 0 => some (.vadd d a b g t)
  | 1 => some (.vsub d a b g t)
  | 2 => some (.vmul d a b g t)
  | 3 => some (.vmin d a b g t)
  | 4 => some (.vmax d a b g t)
  | 5 => some (.vminn d a b g t)
  | 6 => some (.vmaxn d a b g t)
  | 7 => okIf (b == 0) (.vabs d a g t)
  | 8 => okIf (b == 0) (.vneg d a g t)
  | 9 => some (.vand d a b g t)
  | 10 => some (.vor d a b g t)
  | 11 => some (.vxor d a b g t)
  | 12 => some (.vandn d a b g t)
  | 13 => some (.vsll d a b g t)
  | 14 => some (.vsrl d a b g t)
  | 15 => some (.vsra d a b g t)
  | 16 => some (.vaddsat d a b g t)
  | 17 => some (.vsubsat d a b g t)
  | 18 => some (.vaddsatn d a b g t)
  | 19 => some (.vsubsatn d a b g t)
  | 20 => some (.vdiv d a b g t)
  | 21 => okIf (b == 0) (.vsqrt d a g t)
  | 22 => some (.vmulh d a b g t)
  | 23 => some (.vmulhn d a b g t)
  | 24 => some (.vsel d a b g t)
  | _ => none

/-- The special functions (R98). -/
def rawVsfu (w : Word) : Option Instr :=
  let d := fd w; let a := fa w; let b := fb w; let f := fn w
  let g := f.extractLsb' 8 3
  if f.extractLsb' 5 3 != 6 || b != 0 then none else
  match (f.extractLsb' 0 5).toNat with
  | 0 => some (.vrcp d a g)
  | 1 => some (.vrsqrt d a g)
  | 2 => some (.vexp2 d a g)
  | 3 => some (.vlog2 d a g)
  | 4 => some (.vtanh d a g)
  | _ => none

/-- Gather and scatter (R102). -/
def rawVgs (w : Word) : Option Instr :=
  let d := fd w; let a := fa w; let b := fb w; let f := fn w
  let g := f.extractLsb' 8 3; let t := ETy.ofBits (f.extractLsb' 5 3)
  match (f.extractLsb' 0 5).toNat with
  | 0 => some (.vgather d a b g t)
  | 1 => some (.vscatter d a b g t)
  | _ => none

/-- The compares (R103). -/
def rawVcmp (w : Word) : Option Instr :=
  let d := fd w; let a := fa w; let b := fb w; let f := fn w
  let g := f.extractLsb' 8 3; let t := ETy.ofBits (f.extractLsb' 5 3); let p := d.extractLsb' 0 3
  if d.extractLsb' 3 2 != 0 then none else
  match (f.extractLsb' 0 5).toNat with
  | 0 => some (.vcmpEq p a b g t)
  | 1 => some (.vcmpNe p a b g t)
  | 2 => some (.vcmpLt p a b g t)
  | 3 => some (.vcmpLe p a b g t)
  | 4 => some (.vcmpLtn p a b g t)
  | 5 => some (.vcmpLen p a b g t)
  | 6 => some (.vcmpUnord p a b g t)
  | _ => none

/-- The predicate of a register field whose upper bits are reserved (R33). -/
def preg (r : Reg) : PReg := r.extractLsb' 0 3

/-- Whether a register field may name a predicate: its upper bits are zero (R33). -/
def isPreg (r : Reg) : Bool := r.extractLsb' 3 2 == 0

/-- The predicate operations (R104). -/
def rawPred (w : Word) : Option Instr :=
  let d := fd w; let a := fa w; let b := fb w; let f := fn w
  if f.extractLsb' 5 6 != 0 then none else
  match (f.extractLsb' 0 5).toNat with
  | 0 => okIf (isPreg d && isPreg a && isPreg b) (.pand (preg d) (preg a) (preg b))
  | 1 => okIf (isPreg d && isPreg a && isPreg b) (.por (preg d) (preg a) (preg b))
  | 2 => okIf (isPreg d && isPreg a && isPreg b) (.pxor (preg d) (preg a) (preg b))
  | 3 => okIf (isPreg d && isPreg a && b == 0) (.pnot (preg d) (preg a))
  | 4 => okIf (isPreg d && b == 0) (.pcnt (preg d) a)
  | 5 => okIf (isPreg a && b == 0) (.ppop d (preg a))
  | 6 => okIf (isPreg d && isPreg a && b == 0) (.pfirst (preg d) (preg a))
  | 7 => okIf (isPreg d && isPreg a && b == 0) (.pbrk (preg d) (preg a))
  | _ => none

/-- The lane movements (R105). -/
def rawVmove (w : Word) : Option Instr :=
  let d := fd w; let a := fa w; let b := fb w; let f := fn w
  let g := f.extractLsb' 8 3; let t := ETy.ofBits (f.extractLsb' 5 3)
  match (f.extractLsb' 0 5).toNat with
  | 0 => okIf (b == 0) (.vbcast d a g t)
  | 1 => some (.vins d a b g t)
  | 2 => okIf (g == 0) (.vext d a b t)
  | 3 => some (.vperm d a b g t)
  | 4 => some (.vslide d a b g t)
  | 5 => okIf (b == 0) (.vcompress d a g t)
  | _ => none

/-- The conversions (R106 to R110). -/
def rawVcvt (w : Word) : Option Instr :=
  let d := fd w; let a := fa w; let b := fb w; let f := fn w
  let g := f.extractLsb' 8 3; let t := ETy.ofBits (f.extractLsb' 5 3)
  let u := b.extractLsb' 3 1 == 1; let e := ETy.ofBits (b.extractLsb' 0 3); let r := b.extractLsb' 4 1 == 0
  match (f.extractLsb' 0 5).toNat with
  | 0 => okIf r (.vcvt d a u e g t)
  | 1 => okIf r (.vcvtw d a u e g t)
  | 2 => okIf r (.vcvtn d a u e g t)
  | 3 => okIf (t == .f32) (.vcvtq d a b g)
  | 4 => okIf (t == .f32) (.vcvte d a b g)
  | 5 => okIf (t == .i8 && b == 0) (.vcbx d a g)
  | 6 => okIf (t == .f32 && b == 0) (.vcvtsp d a g)
  | 7 => okIf (t == .f32 && b == 0) (.vcvtfs d a g)
  | _ => none

/-- The reductions (R111). -/
def rawVred (w : Word) : Option Instr :=
  let d := fd w; let a := fa w; let b := fb w; let f := fn w
  let g := f.extractLsb' 8 3; let t := ETy.ofBits (f.extractLsb' 5 3)
  if b != 0 then none else
  match (f.extractLsb' 0 5).toNat with
  | 0 => some (.vredsum d a g t)
  | 1 => some (.vredmin d a g t)
  | 2 => some (.vredmax d a g t)
  | 3 => some (.vredminn d a g t)
  | 4 => some (.vredmaxn d a g t)
  | 5 => some (.vredand d a g t)
  | 6 => some (.vredor d a g t)
  | _ => none

/-- The task instructions (R178 to R182). -/
def rawTask (w : Word) : Option Instr :=
  let d := fd w; let a := fa w; let b := fb w; let f := fn w
  let r := f.extractLsb' 5 1 == 1
  if f.extractLsb' 6 5 != 0 then none else
  match (f.extractLsb' 0 5).toNat with
  | 0 => okIf (!r && d == 0) (.spawn a b)
  | 1 => okIf (!r) (.callat d a b)
  | 2 => if d == 0 && b == 0 then (if r then some (.haltR a) else okIf (a == 0) .halt) else none
  | 3 => okIf (!r && d == 0 && a == 0 && b == 0) .yield
  | 4 => okIf (!r && d == 0 && b == 0) (.tret a)
  | _ => none

/-- The message instructions (R183 to R189). -/
def rawMsg (w : Word) : Option Instr :=
  let d := fd w; let a := fa w; let b := fb w; let f := fn w
  if f.extractLsb' 5 6 != 0 then none else
  match (f.extractLsb' 0 5).toNat with
  | 0 => okIf (d == 0) (.send a b)
  | 1 => okIf (d == 0) (.sendv a b)
  | 2 => okIf (d == 0) (.reply a b)
  | 3 => okIf (d.extractLsb' 2 3 == 7 && b == 0) (.bind (d.extractLsb' 0 2) a)
  | 4 => okIf (d.extractLsb' 2 3 == 7 && a == 0 && b == 0) (.unbind (d.extractLsb' 0 2))
  | 5 => some (.wait d a b)
  | 6 => okIf (a == 0 && b == 0) (.poll d)
  | 7 => okIf (a == 0) (.recv d b)
  | _ => none

/-- The actor instructions (R190 to R196). -/
def rawActor (w : Word) : Option Instr :=
  let d := fd w; let a := fa w; let b := fb w; let f := fn w
  if f.extractLsb' 5 6 != 0 then none else
  match (f.extractLsb' 0 5).toNat with
  | 0 => some (.esend d a b)
  | 1 => okIf (d == 0 && a == 0 && b == 0) .fend
  | 2 => if d == 4 then okIf (b == 0) (.deferN a)
         else okIf (d.extractLsb' 2 3 == 0) (.defer (Size.ofBits (d.extractLsb' 0 2)) a b)
  | 3 => okIf (d == 0 && b == 0) (.kwait a)
  | 4 => some (.acre d a b)
  | 5 => okIf (d == 0) (.arehome a b)
  | _ => none

/-- The barrier instructions (R197 to R201). -/
def rawBar (w : Word) : Option Instr :=
  let d := fd w; let a := fa w; let b := fb w; let f := fn w
  if f.extractLsb' 5 6 != 0 then none else
  match (f.extractLsb' 0 5).toNat with
  | 0 => okIf (b == 0) (.barArr d a)
  | 1 => okIf (d == 0 && b == 0) (.barWait a)
  | 2 => some (.barCfg d a b)
  | 3 => some (.chred d a b)
  | _ => none

/-- The copy and tag instructions (R291 to R295). -/
def rawCopy (w : Word) : Option Instr :=
  let d := fd w; let a := fa w; let b := fb w; let f := fn w
  if f.extractLsb' 0 1 == 0 then
    match Scope.ofBits (f.extractLsb' 1 3) with
    | none => none
    | some c => some (.dcopy d a b (f.extractLsb' 6 5) (f.extractLsb' 5 1 == 1) (f.extractLsb' 4 1 == 1) c)
  else if f.extractLsb' 1 5 != 0 then none else
  match (f.extractLsb' 6 5).toNat with
  | 0 => okIf (b == 0) (.dwaitAny d a)
  | 1 => okIf (d == 0 && b == 0) (.dwaitAll a)
  | 2 => okIf (b == 0) (.dffr d a)
  | 3 => okIf (d == 0 && b == 0) (.rflush a)
  | 4 => some (.dtagst d a b)
  | _ => none

/-- The matrix instructions (R296 to R300). -/
def rawMat (w : Word) : Option Instr :=
  let m : BitVec 7 := w.extractLsb' 19 7; let a : Reg := w.extractLsb' 14 5
  let b : Reg := w.extractLsb' 9 5; let f : BitVec 9 := w.extractLsb' 0 9
  let z := f.extractLsb' 3 6 == 0
  match (f.extractLsb' 0 3).toNat with
  | 0 => okIf (f.extractLsb' 5 4 == 0) (.mma m a b (f.extractLsb' 4 1 == 1) (f.extractLsb' 3 1 == 1))
  | 1 => okIf (z && a == 0 && b == 0) (.mzero m)
  | 2 => okIf z (.mld m a b)
  | 3 => okIf z (.mst m a b)
  | 4 => okIf z (.mstc m a b)
  | 5 => okIf (z && m == 0 && b == 0) (.cbld a)
  | _ => none

/-- The sum-product instructions (R284). -/
def rawSpe (w : Word) : Option Instr :=
  let n : Byte := w.extractLsb' 18 8; let l : Reg := w.extractLsb' 13 5; let x : Reg := w.extractLsb' 8 5
  let k : BitVec 6 := w.extractLsb' 2 6; let m := w.extractLsb' 1 1 == 1
  if w.extractLsb' 0 1 == 0 then some (.spup n l x k m) else some (.spdown n l x k m)

/-- `attn` (R301). -/
def rawAttn (w : Word) : Option Instr :=
  let f := fn w
  if f.extractLsb' 0 1 != 0 then none else
  match Scope.ofBits (f.extractLsb' 1 3) with
  | none => none
  | some c =>
    some (.attn (fd w) (fa w) (fb w) (f.extractLsb' 6 5) (f.extractLsb' 5 1 == 1) (f.extractLsb' 4 1 == 1) c)

/-- The sampling instructions (R322 to R326). -/
def rawSamp (w : Word) : Option Instr :=
  let d := fd w; let a := fa w; let b := fb w; let f := fn w
  if f.extractLsb' 5 6 != 0 then none else
  match (f.extractLsb' 0 5).toNat with
  | 0 => okIf (b == 0) (.spivot d a)
  | 1 => okIf (b == 0) (.sdraw d a)
  | 2 => some (.sverify d a b)
  | 3 => okIf (d == 0 && b == 0) (.cfinc a)
  | 4 => okIf (d == 0 && b == 0) (.cfapply a)
  | _ => none

/-- The consumer that a word is, with the imm payloads joined into its immediate, before the checks of `Instr.wf`. -/
def rawWord (ps : List (BitVec 22)) (w : Word) : Option Instr :=
  let d := fd w; let a := fa w; let b := fb w; let f := fn w; let m := fimm w
  match (fop w).toNat with
  | 0x01 => rawAlu w
  | 0x02 => some (.addi d a (join16 ps m))
  | 0x03 => some (.andi d a (join16 ps m))
  | 0x04 => some (.ori d a (join16 ps m))
  | 0x05 => some (.xori d a (join16 ps m))
  | 0x06 => some (.slti d a (join16 ps m))
  | 0x07 => some (.sltni d a (join16 ps m))
  | 0x08 => rawShi w
  | 0x09 => rawBf false w
  | 0x0A => rawBf true w
  | 0x0C => some (.ld d a (Size.ofBits (m.extractLsb' 14 2)) (join14 ps (m.extractLsb' 0 14)))
  | 0x0D => some (.ldn d a (Size.ofBits (m.extractLsb' 14 2)) (join14 ps (m.extractLsb' 0 14)))
  | 0x0E => some (.st d a (Size.ofBits (m.extractLsb' 14 2)) (join14 ps (m.extractLsb' 0 14)))
  | 0x0F => rawIndexed w
  | 0x10 => some (.beq d a m)
  | 0x11 => some (.bne d a m)
  | 0x12 => some (.blt d a m)
  | 0x13 => some (.bge d a m)
  | 0x14 => some (.bltn d a m)
  | 0x15 => some (.bgen d a m)
  | 0x16 => some (.jal d (w.extractLsb' 0 21))
  | 0x17 => some (.jalr d a (join16 ps m))
  | 0x18 => okIf (d == 0 && m.extractLsb' 12 4 == 0) (.loop a (m.extractLsb' 0 12))
  | 0x19 => rawCr w
  | 0x1A => rawSys w
  | 0x1B => rawAmo w
  | 0x1C => okIf (f.extractLsb' 1 10 == 0) (.cas d a b (f.extractLsb' 0 1 == 1))
  | 0x1D => rawMem w
  | 0x20 => rawValu w
  | 0x21 => rawVsfu w
  | 0x22 => some (.vfma d a b (f.extractLsb' 6 5) (f.extractLsb' 3 3) (ETy.ofBits (f.extractLsb' 0 3)))
  | 0x23 => some (.vfms d a b (f.extractLsb' 6 5) (f.extractLsb' 3 3) (ETy.ofBits (f.extractLsb' 0 3)))
  | 0x24 => some (.vfnma d a b (f.extractLsb' 6 5) (f.extractLsb' 3 3) (ETy.ofBits (f.extractLsb' 0 3)))
  | 0x25 => some (.vfnms d a b (f.extractLsb' 6 5) (f.extractLsb' 3 3) (ETy.ofBits (f.extractLsb' 0 3)))
  | 0x26 => some (.vld d a (m.extractLsb' 13 3) (Size.ofBits (m.extractLsb' 11 2)) (m.extractLsb' 0 11))
  | 0x27 => some (.vldff d a (m.extractLsb' 13 3) (Size.ofBits (m.extractLsb' 11 2)) (m.extractLsb' 0 11))
  | 0x28 => some (.vst d a (m.extractLsb' 13 3) (Size.ofBits (m.extractLsb' 11 2)) (m.extractLsb' 0 11))
  | 0x29 => rawVgs w
  | 0x2A => rawVcmp w
  | 0x2B => rawPred w
  | 0x2C => rawVmove w
  | 0x2D => rawVcvt w
  | 0x2E => rawVred w
  | 0x30 => rawTask w
  | 0x31 => rawMsg w
  | 0x32 => rawActor w
  | 0x33 => rawBar w
  | 0x34 => rawCopy w
  | 0x35 => rawMat w
  | 0x36 => rawSpe w
  | 0x37 => rawAttn w
  | 0x38 => rawSamp w
  | 0x39 => okIf (d == 0 && m.extractLsb' 6 10 == 0) (.spshape a (m.extractLsb' 0 6))
  | 0x3F => okIf (w.extractLsb' 22 4 == 3 && w.extractLsb' 16 6 == 0) (.safe m)
  | _ => none

/-- The consumer that a word is, or nothing where the word traps ILL (R30 to R35). -/
def decodeWord (ps : List (BitVec 22)) (w : Word) : Option Instr := (rawWord ps w).filter Instr.wf

/-- Whether a consumer's word accepts imm prefixes (R37). -/
def acceptsImm (w : Word) : Bool :=
  match (fop w).toNat with
  | 0x02 => true | 0x03 => true | 0x04 => true | 0x05 => true | 0x06 => true | 0x07 => true
  | 0x0C => true | 0x0D => true | 0x0E => true | 0x17 => true
  | _ => false

/-- Whether a consumer's word accepts a mod prefix (R38). -/
def acceptsMod (w : Word) (md : BitVec 22) : Bool :=
  let noSat := md.extractLsb' 3 2 == 0
  match (fop w).toNat with
  | 0x20 => noSat && w.extractLsb' 7 1 == 1
  | 0x21 => noSat && w.extractLsb' 7 1 == 1
  | 0x2E => noSat && w.extractLsb' 7 1 == 1
  | 0x22 => noSat && w.extractLsb' 2 1 == 1
  | 0x23 => noSat && w.extractLsb' 2 1 == 1
  | 0x24 => noSat && w.extractLsb' 2 1 == 1
  | 0x25 => noSat && w.extractLsb' 2 1 == 1
  | 0x2D => true
  | _ => false

/-- Whether a mod payload has no reserved value (R38). -/
def modOk (md : BitVec 22) : Bool :=
  md.extractLsb' 7 15 == 0 && md.extractLsb' 5 2 != 3 && md.extractLsb' 3 2 != 3 &&
  decide ((md.extractLsb' 0 3).toNat ≤ 4)

/-- What the next word does to a group: it continues it as a prefix, completes it with its consumer, or traps ILL. -/
inductive Fed where
  | more (p : Prefixes)
  | done (i : Instr)
  | ill
  deriving DecidableEq, Repr

/-- One word fed to a group (R35 to R41). `ends` says that the word stands at LEND while a loop is active. -/
def feed (p : Prefixes) (ends : Bool) (w : Word) : Fed :=
  let payload : BitVec 22 := w.extractLsb' 0 22
  let any := p.hint || p.mod.isSome || !p.imms.isEmpty
  if fop w == 0x3F && w.extractLsb' 22 4 == 0 then
    if ends || decide (2 ≤ p.imms.length) then .ill else .more { p with imms := p.imms ++ [payload] }
  else if fop w == 0x3F && w.extractLsb' 22 4 == 1 then
    if ends || any then .ill else .more { p with hint := true }
  else if fop w == 0x3F && w.extractLsb' 22 4 == 2 then
    if ends || p.mod.isSome || !p.imms.isEmpty || !modOk payload then .ill else .more { p with mod := some payload }
  else if fop w == 0x3F && any then .ill
  else if !p.imms.isEmpty && !acceptsImm w then .ill
  else if (match p.mod with | none => false | some md => !acceptsMod w md) then .ill
  else match decodeWord p.imms w with
    | none => .ill
    | some i => .done i

/-- The instruction of a list of words that is one whole group outside a loop's end, or nothing. -/
def decodeFrom (p : Prefixes) : List Word → Option Instr
  | [] => none
  | w :: ws =>
    match feed p false w with
    | .more p' => decodeFrom p' ws
    | .done i => if ws.isEmpty then some i else none
    | .ill => none

/-- The instruction of a group's words (R36). -/
def decode (ws : List Word) : Option Instr := decodeFrom Prefixes.empty ws

/-- The instruction that decode reads from `nbits` bits numbered as spec/opcode_table.json numbers them: one word. -/
def decodeTableWord (nbits w : Nat) : Option Instr := decode [BitVec.ofNat 32 (w % 2 ^ nbits)]

/-- The code of an element type (R28). -/
def ETy.bits : ETy → BitVec 3
  | .i8 => 0 | .i16 => 1 | .i32 => 2 | .i64 => 3 | .f16 => 4 | .bf16 => 5 | .f32 => 6 | .f64 => 7

/-- The code of a size (R33). -/
def Size.bits : Size → BitVec 2
  | .b => 0 | .h => 1 | .w => 2 | .d => 3

/-- The code of a scope (R33). -/
def Scope.bits : Scope → BitVec 3
  | .ctx => 0 | .core => 1 | .die => 2 | .pkg => 3 | .dom => 4 | .sys => 5

/-- The code of a `tlbinv` kind (R243). -/
def TlbKind.bits : TlbKind → BitVec 2
  | .all => 0 | .asid => 1 | .page => 2 | .pageAny => 3

/-- The number of a control register (R15). -/
def CReg.bits : CReg → BitVec 12
  | .core => 0
  | .die => 1
  | .pkg => 2
  | .slot => 3
  | .region => 4
  | .cycle => 5
  | .pool => 6
  | .fpm => 8
  | .chkint => 9
  | .tags => 10
  | .tagerrs => 11
  | .sqlim => 12
  | .utvec => 13
  | .ucause => 14
  | .upc => 15
  | .uval => 16
  | .lcnt => 17
  | .lstart => 18
  | .lend => 19
  | .pfx => 20
  | .suit => 21
  | .kiln => 24
  | .lvt => 25
  | .akey => 26
  | .astate => 27
  | .kwin => 28
  | .cbtl => 32
  | .cbth => 33
  | .spbase => 36
  | .spadj => 37
  | .spstat => 38
  | .rngk => 40
  | .rngc => 41
  | .sampctx => 44
  | .lmap => 48
  | .scause => 256
  | .spc => 257
  | .sval => 258
  | .stvec => 259
  | .sstat => 260
  | .deleg => 261
  | .ptroot => 264
  | .asid => 265

/-- One bit. -/
def bit (b : Bool) : BitVec 1 := BitVec.ofBool b

/-- A word of format F3, FV, FQ, and of dcopy and attn (R28). -/
def f3 (op : BitVec 6) (d a b : Reg) (f : BitVec 11) : Word := op ++ d ++ a ++ b ++ f
/-- A word of format FI or FB (R28). -/
def fi (op : BitVec 6) (d a : Reg) (m : BitVec 16) : Word := op ++ d ++ a ++ m
/-- A word of format FJ (R28). -/
def fj (op : BitVec 6) (d : Reg) (m : BitVec 21) : Word := op ++ d ++ m
/-- A word of format FH (R28). -/
def fh (k : BitVec 4) (m : BitVec 22) : Word := 0x3F#6 ++ k ++ m
/-- A system word (R91). -/
def fsys (n : BitVec 15) (f : BitVec 11) : Word := 0x1A#6 ++ n ++ f
/-- A matrix word (R296). -/
def fmat (m : BitVec 7) (a b : Reg) (f : BitVec 9) : Word := 0x35#6 ++ m ++ a ++ b ++ f
/-- A sum-product word (R284). -/
def fspe (n : Byte) (l w : Reg) (k : BitVec 6) (m d : BitVec 1) : Word := 0x36#6 ++ n ++ l ++ w ++ k ++ m ++ d
/-- fn of a vector word (R28). -/
def fv (g : PReg) (t : ETy) (c : BitVec 5) : BitVec 11 := g ++ t.bits ++ c
/-- fn of a plain F3 word (R32). -/
def fc (c : BitVec 5) : BitVec 11 := 0#6 ++ c
/-- A predicate in a register field (R33). -/
def pr (p : PReg) : Reg := 0#2 ++ p

/-- The consumer word of an instruction; of a step of the hardware, which has no encoding, the word 0. -/
def Instr.word : Instr → Word
  | .add d a b w => f3 0x01 d a b (bit w ++ 0#5 ++ 0#5)
  | .sub d a b w => f3 0x01 d a b (bit w ++ 0#5 ++ 1#5)
  | .and d a b => f3 0x01 d a b (0#1 ++ 0#5 ++ 2#5)
  | .or d a b => f3 0x01 d a b (0#1 ++ 0#5 ++ 3#5)
  | .xor d a b => f3 0x01 d a b (0#1 ++ 0#5 ++ 4#5)
  | .andn d a b => f3 0x01 d a b (0#1 ++ 0#5 ++ 5#5)
  | .sll d a b w => f3 0x01 d a b (bit w ++ 0#5 ++ 6#5)
  | .srl d a b w => f3 0x01 d a b (bit w ++ 0#5 ++ 7#5)
  | .sra d a b w => f3 0x01 d a b (bit w ++ 0#5 ++ 8#5)
  | .slt d a b => f3 0x01 d a b (0#1 ++ 0#5 ++ 9#5)
  | .sltn d a b => f3 0x01 d a b (0#1 ++ 0#5 ++ 10#5)
  | .min d a b => f3 0x01 d a b (0#1 ++ 0#5 ++ 11#5)
  | .max d a b => f3 0x01 d a b (0#1 ++ 0#5 ++ 12#5)
  | .minn d a b => f3 0x01 d a b (0#1 ++ 0#5 ++ 13#5)
  | .maxn d a b => f3 0x01 d a b (0#1 ++ 0#5 ++ 14#5)
  | .mul d a b w => f3 0x01 d a b (bit w ++ 0#5 ++ 15#5)
  | .mulh d a b => f3 0x01 d a b (0#1 ++ 0#5 ++ 16#5)
  | .mulhn d a b => f3 0x01 d a b (0#1 ++ 0#5 ++ 17#5)
  | .mulhsn d a b => f3 0x01 d a b (0#1 ++ 0#5 ++ 18#5)
  | .div d a b w => f3 0x01 d a b (bit w ++ 0#5 ++ 19#5)
  | .divn d a b w => f3 0x01 d a b (bit w ++ 0#5 ++ 20#5)
  | .rem d a b w => f3 0x01 d a b (bit w ++ 0#5 ++ 21#5)
  | .remn d a b w => f3 0x01 d a b (bit w ++ 0#5 ++ 22#5)
  | .clz d a => f3 0x01 d a 0 (0#1 ++ 0#5 ++ 23#5)
  | .ctz d a => f3 0x01 d a 0 (0#1 ++ 0#5 ++ 24#5)
  | .popc d a => f3 0x01 d a 0 (0#1 ++ 0#5 ++ 25#5)
  | .bswap d a => f3 0x01 d a 0 (0#1 ++ 0#5 ++ 26#5)
  | .addi d a x => fi 2 d a (x.extractLsb' 0 16)
  | .andi d a x => fi 3 d a (x.extractLsb' 0 16)
  | .ori d a x => fi 4 d a (x.extractLsb' 0 16)
  | .xori d a x => fi 5 d a (x.extractLsb' 0 16)
  | .slti d a x => fi 6 d a (x.extractLsb' 0 16)
  | .sltni d a x => fi 7 d a (x.extractLsb' 0 16)
  | .slli d a c => fi 0x08 d a (0#2 ++ 0#8 ++ c)
  | .srli d a c => fi 0x08 d a (1#2 ++ 0#8 ++ c)
  | .srai d a c => fi 0x08 d a (2#2 ++ 0#8 ++ c)
  | .bfx d a l p => fi 0x09 d a (0#3 ++ 0#1 ++ l ++ p)
  | .bfxs d a l p => fi 0x09 d a (0#3 ++ 1#1 ++ l ++ p)
  | .bfi d a l p => fi 0x0A d a (0#3 ++ 0#1 ++ l ++ p)
  | .ld d a z x => fi 0x0C d a (z.bits ++ x.extractLsb' 0 14)
  | .ldn d a z x => fi 0x0D d a (z.bits ++ x.extractLsb' 0 14)
  | .st d a z x => fi 0x0E d a (z.bits ++ x.extractLsb' 0 14)
  | .ldx d a b k z => f3 0x0F d a b (0#5 ++ k ++ 0#2 ++ z.bits)
  | .ldnx d a b k z => f3 0x0F d a b (0#5 ++ k ++ 1#2 ++ z.bits)
  | .stx d a b k z => f3 0x0F d a b (0#5 ++ k ++ 2#2 ++ z.bits)
  | .beq b a i => fi 0x10 b a i
  | .bne b a i => fi 0x11 b a i
  | .blt b a i => fi 0x12 b a i
  | .bge b a i => fi 0x13 b a i
  | .bltn b a i => fi 0x14 b a i
  | .bgen b a i => fi 0x15 b a i
  | .jal d i => fj 0x16 d i
  | .jalr d a x => fi 0x17 d a (x.extractLsb' 0 16)
  | .loop a n => fi 0x18 0 a (0#4 ++ n)
  | .crr d n => fi 0x19 d 0 (0#2 ++ 0#2 ++ n.bits)
  | .crw a n => fi 0x19 0 a (1#2 ++ 0#2 ++ n.bits)
  | .crs a n => fi 0x19 0 a (2#2 ++ 0#2 ++ n.bits)
  | .crc a n => fi 0x19 0 a (3#2 ++ 0#2 ++ n.bits)
  | .nop => fsys 0 (fc 0)
  | .trap n => fsys n (fc 1)
  | .eret => fsys 0 (fc 2)
  | .brkpt n => fsys n (fc 3)
  | .wfe => fsys 0 (fc 4)
  | .chkerr m => fsys (0#12 ++ m) (fc 5)
  | .amoAdd d a b z => f3 0x1B d a b (0#6 ++ bit z ++ 0#4)
  | .amoAnd d a b z => f3 0x1B d a b (0#6 ++ bit z ++ 1#4)
  | .amoOr d a b z => f3 0x1B d a b (0#6 ++ bit z ++ 2#4)
  | .amoXor d a b z => f3 0x1B d a b (0#6 ++ bit z ++ 3#4)
  | .amoMin d a b z => f3 0x1B d a b (0#6 ++ bit z ++ 4#4)
  | .amoMax d a b z => f3 0x1B d a b (0#6 ++ bit z ++ 5#4)
  | .amoMinn d a b z => f3 0x1B d a b (0#6 ++ bit z ++ 6#4)
  | .amoMaxn d a b z => f3 0x1B d a b (0#6 ++ bit z ++ 7#4)
  | .amoSwap d a b z => f3 0x1B d a b (0#6 ++ bit z ++ 8#4)
  | .amoFadd d a b z => f3 0x1B d a b (0#6 ++ bit z ++ 9#4)
  | .cas d a b z => f3 0x1C d a b (0#10 ++ bit z)
  | .fence s => f3 0x1D 0 0 0 (s.bits ++ 0#3 ++ 0#5)
  | .fenceIo => f3 0x1D 1 0 0 (5#3 ++ 0#3 ++ 0#5)
  | .cflush a s => f3 0x1D 0 a 0 (s.bits ++ 0#3 ++ 1#5)
  | .cinval a s => f3 0x1D 0 a 0 (s.bits ++ 0#3 ++ 2#5)
  | .prefetch i a => f3 0x1D (0#4 ++ bit i) a 0 (0#3 ++ 0#3 ++ 3#5)
  | .tlbinv k a b s => f3 0x1D (0#3 ++ k.bits) a b (s.bits ++ 0#3 ++ 4#5)
  | .vadd d a b g t => f3 0x20 d a b (fv g t 0)
  | .vsub d a b g t => f3 0x20 d a b (fv g t 1)
  | .vmul d a b g t => f3 0x20 d a b (fv g t 2)
  | .vmin d a b g t => f3 0x20 d a b (fv g t 3)
  | .vmax d a b g t => f3 0x20 d a b (fv g t 4)
  | .vminn d a b g t => f3 0x20 d a b (fv g t 5)
  | .vmaxn d a b g t => f3 0x20 d a b (fv g t 6)
  | .vabs d a g t => f3 0x20 d a 0 (fv g t 7)
  | .vneg d a g t => f3 0x20 d a 0 (fv g t 8)
  | .vand d a b g t => f3 0x20 d a b (fv g t 9)
  | .vor d a b g t => f3 0x20 d a b (fv g t 10)
  | .vxor d a b g t => f3 0x20 d a b (fv g t 11)
  | .vandn d a b g t => f3 0x20 d a b (fv g t 12)
  | .vsll d a b g t => f3 0x20 d a b (fv g t 13)
  | .vsrl d a b g t => f3 0x20 d a b (fv g t 14)
  | .vsra d a b g t => f3 0x20 d a b (fv g t 15)
  | .vaddsat d a b g t => f3 0x20 d a b (fv g t 16)
  | .vsubsat d a b g t => f3 0x20 d a b (fv g t 17)
  | .vaddsatn d a b g t => f3 0x20 d a b (fv g t 18)
  | .vsubsatn d a b g t => f3 0x20 d a b (fv g t 19)
  | .vdiv d a b g t => f3 0x20 d a b (fv g t 20)
  | .vsqrt d a g t => f3 0x20 d a 0 (fv g t 21)
  | .vmulh d a b g t => f3 0x20 d a b (fv g t 22)
  | .vmulhn d a b g t => f3 0x20 d a b (fv g t 23)
  | .vsel d a b g t => f3 0x20 d a b (fv g t 24)
  | .vrcp d a g => f3 0x21 d a 0 (fv g .f32 0)
  | .vrsqrt d a g => f3 0x21 d a 0 (fv g .f32 1)
  | .vexp2 d a g => f3 0x21 d a 0 (fv g .f32 2)
  | .vlog2 d a g => f3 0x21 d a 0 (fv g .f32 3)
  | .vtanh d a g => f3 0x21 d a 0 (fv g .f32 4)
  | .vfma d a b c g t => f3 0x22 d a b (c ++ g ++ t.bits)
  | .vfms d a b c g t => f3 0x23 d a b (c ++ g ++ t.bits)
  | .vfnma d a b c g t => f3 0x24 d a b (c ++ g ++ t.bits)
  | .vfnms d a b c g t => f3 0x25 d a b (c ++ g ++ t.bits)
  | .vld d a g z o => fi 0x26 d a (g ++ z.bits ++ o)
  | .vldff d a g z o => fi 0x27 d a (g ++ z.bits ++ o)
  | .vst d a g z o => fi 0x28 d a (g ++ z.bits ++ o)
  | .vgather d a b g t => f3 0x29 d a b (fv g t 0)
  | .vscatter d a b g t => f3 0x29 d a b (fv g t 1)
  | .vcmpEq p a b g t => f3 0x2A (pr p) a b (fv g t 0)
  | .vcmpNe p a b g t => f3 0x2A (pr p) a b (fv g t 1)
  | .vcmpLt p a b g t => f3 0x2A (pr p) a b (fv g t 2)
  | .vcmpLe p a b g t => f3 0x2A (pr p) a b (fv g t 3)
  | .vcmpLtn p a b g t => f3 0x2A (pr p) a b (fv g t 4)
  | .vcmpLen p a b g t => f3 0x2A (pr p) a b (fv g t 5)
  | .vcmpUnord p a b g t => f3 0x2A (pr p) a b (fv g t 6)
  | .pand d a b => f3 0x2B (pr d) (pr a) (pr b) (fc 0)
  | .por d a b => f3 0x2B (pr d) (pr a) (pr b) (fc 1)
  | .pxor d a b => f3 0x2B (pr d) (pr a) (pr b) (fc 2)
  | .pnot d a => f3 0x2B (pr d) (pr a) 0 (fc 3)
  | .pcnt d a => f3 0x2B (pr d) a 0 (fc 4)
  | .ppop d a => f3 0x2B d (pr a) 0 (fc 5)
  | .pfirst d a => f3 0x2B (pr d) (pr a) 0 (fc 6)
  | .pbrk d a => f3 0x2B (pr d) (pr a) 0 (fc 7)
  | .vbcast d a g t => f3 0x2C d a 0 (fv g t 0)
  | .vins d a b g t => f3 0x2C d a b (fv g t 1)
  | .vext d a b t => f3 0x2C d a b (fv 0 t 2)
  | .vperm d a b g t => f3 0x2C d a b (fv g t 3)
  | .vslide d a b g t => f3 0x2C d a b (fv g t 4)
  | .vcompress d a g t => f3 0x2C d a 0 (fv g t 5)
  | .vcvt d a u e g t => f3 0x2D d a (0#1 ++ bit u ++ e.bits) (fv g t 0)
  | .vcvtw d a u e g t => f3 0x2D d a (0#1 ++ bit u ++ e.bits) (fv g t 1)
  | .vcvtn d a u e g t => f3 0x2D d a (0#1 ++ bit u ++ e.bits) (fv g t 2)
  | .vcvtq d a b g => f3 0x2D d a b (fv g .f32 3)
  | .vcvte d a b g => f3 0x2D d a b (fv g .f32 4)
  | .vcbx d a g => f3 0x2D d a 0 (fv g .i8 5)
  | .vcvtsp d a g => f3 0x2D d a 0 (fv g .f32 6)
  | .vcvtfs d a g => f3 0x2D d a 0 (fv g .f32 7)
  | .vredsum d a g t => f3 0x2E d a 0 (fv g t 0)
  | .vredmin d a g t => f3 0x2E d a 0 (fv g t 1)
  | .vredmax d a g t => f3 0x2E d a 0 (fv g t 2)
  | .vredminn d a g t => f3 0x2E d a 0 (fv g t 3)
  | .vredmaxn d a g t => f3 0x2E d a 0 (fv g t 4)
  | .vredand d a g t => f3 0x2E d a 0 (fv g t 5)
  | .vredor d a g t => f3 0x2E d a 0 (fv g t 6)
  | .spawn a b => f3 0x30 0 a b (fc 0)
  | .callat d a b => f3 0x30 d a b (fc 1)
  | .halt => f3 0x30 0 0 0 (fc 2)
  | .haltR a => f3 0x30 0 a 0 (0#5 ++ 1#1 ++ 2#5)
  | .yield => f3 0x30 0 0 0 (fc 3)
  | .tret a => f3 0x30 0 a 0 (fc 4)
  | .send a b => f3 0x31 0 a b (fc 0)
  | .sendv a b => f3 0x31 0 a b (fc 1)
  | .reply a b => f3 0x31 0 a b (fc 2)
  | .bind p a => f3 0x31 (7#3 ++ p) a 0 (fc 3)
  | .unbind p => f3 0x31 (7#3 ++ p) 0 0 (fc 4)
  | .wait d a b => f3 0x31 d a b (fc 5)
  | .poll d => f3 0x31 d 0 0 (fc 6)
  | .recv d b => f3 0x31 d 0 b (fc 7)
  | .esend d a b => f3 0x32 d a b (fc 0)
  | .fend => f3 0x32 0 0 0 (fc 1)
  | .defer k a b => f3 0x32 (0#3 ++ k.bits) a b (fc 2)
  | .deferN a => f3 0x32 4 a 0 (fc 2)
  | .kwait a => f3 0x32 0 a 0 (fc 3)
  | .acre d a b => f3 0x32 d a b (fc 4)
  | .arehome a b => f3 0x32 0 a b (fc 5)
  | .barArr d a => f3 0x33 d a 0 (fc 0)
  | .barWait a => f3 0x33 0 a 0 (fc 1)
  | .barCfg d a b => f3 0x33 d a b (fc 2)
  | .chred d a b => f3 0x33 d a b (fc 3)
  | .dcopy r s d t q l c => f3 0x34 r s d (t ++ bit q ++ bit l ++ c.bits ++ 0#1)
  | .dwaitAny d a => f3 0x34 d a 0 (0#5 ++ 0#5 ++ 1#1)
  | .dwaitAll a => f3 0x34 0 a 0 (1#5 ++ 0#5 ++ 1#1)
  | .dffr d a => f3 0x34 d a 0 (2#5 ++ 0#5 ++ 1#1)
  | .rflush a => f3 0x34 0 a 0 (3#5 ++ 0#5 ++ 1#1)
  | .dtagst d a b => f3 0x34 d a b (4#5 ++ 0#5 ++ 1#1)
  | .mma m a b y x => fmat m a b (0#4 ++ bit y ++ bit x ++ 0#3)
  | .mzero m => fmat m 0 0 (0#6 ++ 1#3)
  | .mld m a b => fmat m a b (0#6 ++ 2#3)
  | .mst m a b => fmat m a b (0#6 ++ 3#3)
  | .mstc m a b => fmat m a b (0#6 ++ 4#3)
  | .cbld a => fmat 0 a 0 (0#6 ++ 5#3)
  | .spup n l w k m => fspe n l w k (bit m) 0
  | .spdown n l w k m => fspe n l w k (bit m) 1
  | .attn q t d g a l c => f3 0x37 q t d (g ++ bit a ++ bit l ++ c.bits ++ 0#1)
  | .spivot d a => f3 0x38 d a 0 (fc 0)
  | .sdraw d a => f3 0x38 d a 0 (fc 1)
  | .sverify d a b => f3 0x38 d a b (fc 2)
  | .cfinc a => f3 0x38 0 a 0 (fc 3)
  | .cfapply a => f3 0x38 0 a 0 (fc 4)
  | .spshape a k => fi 0x39 0 a (0#10 ++ k)
  | .safe i => fh 3 (0#6 ++ i)
  | .queuedTrapEntry .. => 0
  | .wfeTimeout .. => 0
  | .dealerPark .. => 0
  | .dealerWake .. => 0
  | .wakeDone .. => 0
  | .taskStart .. => 0
  | .stealProbe .. => 0
  | .stealProbeReceive .. => 0
  | .stealProbeAnswer .. => 0
  | .stealPauseExpiry .. => 0
  | .timeSliceEnd .. => 0
  | .priorityYield .. => 0
  | .yieldRequest .. => 0
  | .preemptTimeout .. => 0
  | .savedContextResume .. => 0
  | .firingStart .. => 0
  | .firingSquash .. => 0
  | .tagHoldRelease .. => 0
  | .eventArrival .. => 0
  | .cancelArrival .. => 0
  | .inFlightAck .. => 0
  | .sweepStart .. => 0
  | .sweepSample .. => 0
  | .kilnPublish .. => 0
  | .homeCacheInvalidate .. => 0
  | .messageArrival .. => 0
  | .portPacketArrival .. => 0
  | .callatTaskArrival .. => 0
  | .replyArrival .. => 0
  | .errorReply .. => 0
  | .ackArrival .. => 0
  | .sendQueueDrain .. => 0
  | .sendStallTimeout .. => 0
  | .chredPartialArrival .. => 0
  | .regionDoneReport .. => 0
  | .ltTick => 0
  | .copyPiece .. => 0
  | .attnBlock .. => 0
  | .attnResult .. => 0
  | .matrixRetire .. => 0
  | .spRetire .. => 0
  | .spAccept .. => 0
  | .promotion .. => 0
  | .uncorrectableError .. => 0
  | .containmentNotice .. => 0
  | .sealedEventResend .. => 0
  | .windowRead .. => 0
  | .windowWrite .. => 0
  | .doorbellTail .. => 0
  | .doorbellReset .. => 0
  | .nopPacket .. => 0
  | .launch .. => 0
  | .ib .. => 0
  | .pred .. => 0
  | .loopPacket .. => 0
  | .write .. => 0
  | .signal .. => 0
  | .waitPacket .. => 0
  | .waitPacketTest .. => 0
  | .fencePacket .. => 0
  | .ffence .. => 0
  | .promote .. => 0
  | .qcmdRegister => 0
  | .qcmdUnregister => 0
  | .commit => 0
  | .registerWrite .. => 0
  | .liveUpdate .. => 0
  | .packageReset .. => 0
  | .attestation .. => 0
  | .monitorSample .. => 0
  | .linkReplay .. => 0
  | .gets .. => 0
  | .getm .. => 0
  | .puts .. => 0
  | .pute .. => 0
  | .putm .. => 0
  | .puto .. => 0
  | .forward .. => 0
  | .recall .. => 0
  | .heartbeat .. => 0
  | .planeLost .. => 0
  | .recoveryReport .. => 0
  | .packageLost .. => 0
  | .checkpointStart => 0
  | .checkpointSnapshot => 0
  | .checkpointFrame => 0
  | .restore => 0
  | .unpublishedSweepInstant .. => 0
  | .correctableError .. => 0
  | .endpointReset => 0
  | .hostDeviceAccess .. => 0
  | .applicationCoreAccess .. => 0
  | .regionStop .. => 0

/-- The imm prefixes that an immediate needs beyond its `lo` bits in the word: the fewest that hold it (R37, R47). -/
def immWords (lo : Nat) (x : Dword) : List Word :=
  if fits lo x then []
  else if fits (lo + 22) x then [fh 0 (x.extractLsb' lo 22)]
  else [fh 0 (x.extractLsb' (lo + 22) 22), fh 0 (x.extractLsb' lo 22)]

/-- The imm prefixes of an instruction (R37). -/
def Instr.prefixes : Instr → List Word
  | .add .. => []
  | .sub .. => []
  | .and .. => []
  | .or .. => []
  | .xor .. => []
  | .andn .. => []
  | .sll .. => []
  | .srl .. => []
  | .sra .. => []
  | .slt .. => []
  | .sltn .. => []
  | .min .. => []
  | .max .. => []
  | .minn .. => []
  | .maxn .. => []
  | .mul .. => []
  | .mulh .. => []
  | .mulhn .. => []
  | .mulhsn .. => []
  | .div .. => []
  | .divn .. => []
  | .rem .. => []
  | .remn .. => []
  | .clz .. => []
  | .ctz .. => []
  | .popc .. => []
  | .bswap .. => []
  | .addi _ _ x => immWords 16 x
  | .andi _ _ x => immWords 16 x
  | .ori _ _ x => immWords 16 x
  | .xori _ _ x => immWords 16 x
  | .slti _ _ x => immWords 16 x
  | .sltni _ _ x => immWords 16 x
  | .slli .. => []
  | .srli .. => []
  | .srai .. => []
  | .bfx .. => []
  | .bfxs .. => []
  | .bfi .. => []
  | .ld _ _ _ x => immWords 14 x
  | .ldn _ _ _ x => immWords 14 x
  | .st _ _ _ x => immWords 14 x
  | .ldx .. => []
  | .ldnx .. => []
  | .stx .. => []
  | .beq .. => []
  | .bne .. => []
  | .blt .. => []
  | .bge .. => []
  | .bltn .. => []
  | .bgen .. => []
  | .jal .. => []
  | .jalr _ _ x => immWords 16 x
  | .loop .. => []
  | .crr .. => []
  | .crw .. => []
  | .crs .. => []
  | .crc .. => []
  | .nop => []
  | .trap .. => []
  | .eret => []
  | .brkpt .. => []
  | .wfe => []
  | .chkerr .. => []
  | .amoAdd .. => []
  | .amoAnd .. => []
  | .amoOr .. => []
  | .amoXor .. => []
  | .amoMin .. => []
  | .amoMax .. => []
  | .amoMinn .. => []
  | .amoMaxn .. => []
  | .amoSwap .. => []
  | .amoFadd .. => []
  | .cas .. => []
  | .fence .. => []
  | .fenceIo => []
  | .cflush .. => []
  | .cinval .. => []
  | .prefetch .. => []
  | .tlbinv .. => []
  | .vadd .. => []
  | .vsub .. => []
  | .vmul .. => []
  | .vmin .. => []
  | .vmax .. => []
  | .vminn .. => []
  | .vmaxn .. => []
  | .vabs .. => []
  | .vneg .. => []
  | .vand .. => []
  | .vor .. => []
  | .vxor .. => []
  | .vandn .. => []
  | .vsll .. => []
  | .vsrl .. => []
  | .vsra .. => []
  | .vaddsat .. => []
  | .vsubsat .. => []
  | .vaddsatn .. => []
  | .vsubsatn .. => []
  | .vdiv .. => []
  | .vsqrt .. => []
  | .vmulh .. => []
  | .vmulhn .. => []
  | .vsel .. => []
  | .vrcp .. => []
  | .vrsqrt .. => []
  | .vexp2 .. => []
  | .vlog2 .. => []
  | .vtanh .. => []
  | .vfma .. => []
  | .vfms .. => []
  | .vfnma .. => []
  | .vfnms .. => []
  | .vld .. => []
  | .vldff .. => []
  | .vst .. => []
  | .vgather .. => []
  | .vscatter .. => []
  | .vcmpEq .. => []
  | .vcmpNe .. => []
  | .vcmpLt .. => []
  | .vcmpLe .. => []
  | .vcmpLtn .. => []
  | .vcmpLen .. => []
  | .vcmpUnord .. => []
  | .pand .. => []
  | .por .. => []
  | .pxor .. => []
  | .pnot .. => []
  | .pcnt .. => []
  | .ppop .. => []
  | .pfirst .. => []
  | .pbrk .. => []
  | .vbcast .. => []
  | .vins .. => []
  | .vext .. => []
  | .vperm .. => []
  | .vslide .. => []
  | .vcompress .. => []
  | .vcvt .. => []
  | .vcvtw .. => []
  | .vcvtn .. => []
  | .vcvtq .. => []
  | .vcvte .. => []
  | .vcbx .. => []
  | .vcvtsp .. => []
  | .vcvtfs .. => []
  | .vredsum .. => []
  | .vredmin .. => []
  | .vredmax .. => []
  | .vredminn .. => []
  | .vredmaxn .. => []
  | .vredand .. => []
  | .vredor .. => []
  | .spawn .. => []
  | .callat .. => []
  | .halt => []
  | .haltR .. => []
  | .yield => []
  | .tret .. => []
  | .send .. => []
  | .sendv .. => []
  | .reply .. => []
  | .bind .. => []
  | .unbind .. => []
  | .wait .. => []
  | .poll .. => []
  | .recv .. => []
  | .esend .. => []
  | .fend => []
  | .defer .. => []
  | .deferN .. => []
  | .kwait .. => []
  | .acre .. => []
  | .arehome .. => []
  | .barArr .. => []
  | .barWait .. => []
  | .barCfg .. => []
  | .chred .. => []
  | .dcopy .. => []
  | .dwaitAny .. => []
  | .dwaitAll .. => []
  | .dffr .. => []
  | .rflush .. => []
  | .dtagst .. => []
  | .mma .. => []
  | .mzero .. => []
  | .mld .. => []
  | .mst .. => []
  | .mstc .. => []
  | .cbld .. => []
  | .spup .. => []
  | .spdown .. => []
  | .attn .. => []
  | .spivot .. => []
  | .sdraw .. => []
  | .sverify .. => []
  | .cfinc .. => []
  | .cfapply .. => []
  | .spshape .. => []
  | .safe .. => []
  | .queuedTrapEntry .. => []
  | .wfeTimeout .. => []
  | .dealerPark .. => []
  | .dealerWake .. => []
  | .wakeDone .. => []
  | .taskStart .. => []
  | .stealProbe .. => []
  | .stealProbeReceive .. => []
  | .stealProbeAnswer .. => []
  | .stealPauseExpiry .. => []
  | .timeSliceEnd .. => []
  | .priorityYield .. => []
  | .yieldRequest .. => []
  | .preemptTimeout .. => []
  | .savedContextResume .. => []
  | .firingStart .. => []
  | .firingSquash .. => []
  | .tagHoldRelease .. => []
  | .eventArrival .. => []
  | .cancelArrival .. => []
  | .inFlightAck .. => []
  | .sweepStart .. => []
  | .sweepSample .. => []
  | .kilnPublish .. => []
  | .homeCacheInvalidate .. => []
  | .messageArrival .. => []
  | .portPacketArrival .. => []
  | .callatTaskArrival .. => []
  | .replyArrival .. => []
  | .errorReply .. => []
  | .ackArrival .. => []
  | .sendQueueDrain .. => []
  | .sendStallTimeout .. => []
  | .chredPartialArrival .. => []
  | .regionDoneReport .. => []
  | .ltTick => []
  | .copyPiece .. => []
  | .attnBlock .. => []
  | .attnResult .. => []
  | .matrixRetire .. => []
  | .spRetire .. => []
  | .spAccept .. => []
  | .promotion .. => []
  | .uncorrectableError .. => []
  | .containmentNotice .. => []
  | .sealedEventResend .. => []
  | .windowRead .. => []
  | .windowWrite .. => []
  | .doorbellTail .. => []
  | .doorbellReset .. => []
  | .nopPacket .. => []
  | .launch .. => []
  | .ib .. => []
  | .pred .. => []
  | .loopPacket .. => []
  | .write .. => []
  | .signal .. => []
  | .waitPacket .. => []
  | .waitPacketTest .. => []
  | .fencePacket .. => []
  | .ffence .. => []
  | .promote .. => []
  | .qcmdRegister => []
  | .qcmdUnregister => []
  | .commit => []
  | .registerWrite .. => []
  | .liveUpdate .. => []
  | .packageReset .. => []
  | .attestation .. => []
  | .monitorSample .. => []
  | .linkReplay .. => []
  | .gets .. => []
  | .getm .. => []
  | .puts .. => []
  | .pute .. => []
  | .putm .. => []
  | .puto .. => []
  | .forward .. => []
  | .recall .. => []
  | .heartbeat .. => []
  | .planeLost .. => []
  | .recoveryReport .. => []
  | .packageLost .. => []
  | .checkpointStart => []
  | .checkpointSnapshot => []
  | .checkpointFrame => []
  | .restore => []
  | .unpublishedSweepInstant .. => []
  | .correctableError .. => []
  | .endpointReset => []
  | .hostDeviceAccess .. => []
  | .applicationCoreAccess .. => []
  | .regionStop .. => []

/-- The words of an instruction: its imm prefixes and its consumer word. -/
def encode (i : Instr) : List Word := i.prefixes ++ [i.word]

end Sys2Proof
end

