-- ==== Sys2Proof/Config.lean ====
section
/-! DEFINITION. What the spec fixes for every shipped VX-940 (R4) and the free values: constants without a body, so
that a claim about them holds whatever they are. Each is applied to the counter `State.fresh`, which every draw
advances (assumption log 1). -/

namespace Sys2Proof.Config

/-- Which of several happenings that are possible comes next (log 1). -/
opaque choose : Nat → Nat
/-- How often a happening that stays possible may be passed over (R141, log 1). -/
opaque patience : Nat
/-- How many ticks of the rated clock pass at a step (log 4). -/
opaque elapsed : Nat → Nat
/-- How many steps in a row may pass without a tick of the rated clock (R141, log 4). -/
opaque stillness : Nat
/-- Whether a cached copy that may serve an access still does (log 5). -/
opaque cached : Nat → Bool
/-- Whether the core gates a granule whose region has ended (log 6, R126). -/
opaque gates : Nat → Bool
/-- What a read of a root port's window or of an unspecified device answers (log 7). -/
opaque portValue : Nat → Dword

/-- Whether the owning process has reserved the address of a PAGE for mapping on demand, and what the resident kernel then writes in the table entry
that was missing (R414, log 19). -/
opaque onDemand : Nat → Bool
opaque mappedEntry : Nat → Dword
/-- Whether the sink of a checkpoint's stream fails at a frame (R402, log 37). -/
opaque sinkFails : Nat → Bool

/-- The bytes of a line that arrives from another package, and whether they are poisoned (log 9). -/
opaque remoteLine : Nat → VReg
opaque remotePois : Nat → Bool
/-- Whether another package that holds a line in E has written it (R390, log 9). -/
opaque remoteWrote : Nat → Bool

/-- What the drawing instructions find over weights with a NaN among them, which the spec does not state: the index of each draw, and whether a
comparison accepts (log 31). -/
opaque nanDraw : Nat → Nat → Nat

/-- The 64 bytes that a line enciphered under one cipher key gives when it is deciphered under another, by the two keys and the line (R229, log 50). -/
opaque recipher : BitVec 256 → BitVec 256 → Nat → VReg → VReg
/-- The checkpoint key of a coherence domain (R402, log 37). -/
opaque checkpointKey : Nat → BitVec 256
/-- The SHA-256 digest of the body of a checkpoint image (R403, log 38). -/
opaque digest : List (Nat × BitVec 8) → BitVec 256
/-- The secret that the package's physically unclonable function yields at every boot (R407, log 38). -/
opaque deviceSecret : BitVec 256
/-- The identity key that firmware derives from the secret, and the cipher key of a memory key identifier (R407, log 38). -/
opaque identityKey : BitVec 256 → BitVec 256
opaque cipherKey : BitVec 256 → Nat → BitVec 256
/-- The HSS signature under a key and leaf index over a report (R408, log 38). -/
opaque signature : BitVec 256 → Nat → List (BitVec 256) → Nat
/-- The SHA-256 measurements of stage one, firmware A, firmware B, the resident kernel and the configuration block, by the image and its
version (R408, log 38). -/
opaque measurement : Nat → Nat → BitVec 256
/-- The usable granules that the repair of a core leaves (R409, log 38). -/
opaque repaired : Nat → Nat

/-- Logical cores of a package (R3). -/
def cores : Nat := 16384
/-- Logical cores of a die (R3). -/
def coresPerDie : Nat := 2048
/-- Bytes of a granule of the SRAM pool (R4). -/
def granule : Nat := 4096
/-- Bytes of a context's register image (R351). -/
def imageBytes : Nat := 2560
/-- First address of the scratchpad window (R208). -/
def scratchBase : Nat := 0xFF00_0000_0000_0000
/-- Bytes of the scratchpad window (R208). -/
def scratchWindow : Nat := 0x2_0000
/-- Packages of a coherence domain (R4). -/
def packages : Nat := 48
/-- Switch planes (R4). -/
def planes : Nat := 16
/-- Sets of a plane's directory (R390). -/
def dirSets : Nat := 2 ^ 22
/-- Ways of a directory set (R390). -/
def dirWays : Nat := 16
/-- Sets of an L1, and its ways (R211). -/
def l1Sets : Nat := 64
def l1Ways : Nat := 4
/-- Lines that a slice holds (R211). -/
def sliceLines : Nat := 4096
/-- Entries of the TLB of a core, of that of a quad and of the translation cache of a die (R219). -/
def coreTlb : Nat := 32
def quadTlb : Nat := 512
def dieTlb : Nat := 65536
/-- Entries of a core's cache of actor homes (R144). -/
def homeEntries : Nat := 256
/-- The newest version of a state table that the spec describes (R379). -/
def stateVersion : Nat := 3

end Sys2Proof.Config
end

