-- ==== Sys2Proof/Machine/Maps.lean ====
section
/-! DEFINITION. Finite maps and sets as sorted lists: the plain data that memory and the sparse parts of the state are
held in. A map lists a key at most once; a byte map lists no byte that equals what an unlisted address reads as. -/

namespace Sys2Proof

/-- The value at a key, if the map lists it. -/
def kget {α : Type} : List (Nat × α) → Nat → Option α
  | [], _ => none
  | (k', v) :: m, k => if k' = k then some v else kget m k

/-- The map with a key set, keeping the keys rising. -/
def kset {α : Type} : List (Nat × α) → Nat → α → List (Nat × α)
  | [], k, v => [(k, v)]
  | (k', v') :: m, k, v =>
    if k < k' then (k, v) :: (k', v') :: m
    else if k = k' then (k, v) :: m
    else (k', v') :: kset m k v

/-- The map without a key. -/
def kdel {α : Type} : List (Nat × α) → Nat → List (Nat × α)
  | [], _ => []
  | (k', v) :: m, k => if k' = k then kdel m k else (k', v) :: kdel m k

/-- The value at a key, or a default. -/
def kgetD {α : Type} (m : List (Nat × α)) (k : Nat) (d : α) : α := (kget m k).getD d

/-- A set of naturals with one more member, rising. -/
def nadd : List Nat → Nat → List Nat
  | [], k => [k]
  | k' :: m, k => if k < k' then k :: k' :: m else if k = k' then k' :: m else k' :: nadd m k

/-- A set of naturals with one member fewer. -/
def ndel (m : List Nat) (k : Nat) : List Nat := m.filter (· != k)

/-- The numbers from `lo`, `n` of them. -/
def rangeFrom : Nat → Nat → List Nat
  | _, 0 => []
  | lo, n + 1 => lo :: rangeFrom (lo + 1) n

/-- The element at an index of a list, or a default. -/
def lget {α : Type} (l : List α) (i : Nat) (d : α) : α := l.getD i d

/-- The bytes of memory, by address; an address that is not listed reads `0x00` (log 3). -/
abbrev Memory := List (Nat × BitVec 8)

/-- What an address that the memory does not list reads as (log 3). -/
def Memory.unlisted : BitVec 8 := 0

/-- The byte at an address. -/
def Memory.byte (m : Memory) (a : Nat) : BitVec 8 := kgetD m a Memory.unlisted

/-- The memory with one byte written, in canonical form. -/
def Memory.setByte (m : Memory) (a : Nat) (b : BitVec 8) : Memory :=
  if b = Memory.unlisted then kdel m a else kset m a b

/-- The canonical form: addresses strictly rising and no byte that equals an unlisted one. -/
def Memory.wf : Memory → Bool
  | [] => true
  | [(_, b)] => b != Memory.unlisted
  | (a, b) :: (a', b') :: m => b != Memory.unlisted && decide (a < a') && Memory.wf ((a', b') :: m)

/-- `n` bytes from an address as a number, the lowest address least significant (R27). -/
def Memory.read (m : Memory) (a : Nat) : Nat → Nat
  | 0 => 0
  | n + 1 => (m.byte a).toNat + 256 * Memory.read m (a + 1) n

/-- `n` bytes of a number written from an address, the least significant lowest. -/
def Memory.write (m : Memory) (a : Nat) : Nat → Nat → Memory
  | 0, _ => m
  | n + 1, v => Memory.write (m.setByte a (BitVec.ofNat 8 v)) (a + 1) n (v / 256)

end Sys2Proof
end

