-- ==== Sys2Proof/Machine/State.lean ====
section
/-! DEFINITION. The state of the VX-940 as plain data: the contexts, the cores, the package with its memory, regions,
societies, engines, queues and endpoint, the coherence domain around it, and the machine right after reset. -/

namespace Sys2Proof.Machine

/-- Why the machine stops. -/
inductive Fault where
  /-- Raised by `step` when the package has stopped: a failed verification at boot (R406) or a sensor over its limit
  (R409). Safe: the spec gives a stopped package no further step. -/
  | packageStopped
  deriving DecidableEq, Repr

/-- Why an instruction has no meaning. -/
inductive Refusal where
  /-- Raised by `exec` for an instruction that has no meaning yet. Safe: nothing follows from it. -/
  | notModelled (mnemonic : String)
  deriving DecidableEq, Repr

/-- User or supervisor mode (R12). -/
inductive Mode where
  | user | super
  deriving DecidableEq, Repr

/-- The state of a slot (R114), with the wake in progress and the slot that its tags still hold (R153, R180). -/
inductive SlotState where
  | free | issuing | parkedWaiting | parkedReady
  | waking (done : Nat)
  | draining (successor : Option Task)
  deriving DecidableEq, Repr

/-- The control registers that a context holds itself (R15); the others are views of other state. -/
structure CRegs where
  region : Dword
  fpm : Dword
  chkint : Dword
  sqlim : Dword
  utvec : Dword
  ucause : Dword
  upc : Dword
  uval : Dword
  lcnt : Dword
  lstart : Dword
  lend : Dword
  pfx : Dword
  suit : Dword
  lvt : Dword
  akey : Dword
  astate : Dword
  kwin : Dword
  cbtl : Dword
  cbth : Dword
  spbase : Dword
  spadj : Dword
  spstat : Dword
  rngk : Dword
  rngc : Dword
  sampctx : Dword
  lmap : Dword
  scause : Dword
  spc : Dword
  sval : Dword
  stvec : Dword
  sstat : Dword
  deleg : Dword
  ptroot : Dword
  asid : Dword
  deriving DecidableEq, Repr

/-- A copy tag (R249): bytes pending, error recorded, reason of the first error. -/
structure Tag where
  pending : Nat
  err     : Bool
  reason  : Byte
  deriving DecidableEq, Repr

/-- A held landing slot (R133): the tag of the packet that holds it, whether a reply is awaited, and the answer once it
has arrived with the order of its arrival. -/
structure Landing where
  tag     : Byte
  reply   : Bool
  answer  : Option (Nat × Message)
  deriving DecidableEq, Repr

/-- A bound channel port (R136, R186): the values that have arrived, each with its poison and its sender's logical time. The register itself
keeps the value from before the binding. -/
structure Port where
  tag  : Byte
  fifo : List (VReg × (Bool × Nat))
  deriving DecidableEq, Repr

/-- What an access asks of its page (R217, R240, R241). -/
inductive Access where
  | load | store | atomic | fetch | flush | inval
  deriving DecidableEq, Repr

/-- Where an address leads: an offset of the scratchpad, or a physical address that is coherent (with the L1 allowed or
not, write-through or not, and a memory key), uncached (with a key), or in device space (R208, R212, R216). -/
inductive Place where
  | scratch (off : Nat)
  | coherent (pa : Nat) (l1 wt : Bool) (key : Nat)
  | uncached (pa key : Nat)
  | device (pa : Nat)
  deriving DecidableEq, Repr

/-- A vector access that has passed its checks and stands between two of its lanes (R100, R112): the bytes of a lane, the lanes still to be made in
ascending order with their addresses and places, whether it stores; of a load the lanes loaded so far with their poison, of a store the source
with its poison; the lane at which `vldff` is cut short (R101), and the blocks of which it has made its undo copy (R154). The stores of `cfapply`, and the
blocks that `mst` and `mstc` store, are lanes too, by the number of the element or block, of which `vals` gives the values with their poison (R298, R299, R324), and for these
`acc` holds the flags that the conversion raises; `back` says that it has made none of them yet, so that a request from outside still
takes it back to the boundary before it (R322). -/
structure LanePlan where
  bytes  : Nat
  todo   : List (Nat × (Dword × Place))
  store  : Bool
  acc    : VReg
  pois   : Bool
  cut    : Option Nat
  logged : List Nat
  vals   : List (Nat × (Nat × Bool))
  back   : Bool
  deriving DecidableEq, Repr

/-- The chain that an arrival of `chred` has joined (R139, R201): the operation and the type of its barrier in the phase of the arrival, and the member that
follows in that phase. -/
structure Chain where
  op   : Nat
  ty   : Nat
  next : Option Nat
  deriving DecidableEq, Repr

/-- What an instruction that has not completed waits for. -/
inductive WaitKind where
  | latch
  | reply (any : Bool) (tag : Byte)
  | inbox
  | port (k : Nat)
  | kiln (t : Dword)
  | phase (b : Nat)
  | room (b : Nat)
  | chain (b : Nat) (d : Reg) (own : Dword) (pois : Bool) (phase : BitVec 32) (ch : Chain)
  | send (flight : Bool) (ep : BitVec 40)
  | floor (t : Dword)
  | tagsAny (m : Dword)
  | tagsAll (m : Dword)
  | engine (attn : Bool) (tag bytes : Nat)
  | commands
  | matrix
  | tile (m : Nat)
  | spDone
  | spDep (n : Byte) (l w : Reg) (k : BitVec 6) (sp down : Bool)
  | rehome (actor : BitVec 48)
  | plane
  | frame (n : Nat)
  | translated
  | lanes (plan : LanePlan)
  deriving DecidableEq, Repr

/-- The group in execution (R36, R41): address of its first word, number of words, its prefixes and the word of the
consumer. -/
structure Group where
  first : Dword
  len   : Nat
  hint  : Bool
  mod   : Option (BitVec 22)
  nimm  : Nat
  word  : Word
  deriving DecidableEq, Repr

/-- A wait, the cycle in which it began, and the waiting group (R115, R177). -/
structure Wait where
  kind  : WaitKind
  since : Nat
  grp   : Group
  deriving DecidableEq, Repr

/-- How an instruction ends before it completes: a trap with its cause and value (R20), a wait, a squash of its firing (R157, R160), or the end of
its region by a fault of the dealer (R148). -/
inductive Stop where
  | trap (cause : Byte) (value : Dword)
  | wait (k : WaitKind)
  | squash
  | ended
  deriving DecidableEq, Repr

/-- The caller of a `callat` task, kept for the answer (R179). -/
structure Caller where
  ep    : BitVec 40
  tag   : Byte
  rslot : BitVec 4
  deriving DecidableEq, Repr

/-- The firing that a context runs (R150): its event, its record, the state window and the first-touch filter (R154). -/
structure Firing where
  event  : Event
  record : Nat
  desc   : Nat
  base   : Nat
  size   : Nat
  filter : List Nat
  deriving DecidableEq, Repr

/-- A trap that waits for, or is handled by, the S context (R22). -/
structure TrapEntry where
  cause : Byte
  value : Dword
  addr  : Dword
  pfx   : Dword
  mode  : Mode
  region : Dword
  twin  : Nat
  ptroot : Dword
  asid  : Dword
  deriving DecidableEq, Repr

/-- A context (R8) with the slot that holds it; `twin` tells its region from one of another owner whose block has the same address (R118). Beside its
logical time `lt` stand the time that its commands' reads follow since its last fence (R238) and that of its commands' writes so far (R227). -/
structure Context where
  slot   : SlotState
  mode   : Mode
  inc    : BitVec 12
  pc     : Dword
  sregs  : Vector Dword 32
  vregs  : Vector VReg 32
  pregs  : Vector Dword 8
  spois  : BitVec 32
  vpois  : BitVec 32
  cr     : CRegs
  tags   : Vector Tag 32
  sendq  : List Packet
  landing : Vector (Option Landing) 16
  inbox  : List Message
  ports  : Vector (Option Port) 4
  latch  : Bool
  wait   : Option Wait
  held   : Nat
  lt     : Nat
  fenceLt : Nat
  cmdLt  : Nat
  arrivals : List (Nat × BitVec 32)
  caller : Option Caller
  firing : Option Firing
  start  : Task
  trapped : Option TrapEntry
  inTrap : Bool
  halted : Bool
  yieldReq : Option Nat
  twin   : Nat
  deriving DecidableEq, Repr

/-- An accumulator tile (R259, R264): element (i, j) in bits [32·(16i + j) + 31 : 32·(16i + j)]. -/
structure Tile where
  data : BitVec 8192
  pois : Bool
  deriving DecidableEq, Repr

/-- A data L1 copy (R221). -/
structure L1Copy where
  line : Nat
  data : VReg
  pois : Bool
  wts  : Nat
  rts  : Nat
  fill : Nat
  deriving DecidableEq, Repr

/-- An entry of the in-flight table (R164), with the endpoints between which its event was sent last and the landing slot that it holds; `acked` is the cycle in
which the acknowledgement arrived, `refused` that the home was sealed and the event is to be sent again (R339). -/
structure Flight where
  id      : Nat
  event   : Event
  src     : BitVec 40
  dst     : BitVec 40
  rslot   : Option (BitVec 4)
  rcb     : Nat
  soc     : Nat
  acked   : Option Nat
  refused : Option Nat
  deriving DecidableEq, Repr

/-- A task in a core's queue, with the caller that waits for it (R125). -/
structure CallTask where
  task   : Task
  caller : Option Caller
  deriving DecidableEq, Repr

/-- A core's steal pass (R130): the region that it is for, the index of the next probe, whether an answer is awaited, the end of the
pause. -/
structure Steal where
  rcb    : Nat
  index  : Nat
  asked  : Bool
  paused : Option Nat
  deriving DecidableEq, Repr

/-- What an accepted matrix member does when it retires (R413). -/
inductive MatOp where
  | zero
  | load (data : BitVec 8192) (pois : Bool)
  | mma (fmtA fmtB : Byte) (a b : BitVec 8192) (sa sb : Option (BitVec 256)) (cb : BitVec 128) (pois : Bool)
  deriving DecidableEq, Repr

/-- An accepted matrix member (R259, R413). -/
structure MatJob where
  slot : Nat
  tile : Nat
  op   : MatOp
  due  : Nat
  deriving DecidableEq, Repr

/-- An accepted sum-product instruction (R279): the words that it writes when it retires, each an offset of the scratchpad with its value and
poison (R280), and what it does then. -/
structure SpJob where
  slot    : Nat
  unit    : Nat
  writes  : List (Nat × (Nat × Bool))
  flags   : BitVec 8
  stall   : Nat
  due     : Nat
  deriving DecidableEq, Repr

/-- A unit of a saggar record (R156): an undo copy with its poison, an event sent, a deferred write with its value's poison, a
deferred notice. -/
inductive RUnit where
  | undo (addr : Nat) (old : VReg) (pois : Bool)
  | sent (time : Dword) (dst : BitVec 48) (serial : BitVec 32)
  | write (z : Size) (addr : Dword) (value : Dword) (pois : Bool)
  | notice (w : Dword)
  deriving DecidableEq, Repr

/-- A saggar record (R155): its address, the consumed event, the firing actor and its descriptor, RNGC at the start, the actor's
previous record, its units with the newest first, and its three flags. -/
structure Record where
  addr  : Nat
  event : Event
  desc  : Nat
  rngc0 : Dword
  aprev : Nat
  units : List RUnit
  done  : Bool
  coll  : Bool
  void  : Bool
  deriving DecidableEq, Repr

/-- A piece of the saggar ring in use: the record that holds it, its bytes with those skipped before it, and the offset behind it (R155). -/
structure Chunk where
  rec_  : Nat
  bytes : Nat
  stop  : Nat
  deriving DecidableEq, Repr

/-- The saggar ring of a core (R155, R157): its base address, its size, the offset after the newest piece, the pieces in use with the oldest
first, and how often it has reclaimed space. -/
structure Ring where
  base   : Nat
  size   : Nat
  tail   : Nat
  chunks : List Chunk
  turns  : Nat
  deriving DecidableEq, Repr

/-- What the dealer has still to do for a record that it has rolled back (R159, R230): a unit to be undone, for an actor of a region's
society, and TIME of the event for which the walk is made, which the local floor counts until it is over (R163). -/
structure Undo where
  rcb   : Nat
  actor : BitVec 48
  time  : Nat
  unit_ : RUnit
  deriving DecidableEq, Repr

/-- What a region has on a core besides its contexts: the deque with the young end first (R124), the task queue with the oldest first
(R125), the tasks that steals have brought, the deck and the kitty with the oldest first (R149), the saggar (R155), the SUIT and KWIN in
force with the follow-suit count and the handler of the last firing (R128, R171), and the events that wait for saggar space (R157). -/
structure Work where
  deque    : List Task
  taskq    : List CallTask
  stolen   : List Task
  deck     : List Event
  kitty    : List Event
  ring     : Ring
  records  : List Record
  suit     : Dword
  kwin     : Dword
  follow   : Nat
  lastHandler : Option Dword
  blocked  : List (Nat × Nat)
  deriving DecidableEq, Repr

/-- A sealed core (R337): the kiln values sampled for it, the core whose S context has taken the notice and not yet returned from it,
whether the seal is released (R338, R340), and the core whose dealer has adopted its saggar (R340). -/
structure Seal where
  kiln     : List (Nat × Dword)
  taken    : Option Nat
  released : Bool
  adopter  : Option Nat
  deriving DecidableEq, Repr

/-- A core: its SRAM pool, its caches and the dealer's queues; `sealing` says that it is to be sealed once the members that its units have accepted from
tasks have retired and its contexts have completed their vector accesses (R25, R337, R413); `scratchTimes` gives a line of the scratchpad the logical
times of its last write and of its last read (R210, R222). -/
structure Core where
  usable   : Nat
  part     : BitVec 32
  serving  : Option Nat
  tiles    : List (Nat × Tile)
  scratch  : Memory
  scratchPois : List Nat
  scratchTimes : List (Nat × (Nat × Nat))
  gated    : List Nat
  shapes   : List (Nat × Dword)
  l1       : List L1Copy
  icache   : List (Nat × VReg)
  homes    : List (Nat × Nat)
  flight   : List Flight
  nextFlight : Nat
  kilns    : List (Nat × Dword)
  serial   : BitVec 32
  steal    : Steal
  matq     : List MatJob
  spq      : List SpJob
  spTurn   : Nat
  spLast   : List (Nat × Nat)
  rr       : Nat
  spDone   : Nat
  undo     : List Undo
  supWork  : Bool
  sealing  : Bool
  sealed   : Option Seal
  slice    : Nat
  corrected : Nat
  retries  : Nat
  retryLog : List Nat
  reqHeld  : Option Packet
  deriving DecidableEq, Repr

/-- A named barrier of a region (R137, R139): members, contexts per core, operation, type, phase, arrivals made by each
core in the phase, the partials forwarded along the chain in each phase with their logical times, and the greatest logical time at which
the members of this phase and of the one before have arrived (R138). -/
structure Barrier where
  members  : List Nat
  perCore  : Nat
  op       : Nat
  ty       : Nat
  phase    : BitVec 32
  arrived  : List (Nat × Nat)
  partials : List (Nat × (BitVec 32 × Dword × Bool × Nat))
  arrLt    : Nat
  phaseLt  : Nat
  deriving DecidableEq, Repr

/-- A saved context of a region (R354): its save record, the core it was saved from, and what stays with its work outside the record: the
caller that waits for it, its start copy, its event latch (R93), its logical times, and those of the senders of its inbox (R136). -/
structure Saved where
  index  : Nat
  core   : Nat
  caller : Option Caller
  start  : Task
  latch  : Bool
  lt     : Nat
  fenceLt : Nat
  times  : List Nat
  deriving DecidableEq, Repr

/-- A region as the front core resolved it at launch (R119), and what it holds while it runs; `lt` is the greatest logical time of its
contexts that have ended (R371), `unacked` lists the packets that its contexts have sent and that nothing has answered yet, each by its sender's endpoint and
landing slot with the endpoint that it goes to (R133, R140), and `stoppedAll` says that a co-resident region has been stopped as a whole and not resumed (R121). -/
structure Region where
  core0   : Nat
  ncore   : Nat
  ctx     : Nat
  part    : BitVec 32
  sagg    : Nat
  deck    : Nat
  colive  : Nat
  fdom    : Nat
  prio    : Nat
  deleg   : Dword
  lmap    : Dword
  actt    : Nat
  seed    : Nat
  ptroot  : Dword
  asid    : Dword
  area    : Nat
  restart : Bool
  soc     : Nat
  queue   : Nat
  owner   : Dword
  parent  : Nat
  rootc   : Nat
  save    : Nat
  nsave   : Nat
  notq    : Nat
  reserved : List (Nat × Nat)
  barriers : List (Nat × Barrier)
  saved   : List Saved
  work    : List (Nat × Work)
  cores   : List Nat
  status  : BitVec 2
  fault   : Option Byte
  stopping : Bool
  running : Bool
  lt      : Nat
  unacked : List (BitVec 40 × (BitVec 4 × BitVec 40))
  stoppedAll : Bool
  deriving DecidableEq, Repr

/-- Sweep scopes (R165). -/
inductive SweepScope where
  | die | package | domain | system
  deriving DecidableEq, Repr

/-- A kiln sweep in progress (R165): its scope and its start instant, whether it publishes (R202), whether it started with one to publish, whose instant a firing above the
new value waits for even where it is dropped (R167), whether it is dropped because the plane that combines it has failed (R399), and the floors sampled so far. -/
structure Sweep where
  scope     : SweepScope
  start     : Nat
  publishes : Bool
  holds     : Bool
  lost      : Bool
  samples   : List (Nat × Dword)
  deriving DecidableEq, Repr

/-- A society: the regions that share one actor table (R163); `pushed` is the instant of its first event, `next` that of its next sweep,
both on the clock of its scope; `other` is the least floor that the other packages have sampled in the sweep under way (R399); `arriving` lists the cores
that a published value has still to reach (R165, R168). -/
structure Society where
  actt    : Nat
  ptroot  : Dword
  scope   : SweepScope
  pushed  : Option Nat
  sweep   : Option Sweep
  next    : Nat
  kiln    : Dword
  other   : Option Dword
  arriving : List (Nat × Dword)
  deriving DecidableEq, Repr

/-- A tensor layout record (R252). -/
structure Layout where
  handle : Nat
  ndim   : Nat
  esize  : Nat
  ext    : List Nat
  sstr   : List Int
  dstr   : List Int
  ok     : Bool
  deriving DecidableEq, Repr

/-- Whose translation an engine or the front core uses. -/
structure Space where
  ptroot : Dword
  asid   : Dword
  super  : Bool
  physical : Bool
  deriving DecidableEq, Repr

/-- A copy command under way (R248): its issuer is named by core, slot and the incarnation that it had then (R129), `next` is the next element in linear order, `wrote` lists the lines that it has written, and `lt` is the logical time that
its accesses follow (R227, R238). -/
structure CopyCmd where
  core  : Nat
  slot  : Nat
  inc   : BitVec 12
  rcb   : Nat
  tag   : Nat
  lay   : Layout
  src   : Dword
  dst   : Dword
  next  : Nat
  wrote : List Nat
  acq   : Bool
  rel   : Bool
  scope : Scope
  lt    : Nat
  space : Space
  deriving DecidableEq, Repr

/-- A block of an attention command (R305): address, the slice that homes it where it is mapped, tokens that it has room for, tokens in
it, sequence position of the first. -/
structure AttnBlock where
  base   : Nat
  slice  : Option Nat
  room   : Nat
  tokens : Nat
  pos    : Nat
  deriving DecidableEq, Repr

/-- A partial triple (R267), all binary32. -/
structure Triple where
  m : Nat
  l : Nat
  o : List Nat
  deriving DecidableEq, Repr

/-- An attention command under way (R301): its issuer as that of a copy, the query vectors once they have been read, the triples that each block has yielded, per
query, and the logical time that its accesses follow (R227, R238). -/
structure AttnCmd where
  core   : Nat
  slot   : Nat
  inc    : BitVec 12
  rcb    : Nat
  tag    : Nat
  qaddr  : Nat
  nq     : Nat
  dim    : Nat
  fmt    : Byte
  scale  : Nat
  qpos   : Nat
  win    : Nat
  blocks : List AttnBlock
  query  : Option Nat
  dst    : Dword
  done   : List (List (Option Triple))
  failed : Option Byte
  pois   : Bool
  acq    : Bool
  rel    : Bool
  scope  : Scope
  lt     : Nat
  space  : Space
  deriving DecidableEq, Repr

/-- Where a promotion stands (R313): its table is to be checked and the pool's LOCK to be taken (steps 1 and 2); the LOCK is held for the allocation; block `i` is
allocated and is to be filled (steps 3 and 4); tail block `j` fails its tag, and the LOCK is to be taken, or is held, to free the block; the index's LOCK is to be
taken, or is held, for a block with its tag (step 5); the table is to be written (steps 6 and 7); the LOCK is to be taken, or is held, for step 8; the
completion word is to be written (step 9). -/
inductive WedgeStage where
  | start
  | allocate
  | fill (i : Nat)
  | bad (held : Bool) (i j : Nat)
  | index (held : Bool) (i tag : Nat)
  | replace (i : Nat) (shared : Option Nat)
  | release (held : Bool) (i run : Nat) (shared : Option Nat)
  | finished (code : Nat)
  deriving DecidableEq, Repr

/-- A promotion request posted to a wedging engine (R312), and where it stands. -/
structure Request where
  table : Nat
  done  : Nat
  space : Space
  broken : Bool
  stage : WedgeStage
  deriving DecidableEq, Repr

/-- A LOOP packet being run (R373): offset of the first governed packet, governed packets, those done in this pass, passes
left. -/
structure LoopState where
  first : Nat
  n     : Nat
  done  : Nat
  left  : Nat
  deriving DecidableEq, Repr

/-- An open level of a queue (R373): base address, size in bytes (the ring's for level 0), offset of the next packet, loop
in progress, packets still to be skipped, lines held (R374). -/
structure Level where
  base : Nat
  size : Nat
  pos  : Nat
  loop : Option LoopState
  skip : Nat
  held : List (Nat × VReg)
  deriving DecidableEq, Repr

/-- What a queue waits for: a WAIT condition (CMP, address, reference, mask) or the regions of a FENCE. -/
inductive QueueWait where
  | cond (cmp : Nat) (addr ref mask : Dword) (since : Nat)
  | fence
  deriving DecidableEq, Repr

/-- A registered command queue (R364, R365). The last element of `levels` is level 0. -/
structure Queue where
  desc    : Nat
  base    : Nat
  log2    : Nat
  owner   : Dword
  space   : Space
  head    : Nat
  tail    : Nat
  stopped : Bool
  levels  : List Level
  waiting : Option QueueWait
  launched : List Nat
  deriving DecidableEq, Repr

/-- The endpoint register block (R380) with QCMD's fields (R366). -/
structure Endpoint where
  feata  : Vector Dword 4
  nstat  : Nat
  enabled : Dword
  active : Bool
  upst   : Nat
  qaddr  : Dword
  qcmd   : Dword
  deriving DecidableEq, Repr

/-- States of a directory entry (R390). -/
inductive DirState where
  | shared | exclusive | modified | owned
  deriving DecidableEq, Repr

/-- A directory entry (R390) with the order of its last use. -/
structure DirEntry where
  state   : DirState
  owner   : Nat
  sharers : List Nat
  used    : Nat
  deriving DecidableEq, Repr

/-- The copy of a line that a package records (R390). -/
inductive CopyState where
  | m | o | e | cleanS | ownerS
  deriving DecidableEq, Repr

/-- Recovery from a lost plane (R396): the plane and the packages that have reported. -/
structure Recovery where
  plane    : Nat
  reported : List Nat
  since    : Nat
  deriving DecidableEq, Repr

/-- The memory-key table as an image holds it: wrapped under a key, so that a reader without that key has none of it (R402). -/
structure WrappedKeys where
  under : BitVec 256
  table : List (Nat × Nat)
  deriving DecidableEq, Repr

/-- A checkpoint image (R402, R403): device memory, the key table wrapped under the domain's checkpoint key, the digest of the body, and with
them the regions, societies and queues, whose decks, kitties, save records and descriptors the image's memory holds. -/
structure Image where
  mem    : Memory
  poison : List Nat
  keys   : WrappedKeys
  regions : List (Nat × Region)
  socs   : List (Nat × Society)
  queues : List (Nat × Queue)
  npkg   : Nat
  ndom   : Nat
  cores  : Nat
  gmin   : Nat
  kiln   : Dword
  enc    : List (Nat × Nat)
  digest : BitVec 256
  valid  : Bool
  deriving DecidableEq, Repr

/-- Where a checkpoint stands (R401, R402). -/
inductive CkptStep where
  | idle | quiesce
  | stream (frame : Nat)
  deriving DecidableEq, Repr

/-- The checkpoint engine and its triggers (R400); `taken` lists the frames that it has copied ahead of their turn (R402). -/
structure Checkpoint where
  ckper   : Nat
  ckstep  : Nat
  since   : Nat
  launches : Nat
  step    : CkptStep
  taken   : List Nat
  pending : Option Image
  images  : List Image
  deriving DecidableEq, Repr

/-- The coherence domain around the package (R386 to R397); `known` lists the lines of other packages whose bytes nobody can have changed since
they arrived here, `untold` the moves of actors, each with its society, that the other packages have still to carry out or to hear of (R196). -/
structure Domain where
  members : List Nat
  ndoms   : Nat
  lost    : List Nat
  deadPlanes : List Nat
  recovery : List Recovery
  missed  : List (Nat × Nat)
  beats   : Nat
  dir     : List (Nat × DirEntry)
  copies  : List (Nat × List (Nat × CopyState))
  exported : List Nat
  homeStale : List Nat
  known   : List Nat
  rh      : List (Nat × Nat)
  gateway : List (Nat × Nat)
  replay  : List (Nat × List Packet)
  untold  : List (Nat × BitVec 48)
  deriving DecidableEq, Repr

/-- A line where device memory differs from the value that coherent accesses see (R211, R241): device memory's bytes and
poison, and whether the slice's value is the newer one. -/
structure Behind where
  data  : VReg
  pois  : Bool
  dirty : Bool
  deriving DecidableEq, Repr

/-- Who holds a cached translation (R219). -/
inductive TlbHolder where
  | core (c : Nat) | quad (q : Nat) | die (d : Nat)
  deriving DecidableEq, Repr

/-- A cached translation: the page's first address and size, the leaf entry (R219). -/
structure TlbEntry where
  holder : TlbHolder
  asid   : Nat
  root   : Nat
  glob   : Bool
  base   : Nat
  size   : Nat
  leaf   : Dword
  deriving DecidableEq, Repr

/-- What has left the package. -/
inductive Output where
  | interrupt (queue vector : Nat)
  | signalIll (queue : Nat) (addr : Dword)
  | portWrite (pa : Nat) (v : Dword)
  | remoteWrite (pa n v : Nat) (pois : Bool)
  | packet (p : Packet)
  | gateway (dest : Nat) (p : Packet)
  | windowValue (v : Dword) (gatedFlag : Bool)
  | hostRead (pa : Nat) (data : List Byte)
  | report (leaf : Nat) (nonce : BitVec 256) (measures : List (BitVec 256)) (features : Dword) (signature : Nat)
  | announcePlane (plane : Nat)
  | frame (index : Nat) (data : List (Nat × Byte))
  | imageHeader (dwords : List Dword) (digest : BitVec 256)
  | shapeMismatch
  | corrected (core errors retries : Nat)
  | homeInvalidate (soc : Nat) (actor : BitVec 48)
  | rehomeRequest (soc : Nat) (actor : BitVec 48) (core : Nat)
  | irqClaim (target : Nat) (source : Option IrqSource)
  deriving DecidableEq, Repr

/-- What may happen next: a context's group executes, or a step of the hardware; the steps from `packet` on are those of the front core and of
the engines, the supervisor, the society and the domain, each named by what it acts on. -/
inductive Move where
  | issue (ctx : Nat)
  | act (i : Instr)
  | packet (q opc : Nat)
  | waitTest (q : Nat)
  | spAccept (core slot : Nat)
  | promotion (request : Nat)
  | notice (p : Packet)
  | resend (core flight : Nat)
  | unpublished (soc : Nat)
  | report (pkg : Nat)
  | silent (pkg : Nat)
  | undo (core : Nat)
  | early (n : Nat)
  | seal (core : Nat)
  | kiln (soc core : Nat)
  deriving DecidableEq, Repr

/-- A write of a copy or attention command that has not reached its place in the single order (R227): its issuer, the command, the scope at
which observers see it already (none: the issuer alone), its line with the bytes that it writes and their poison, the cycle in which the
command's tag completed, the least logical time of its place, its region, and the contexts that have read or overwritten it, told apart by their incarnations, each with
whether a fence of the context has followed, so that its later commands read nothing older (R238). -/
structure Early where
  ctx   : Nat
  inc   : BitVec 12
  cmd   : Nat
  scope : Option Scope
  line  : Nat
  mask  : BitVec 64
  data  : VReg
  pois  : Bool
  key   : Nat
  wt    : Bool
  done  : Option Nat
  lt    : Nat
  rcb   : Nat
  observed : List (Nat × Bool)
  deriving DecidableEq, Repr

/-- A line as it was before a store of a context, which is named with its incarnation, with the memory key under which it was held, which a command of that context without acquire may still read (R258). -/
structure Past where
  ctx   : Nat
  line  : Nat
  key   : Nat
  data  : VReg
  pois  : Bool
  cycle : Nat
  deriving DecidableEq, Repr

/-- The signed configuration block in flash (R405), with the usable granules of its repair maps, the cores that the service log marks (R409) and
the versions of the images. -/
structure Flash where
  secver  : Nat
  local_  : Bool
  rmap    : Vector Dword 8
  cert    : Dword
  sig     : Dword
  usable  : List (Nat × Nat)
  service : List Nat
  versionA : Nat
  versionB : Nat
  deriving DecidableEq, Repr

/-- The modes of an application core (R382). -/
inductive AppMode where
  | machine | supervisor | user
  deriving DecidableEq, Repr

/-- An application core (R382): the registers of RV64GC with V 1.0 at VLEN 256, its control and status registers by number, and its mode. -/
structure AppCore where
  pc   : Dword
  x    : Vector Dword 32
  f    : Vector Dword 32
  v    : Vector (BitVec 256) 32
  csrs : List (Nat × Dword)
  mode : AppMode
  deriving DecidableEq, Repr

/-- The interrupt controller of the application cores (R382), by the published RISC-V specification of it: the interrupts that wait, those that have been claimed and not
completed, the priority of each source, which sources are enabled for which target (twice the core's number, plus 1 for supervisor mode), and the threshold of each
target. -/
structure Plic where
  waiting   : List IrqSource
  claimed   : List IrqSource
  priority  : List (IrqSource × Nat)
  enabled   : List (Nat × IrqSource)
  threshold : List (Nat × Nat)
  deriving DecidableEq, Repr

/-- What a loop core keeps of a sequence from one commit to the next (R328): the key and the counter of its draws, and its committed length. -/
structure LoopSeq where
  key : Dword
  ctr : Dword
  len : Nat
  deriving DecidableEq, Repr

/-- The state of the machine. `cur` names the context whose instruction runs, as 64·core + slot; `stalled` marks an access of the hardware, made
in the step under way, that a lost plane (R396) or a scratchpad word of the sum-product engine (R282) holds up; `affine` lists the slice-affine pages that
have been translated, by physical address and size (R215); `apps` holds the application cores that differ from their reset, and `plic` their interrupt
controller (R382); `tcms` gives the tightly coupled memory of each loop core by its dwords (R328), those of complex A by the numbers 0 to 7 and those of B by 8 to 15; `still` counts the steps in a row in which no time has passed (R141). -/
structure State where
  cur     : Nat
  grp     : Group
  fresh   : Nat
  inputs  : List Instr
  outputs : List Output
  stopped : Bool
  cycle   : Nat
  phase   : Nat
  domTicks : Nat
  sysTicks : Nat
  ltCycle : Nat
  throttle : Nat
  pkgNum  : Nat
  pkgDom  : Nat
  localHoming : Bool
  ctxs    : List (Nat × Context)
  cores   : List (Nat × Core)
  mem     : Memory
  behind  : List (Nat × Behind)
  poison  : List Nat
  leases  : List (Nat × (Nat × Nat))
  enc     : List (Nat × Nat)
  agents  : List (Nat × Nat)
  early   : List Early
  past    : List Past
  tlb     : List TlbEntry
  affine  : List (Nat × Nat)
  keys    : List (Nat × Nat)
  net     : List Packet
  regions : List (Nat × Region)
  socs    : List (Nat × Society)
  copies  : List (Nat × CopyCmd)
  attns   : List (Nat × AttnCmd)
  layouts : List (Nat × (Nat × Nat × Layout))
  requests : List (Nat × Request)
  loops   : List (Nat × LoopSeq)
  apps    : List (Nat × AppCore)
  plic    : Plic
  tcms    : List (Nat × List (Nat × Dword))
  queues  : List (Nat × Queue)
  owners  : List (Nat × Space)
  endpoint : Endpoint
  dom     : Domain
  ckpt    : Checkpoint
  leafIndex : Nat
  flash   : Flash
  passed  : List (Move × Nat)
  still   : Nat
  stalled : Bool
  deriving DecidableEq, Repr

/-- The control registers at creation (R26, R15); the values that are "region's" or set at boot are 0 (log 2). -/
def CRegs.reset : CRegs :=
  { region := 0, fpm := 0, chkint := 0, sqlim := 256, utvec := 0, ucause := 0, upc := 0, uval := 0, lcnt := 0, lstart := 0,
    lend := 0, pfx := 0, suit := 0, lvt := 0, akey := 0, astate := 0, kwin := 0, cbtl := 0, cbth := 0, spbase := 0, spadj := 0,
    spstat := 0, rngk := 0, rngc := 0, sampctx := 0, lmap := 0, scause := 0, spc := 0, sval := 0, stvec := 0, sstat := 0,
    deleg := 0, ptroot := 0, asid := 0 }

/-- A tag at creation (R249). -/
def Tag.reset : Tag := { pending := 0, err := false, reason := 0 }

/-- A slot that has held no context (R26, R114, R129); the S context is parked until it has work (R116). -/
def Context.reset (mode : Mode) : Context :=
  { slot := (match mode with | .user => .free | .super => .parkedWaiting), mode := mode, inc := 0, pc := 0,
    sregs := Vector.replicate 32 0, vregs := Vector.replicate 32 0,
    pregs := Vector.replicate 8 0, spois := 0, vpois := 0, cr := CRegs.reset, tags := Vector.replicate 32 Tag.reset,
    sendq := [], landing := Vector.replicate 16 none, inbox := [], ports := Vector.replicate 4 none, latch := false,
    wait := none, held := 0, lt := 0, fenceLt := 0, cmdLt := 0, arrivals := [], caller := none, firing := none, start := { pc := 0, args := 0 },
    trapped := none, inTrap := false, halted := false, yieldReq := none, twin := 0 }

/-- A core right after reset (log 2 names the values that the spec does not give). -/
def Core.reset : Core :=
  { usable := 32, part := 0, serving := none, tiles := [], scratch := [], scratchPois := [], scratchTimes := [], gated := [], shapes := [],
    l1 := [], icache := [], homes := [], flight := [], nextFlight := 0, kilns := [], serial := 0, steal := { rcb := 0, index := 0, asked := false, paused := none },
    matq := [], spq := [], spTurn := 0, spLast := [], rr := 0, spDone := 0, undo := [], supWork := false, sealing := false, sealed := none,
    slice := 0, corrected := 0, retries := 0, retryLog := [], reqHeld := none }

/-- An application core at reset (log 52). -/
def AppCore.reset : AppCore :=
  { pc := 0, x := Vector.replicate 32 0, f := Vector.replicate 32 0, v := Vector.replicate 32 0, csrs := [], mode := .machine }

/-- The interrupt controller at reset: nothing waits, and no source is enabled or has a priority (log 52). -/
def Plic.reset : Plic := { waiting := [], claimed := [], priority := [], enabled := [], threshold := [] }

/-- No group in execution. -/
def Group.reset : Group := { first := 0, len := 1, hint := false, mod := none, nimm := 0, word := 0 }

/-- The endpoint block after reset (R380). -/
def Endpoint.reset : Endpoint :=
  { feata := Vector.replicate 4 0, nstat := 0, enabled := 0, active := false, upst := 0, qaddr := 0, qcmd := 0 }

/-- The domain after reset: this package alone, every plane live. -/
def Domain.reset : Domain :=
  { members := [0], ndoms := 1, lost := [], deadPlanes := [], recovery := [], missed := [], beats := 0, dir := [], copies := [],
    exported := [], homeStale := [], known := [], rh := [], gateway := [], replay := [], untold := [] }

/-- No checkpoint in progress and none wanted (R400). -/
def Checkpoint.reset : Checkpoint :=
  { ckper := 0, ckstep := 0, since := 0, launches := 0, step := .idle, taken := [], pending := none, images := [] }

/-- The flash of a package as it is delivered (log 2). -/
def Flash.reset : Flash :=
  { secver := 0, local_ := false, rmap := Vector.replicate 8 0, cert := 0, sig := 0, usable := [], service := [],
    versionA := Config.stateVersion, versionB := Config.stateVersion }

/-- The machine right after reset. -/
def State.reset : State :=
  { cur := 0, grp := Group.reset, fresh := 0, inputs := [], outputs := [], stopped := false, cycle := 0, phase := 0, domTicks := 0,
    sysTicks := 0, ltCycle := 0, throttle := 16, pkgNum := 0, pkgDom := 0, localHoming := false, ctxs := [], cores := [],
    mem := [], behind := [], poison := [], leases := [], enc := [], agents := [],
    early := [], past := [], tlb := [], affine := [], keys := [], net := [], regions := [], socs := [],
    copies := [], attns := [], layouts := [], requests := [], loops := [], apps := [], plic := Plic.reset, tcms := [], queues := [], owners := [], endpoint := Endpoint.reset,
    dom := Domain.reset, ckpt := Checkpoint.reset, leafIndex := 0,
    flash := Flash.reset, passed := [], still := 0, stalled := false }

end Sys2Proof.Machine
end

