-- ==== Sys2Proof/Machine/Ops.lean ====
section
/-! DEFINITION. The shared operations over contexts, cores and registers: accessors, the control registers (spec 01 R15,
04 R89), completing an instruction (04 R87), sealing a core (19 R337), taking a trap (01 R22, R415) and returning from one
(04 R92). -/

namespace Sys2Proof.Machine

/-! ### Contexts and cores -/

/-- The key of a context: its core and its slot. -/
def ctxKey (core slot : Nat) : Nat := 64 * core + slot

/-- The context of a slot that the state does not list: slot 0 is the S context (R12, R113). -/
def defaultCtx (k : Nat) : Context := Context.reset (if k % 64 = 0 then .super else .user)

def State.getCtx (s : State) (k : Nat) : Context := kgetD s.ctxs k (defaultCtx k)
def State.setCtx (s : State) (k : Nat) (c : Context) : State := { s with ctxs := kset s.ctxs k c }
def State.modCtx (s : State) (k : Nat) (f : Context → Context) : State := s.setCtx k (f (s.getCtx k))
def State.getCore (s : State) (n : Nat) : Core := kgetD s.cores n Core.reset
def State.setCore (s : State) (n : Nat) (c : Core) : State := { s with cores := kset s.cores n c }
def State.modCore (s : State) (n : Nat) (f : Core → Core) : State := s.setCore n (f (s.getCore n))

/-- The context whose instruction runs. -/
def State.cx (s : State) : Context := s.getCtx s.cur
def State.setCx (s : State) (c : Context) : State := s.setCtx s.cur c
def State.modCx (s : State) (f : Context → Context) : State := s.setCx (f s.cx)

/-- The core and the slot of the running context. -/
def State.coreNum (s : State) : Nat := s.cur / 64
def State.slotNum (s : State) : Nat := s.cur % 64
def State.co (s : State) : Core := s.getCore s.coreNum
def State.modCo (s : State) (f : Core → Core) : State := s.modCore s.coreNum f

def State.getRegion? (s : State) (rcb : Nat) : Option Region := kget s.regions rcb
def State.setRegion (s : State) (rcb : Nat) (r : Region) : State := { s with regions := kset s.regions rcb r }
/-- A region changed, if it exists. -/
def State.modRegion (s : State) (rcb : Nat) (f : Region → Region) : State :=
  match s.getRegion? rcb with
  | none => s
  | some r => s.setRegion rcb (f r)

/-- The die of a core (R3). -/
def dieOf (core : Nat) : Nat := core / Config.coresPerDie

/-- The register granules and accumulator granules of a partition word (R204). -/
def partReg (p : BitVec 32) : Nat := p.toNat % 32
def partAcc (p : BitVec 32) : Nat := p.toNat / 32 % 32

/-- Resident contexts of a partition word (R113). -/
def residents (p : BitVec 32) : Nat := min 48 (partReg p * 4096 / 2560)

/-- Bytes of a core's scratchpad (R205). -/
def scratchBytes (c : Core) : Nat := 4096 * (c.usable - partReg c.part - partAcc c.part)

/-- A context told from those that have held its slot before it and will hold it after it (R129). -/
def ctxTag (k : Nat) (inc : BitVec 12) : Nat := 4096 * k + inc.toNat

/-- The endpoint address of a slot (R134). -/
def epAddr (pkg core slot : Nat) (inc : BitVec 12) : BitVec 40 :=
  BitVec.ofNat 8 pkg ++ BitVec.ofNat 3 (dieOf core) ++ BitVec.ofNat 11 core ++ BitVec.ofNat 6 slot ++ inc

/-- The logical core that an endpoint address names. -/
def epCore (e : BitVec 40) : Nat := (e.extractLsb' 29 3).toNat * 2048 + (e.extractLsb' 18 11).toNat
def epSlot (e : BitVec 40) : Nat := (e.extractLsb' 12 6).toNat
def epInc (e : BitVec 40) : BitVec 12 := e.extractLsb' 0 12
def epPkg (e : BitVec 40) : Nat := (e.extractLsb' 32 8).toNat

/-- The endpoint of the running context, and of a core as a whole. -/
def State.ownEp (s : State) : BitVec 40 := epAddr s.pkgNum s.coreNum s.slotNum s.cx.inc
def State.coreEp (s : State) (core : Nat) : BitVec 40 := epAddr s.pkgNum core 0 0

/-- Bits [56:0] kept, bits [63:57] copies of bit 56 (R8, R89). -/
def canon (x : Dword) : Dword := (x.extractLsb' 0 57).signExtend 64

/-- Whether an address is canonical (R216). -/
def canonical (x : Dword) : Bool := canon x == x

/-- A canonical address without its bits [1:0] (R89). -/
def codeAddr (x : Dword) : Dword := canon x &&& ~~~3

/-! ### Registers -/

/-- A scalar register; s0 reads zero (R8). -/
def Context.s (c : Context) (r : Reg) : Dword := if r = 0 then 0 else c.sregs[r.toNat]'r.isLt

/-- A scalar register's poison bit; s0 carries none. -/
def Context.sp (c : Context) (r : Reg) : Bool := r != 0 && c.spois.getLsbD r.toNat

/-- A bit of a register of poison bits set to a value. -/
def setBit {n : Nat} (x : BitVec n) (i : Nat) (b : Bool) : BitVec n :=
  if b then x ||| BitVec.ofNat n (2 ^ i) else x &&& ~~~BitVec.ofNat n (2 ^ i)

/-- A write of a scalar register with its poison bit; a write of s0 is discarded (R8, R9). -/
def Context.setS (c : Context) (r : Reg) (v : Dword) (p : Bool) : Context :=
  if r = 0 then c else
  { c with sregs := c.sregs.set r.toNat v r.isLt, spois := setBit c.spois r.toNat p }

/-- A predicate; p0 reads all ones (R8). -/
def Context.p (c : Context) (r : PReg) : Dword := if r = 0 then BitVec.allOnes 64 else c.pregs[r.toNat]'r.isLt

/-- A write of a predicate; p0 is read-only (R8). -/
def Context.setP (c : Context) (r : PReg) (v : Dword) : Context :=
  if r = 0 then c else { c with pregs := c.pregs.set r.toNat v r.isLt }

/-- A vector register's own value and poison bit. -/
def Context.v (c : Context) (r : Reg) : VReg := c.vregs[r.toNat]'r.isLt
def Context.vp (c : Context) (r : Reg) : Bool := c.vpois.getLsbD r.toNat

/-- The port that a vector register is, if a tag is bound to it (R10, R136). -/
def Context.portOf (c : Context) (r : Reg) : Option Port :=
  if 28 ≤ r.toNat then c.ports.toList.getD (r.toNat - 28) none else none

/-- A write of a vector register with its poison bit; a write of a bound port is discarded (R136). -/
def Context.setV (c : Context) (r : Reg) (v : VReg) (p : Bool) : Context :=
  match c.portOf r with
  | some _ => c
  | none => { c with vregs := c.vregs.set r.toNat v r.isLt, vpois := setBit c.vpois r.toNat p }

/-- Four consecutive scalar registers from a block operand, as one value (R175). -/
def Context.block (c : Context) (r : Reg) : BitVec 256 := c.s (r + 3) ++ c.s (r + 2) ++ c.s (r + 1) ++ c.s r
def Context.blockP (c : Context) (r : Reg) : BitVec 4 :=
  BitVec.ofBool (c.sp (r + 3)) ++ BitVec.ofBool (c.sp (r + 2)) ++ BitVec.ofBool (c.sp (r + 1)) ++ BitVec.ofBool (c.sp r)

/-- Four consecutive scalar registers written from one value. -/
def Context.setBlock (c : Context) (r : Reg) (v : BitVec 256) (p : BitVec 4) : Context :=
  (((c.setS r (v.extractLsb' 0 64) (p.getLsbD 0)).setS (r + 1) (v.extractLsb' 64 64) (p.getLsbD 1)).setS
    (r + 2) (v.extractLsb' 128 64) (p.getLsbD 2)).setS (r + 3) (v.extractLsb' 192 64) (p.getLsbD 3)

/-- CHKINT with bits set (R342). -/
def Context.chk (c : Context) (m : Dword) : Context := { c with cr := { c.cr with chkint := c.cr.chkint ||| m } }

/-- The context consumed poison if a condition holds (R342). -/
def Context.poisonIf (c : Context) (b : Bool) : Context := if b then c.chk 1 else c

/-- The sticky flags in the order of FPM[15:8]: NV, DZ, OF, UF, NX, SO, SU, SV from bit 0 (R57). -/
abbrev FpFlags := BitVec 8

/-- The flags ORed into FPM (R58). -/
def Context.addFlags (c : Context) (f : FpFlags) : Context :=
  { c with cr := { c.cr with fpm := c.cr.fpm ||| (0#48 ++ f ++ 0#8) } }

/-! ### Control registers -/

/-- The kiln value that a core holds for a society; 0 before the society's first publication (R166). -/
def Core.kiln (c : Core) (soc : Nat) : Dword := kgetD c.kilns soc 0

/-- Nothing of a region on a core. -/
def Work.empty : Work :=
  { deque := [], taskq := [], stolen := [], deck := [], kitty := [],
    ring := { base := 0, size := 0, tail := 0, chunks := [], turns := 0 }, records := [], suit := 0, kwin := 0, follow := 0,
    lastHandler := none, blocked := [] }

/-- The bytes of a core's share of a region's memory (R148). -/
def Region.share (r : Region) : Nat := (r.sagg + 320 * r.deck + 65535) / 65536 * 65536

/-- What a region has on a core at first: an empty saggar ring in the core's share of the region's memory (R148). -/
def Region.freshWork (r : Region) (core : Nat) : Work :=
  { Work.empty with
    ring := { base := r.area + (r.cores.findIdx (· == core)) * r.share, size := r.sagg, tail := 0, chunks := [], turns := 0 } }

/-- The addresses of the entries of a core's deck and kitty, behind its saggar (R148). -/
def Region.deckAddr (r : Region) (core i : Nat) : Nat := (r.freshWork core).ring.base + r.sagg + 64 * i
def Region.kittyAddr (r : Region) (core i : Nat) : Nat := r.deckAddr core (r.deck + i)

/-- What a region has on a core, and a change of it. -/
def State.getWork (s : State) (rcb core : Nat) : Work :=
  match s.getRegion? rcb with
  | none => Work.empty
  | some r => kgetD r.work core (r.freshWork core)
def State.modWork (s : State) (rcb core : Nat) (f : Work → Work) : State :=
  s.modRegion rcb (fun r => { r with work := kset r.work core (f (kgetD r.work core (r.freshWork core))) })

/-- The society of a region: its actor table (R163). -/
def State.socOf? (s : State) (rcb : Nat) : Option Nat := (s.getRegion? rcb).map Region.soc
def State.socOf (s : State) (rcb : Nat) : Nat := (s.socOf? rcb).getD 0

/-- What a read of KILN returns on a core for a region: the value of its society there (R90, R166). Of an S context whose REGION names no running region it
is 0 (DESIGN CHOICE, log 49: the spec does not say). -/
def State.kilnOf (s : State) (core rcb : Nat) : Dword :=
  match s.socOf? rcb with
  | none => 0
  | some soc => (s.getCore core).kiln soc

/-- TAGS: bit k is 1 when tag k has no byte pending (R249). -/
def Context.tagBits (c : Context) : Dword :=
  c.tags.toList.foldr (fun t (x : Dword) => x * 2 + Dword.ofBool (t.pending == 0)) 0

/-- TAGERRS: bit k is 1 when tag k has an error (R249). -/
def Context.tagErrBits (c : Context) : Dword :=
  c.tags.toList.foldr (fun t (x : Dword) => x * 2 + Dword.ofBool t.err) 0

/-- The number of a context's region: the address of its block (R15), told apart from the same address in the space of another owner. -/
def Context.rgn (c : Context) : Nat := c.cr.region.toNat + 2 ^ 64 * c.twin

/-- The value that a read of a control register returns (R15). -/
def State.crRead (s : State) (k : Nat) (n : CReg) : Dword :=
  let c := s.getCtx k
  let co := s.getCore (k / 64)
  match n with
  | .core => BitVec.ofNat 64 (k / 64)
  | .die => BitVec.ofNat 64 (dieOf (k / 64))
  | .pkg => BitVec.ofNat 64 (s.pkgDom % 256 * 256 + s.pkgNum % 256)
  | .slot => BitVec.ofNat 64 (c.inc.toNat * 65536 + k % 64)
  | .region => c.cr.region
  | .cycle => BitVec.ofNat 64 s.cycle
  | .pool => BitVec.ofNat 64 (co.part.toNat * 2 ^ 32 + co.usable % 32)
  | .fpm => c.cr.fpm
  | .chkint => c.cr.chkint
  | .tags => c.tagBits
  | .tagerrs => c.tagErrBits
  | .sqlim => c.cr.sqlim
  | .utvec => c.cr.utvec
  | .ucause => c.cr.ucause
  | .upc => c.cr.upc
  | .uval => c.cr.uval
  | .lcnt => c.cr.lcnt
  | .lstart => c.cr.lstart
  | .lend => c.cr.lend
  | .pfx => c.cr.pfx
  | .suit => c.cr.suit
  | .kiln => s.kilnOf (k / 64) c.rgn
  | .lvt => c.cr.lvt
  | .akey => c.cr.akey
  | .astate => c.cr.astate
  | .kwin => c.cr.kwin
  | .cbtl => c.cr.cbtl
  | .cbth => c.cr.cbth
  | .spbase => c.cr.spbase
  | .spadj => c.cr.spadj
  | .spstat => c.cr.spstat
  | .rngk => c.cr.rngk
  | .rngc => c.cr.rngc
  | .sampctx => c.cr.sampctx
  | .lmap => c.cr.lmap
  | .scause => c.cr.scause
  | .spc => c.cr.spc
  | .sval => c.cr.sval
  | .stvec => c.cr.stvec
  | .sstat => c.cr.sstat
  | .deleg => c.cr.deleg
  | .ptroot => c.cr.ptroot
  | .asid => c.cr.asid

end Sys2Proof.Machine

namespace Sys2Proof

/-- Whether a control register is accessible only in supervisor mode (R15). -/
def CReg.isS : CReg → Bool
  | .scause => true | .spc => true | .sval => true | .stvec => true
  | .sstat => true | .deleg => true | .ptroot => true | .asid => true
  | _ => false

/-- A control register that holds an address: its bits [56:0], and none below its alignment (R89). -/
def CReg.addrMask : CReg → Option Dword
  | .utvec => some (~~~3) | .upc => some (~~~3) | .stvec => some (~~~3) | .spc => some (~~~3)
  | .lstart => some (~~~3) | .lend => some (~~~3)
  | .lmap => some (~~~0xF)
  | .spbase => some (~~~0x3F) | .spadj => some (~~~0x3F)
  | .sampctx => some (~~~0xFFF)
  | .ptroot => some (~~~0xFFFF)
  | _ => none

/-- The bits of a control register that a write replaces, those that it clears where it writes 1, and no others: the
fields' access codes (R6, R16, R17, R18, R57, R281, R338, R342). -/
def CReg.rwMask : CReg → Dword
  | .fpm => 0xFF0F
  | .ucause => 0x8000_0000_0000_00FF
  | .scause => 0x8000_0000_0000_00FF
  | .deleg => 0x2AC8
  | .asid => 0xFFFF
  | .sqlim => BitVec.allOnes 64 | .uval => BitVec.allOnes 64 | .lcnt => BitVec.allOnes 64
  | .suit => BitVec.allOnes 64 | .kwin => BitVec.allOnes 64 | .cbtl => BitVec.allOnes 64
  | .cbth => BitVec.allOnes 64 | .rngk => BitVec.allOnes 64 | .rngc => BitVec.allOnes 64
  | .sval => BitVec.allOnes 64
  | .utvec => BitVec.allOnes 64 | .upc => BitVec.allOnes 64 | .stvec => BitVec.allOnes 64
  | .spc => BitVec.allOnes 64 | .lstart => BitVec.allOnes 64 | .lend => BitVec.allOnes 64
  | .lmap => BitVec.allOnes 64 | .spbase => BitVec.allOnes 64 | .spadj => BitVec.allOnes 64
  | .sampctx => BitVec.allOnes 64 | .ptroot => BitVec.allOnes 64
  | .spstat => BitVec.allOnes 64
  | _ => 0

/-- The bits of a control register that a write of 1 clears (R6). -/
def CReg.w1cMask : CReg → Dword
  | .chkint => 7
  | .tagerrs => 0xFFFF_FFFF
  | .sstat => 0x100
  | _ => 0

/-- The kinds of a control-register write (R89). -/
inductive CrKind where
  | w | s | c
  deriving DecidableEq, Repr

/-- What a write of `x` leaves in a register that held `old` (R89). -/
def crNew (n : CReg) (kind : CrKind) (old x : Dword) : Dword :=
  let new := match kind with
    | .w => x
    | .s => old ||| x
    | .c => old &&& ~~~x
  let gone := match kind with
    | .w => x
    | .s => x
    | .c => 0
  let r := (old &&& ~~~n.rwMask &&& ~~~(n.w1cMask &&& gone)) ||| (new &&& n.rwMask)
  match n.addrMask with
  | none => r
  | some m => Machine.canon r &&& m

end Sys2Proof

namespace Sys2Proof.Machine

/-- A context with the element of a vector of the state replaced, where the index is in range. -/
def vset {α : Type} {n : Nat} (v : Vector α n) (i : Nat) (x : α) : Vector α n := if h : i < n then v.set i x h else v

/-- The element of a vector at an index, or a default. -/
def vget {α : Type} {n : Nat} (v : Vector α n) (i : Nat) (d : α) : α := if h : i < n then v[i] else d

/-- A tag's ERR and REASON cleared (R251). -/
def Context.clearTagErr (c : Context) (i : Nat) : Context :=
  { c with tags := vset c.tags i { vget c.tags i Tag.reset with err := false, reason := 0 } }

/-- A context with a control register replaced; the views of other state are not replaced here. -/
def Context.crSet (c : Context) (n : CReg) (v : Dword) : Context :=
  match n with
  | .fpm => { c with cr := { c.cr with fpm := v } }
  | .chkint => { c with cr := { c.cr with chkint := v } }
  | .tagerrs => (rangeFrom 0 32).foldl (fun c i => if v.getLsbD i then c else c.clearTagErr i) c
  | .sqlim => { c with cr := { c.cr with sqlim := v } }
  | .utvec => { c with cr := { c.cr with utvec := v } }
  | .ucause => { c with cr := { c.cr with ucause := v } }
  | .upc => { c with cr := { c.cr with upc := v } }
  | .uval => { c with cr := { c.cr with uval := v } }
  | .lcnt => { c with cr := { c.cr with lcnt := v } }
  | .lstart => { c with cr := { c.cr with lstart := v } }
  | .lend => { c with cr := { c.cr with lend := v } }
  | .suit => { c with cr := { c.cr with suit := v } }
  | .kwin => { c with cr := { c.cr with kwin := v } }
  | .cbtl => { c with cr := { c.cr with cbtl := v } }
  | .cbth => { c with cr := { c.cr with cbth := v } }
  | .spbase => { c with cr := { c.cr with spbase := v } }
  | .spadj => { c with cr := { c.cr with spadj := v } }
  | .spstat => { c with cr := { c.cr with spstat := v } }
  | .rngk => { c with cr := { c.cr with rngk := v } }
  | .rngc => { c with cr := { c.cr with rngc := v } }
  | .sampctx => { c with cr := { c.cr with sampctx := v } }
  | .lmap => { c with cr := { c.cr with lmap := v } }
  | .scause => { c with cr := { c.cr with scause := v } }
  | .spc => { c with cr := { c.cr with spc := v } }
  | .sval => { c with cr := { c.cr with sval := v } }
  | .stvec => { c with cr := { c.cr with stvec := v } }
  | .sstat => { c with cr := { c.cr with sstat := v } }
  | .deleg => { c with cr := { c.cr with deleg := v } }
  | .ptroot => { c with cr := { c.cr with ptroot := v } }
  | .asid => { c with cr := { c.cr with asid := v } }
  | .core => c | .die => c | .pkg => c | .slot => c | .region => c | .cycle => c | .pool => c | .tags => c
  | .pfx => c | .kiln => c | .lvt => c | .akey => c | .astate => c

/-! ### Completing an instruction -/

/-- The address A of the word that the running group ends with (R84, R87). -/
def State.lastWord (s : State) : Dword := s.grp.first + BitVec.ofNat 64 (4 * (s.grp.len - 1))

/-- Where the context goes when the group completes without a transfer of control: to the next word, or back to LSTART at the end of
a loop body (R87). -/
def Context.advance (c : Context) (a : Dword) : Context :=
  if c.cr.lend = canon a ∧ c.cr.lcnt ≠ 0 then
    if c.cr.lcnt.toNat > 1 then { c with pc := c.cr.lstart, wait := none, cr := { c.cr with lcnt := c.cr.lcnt - 1 } }
    else { c with pc := canon (a + 4), wait := none, cr := { c.cr with lcnt := 0 } }
  else { c with pc := canon (a + 4), wait := none }

/-- The running group completes without a transfer of control. -/
def State.retire (s : State) : State := s.modCx (fun c => c.advance s.lastWord)

/-- The running group transfers control. -/
def State.goto (s : State) (t : Dword) : State := s.modCx (fun c => { c with pc := canon t, wait := none })

/-! ### Packets -/

/-- A message header (R135). -/
def header (err : Byte) (tag : Byte) (kind : BitVec 2) (rq : Bool) (rslot : BitVec 4) (src : BitVec 40) : Dword :=
  err ++ tag ++ kind ++ BitVec.ofBool rq ++ 0#1 ++ rslot ++ src

/-- Packets put into the mesh, in order (R132). -/
def State.push (s : State) (ps : List Packet) : State := { s with net := s.net ++ ps }

/-- The reply on RPL to a REQ packet that was not delivered: the error, the tag and the landing slot that waits (R134, R135, R339). A cancelling event and an
event sent again hold no landing slot, and their error names none. -/
def errorFor (err : Byte) (p : Packet) : List Packet :=
  let mk (tag : Byte) (rs : BitVec 4) (fl : Option (Nat × Option (BitVec 4))) : List Packet :=
    [{ net := .rpl, src := p.dst, dst := p.src, rcb := p.rcb,
       body := .error { hdr := header err tag 2 false rs p.dst, data := 0, pois := 0 } fl }]
  match p.body with
  | .message m => mk (m.hdr.extractLsb' 48 8) (m.hdr.extractLsb' 40 4) none
  | .vector tag rs _ _ => mk tag rs none
  | .task _ tag rs => mk tag rs none
  | .event _ rs fl => mk 0 (rs.getD 0) (some (fl, rs))
  | _ => []

/-! ### The end of a region, and the sealing of a core -/

/-- A region ends with a fault: the first reason stays, and its contexts issue no more (R148, R343, R344). -/
def State.endRegion (s : State) (rcb : Nat) (reason : Byte) : State :=
  s.modRegion rcb (fun r => { r with fault := some (r.fault.getD reason), stopping := true })

/-- Whether a slot holds a context (R114). -/
def Context.live (c : Context) : Bool :=
  match c.slot with
  | .free => false
  | .draining _ => false
  | _ => true

/-- Whether a slot's task or firing goes on: its context lives, or a retained successor is to follow it there (R126). -/
def Context.goesOn (c : Context) : Bool :=
  c.live || match c.slot with | .draining (some _) => true | _ => false

/-- The shape slots of a core empty when none of its contexts goes on (R272). -/
def State.emptyShapes (s : State) (core : Nat) : State :=
  if s.ctxs.all (fun x => x.1 / 64 != core || x.1 % 64 == 0 || !x.2.goesOn) then s.modCore core (fun c => { c with shapes := [] }) else s

/-- Whether a context stands within an instruction that has done a part of its work: a chain that waits for its left neighbour (R201), a
re-homing that waits for its notices (R196), or a vector access with lanes left (R112). It is at no instruction boundary (R115, R160, R348). Stores of which none has been
made yet are taken back to the boundary before them (R322). -/
def Context.midway (c : Context) : Bool :=
  match c.wait with
  | none => false
  | some w => match w.kind with
    | .chain .. => true
    | .rehome _ => true
    | .lanes p => !p.back
    | _ => false

/-- The accesses that a context stands in the middle of (R112, R324). -/
def Context.plan (c : Context) : Option LanePlan :=
  match c.wait with
  | none => none
  | some w => match w.kind with
    | .lanes p => some p
    | _ => none

/-- A slot whose context has ended, keeping what R23 and R129 keep of it. -/
def Context.ended (c : Context) : Context :=
  { Context.reset c.mode with inc := c.inc, tags := c.tags, trapped := c.trapped, inTrap := c.inTrap }

/-- A region's logical time raised to that of a context of it that ends, and of its commands' writes (R371, R376). -/
def State.endTime (s : State) (c : Context) : State :=
  s.modRegion c.rgn (fun r => { r with lt := max r.lt (max c.lt c.cmdLt) })

/-- A context at an instruction boundary: of accesses of which none has been made it is at the one before them (R322). -/
def Context.takeBack (c : Context) : Context := if c.plan.any LanePlan.back then { c with wait := none } else c

/-- Whether a copy or attention command that a context has issued, named by its core, slot and incarnation, is under way (R238, R348). -/
def State.commandsOf (s : State) (core slot : Nat) (inc : BitVec 12) : Bool :=
  s.copies.any (fun x => x.2.core == core && x.2.slot == slot && x.2.inc == inc) ||
  s.attns.any (fun x => x.2.core == core && x.2.slot == slot && x.2.inc == inc)

/-- The context of a slot ended: the packets of its send queue are in the mesh, in order (R129, R133). -/
def State.endCtx (s : State) (k : Nat) : State :=
  let c := s.getCtx k
  ((s.endTime c).setCtx k c.ended).push c.sendq

/-- The supervisor of a die: the S context of its lowest-numbered core that is not sealed (R338). -/
def State.supervisor (s : State) (die : Nat) : Nat :=
  match (rangeFrom (die * 2048) 2048).find? (fun n => (s.getCore n).sealed.isNone) with
  | some n => n
  | none => die * 2048

/-- The U slots of a core that the state lists. -/
def State.slotsOf (s : State) (core : Nat) : List Nat :=
  (s.ctxs.filter (fun x => x.1 / 64 = core && x.1 % 64 != 0)).map (fun x => x.1 % 64)

/-- The slots that a region holds on cores other than one, and may still take, on qualifying cores in ascending order (R121, R341). -/
def qualifies (c : Core) (p : BitVec 32) : Bool := c.sealed.isNone && decide (partReg p + partAcc p ≤ c.usable)

/-- Slots of the region that a qualifying core may hold: u of R120. -/
def slotsPer (r : Region) : Nat := min r.ctx (residents r.part - 1)

/-- The qualifying cores of a region's budget, ascending (R120). -/
def State.qualifying (s : State) (r : Region) : List Nat :=
  (rangeFrom r.core0 r.ncore).filter (fun n => qualifies (s.getCore n) r.part)

/-- As many slots as a sealed core held are reserved on other cores of a co-resident region, or the region ends (R341). -/
def State.moveReserved (s : State) (rcb core : Nat) (r : Region) : State :=
  let lost := kgetD r.reserved core 0
  if r.colive = 0 ∨ lost = 0 then s else
  let u := slotsPer r
  let rest := kdel r.reserved core
  let go := (s.qualifying r).foldl (fun (acc : Nat × List (Nat × Nat)) n =>
    let have_ := kgetD acc.2 n 0
    let take := min acc.1 (u - have_)
    if take = 0 then acc else (acc.1 - take, kset acc.2 n (have_ + take))) (lost, rest)
  if go.1 = 0 then s.setRegion rcb { r with reserved := go.2 } else s.endRegion rcb 0x0C

/-- The error reply SEALED to a sender, from the endpoint that its packet was addressed to (R184), at a logical time past every store that the core's contexts have
performed (R337, step 2). -/
def sealedReply (own : BitVec 40) (rcb lt : Nat) (ep : BitVec 40) (tag : Byte) (rslot : BitVec 4) : Packet :=
  { net := .rpl, src := own, dst := ep, rcb := rcb, lt := lt,
    body := .error { hdr := header 2 tag 2 false rslot own, data := 0, pois := 0 } none }

/-- The error replies for the messages in the inbox of a context of a core whose senders await an answer (R337, step 2). -/
def State.sealedInbox (s : State) (core slot lt : Nat) : List Packet :=
  let c := s.getCtx (ctxKey core slot)
  c.inbox.flatMap (fun m =>
    if m.hdr.getLsbD 45 then
      [sealedReply (epAddr s.pkgNum core slot c.inc) c.rgn lt (m.hdr.extractLsb' 0 40) (m.hdr.extractLsb' 48 8) (m.hdr.extractLsb' 40 4)]
    else [])

/-- The logical time past every access of a core's contexts. -/
def State.coreTime (s : State) (core : Nat) : Nat :=
  (0 :: s.slotsOf core).foldl (fun (m : Nat) k => max m (s.getCtx (ctxKey core k)).lt) 0

/-- The slots of a core that run tasks of a region. -/
def State.tasksOf (s : State) (rcb core : Nat) : List Nat :=
  (s.slotsOf core).filter (fun k =>
    let c := s.getCtx (ctxKey core k)
    c.live && c.firing.isNone && c.rgn == rcb)

/-- The start copies of the running tasks of a region on a core that no `callat` has started, by ascending slot (R336): those of its contexts, and the retained
successor of a slot that waits for its tags (R126). -/
def State.startCopies (s : State) (rcb core : Nat) : List Task :=
  (s.slotsOf core).filterMap (fun k =>
    let c := s.getCtx (ctxKey core k)
    match c.slot with
    | .draining succ => if (s.getCore core).serving = some rcb then succ else none
    | _ => if c.live && c.firing.isNone && c.rgn == rcb && c.caller.isNone then some c.start else none)

/-- What a seal does to one region that has the core in its budget (R337, steps 2 and 5; R341): the callers of queued and of running tasks
get an error, the other running tasks are started again from the deque or the region ends, and its barriers and reserved slots are seen to. Tasks that steals
have brought and that have not begun go back to the deque (DESIGN CHOICE, log 49: the spec does not say where they are). -/
def State.sealRegion (s : State) (core lt : Nat) (rcb : Nat) (r : Region) : State :=
  let wk := s.getWork rcb core
  let tasks := s.tasksOf rcb core
  let callers := tasks.filterMap (fun k => (s.getCtx (ctxKey core k)).caller) ++ wk.taskq.filterMap (fun t => t.caller)
  let copies := s.startCopies rcb core
  let starts := if r.restart then copies.reverse else []
  let s1 := (s.modWork rcb core (fun w => { w with deque := starts ++ w.stolen ++ w.deque, taskq := [], stolen := [] })).push
    (callers.map (fun q => sealedReply (s.coreEp core) rcb lt q.ep q.tag q.rslot))
  let s2 := if !r.restart && !(tasks.isEmpty && copies.isEmpty) then s1.endRegion rcb 0x10 else s1
  let s3 := if r.barriers.any (fun b => b.2.members.contains core) then s2.endRegion rcb 0x10 else s2
  match s3.getRegion? rcb with
  | none => s3
  | some r' => s3.moveReserved rcb core r'

/-- The sealing of a core at its instant (R337, R341): its contexts stop, what waited for an answer from it gets an error, its running tasks are
restarted or their region ends, and the die supervisor is told. Its dealer's logical time is from now on past every store that they have
performed. -/
def State.sealNow (s : State) (core : Nat) : State :=
  let co := s.getCore core
  let slots := s.slotsOf core
  let lt := s.coreTime core
  let rcb := co.serving.getD 0
  let inboxes := (0 :: slots).flatMap (fun k => s.sealedInbox core k lt)
  let notice : Packet :=
    { net := .sys, src := s.coreEp core, dst := s.coreEp core, rcb := rcb, body := .sealNotice core }
  let mark : Seal := { kiln := co.kilns, taken := none, released := false, adopter := none }
  let s1 := { s with agents := kset s.agents core (max (kgetD s.agents core 0) lt) }.setCore core { co with
    sealing := false, sealed := some mark, l1 := [], icache := [], matq := [], spq := [], shapes := [] }
  let s2 := (s.regions.filter (fun x => x.2.running && x.2.cores.contains core)).foldl (fun (t : State) x =>
    match t.getRegion? x.1 with
    | none => t
    | some r => t.sealRegion core lt x.1 r) s1
  ((0 :: slots).foldl (fun (t : State) k => t.endCtx (ctxKey core k)) s2).push (inboxes ++ [notice])

/-- The key of a partial: the core that it is for, and the phase. -/
def partialKey (core : Nat) (ph : BitVec 32) : Nat := core * 2 ^ 32 + ph.toNat

/-- Whether a context is to complete the instruction that it stands within before its core is sealed or its region ends, as a request from outside is taken between
instructions alone (R25, R41). A chain without its left neighbour's partial is not (DESIGN CHOICE, log 22: the neighbour may never arrive, and R337 and R344 stop a core
or a region at once). -/
def State.completes (s : State) (k : Nat) (c : Context) : Bool :=
  match c.wait.map Wait.kind with
  | some (.chain b _ _ _ ph _) =>
    ((s.getRegion? c.rgn).bind (fun r => kget r.barriers b)).any (fun x => (kget x.partials (partialKey (k / 64) ph)).isSome)
  | _ => c.midway

/-- Whether a context of a core is to complete an instruction before the core is sealed (R25). -/
def State.completesOn (s : State) (core : Nat) : Bool := s.ctxs.any (fun x => x.1 / 64 == core && s.completes x.1 x.2)

/-- The sealing of a core (R337): what its units have accepted from firings is abandoned at once; what they have accepted from its other contexts retires first, and an
instruction that has done a part of its work is completed, while the core issues nothing else, as a containment request is taken only then (R25, R283, R413). -/
def State.seal (s : State) (core : Nat) : State :=
  let co := s.getCore core
  if co.sealed.isSome then s else
  let task (k : Nat) : Bool := (s.getCtx (ctxKey core k)).firing.isNone
  let mats := co.matq.filter (fun j => task j.slot)
  let sps := co.spq.filter (fun j => task j.slot)
  if mats.isEmpty && sps.isEmpty && !s.completesOn core then s.sealNow core
  else s.setCore core { co with sealing := true, matq := mats, spq := sps }

/-- Whether a core is sealed, or issues and starts nothing because it is to be. -/
def Core.shut (co : Core) : Bool := co.sealed.isSome || co.sealing

/-- Whether a core that is to be sealed is free of accepted members and of instructions to complete, so that its seal takes place. -/
def State.sealDue (s : State) (core : Nat) : Bool :=
  (s.getCore core).sealing && (s.getCore core).matq.isEmpty && (s.getCore core).spq.isEmpty && !s.completesOn core

/-! ### Traps -/

/-- The word of the running instruction as a trap value (R20). -/
def State.wordValue (s : State) : Dword := BitVec.setWidth 64 s.grp.word

/-- PFX for a group (R42). -/
def pfxOf (g : Group) : Dword :=
  BitVec.ofNat 64 (g.len % 16 * 16 + (if g.hint then 8 else 0) + (if g.mod.isSome then 4 else 0) + min g.nimm 2)

/-- The entry of a trap into the S context of a core (R22, R42, R415); the context's logical time has gained a tick each 16 cycles (R221). -/
def State.enterS (s : State) (core slot : Nat) (e : TrapEntry) : State :=
  s.modCtx (ctxKey core 0) (fun c =>
    { c with
      pc := c.cr.stvec
      wait := none
      lt := max c.lt (s.cycle / 16)
      slot := (match c.slot with | .issuing => .issuing | .waking d => .waking d | _ => .parkedReady)
      twin := e.twin
      cr := { c.cr with
        scause := BitVec.ofNat 64 e.cause.toNat
        spc := codeAddr e.addr
        sval := e.value
        sstat := (c.cr.sstat &&& 0x100) ||| 0x1_0000 ||| (if e.mode = .super then 0x40 else 0) ||| BitVec.ofNat 64 (slot % 64)
        region := e.region
        ptroot := e.ptroot
        asid := e.asid
        pfx := e.pfx } })

/-- Whether a delegated trap is taken (R22, R346); DELEG has no bits but those of R18. -/
def Context.delegates (c : Context) (cause : Byte) : Bool :=
  c.mode == .user && (c.cr.deleg &&& CReg.deleg.rwMask).getLsbD cause.toNat && c.cr.utvec != 0 && !c.cr.ucause.getLsbD 63

/-- What the S context is told of a trap of this context. -/
def Context.trapEntry (c : Context) (cause : Byte) (value addr pfx : Dword) : TrapEntry :=
  { cause := cause, value := value, addr := addr, pfx := pfx, mode := c.mode, region := c.cr.region, twin := c.twin, ptroot := c.cr.ptroot,
    asid := c.cr.asid }

/-- Whether the S context of a core takes a new trap at once (R22, R23): it handles none, it stands at an instruction boundary, and no other context's trap
waits for it, which would be taken first. -/
def State.takesTrap (s : State) (core : Nat) : Bool :=
  let c := s.getCtx (ctxKey core 0)
  !c.cr.sstat.getLsbD 16 && !c.midway && s.ctxs.all (fun x => x.1 / 64 != core || x.2.trapped.isNone)

/-- A trap into the S context, or a wait for it (R22, R23). -/
def State.trapToS (s : State) (k : Nat) (e : TrapEntry) : State :=
  if s.takesTrap (k / 64) then (s.modCtx k (fun c => { c with inTrap := true, wait := none })).enterS (k / 64) (k % 64) e
  else s.modCtx k (fun c => { c with trapped := some e, wait := none })

/-- Taking a trap of a context (R22): delegated to its own handler, into the S context, into a seal, or into a wait for the S
context. -/
def State.takeTrap (s : State) (k : Nat) (cause : Byte) (value addr pfx : Dword) : State :=
  let c := s.getCtx k
  let core := k / 64
  if c.delegates cause then
    s.setCtx k { c with
      pc := c.cr.utvec
      wait := none
      cr := { c.cr with
        ucause := 0x8000_0000_0000_0000 ||| BitVec.ofNat 64 cause.toNat
        upc := codeAddr addr
        uval := value
        pfx := pfx } }
  else if k % 64 ≠ 0 then s.trapToS k (c.trapEntry cause value addr pfx)
  else if c.cr.sstat.getLsbD 16 then s.seal core
  else s.enterS core 0 (c.trapEntry cause value addr pfx)

/-- The seals whose notice an S context returns from are released (R340). -/
def releaseSeals (core : Nat) (cores : List (Nat × Core)) : List (Nat × Core) :=
  cores.map (fun x => (x.1, { x.2 with sealed := x.2.sealed.map (fun q =>
    if q.taken = some core then { q with taken := none, released := true } else q) }))

/-- The return of `eret` in the S context (R24, R92, R173): the trapping context goes on at SPC, unless it has been squashed; from a notice
the seal is released (R340). The S context is parked again unless firmware has work for it (R116). -/
def State.eretS (s : State) : State :=
  let c := s.cx
  let t := (c.cr.sstat.extractLsb' 0 6).toNat
  let spc := c.cr.spc
  let s0 := { s with cores := releaseSeals s.coreNum s.cores }
  let s1 := s0.modCx (fun c => { c with cr := { c.cr with sstat := c.cr.sstat &&& ~~~0x1_0000 } })
  let park (x : Context) : Context := if s.co.supWork then x else { x with slot := .parkedWaiting }
  if t = s.slotNum then (s1.goto spc).modCx park
  else
    let s2 := s1.modCtx (ctxKey s.coreNum t) (fun x =>
      if x.live then { x with inTrap := false, pc := spc } else { x with inTrap := false })
    s2.retire.modCx park

/-- The return of `eret` in a delegated handler (R24, R347). -/
def State.eretU (s : State) : State :=
  (s.modCx (fun c => { c with cr := { c.cr with ucause := c.cr.ucause &&& ~~~0x8000_0000_0000_0000 } })).goto s.cx.cr.upc

/-! ### Instructions as computations -/

/-- A computation over the state that may stop: the meaning of an instruction before its stop is taken. -/
abbrev Exec := ExceptT Stop (StateM State)

/-- The computation stops with a trap (R20). -/
def trapWith {α : Type} (cause : Byte) (v : Dword) : Exec α := throw (.trap cause v)

/-- Stop unless a condition holds. -/
def guardTrap (ok : Bool) (cause : Byte) (v : Dword) : Exec Unit := if ok then pure () else trapWith cause v

/-- The trap POISON if a condition holds; the value is CHKINT at the trap (R76, R342), filled in when the trap is taken. -/
def guardPoison (bad : Bool) : Exec Unit := if bad then trapWith 0x0F 0 else pure ()

/-- The next free value to draw (log 1). -/
def draw : Exec Nat := do
  let s ← get
  set { s with fresh := s.fresh + 1 }
  return s.fresh

/-- The causes of R20. -/
def cILL : Byte := 0x01
def cPRIV : Byte := 0x02
def cALIGN : Byte := 0x03
def cPAGE : Byte := 0x04
def cACCESS : Byte := 0x05
def cSQFULL : Byte := 0x06
def cDESC : Byte := 0x07
def cSHAPE : Byte := 0x08
def cTAGERR : Byte := 0x09
def cTIMEDWR : Byte := 0x0A
def cCAUSAL : Byte := 0x0B
def cRESOURCE : Byte := 0x0C
def cBRK : Byte := 0x0D
def cSYSCALL : Byte := 0x0E
def cPOISON : Byte := 0x0F

/-- The running context, as a computation. -/
def cx : Exec Context := do return (← get).cx

/-- The running context changed. -/
def modCx (f : Context → Context) : Exec Unit := modify (fun s => s.modCx f)

/-- Whether a firing runs (R151). -/
def Context.timed (c : Context) : Bool := c.firing.isSome

end Sys2Proof.Machine
end

