-- ==== Sys2Proof/Machine/Lines.lean ====
section
/-! DEFINITION. Lines of memory (spec 10 R211, R221, R231; 11 R240, R241): the value that coherent accesses see, device memory
behind it, poison and timestamps; the accesses that hardware makes by physical address; and the register image (19 R351). -/

namespace Sys2Proof.Machine

/-- The line of a physical address. -/
def lineOf (pa : Nat) : Nat := pa / 64

/-- The 64 bytes of a line as coherent accesses see them. -/
def State.lineData (s : State) (line : Nat) : VReg := BitVec.ofNat 512 (s.mem.read (64 * line) 64)
def State.linePois (s : State) (line : Nat) : Bool := s.poison.contains line

/-- A line's poison bit set to a value. -/
def setPois (l : List Nat) (line : Nat) (b : Bool) : List Nat := if b then nadd l line else ndel l line

/-- Write time and lease end of a line (R221). -/
def State.lease (s : State) (line : Nat) : Nat × Nat := kgetD s.leases line (0, 0)

/-- A copy in the slice that is older than device memory may be gone by now; then the line's value is device memory's (R211,
log 5). -/
def State.settle (s : State) (line : Nat) : State :=
  match kget s.behind line with
  | none => s
  | some b =>
    if b.dirty then s
    else if Config.cached s.fresh then { s with fresh := s.fresh + 1 }
    else { s with fresh := s.fresh + 1, behind := kdel s.behind line, mem := s.mem.write (64 * line) 64 b.data.toNat,
                  poison := setPois s.poison line b.pois }

/-- A copy in the slice that leaves it: a newer one is written to device memory, an older one gives way to it (R211). -/
def State.dropBehind (s : State) (line : Nat) : State :=
  match kget s.behind line with
  | none => s
  | some b =>
    if b.dirty then { s with behind := kdel s.behind line }
    else { s with behind := kdel s.behind line, mem := s.mem.write (64 * line) 64 b.data.toNat, poison := setPois s.poison line b.pois }

/-- The die and the slice that home a line of device memory (R213, R214). -/
def sliceOf (local_ : Bool) (pa : Nat) : Nat :=
  let o := pa % 2 ^ 40
  let die := if local_ then o / 2 ^ 37 else o / 2 ^ 11 % 8
  let z := if local_ then o / 64 % 2 ^ 31 else (o / 2 ^ 14) * 2 ^ 5 + o / 64 % 32
  let h := (z % 512) ^^^ (z / 2 ^ 9 % 512) ^^^ (z / 2 ^ 18 % 512) ^^^ (z / 2 ^ 27 % 16)
  die * 512 + h

/-- The slice that homes a line: the lines of a slice-affine page all lie in that of its first byte (R214, R215). -/
def State.sliceOfLine (s : State) (line : Nat) : Nat :=
  match s.affine.find? (fun x => decide (x.1 ≤ 64 * line) && decide (64 * line < x.1 + x.2)) with
  | some x => sliceOf s.localHoming x.1
  | none => sliceOf s.localHoming (64 * line)

/-- A slice that holds as many lines as it can gives up another line for a new one, a free one of them (R211). The slice is bounded as a whole and not by
the 16 ways of a set (DESIGN CHOICE, log 49: the spec gives no set index). -/
def State.trimSlice (s : State) (line : Nat) : State :=
  let l := s.behind.filter (fun x => x.1 != line && s.sliceOfLine x.1 == s.sliceOfLine line)
  if l.length < Config.sliceLines then s
  else match l.drop (Config.choose s.fresh % l.length) with
    | [] => s
    | x :: _ => { s with fresh := s.fresh + 1 }.dropBehind x.1

/-- The poison of a line after a store of `n` bytes: set by poisoned data, cleared by a whole line of other data (R231). -/
def poisAfter (old : Bool) (n : Nat) (p : Bool) : Bool := if p then true else if n = 64 then false else old

/-- `n` bytes stored at a physical address within one line: the value that coherent accesses see, with device memory left behind
unless the page is write-through (R211, R217, R231). -/
def State.storeLine (s : State) (pa n v : Nat) (p wt : Bool) : State :=
  let line := lineOf pa
  let s1 := s.settle line
  let was : Behind := (kget s1.behind line).getD { data := s1.lineData line, pois := s1.linePois line, dirty := true }
  let s2 := { s1 with mem := s1.mem.write pa n v, poison := setPois s1.poison line (poisAfter (s1.linePois line) n p) }
  if wt then { s2 with behind := kdel s2.behind line }
  else if s2.lineData line = was.data ∧ s2.linePois line = was.pois then { s2 with behind := kdel s2.behind line }
  else { s2 with behind := kset s2.behind line { was with dirty := true } }.trimSlice line

/-- The slice writes the line to device memory if it holds newer data (R240). -/
def State.writeBack (s : State) (line : Nat) : State :=
  match kget s.behind line with
  | none => s
  | some b => if b.dirty then { s with behind := kdel s.behind line } else s

/-- The slice may have written a newer line back of its own accord by now (R211, log 5). -/
def State.maybeWriteBack (s : State) (line : Nat) : State :=
  match kget s.behind line with
  | none => s
  | some b =>
    if !b.dirty then s
    else if Config.cached s.fresh then { s with fresh := s.fresh + 1 }
    else { s with fresh := s.fresh + 1, behind := kdel s.behind line }

/-- Device memory's own bytes of a line, as an access that bypasses the slices sees them. -/
def State.deviceLine (s : State) (line : Nat) : VReg × Bool :=
  match kget s.behind line with
  | none => (s.lineData line, s.linePois line)
  | some b => (b.data, b.pois)

/-- `n` bytes out of a line from an offset. -/
def lineBytes (d : VReg) (off n : Nat) : Nat := d.toNat / 2 ^ (8 * off) % 2 ^ (8 * n)

/-- What a lane of a store under way stores, with its poison: its bytes of the source, or the value of its own (R112, R298, R324). -/
def LanePlan.value (p : LanePlan) (i : Nat) : Nat × Bool := (kget p.vals i).getD (lineBytes p.acc (p.bytes * i) p.bytes, p.pois)

/-- A line with `n` bytes replaced from an offset. -/
def lineWith (d : VReg) (off n v : Nat) : VReg :=
  let lo := d.toNat % 2 ^ (8 * off)
  let hi := d.toNat / 2 ^ (8 * (off + n))
  BitVec.ofNat 512 (lo + (v % 2 ^ (8 * n)) * 2 ^ (8 * off) + hi * 2 ^ (8 * (off + n)))

/-! ### Memory keys (R217, R229) -/

/-- The memory key under which the bytes of a line were stored. -/
def State.keyOf (s : State) (line : Nat) : Nat := kgetD s.enc line 0

/-- The cipher key of a memory key identifier, which firmware derives from the device secret (R407). -/
def memoryCipher (key : Nat) : BitVec 256 := Config.cipherKey Config.deviceSecret key

/-- Bytes of a line that were stored under one memory key, as they are deciphered under another. -/
def reciphered (own key line : Nat) (d : VReg) : VReg :=
  if own = key then d else Config.recipher (memoryCipher own) (memoryCipher key) line d

/-- A line's bytes as they are deciphered under a key. -/
def State.seen (s : State) (line key : Nat) (d : VReg) : VReg := reciphered (s.keyOf line) key line d

/-- A line whose bytes are held from now on under a key, as a store through that key leaves it. -/
def State.rekey (s : State) (line key : Nat) : State :=
  if s.keyOf line = key then s
  else { s with
    mem := s.mem.write (64 * line) 64 (s.seen line key (s.lineData line)).toNat
    behind := s.behind.map (fun x => if x.1 = line then (x.1, { x.2 with data := s.seen line key x.2.data }) else x)
    enc := if key = 0 then kdel s.enc line else kset s.enc line key }

/-- A write of device memory that does not pass the slices (R228, R381): a copy in the slice stays as it was. -/
def State.storeDeviceMem (s : State) (pa n v : Nat) (p : Bool) : State :=
  let line := lineOf pa
  let s1 := s.maybeWriteBack line
  let b := (kget s1.behind line).getD { data := s1.lineData line, pois := s1.linePois line, dirty := false }
  let b' := { b with data := lineWith b.data (pa % 64) n v, pois := poisAfter b.pois n p }
  if b'.data = s1.lineData line ∧ b'.pois = s1.linePois line then { s1 with behind := kdel s1.behind line }
  else { s1 with behind := kset s1.behind line b' }.trimSlice line

/-- A read of device memory that does not pass the slices. -/
def State.loadDeviceMem (s : State) (pa n : Nat) : (Nat × Bool) × State :=
  let s1 := s.maybeWriteBack (lineOf pa)
  let d := s1.deviceLine (lineOf pa)
  ((lineBytes d.1 (pa % 64) n, d.2), s1)

/-- A dword in memory by physical address, for tables and descriptors that the hardware reads. -/
def State.dwordAt (s : State) (pa : Nat) : Dword := BitVec.ofNat 64 (s.mem.read pa 8)

/-! ### The register image (R351) -/

/-- The control registers of the image, in its order. -/
def imageCRs : List CReg :=
  [.fpm, .chkint, .sqlim, .utvec, .ucause, .upc, .uval, .lcnt, .lstart, .lend, .suit, .kwin, .cbtl, .cbth, .spbase, .spadj,
   .spstat, .rngk, .rngc, .sampctx, .lmap, .deleg]

/-- A control register of the context itself; the registers of the image are all such. -/
def Context.cr1 (c : Context) (n : CReg) : Dword :=
  match n with
  | .fpm => c.cr.fpm | .chkint => c.cr.chkint | .sqlim => c.cr.sqlim | .utvec => c.cr.utvec | .ucause => c.cr.ucause
  | .upc => c.cr.upc | .uval => c.cr.uval | .lcnt => c.cr.lcnt | .lstart => c.cr.lstart | .lend => c.cr.lend
  | .suit => c.cr.suit | .kwin => c.cr.kwin | .cbtl => c.cr.cbtl | .cbth => c.cr.cbth | .spbase => c.cr.spbase
  | .spadj => c.cr.spadj | .spstat => c.cr.spstat | .rngk => c.cr.rngk | .rngc => c.cr.rngc | .sampctx => c.cr.sampctx
  | .lmap => c.cr.lmap | .deleg => c.cr.deleg
  | _ => 0

/-- The dword of a register image at an offset below 2,560 that is a multiple of 8. -/
def Context.imageDword (c : Context) (off : Nat) : Dword :=
  if off < 0x100 then c.s (BitVec.ofNat 5 (off / 8))
  else if off < 0x900 then (c.v (BitVec.ofNat 5 ((off - 0x100) / 64))).extractLsb' (off % 64 * 8) 64
  else if off < 0x940 then c.p (BitVec.ofNat 3 ((off - 0x900) / 8))
  else if off = 0x940 then c.vpois ++ c.spois
  else if off = 0x948 then c.pc
  else c.cr1 (imageCRs.getD ((off - 0x950) / 8) .core)

/-- A register image with one dword replaced; read-only fields and reserved bits keep their rules (R357). -/
def Context.setImageDword (c : Context) (off : Nat) (x : Dword) : Context :=
  if off < 0x100 then
    let r : Reg := BitVec.ofNat 5 (off / 8)
    c.setS r x (c.sp r)
  else if off < 0x900 then
    let r : Reg := BitVec.ofNat 5 ((off - 0x100) / 64)
    { c with vregs := c.vregs.set r.toNat (lineWith (c.v r) (off % 64) 8 x.toNat) r.isLt }
  else if off < 0x940 then c.setP (BitVec.ofNat 3 ((off - 0x900) / 8)) x
  else if off = 0x940 then { c with vpois := x.extractLsb' 32 32, spois := x.extractLsb' 0 32 &&& ~~~1 }
  else if off = 0x948 then { c with pc := codeAddr x }
  else
    let n := imageCRs.getD ((off - 0x950) / 8) .core
    match n with
    | .chkint => { c with cr := { c.cr with chkint := x &&& 7 } }
    | _ => c.crSet n (crNew n .w (c.cr1 n) x)

/-- Whether a context is stopped for a trap or by a debugger (R357). -/
def Context.stoppedOut (c : Context) : Bool := c.inTrap || c.trapped.isSome || c.halted

/-- Whether the granule that holds a byte of a slot's image is gated (R126, R357). -/
def Core.imageGated (c : Core) (slot off : Nat) : Bool := c.gated.contains ((Config.imageBytes * slot + off) / Config.granule)

/-- What a read of the context window answers, and whether the granule was gated (R357). -/
def State.windowDword (s : State) (core slot off : Nat) : Dword × Bool :=
  if (s.getCore core).imageGated slot off then (0, true)
  else ((s.getCtx (ctxKey core slot)).imageDword off, false)

/-- A write through the context window: it takes effect in a stopped context alone (R357), and not in one that a debugger has halted within an instruction, which it has still to
complete; the answer says whether the granule was gated. -/
def State.windowStore (s : State) (core slot off : Nat) (x : Dword) : Bool × State :=
  if (s.getCore core).imageGated slot off then (true, s)
  else
    let c := s.getCtx (ctxKey core slot)
    if c.stoppedOut && !c.midway then (false, s.setCtx (ctxKey core slot) (c.setImageDword off x)) else (false, s)

end Sys2Proof.Machine
end

