-- ==== Sys2Proof/Machine/Plane.lean ====
section
/-! DEFINITION. The switch planes and their directory (spec 22 R386 to R394): the plane map, the transitions of a line's entry, the remote
horizon, and what an access of this package needs of a plane. -/

namespace Sys2Proof.Machine

/-! ### Routes (R386 to R388) -/

/-- The package that homes a line (R212). -/
def homePkg (line : Nat) : Nat := line / 2 ^ 38

/-- The primary plane of a line (R387). -/
def planeHash (line : Nat) : Nat :=
  (line % 16) ^^^ (line / 2 ^ 8 % 16) ^^^ (line / 2 ^ 16 % 16) ^^^ (line / 2 ^ 24 % 16) ^^^ (line / 2 ^ 32 % 16) ^^^ (line / 2 ^ 40 % 16)

/-- The planes that have not failed, ascending (R388). -/
def Domain.live (d : Domain) : List Nat := (rangeFrom 0 Config.planes).filter (fun p => !d.deadPlanes.contains p)

/-- The plane that the plane map gives for a value, where `k` selects among the live planes (R388). -/
def Domain.mapped (d : Domain) (v k : Nat) : Nat :=
  if d.deadPlanes.contains v then d.live.getD (k % d.live.length) 0 else v

/-- The plane of a line, and that of the packets between two cores (R386 to R388). -/
def Domain.planeOf (d : Domain) (line : Nat) : Nat := d.mapped (planeHash line) (line / 16 % 2 ^ 16)
def Domain.route (d : Domain) (c c' : Nat) : Nat := d.mapped ((c + c') % 16) (c + c')

/-! ### Copies and the remote horizon (R389, R390, R392) -/

def State.modDom (s : State) (f : Domain → Domain) : State := { s with dom := f s.dom }

/-- The copy that a package records of a line. -/
def State.copyOf (s : State) (pkg line : Nat) : Option CopyState := kget (kgetD s.dom.copies pkg []) line

/-- A package's record of a line set. -/
def State.setCopy (s : State) (pkg line : Nat) (c : Option CopyState) : State :=
  let l := kgetD s.dom.copies pkg []
  s.modDom (fun d => { d with copies := kset d.copies pkg (match c with | none => kdel l line | some x => kset l line x) })

/-- The bits X and D of a line at its home (R389). -/
def State.setX (s : State) (line : Nat) (b : Bool) : State := s.modDom (fun d => { d with exported := setPois d.exported line b })
def State.setD (s : State) (line : Nat) (b : Bool) : State := s.modDom (fun d => { d with homeStale := setPois d.homeStale line b })

/-- A line's entry set or freed. Where another package, or the home, may write the line from now on without this package's hearing of it, its
bytes here are no longer known to be current. -/
def State.setDir (s : State) (line : Nat) (st : DirState) (o : Nat) (sharers : List Nat) : State :=
  let last := s.dom.dir.foldl (fun m x => max m x.2.used) 0
  s.modDom (fun d => { d with
    dir := kset d.dir line { state := st, owner := o, sharers := sharers, used := last + 1 }
    known := if st = .shared ∨ o = s.pkgNum then d.known else ndel d.known line })
def State.freeDir (s : State) (line : Nat) : State :=
  s.modDom (fun d => { d with dir := kdel d.dir line, known := ndel d.known line })

/-- RH raised past the lease of a line, when this package gives up or exposes a copy (R392). -/
def State.raiseRH (s : State) (pkg line : Nat) : State :=
  if pkg = s.pkgNum then s.modDom (fun d => { d with rh := kset d.rh pkg (max (kgetD d.rh pkg 0) ((s.lease line).2 + 1)) }) else s

/-- A package drops its copy (R392). -/
def State.giveUp (s : State) (line pkg : Nat) : State :=
  match s.copyOf pkg line with
  | none => s
  | some _ => (s.raiseRH pkg line).setCopy pkg line none

/-- A line with given bytes arrives at a slice of this package (R392). -/
def State.arrive (s : State) (line : Nat) (data : VReg) (pois : Bool) : State :=
  let t := max ((s.lease line).2 + 1) (kgetD s.dom.rh s.pkgNum 0 + 1)
  { s.storeLine (64 * line) 64 data.toNat pois false with leases := kset s.leases line (t, t) }

/-- The same with the bytes that another package supplies (log 9). -/
def State.arriveFree (s : State) (line : Nat) : State :=
  { s with fresh := s.fresh + 1 }.arrive line (Config.remoteLine s.fresh) (Config.remotePois s.fresh)

/-- A package receives a copy: where it is this one, the bytes come from outside, unless nobody can have written the line since this package
held it last (R393). -/
def State.receive (s : State) (line pkg : Nat) : State :=
  if pkg = s.pkgNum then
    (if s.dom.known.contains line then s.arrive line (s.lineData line) (s.linePois line) else s.arriveFree line).modDom
      (fun d => { d with known := nadd d.known line })
  else s

/-- The owner's bytes arrive at the line's home: where that is this package, they come from outside, or are the home's own where the owner has
not written the line (R391, R392). -/
def State.writtenHome (s : State) (line : Nat) (dirty : Bool) : State :=
  if homePkg line ≠ s.pkgNum then s
  else if dirty then s.arriveFree line
  else s.arrive line (s.lineData line) (s.linePois line)

/-- Whether the owner in E has written the line (R390). -/
def State.wrote (s : State) (line o : Nat) : Bool × State :=
  if o = s.pkgNum then (s.copyOf o line == some .m, s)
  else (Config.remoteWrote s.fresh, { s with fresh := s.fresh + 1 })

/-- Whether the owner that an entry names holds newer bytes than the home. -/
def State.ownerDirty (s : State) (line : Nat) (e : DirEntry) : Bool × State :=
  match e.state with
  | .shared => (false, s)
  | .exclusive => s.wrote line e.owner
  | .modified => (true, s)
  | .owned => (true, s)

/-- The packages that an entry names. -/
def DirEntry.holders (e : DirEntry) : List Nat :=
  match e.state with
  | .shared => e.sharers
  | .exclusive => [e.owner]
  | .modified => [e.owner]
  | .owned => e.owner :: e.sharers

/-! ### Recall (R394) -/

/-- Every copy of a line released, a dirty one with its bytes; the home clears X and D, and the entry is freed (R391, R394). -/
def State.recallLine (s : State) (line : Nat) (e : DirEntry) : State :=
  let d := s.ownerDirty line e
  let s1 := if d.1 && e.owner != s.pkgNum then d.2.writtenHome line true else d.2
  (((e.holders.foldl (fun (t : State) p => t.giveUp line p) s1).setX line false).setD line false).freeDir line

/-- The entries of the set in which a line's entry lies (R390). -/
def State.dirSet (s : State) (line : Nat) : List (Nat × DirEntry) :=
  s.dom.dir.filter (fun x => s.dom.planeOf x.1 == s.dom.planeOf line && x.1 % Config.dirSets == line % Config.dirSets)

/-- The least recently used entry of a full set that must take a new line (R394). -/
def State.recallDue (s : State) (line : Nat) : Option (Nat × DirEntry) :=
  let l := s.dirSet line
  if (kget s.dom.dir line).isSome || l.length < Config.dirWays then none
  else match l with
    | [] => none
    | x :: xs => some (xs.foldl (fun a b => if b.2.used < a.2.used then b else a) x)

def State.makeRoom (s : State) (line : Nat) : State :=
  match s.recallDue line with
  | none => s
  | some x => s.recallLine x.1 x.2

/-! ### Requests (R391) -/

/-- A home grants an exclusive copy (R389, R391, R392). -/
def State.grantFromHome (s : State) (line r : Nat) (st : DirState) : State :=
  ((((s.makeRoom line).raiseRH (homePkg line) line).setX line true).setD line true).setDir line st r []

/-- GetS of a package for a line. -/
def State.getS (s : State) (line r : Nat) : State :=
  let h := homePkg line
  match kget s.dom.dir line with
  | none =>
    if r = h then s else ((s.grantFromHome line r .exclusive).setCopy r line (some .e)).receive line r
  | some e =>
    if e.state ≠ .shared ∧ r = e.owner then s
    else if r = h then
      match e.state with
      | .shared => s.setDir line .shared e.owner e.sharers
      | _ =>
        let d := s.ownerDirty line e
        let s1 := d.2.writtenHome line d.1
        ((s1.setCopy e.owner line (some .cleanS)).setD line false).setDir line .shared e.owner (nadd e.sharers e.owner)
    else if e.sharers.contains r then s
    else match e.state with
      | .shared => ((s.setCopy r line (some .cleanS)).setDir line .shared e.owner (nadd e.sharers r)).receive line r
      | .exclusive =>
        let d := s.wrote line e.owner
        if d.1 then
          (((d.2.setCopy e.owner line (some .o)).setCopy r line (some .ownerS)).setDir line .owned e.owner [r]).receive line r
        else
          (((d.2.setCopy e.owner line (some .cleanS)).setCopy r line (some .cleanS)).setDir line .shared e.owner
            (nadd [e.owner] r)).receive line r
      | .modified =>
        (((s.setCopy e.owner line (some .o)).setCopy r line (some .ownerS)).setDir line .owned e.owner [r]).receive line r
      | .owned => ((s.setCopy r line (some .ownerS)).setDir line .owned e.owner (nadd e.sharers r)).receive line r

/-- GetM of a package for a line. -/
def State.getM (s : State) (line r : Nat) : State :=
  let h := homePkg line
  match kget s.dom.dir line with
  | none =>
    if r = h then s else ((s.grantFromHome line r .modified).setCopy r line (some .m)).receive line r
  | some e =>
    if r = h then s.recallLine line e
    else
      let others := e.holders.filter (fun p => p != r)
      let had := (s.copyOf r line).isSome
      match e.state with
      | .shared =>
        let s1 := ((others.foldl (fun (t : State) p => t.giveUp line p) s).raiseRH h line).setD line true
        let s2 := (s1.setCopy r line (some .m)).setDir line .modified r []
        if had then s2 else s2.receive line r
      | st =>
        if r = e.owner ∧ st ≠ .owned then s
        else
          let s1 := others.foldl (fun (t : State) p => t.giveUp line p) s
          let s2 := (s1.setCopy r line (some .m)).setDir line .modified r []
          if r = e.owner then s2 else s2.receive line r

/-! ### Accesses of this package (R389 to R391) -/

/-- Whether an access of this package to a line must ask the line's plane for a copy. -/
def State.needsPlane (s : State) (line : Nat) (write : Bool) : Bool :=
  if homePkg line = s.pkgNum then s.dom.exported.contains line && (write || s.dom.homeStale.contains line)
  else match s.copyOf s.pkgNum line with
    | none => true
    | some .m => false
    | some .e => false
    | some _ => write

/-- A copy that suffices for an access, obtained where it is needed; a write to a line held in E makes it dirty without a request. -/
def State.fill (s : State) (line : Nat) (write : Bool) : State :=
  if s.needsPlane line write then (if write then s.getM line s.pkgNum else s.getS line s.pkgNum)
  else if write && homePkg line != s.pkgNum then s.setCopy s.pkgNum line (some .m)
  else s

/-- Whether a line is recovering from the loss of its plane (R396). -/
def State.recovering (s : State) (line : Nat) : Bool :=
  s.dom.recovery.any (fun r => s.dom.planeOf line == r.plane)

/-! ### Frames of a checkpoint image (R402) -/

/-- The frame of an address of this package's memory, if the image being streamed does not hold it yet: frames are taken in ascending order,
but those that stores wait for come first (R402). -/
def State.unstreamed (s : State) (next pa : Nat) : Option Nat :=
  let f := pa % 2 ^ 44 / 65536
  if homePkg (lineOf pa) = s.pkgNum && decide (next ≤ f) && !s.ckpt.taken.contains f then some f else none

/-- A frame of the image being streamed copied ahead of its turn. -/
def State.takeFrame (s : State) (f : Nat) : State :=
  let data := ((s.ckpt.pending.map Image.mem).getD []).filter (fun c => c.1 % 2 ^ 44 / 65536 == f)
  { s with outputs := s.outputs ++ [.frame f data], ckpt := { s.ckpt with taken := nadd s.ckpt.taken f } }

/-- Before a store of the hardware to a frame not yet streamed, the engine copies that frame (R402). -/
def State.frameFirst (s : State) (pa : Nat) : State :=
  match s.ckpt.step with
  | .stream next => (match s.unstreamed next pa with | some f => s.takeFrame f | none => s)
  | _ => s

/-! ### Accesses of the hardware by physical address -/

/-- Whether a lost plane holds up an access to a line (R396). -/
def State.heldUp (s : State) (line : Nat) (write : Bool) : Bool := s.recovering line && s.needsPlane line write

/-! Writes of engines before their place (R227) -/

/-- Whether a core lies within a scope of a context of another (R227). -/
def inScope (sc : Scope) (own core : Nat) : Bool :=
  match sc with
  | .ctx => own == core
  | .core => own == core
  | .die => dieOf own == dieOf core
  | .pkg => true
  | .dom => true
  | .sys => true

/-- A line with the bytes of a mask replaced. -/
def maskLine (old new : VReg) (mask : BitVec 64) : VReg :=
  let m : VReg := BitVec.ofNat 512 ((rangeFrom 0 64).foldr (fun i (n : Nat) => n * 256 + if mask.getLsbD i then 255 else 0) 0)
  (old &&& ~~~m) ||| (new &&& m)

/-- The poison of a line after some of its bytes have been written (R231). -/
def maskPoison (old new : Bool) (mask : BitVec 64) : Bool := if new then true else if mask = BitVec.allOnes 64 then false else old

/-- Whether a write that has not reached its place is one of a command of a context (R227). -/
def Early.of (e : Early) (k : Nat) (c : Context) : Bool := e.ctx == k && e.inc == c.inc

/-- Whether the release of a write that has not reached its place lets a core, by its number, or another agent see it: those outside the cores are covered at scope sys alone
(R227, R381, R382). -/
def Early.reaches (e : Early) (core : Nat) : Bool :=
  match e.scope with
  | none => false
  | some .ctx => false
  | some sc => inScope sc (e.ctx / 64) core && (decide (core < 16384) || sc == .sys)

/-- Whether a context sees a write that has not reached its place: its issuer does, and every context within the scope of its release. -/
def State.seesEarly (s : State) (k : Nat) (e : Early) : Bool := e.of k (s.getCtx k) || e.reaches (k / 64)

/-- The contexts that have seen a write that has not reached its place: its issuer, and those that have read it or written over it. -/
def Early.watchers (e : Early) : List Nat := ctxTag e.ctx e.inc :: e.observed.map (fun x => x.1)

/-- Whether a context has seen a write that has not reached its place. -/
def Early.seenBy (e : Early) (tag : Nat) : Bool := e.observed.any (fun x => x.1 == tag)

/-- Whether two writes to one line have a context that has seen both, so that their places keep the order in which they stand. -/
def Early.ordered (e f : Early) : Bool := f.line == e.line && e.watchers.any f.watchers.contains

/-- A line, deciphered under a key, with the early writes that a condition picks, oldest first. -/
def State.overlaidBy (s : State) (pick : Early → Bool) (line key : Nat) (d : VReg × Bool) : VReg × Bool :=
  (s.early.filter (fun e => e.line == line && pick e)).foldl
    (fun (x : VReg × Bool) e => (maskLine x.1 (reciphered e.key key line e.data) e.mask, maskPoison x.2 e.pois e.mask)) d

/-- A line, deciphered under a key, as a context sees it. -/
def State.overlaid (s : State) (k line key : Nat) (d : VReg × Bool) : VReg × Bool := s.overlaidBy (s.seesEarly k) line key d

/-- A context, by its tag, has read a line, or writes to it, and so has seen the early writes to it that a condition picks. -/
def State.observeBy (s : State) (tag : Nat) (pick : Early → Bool) (line : Nat) : State :=
  if s.early.isEmpty then s
  else { s with early := s.early.map (fun e =>
      if e.line == line && pick e && !e.seenBy tag then { e with observed := kset e.observed tag false } else e) }

/-- The same of a context that holds its slot, and of the writes that it sees. -/
def State.observe (s : State) (k line : Nat) : State := s.observeBy (ctxTag k (s.getCtx k).inc) (s.seesEarly k) line

/-- The place of a command's access noted: with its issuer, whose fences order its later accesses behind it (R238), and with its region (R376). -/
def State.noteTime (s : State) (ctx : Nat) (inc : BitVec 12) (rcb t : Nat) : State :=
  (s.modCtx ctx (fun c => if c.inc = inc then { c with cmdLt := max c.cmdLt t } else c)).modRegion rcb (fun r => { r with lt := max r.lt t })

/-- A write of an engine at its place in the single order: a store at the line's home, no earlier than its command's accesses may be (R227). The copies in
the L1s of observers that have seen it already are gone. -/
def State.placeWrite (s0 : State) (e : Early) : State :=
  let s := ((s0.frameFirst (64 * e.line)).fill e.line true).rekey e.line e.key
  let t := max e.lt ((s.lease e.line).2 + 1)
  let s1 := s.storeLine (64 * e.line) 64 (maskLine (s.lineData e.line) e.data e.mask).toNat
    (maskPoison (s.linePois e.line) e.pois e.mask) e.wt
  State.noteTime { s1 with
    leases := kset s1.leases e.line (t, t)
    cores := s1.cores.map (fun x =>
      if inScope (e.scope.getD .core) (e.ctx / 64) x.1 then (x.1, { x.2 with l1 := x.2.l1.filter (fun c => c.line != e.line) }) else x) }
    e.ctx e.inc e.rcb t

/-- The early writes that a condition picks, with those before them whose places must come first (R227). -/
def dueEarly (pick : Early → Bool) : List Early → List Early
  | [] => []
  | e :: es =>
    let later := dueEarly pick es
    if pick e || later.any e.ordered then e :: later else later

/-- The writes that a condition picks take their places, oldest first, but for those that a lost plane holds up (R396). -/
def State.placeThose (s : State) (pick : Early → Bool) : State :=
  let l := dueEarly (fun e => pick e && !s.heldUp e.line true) s.early
  l.foldl State.placeWrite { s with early := s.early.filter (fun e => !l.contains e) }

/-- Before an access of a core's hardware its line takes the writes that are visible there, so that the access follows them (R227). -/
def State.placeFor (s : State) (core line : Nat) : State :=
  if s.early.isEmpty then s else s.placeThose (fun e => e.line == line && e.reaches core)

/-- Before a store of a context its line takes the writes that the context sees, so that the store follows them (R227). -/
def State.placeSeen (s : State) (k line : Nat) : State :=
  if s.early.isEmpty then s else s.placeThose (fun e => e.line == line && s.seesEarly k e)

/-- The logical time of an agent that is no context: the dealer of a core by the core's number, the front complex, firmware and the
outside by the numbers above (R221, R222). -/
def State.agentTime (s : State) (ag : Nat) : Nat := kgetD s.agents ag 0

/-- An agent's logical time raised. -/
def State.raiseAgent (s : State) (ag t : Nat) : State :=
  if t ≤ s.agentTime ag then s else { s with agents := kset s.agents ag t }

/-- A coherent read by the hardware itself (the dealer, a front core, an engine) within one line, at its home slice (R221, R222). One that a
lost plane holds up marks its step. -/
def State.hwLoad (s0 : State) (ag pa n : Nat) : (Nat × Bool) × State :=
  let line := lineOf pa
  if s0.heldUp line false then ((s0.mem.read pa n, s0.linePois line), { s0 with stalled := true })
  else
    let s := ((s0.placeFor ag line).fill line false).settle line
    let le := s.lease line
    let t := max (s.agentTime ag) le.1
    ((s.mem.read pa n, s.linePois line), { s.raiseAgent ag t with leases := kset s.leases line (le.1, max le.2 (t + 255)) })

/-- A coherent store by the hardware itself within one line, with the timestamps of a store (R221), through a mapping's memory key where it is made through
one. -/
def State.hwPut (s0 : State) (ag pa n v : Nat) (p wt : Bool) (key : Option Nat) : State :=
  let line := lineOf pa
  if s0.heldUp line true then { s0 with stalled := true }
  else
    let s1 := ((s0.placeFor ag line).frameFirst pa).fill line true
    let s := s1.rekey line (key.getD (s1.keyOf line))
    let t := max (s.agentTime ag) ((s.lease line).2 + 1)
    { (s.storeLine pa n v p wt).raiseAgent ag t with leases := kset s.leases line (t, t) }
def State.hwStore (s : State) (ag pa n v : Nat) (p : Bool) : State := s.hwPut ag pa n v p false none

/-- Whose place in the single order a walk takes (R219, R222): an agent of the hardware by its number, a context by its key, or a command of an engine, whose
accesses follow one time (R227). -/
inductive Agent where
  | hw (n : Nat)
  | ctx (k : Nat)
  | since (t : Nat)
  deriving DecidableEq, Repr

/-- The logical time that an agent's next access follows. -/
def State.timeOf (s : State) (a : Agent) : Nat :=
  match a with
  | .hw n => s.agentTime n
  | .ctx k => (s.getCtx k).lt
  | .since t => t

/-- An agent's logical time raised; the accesses of a command are not ordered among themselves. -/
def State.raiseTime (s : State) (a : Agent) (t : Nat) : State :=
  match a with
  | .hw n => s.raiseAgent n t
  | .ctx k => if t ≤ (s.getCtx k).lt then s else s.modCtx k (fun c => { c with lt := t })
  | .since _ => s

/-- The early writes that an agent sees take their places before its read of their line. -/
def State.placeAgent (s : State) (a : Agent) (line : Nat) : State :=
  match a with
  | .hw n => s.placeFor n line
  | .ctx k => s.placeSeen k line
  | .since _ => s

/-- A walker's read of a table entry: a load of coherent memory in the single order, at the entry's home slice (R219, R222). -/
def State.walkLoad (s0 : State) (ag : Agent) (pa : Nat) : Dword × State :=
  let line := lineOf pa
  if s0.heldUp line false then (s0.dwordAt pa, { s0 with stalled := true })
  else
    let s := ((s0.placeAgent ag line).fill line false).settle line
    let le := s.lease line
    let t := max (s.timeOf ag) le.1
    (s.dwordAt pa, { s.raiseTime ag t with leases := kset s.leases line (le.1, max le.2 (t + 255)) })

/-- A coherent read by a command within one line, at its home slice, at or after a logical time (R221, R227). -/
def State.homeLoad (s0 : State) (t0 pa n : Nat) : (Nat × Bool) × State :=
  let line := lineOf pa
  if s0.heldUp line false then ((s0.mem.read pa n, s0.linePois line), { s0 with stalled := true })
  else
    let s := (s0.fill line false).settle line
    let le := s.lease line
    ((s.mem.read pa n, s.linePois line), { s with leases := kset s.leases line (le.1, max le.2 (max t0 le.1 + 255)) })

/-- The numbers of the agents that are no dealer: the front complex, a wedging engine, the outside with the application cores. -/
def agFront : Nat := 16384
def agWedge : Nat := 16385
def agOutside : Nat := 16386

end Sys2Proof.Machine
end

