-- ==== Sys2Proof/Machine/Device.lean ====
section
/-! DEFINITION. Device space (spec 21 R363): context windows (19 R356), doorbells (R365), the endpoint register block (R380) and
the windows of the root ports (R381). -/

namespace Sys2Proof.Machine

/-- Writes of the fields of a queue descriptor that only the front core writes (R364). -/
def State.putDesc (s : State) (q : Queue) (off : Nat) (v : Dword) : State := s.hwStore agFront (q.desc + off) 8 v.toNat false

/-- An interrupt that waits at the controller for an application core; one that waits already stays one (R382). -/
def State.raiseIrq (s : State) (i : IrqSource) : State :=
  if s.plic.waiting.contains i then s else { s with plic := { s.plic with waiting := s.plic.waiting ++ [i] } }

/-- The priority of a source, 0 until it is set. -/
def Plic.prio (p : Plic) (i : IrqSource) : Nat := ((p.priority.find? (fun x => x.1 == i)).map (fun x => x.2)).getD 0

/-- The interrupt that a target claims: of those that wait, that are not claimed already and that are enabled for it above its threshold, one of the highest priority, the
oldest of several (log 52). -/
def Plic.best (p : Plic) (target : Nat) : Option IrqSource :=
  let due := p.waiting.filter (fun i =>
    !p.claimed.contains i && p.enabled.contains (target, i) && decide (kgetD p.threshold target 0 < p.prio i))
  due.find? (fun i => due.all (fun j => decide (p.prio j ≤ p.prio i)))

/-- A target claims the interrupt that it is to handle: it waits no more, and its source is not forwarded again until it is completed. -/
def State.claimIrq (s : State) (target : Nat) : State :=
  let i := s.plic.best target
  { s with
    plic := match i with
      | none => s.plic
      | some x => { s.plic with waiting := s.plic.waiting.erase x, claimed := s.plic.claimed ++ [x] }
    outputs := s.outputs ++ [.irqClaim target i] }

/-- A queue stops at a malformed packet (R378); for one of the outside host the endpoint raises its error interrupt, which reaches the application cores too (R382). -/
def State.stopQueue (s : State) (n : Nat) (addr : Dword) (fcode : Nat) : State :=
  match kget s.queues n with
  | none => s
  | some q =>
    let s1 := ((s.putDesc q 0x20 addr).putDesc q 0x28 (BitVec.ofNat 64 fcode)).putDesc q 0x18 1
    let s2 := if q.owner = 0 then s1.raiseIrq .endpoint else s1
    { s2 with
      queues := kset s2.queues n { q with stopped := true, levels := [], waiting := none }
      outputs := s2.outputs ++ [if q.owner = 0 then .interrupt n 0 else .signalIll n addr] }

/-- A write of a queue's TAIL (R365). -/
def State.doorbellTail (s : State) (n : Nat) (v : Dword) : State :=
  match kget s.queues n with
  | none => s
  | some q =>
    let s1 := { s with queues := kset s.queues n { q with tail := v.toNat } }
    if q.stopped then s1
    else if v.toNat % 16 = 0 ∧ v.toNat < 2 ^ q.log2 then s1
    else s1.stopQueue n (BitVec.ofNat 64 (q.base + q.head)) 7

/-- A write of a queue's RESET (R365, R378): a stopped queue resumes at HEAD with no level open. -/
def State.doorbellReset (s : State) (n : Nat) (v : Dword) : State :=
  match kget s.queues n with
  | none => s
  | some q =>
    if v = 1 ∧ q.stopped then
      let h := (s.dwordAt (q.desc + 0x10)).toNat
      let s1 := s.putDesc q 0x18 0
      let s2 := { s1 with queues := kset s1.queues n { q with stopped := false, levels := [], waiting := none, head := h } }
      if q.tail % 16 = 0 ∧ q.tail < 2 ^ q.log2 then s2 else s2.stopQueue n (BitVec.ofNat 64 (q.base + h)) 7
    else s

/-- The offered feature words (R380). -/
def featOffered (w : Nat) : Dword := if w = 0 then 0x1F else 0

/-- A read of the endpoint register block (R380). -/
def State.endpointRead (s : State) (off : Nat) : Dword :=
  let e := s.endpoint
  if off < 0x20 then featOffered (off / 8)
  else if off < 0x40 then e.feata.toList.getD ((off - 0x20) / 8) 0
  else if off = 0x48 then BitVec.ofNat 64 ((if e.active then 256 else 0) + e.nstat % 4)
  else if off = 0x50 then BitVec.ofNat 64 (e.upst % 4)
  else if off = 0x58 then e.qaddr
  else if off = 0x60 then e.qcmd
  else 0

/-- COMMIT (R380): the accepted features are enabled if every one is offered. -/
def State.commit (s : State) : State :=
  let e := s.endpoint
  if e.nstat = 1 then s
  else if (e.feata.toList.getD 0 0) &&& ~~~featOffered 0 = 0 ∧ e.feata.toList.getD 1 0 = 0 ∧ e.feata.toList.getD 2 0 = 0 ∧
      e.feata.toList.getD 3 0 = 0 then
    { s with endpoint := { e with nstat := 1, enabled := e.feata.toList.getD 0 0 } }
  else { s with endpoint := { e with nstat := 2, enabled := 0 } }

/-- A write of the endpoint register block (R366, R380). A write of QCMD with OP ≠ 0 sets BUSY; firmware then runs the command. A write of QCMD
while BUSY is 1 is dropped whole (DESIGN CHOICE, log 49: the spec does not say what it does). -/
def State.endpointWrite (s : State) (off : Nat) (v : Dword) : State :=
  let e := s.endpoint
  if 0x20 ≤ off ∧ off < 0x40 then
    if e.nstat = 1 then s
    else { s with endpoint := { e with feata := vset e.feata ((off - 0x20) / 8) v } }
  else if off = 0x40 then if v.getLsbD 0 then s.commit else s
  else if off = 0x58 then { s with endpoint := { e with qaddr := v } }
  else if off = 0x60 then
    if e.qcmd.getLsbD 63 then s
    else
      let busy : Dword := if v.extractLsb' 16 2 = 0 then 0 else 0x8000_0000_0000_0000
      { s with endpoint := { e with qcmd := (v &&& 0x3_0FFF) ||| (e.qcmd &&& 0x0F00_0000_0000_0000) ||| busy } }
  else s

/-- Whether a device-space address of a package names something, for an aligned dword by a given mode (R356, R363). -/
def deviceOk (pa : Nat) (super : Bool) : Bool :=
  let off := pa % 2 ^ 44
  let low := off % 2 ^ 40
  match off / 2 ^ 40 with
  | 1 => super && decide (low / 0x4_0000 < Config.cores) && decide (low % 0x4_0000 / 0x1000 < 48) &&
         decide (low % 0x1000 < Config.imageBytes)
  | 2 => decide (low / 0x1_0000 < 4096)
  | 3 => decide (low < 0x1_0000)
  | 8 => true | 9 => true | 10 => true | 11 => true | 12 => true | 13 => true | 14 => true | 15 => true
  | _ => false

/-- The package that a physical address names (R212). -/
def pkgOf (pa : Nat) : Nat := pa / 2 ^ 44

/-- A read of a dword of device space (R363). A read of a gated granule sets SSTAT[8] of the reading core's S context (R357). -/
def State.deviceRead (s : State) (pa : Nat) : Dword × State :=
  let off := pa % 2 ^ 44
  let low := off % 2 ^ 40
  let free : Dword × State := (Config.portValue s.fresh, { s with fresh := s.fresh + 1 })
  if pkgOf pa ≠ s.pkgNum then free else
  match off / 2 ^ 40 with
  | 1 =>
    let r := s.windowDword (low / 0x4_0000) (low % 0x4_0000 / 0x1000) (low % 0x1000)
    (r.1, if r.2 then s.modCtx (ctxKey s.coreNum 0) (fun c => { c with cr := { c.cr with sstat := c.cr.sstat ||| 0x100 } }) else s)
  | 2 =>
    if low % 0x1_0000 = 0 then (BitVec.ofNat 64 (((kget s.queues (low / 0x1_0000)).map Queue.tail).getD 0), s) else (0, s)
  | 3 => (s.endpointRead low, s)
  | _ => free

/-- A write of a dword of device space (R363). -/
def State.deviceWrite (s : State) (pa : Nat) (v : Dword) : State :=
  let off := pa % 2 ^ 44
  let low := off % 2 ^ 40
  let out := { s with outputs := s.outputs ++ [.portWrite pa v] }
  if pkgOf pa ≠ s.pkgNum then out else
  match off / 2 ^ 40 with
  | 1 =>
    let r := s.windowStore (low / 0x4_0000) (low % 0x4_0000 / 0x1000) (low % 0x1000) v
    if r.1 then r.2.modCtx (ctxKey s.coreNum 0) (fun c => { c with cr := { c.cr with sstat := c.cr.sstat ||| 0x100 } }) else r.2
  | 2 =>
    if low % 0x1_0000 = 0 then s.doorbellTail (low / 0x1_0000) v
    else if low % 0x1_0000 = 8 then s.doorbellReset (low / 0x1_0000) v
    else s
  | 3 => s.endpointWrite low v
  | _ => out

end Sys2Proof.Machine
end

