-- ==== Sys2Proof/Machine/Mem.lean ====
section
/-! DEFINITION. Translation (spec 10 R216 to R220), the accesses of a context and of the hardware on a region's behalf (04 R81 to R83;
10 R208, R221, R228), and fetch. -/

namespace Sys2Proof.Machine

/-- Whose translation a context uses (R217, R218). -/
def Context.space (c : Context) : Space :=
  { ptroot := c.cr.ptroot, asid := c.cr.asid, super := c.mode == .super, physical := false }

/-- A region's own translation, for the dealer and the engines that work for it: a U-mode one (R148, R169). -/
def Region.space (r : Region) : Space := { ptroot := r.ptroot, asid := r.asid, super := false, physical := false }

/-- The index of an address at a level of the tables (R216). -/
def walkIndex (lvl : Nat) (va : Dword) : Nat :=
  match lvl with
  | 0 => (va.extractLsb' 39 18).toNat
  | 1 => (va.extractLsb' 30 9).toNat
  | 2 => (va.extractLsb' 21 9).toNat
  | _ => (va.extractLsb' 16 5).toNat

/-- The size of the page that a leaf at a level maps (R216). -/
def leafSize (lvl : Nat) : Nat :=
  match lvl with
  | 1 => 2 ^ 30
  | 2 => 2 ^ 21
  | _ => 2 ^ 16

/-- The SIZE field that a leaf at a level has (R216); level 0 allows none. -/
def leafCode (lvl : Nat) : Nat :=
  match lvl with
  | 0 => 4
  | 1 => 3
  | 2 => 2
  | _ => 1

/-- Whether a leaf at a level is well formed for an ASID (R217, step 2). -/
def leafOk (keys : List (Nat × Nat)) (asid : Nat) (lvl : Nat) (e : Dword) : Bool :=
  let key := (e.extractLsb' 15 8).toNat
  (e.extractLsb' 6 2).toNat == leafCode lvl && e.extractLsb' 8 2 != 3 &&
  (lvl != 2 || e.extractLsb' 23 6 == 0) && (lvl != 1 || e.extractLsb' 23 14 == 0) &&
  (key == 0 || keys.contains (key, asid))

/-- The walk from a level's table; `left` counts the levels still to read (R216, R217). The answer is the leaf and its level, or a
cause; each entry is read at its home slice (R219). -/
def State.walkFrom (s : State) (ag : Agent) (asid : Nat) (va : Dword) : Nat → Nat → Except Byte (Dword × Nat) × State
  | 0, _ => (.error cACCESS, s)
  | left + 1, table =>
    let lvl := 3 - left
    let x := s.walkLoad ag (table + 8 * walkIndex lvl va)
    let e := x.1
    if e.getLsbD 0 = false then (.error cPAGE, x.2)
    else if e.extractLsb' 6 2 = 0 then
      if e.extractLsb' 8 7 ≠ 0 ∨ e.extractLsb' 1 5 ≠ 0 ∨ lvl = 3 then (.error cACCESS, x.2)
      else x.2.walkFrom ag asid va left ((e.extractLsb' 15 44).toNat * 256)
    else if leafOk s.keys asid lvl e then (.ok (e, lvl), x.2) else (.error cACCESS, x.2)

/-- A whole walk from PTROOT (R218). -/
def State.walk (s : State) (ag : Agent) (sp : Space) (va : Dword) : Except Byte (Dword × Nat) × State :=
  if sp.ptroot.extractLsb' 52 5 ≠ 0 then (.error cACCESS, s)
  else s.walkFrom ag sp.asid.toNat va 4 ((sp.ptroot.extractLsb' 16 41).toNat * 65536)

/-- Whether an access of a core may use a cached translation (R219). -/
def TlbEntry.serves (e : TlbEntry) (core : Nat) (sp : Space) (va : Dword) : Bool :=
  (e.holder == .core core || e.holder == .quad (core / 4) || e.holder == .die (dieOf core)) &&
  (e.glob || e.asid == sp.asid.toNat) && decide (e.base ≤ va.toNat) && decide (va.toNat < e.base + e.size)

/-- The cached translations that an access of a core may use (R219): its own, its quad's and its die's, of which one may be older than another. -/
def State.cachedFor (s : State) (core : Nat) (sp : Space) (va : Dword) : List TlbEntry := s.tlb.filter (fun e => e.serves core sp va)

/-- The level of a cached translation's leaf. -/
def TlbEntry.level (e : TlbEntry) : Nat := if e.size = 2 ^ 30 then 1 else if e.size = 2 ^ 21 then 2 else 3

/-- A structure that holds as many translations as it can drops a free one of them other than the newest (R219). -/
def State.trimTlb (s : State) (h : TlbHolder) (cap : Nat) : State :=
  let l := (s.tlb.filter (fun e => e.holder == h)).drop 1
  if l.length < cap then s
  else match l.drop (Config.choose s.fresh % l.length) with
    | [] => s
    | x :: _ => { s with fresh := s.fresh + 1, tlb := s.tlb.erase x }

/-- A translation kept in the L1 TLB of a core, the TLB of its quad and the cache of its die (R219). -/
def State.cacheLeaf (s : State) (core : Nat) (sp : Space) (va : Dword) (leaf : Dword) (lvl : Nat) : State :=
  let size := leafSize lvl
  let base := va.toNat / size * size
  let mk (h : TlbHolder) : TlbEntry :=
    { holder := h, asid := sp.asid.toNat, root := sp.ptroot.toNat, glob := leaf.getLsbD 5, base := base, size := size, leaf := leaf }
  let new := [mk (.core core), mk (.quad (core / 4)), mk (.die (dieOf core))]
  let s1 : State := { s with tlb := new ++ s.tlb.filter (fun e => !(new.any (fun n =>
      n.holder == e.holder && n.base == e.base && n.size == e.size && (n.asid == e.asid || (n.glob && e.glob))))) }
  ((s1.trimTlb (.core core) Config.coreTlb).trimTlb (.quad (core / 4)) Config.quadTlb).trimTlb (.die (dieOf core)) Config.dieTlb

/-- No cached translation serves an address after an access of it has trapped, so that the next one walks again (R219). -/
def State.uncache (s : State) (core : Nat) (sp : Space) (va : Dword) : State :=
  { s with tlb := s.tlb.filter (fun e => !e.serves core sp va) }

/-- Whether a cached translation is what a walk finds. -/
def TlbEntry.isLeaf (e : TlbEntry) (w : Except Byte (Dword × Nat)) : Bool :=
  match w with
  | .ok (leaf, lvl) => leaf == e.leaf && lvl == e.level
  | .error _ => false

/-- The first of several cached translations that is still there, as free values have it, and the counter after the draws (log 5). -/
def firstKept (fresh : Nat) : List TlbEntry → Option TlbEntry × Nat
  | [] => (none, fresh)
  | e :: es => if Config.cached fresh then (some e, fresh + 1) else firstKept (fresh + 1) es

/-- The leaf for an address: by a walk, or by any of the cached translations that differ from it and are still kept (R219, R220, log 5). -/
def State.leafFor (s : State) (ag : Agent) (core : Nat) (sp : Space) (va : Dword) : Except Byte (Dword × Nat) × State :=
  let w := s.walk ag sp va
  let held := s.cachedFor core sp va
  let old := firstKept s.fresh (held.filter (fun e => !e.isLeaf w.1))
  match old.1 with
  | some e => (.ok (e.leaf, e.level), { s with fresh := old.2 })
  | none =>
    if held.any (fun e => e.isLeaf w.1) then (w.1, { s with fresh := old.2 })
    else
      let t : State := { w.2 with fresh := w.2.fresh + (old.2 - s.fresh) }
      match w.1 with
      | .ok (leaf, lvl) => (w.1, t.cacheLeaf core sp va leaf lvl)
      | .error _ => (w.1, t)

/-- Whether a leaf grants an access (R217, step 3; R240, R241). -/
def grants (leaf : Dword) (acc : Access) (super : Bool) : Bool :=
  let rd := leaf.getLsbD 1
  let w := leaf.getLsbD 2
  let x := leaf.getLsbD 3
  let u := leaf.getLsbD 4
  (super || u) &&
  match acc with
  | .load => rd
  | .store => w
  | .atomic => rd && w
  | .fetch => x && !(super && u)
  | .flush => rd || w || x
  | .inval => w

/-- Whether a package field names nothing: 48 to 127, or an entry of the gateway table that firmware has not filled (R385). -/
def State.noPackage (s : State) (pkg : Nat) : Bool :=
  decide (48 ≤ pkg) && (decide (pkg < 128) || (kget s.dom.gateway (pkg - 128)).isNone)

/-- The place that a physical address is, under a leaf's cache level and key (R212, R229, R233, R363, R385), for an access of `n` bytes. -/
def State.placeAt (s : State) (pa : Nat) (cl : Nat) (wt : Bool) (key : Nat) (acc : Access) (n : Nat) (super : Bool) : Except Byte Place :=
  let pkg := pkgOf pa
  let dev := pa % 2 ^ 44 / 2 ^ 40 ≠ 0
  if s.noPackage pkg then .error cACCESS
  else if 128 ≤ pkg ∧ (cl ≠ 2 ∨ acc = .atomic) then .error cACCESS
  else if acc = .inval ∧ pkg ≠ s.pkgNum then .error cACCESS
  else if dev then
    if cl ≠ 2 ∨ acc = .atomic then .error cACCESS
    else if (acc = .load ∨ acc = .store) ∧ (n ≠ 8 ∨ pa % 8 ≠ 0) then .error cACCESS
    else if deviceOk pa super then .ok (.device pa) else .error cACCESS
  else if cl = 2 then .ok (.uncached pa key)
  else .ok (.coherent pa (cl = 0) wt key)

/-- A slice-affine page noted as such when it is translated, or no longer (R215). -/
def State.noteAffine (s : State) (base size : Nat) (affine : Bool) : State :=
  if affine then { s with affine := kset s.affine base size }
  else if kget s.affine base = some size then { s with affine := kdel s.affine base }
  else s

/-- The place that an address has through a leaf at a level, or the cause that the access meets there (R217, step 3). -/
def State.leafPlace (s : State) (leaf : Dword) (lvl : Nat) (sp : Space) (va : Dword) (acc : Access) (n : Nat) : Except Byte Place :=
  if !grants leaf acc sp.super then .error cACCESS
  else s.placeAt ((leaf.extractLsb' 23 36).toNat * 65536 + va.toNat % leafSize lvl) (leaf.extractLsb' 8 2).toNat (leaf.getLsbD 10)
    (leaf.extractLsb' 15 8).toNat acc n sp.super

/-- Whether a leaf maps an uncached page or device space (R101). -/
def leafUncached (leaf : Dword) : Bool := leaf.extractLsb' 8 2 == 2 || leaf.extractLsb' 47 4 != 0

/-- Where an access leads, or the cause that it meets (R82, R208, R217), and whether the leaf that it has found is one of an uncached page or of device space; the
walk's reads are accesses of an agent. -/
def State.translateLeaf (s : State) (ag : Agent) (core : Nat) (sp : Space) (va : Dword) (acc : Access) (n : Nat) :
    (Except Byte Place × Bool) × State :=
  if sp.physical then ((s.placeAt (va.toNat % 2 ^ 52) 1 false 0 acc n true, false), s)
  else if !canonical va then ((.error cACCESS, false), s)
  else if Config.scratchBase ≤ va.toNat ∧ va.toNat < Config.scratchBase + Config.scratchWindow then
    let off := va.toNat - Config.scratchBase
    if acc = .fetch ∨ scratchBytes (s.getCore core) ≤ off then ((.error cACCESS, false), s) else ((.ok (.scratch off), false), s)
  else
    let r := s.leafFor ag core sp va
    match r.1 with
    | .error c => ((.error c, false), r.2.uncache core sp va)
    | .ok (leaf, lvl) =>
      match s.leafPlace leaf lvl sp va acc n with
      | .error c => ((.error c, leafUncached leaf), r.2.uncache core sp va)
      | .ok p => ((.ok p, leafUncached leaf),
          r.2.noteAffine ((leaf.extractLsb' 23 36).toNat * 65536) (leafSize lvl) (leaf.getLsbD 14))

/-- Where an access leads, or the cause that it meets. -/
def State.translate (s : State) (ag : Agent) (core : Nat) (sp : Space) (va : Dword) (acc : Access) (n : Nat) : Except Byte Place × State :=
  let r := s.translateLeaf ag core sp va acc n
  (r.1.1, r.2)

/-- Translation by the running context, without a trap: the place or the cause. -/
def tryTranslate (va : Dword) (acc : Access) (n : Nat) : Exec (Except Byte Place) := do
  let s ← get
  let r := s.translate (.ctx s.cur) s.coreNum s.cx.space va acc n
  set r.2
  return r.1

/-- Whether an access needs the plane of a recovering line, so that it stalls (R396). -/
def State.stalls (s : State) (p : Place) (write : Bool) : Bool :=
  match p with
  | .coherent pa _ _ _ => s.heldUp (lineOf pa) write
  | _ => false

/-- The frame of 64 KiB whose copy into a checkpoint image a store to a place waits for (R402). -/
def State.frameDue (s : State) (p : Place) : Option Nat :=
  match s.ckpt.step, p with
  | .stream f, .coherent pa _ _ _ => s.unstreamed f pa
  | .stream f, .uncached pa _ => s.unstreamed f pa
  | _, _ => none

/-- A stalled access makes its context wait (R396, R402). -/
def guardPlane (p : Place) (write : Bool) : Exec Unit := do
  let s ← get
  if s.stalls p write then throw (.wait .plane)
  else if write then
    match s.frameDue p with
    | none => pure ()
    | some f => throw (.wait (.frame f))
  else pure ()

/-- Whether an access stores to its line, as `cinval` does too (R241). -/
def Access.writes (a : Access) : Bool := a == .store || a == .atomic || a == .inval

/-- Translation by the running context; a cause traps with the address (R82). -/
def translateT (va : Dword) (acc : Access) (n : Nat) : Exec Place := do
  match ← tryTranslate va acc n with
  | .ok p =>
    guardPlane p (Access.writes acc)
    return p
  | .error c => trapWith c va

/-- The first of several addresses that meets a cause. -/
def firstCause (c : Byte) (l : List (Dword × Except Byte Place)) : Option Dword :=
  (l.find? (fun x => match x.2 with | .error e => e == c | .ok _ => false)).map (fun x => x.1)

/-- The places of addresses that have all been translated: where some meet a cause, the first cause in R21's order traps, with the first address that has it. -/
def soundPlaces (l : List (Dword × Except Byte Place)) : Exec (List Place) :=
  match firstCause cPAGE l with
  | some v => trapWith cPAGE v
  | none =>
    match firstCause cACCESS l with
    | some v => trapWith cACCESS v
    | none => pure (l.filterMap (fun x => match x.2 with | .ok p => some p | .error _ => none))

/-- The checks of several accesses by the running context that its registers alone determine (R21, R82). -/
def checkPlaces (vas : List Dword) (acc : Access) (n : Nat) : Exec (List Place) := do
  soundPlaces (← vas.mapM (fun va => do return (va, ← tryTranslate va acc n)))

/-- The same, where an access that a lost plane or a checkpoint holds up makes the context wait. -/
def placesT (vas : List Dword) (acc : Access) (n : Nat) : Exec (List Place) := do
  let ps ← checkPlaces vas acc n
  let _ ← ps.mapM (fun p => guardPlane p acc.writes)
  return ps

/-! ### Accesses of a context -/

/-- How long after its command's completion a write may stay without its place: longer for a line that other packages may hold (R227). -/
def State.placeBound (s : State) (line : Nat) : Nat :=
  if homePkg line ≠ s.pkgNum || s.dom.exported.contains line then 65536 else 4096

/-- The writes to a line whose time for a place is up take it. -/
def State.placeOverdue (s : State) (line : Nat) : State :=
  s.placeThose (fun e => e.line == line &&
    match e.done with
    | none => false
    | some c => decide (c + s.placeBound line ≤ s.cycle))

/-! Loads and stores -/

/-- A copy of a line that the core's data L1 may serve a load of a context from (R221). -/
def State.l1Copy (s : State) (core line lt : Nat) : Option L1Copy :=
  (s.getCore core).l1.find? (fun c => c.line == line && decide (c.wts ≤ lt) && decide (lt ≤ c.rts) &&
    decide (s.cycle < c.fill + 4096))

/-- A copy put into a core's data L1; of a full set a free other one leaves (R211). -/
def State.fillL1 (s : State) (core : Nat) (copy : L1Copy) : State :=
  let rest := (s.getCore core).l1.filter (fun x => x.line != copy.line)
  let set_ := rest.filter (fun x => x.line % Config.l1Sets == copy.line % Config.l1Sets)
  if set_.length < Config.l1Ways then s.modCore core (fun co => { co with l1 := copy :: rest })
  else
    let gone := (set_.map L1Copy.line).getD (Config.choose s.fresh % set_.length) 0
    { s with fresh := s.fresh + 1 }.modCore core (fun co => { co with l1 := copy :: rest.filter (fun x => x.line != gone) })

/-- An instruction copy put into a core's instruction L1; of a full set a free other one leaves (R211). -/
def State.fillICache (s : State) (core line : Nat) (d : VReg) : State :=
  let set_ := (s.getCore core).icache.filter (fun x => x.1 != line && x.1 % Config.l1Sets == line % Config.l1Sets)
  if set_.length < Config.l1Ways then s.modCore core (fun co => { co with icache := kset co.icache line d })
  else
    let gone := (set_.map (fun x => x.1)).getD (Config.choose s.fresh % set_.length) 0
    { s with fresh := s.fresh + 1 }.modCore core (fun co => { co with icache := kset (kdel co.icache gone) line d })

/-- A coherent load of a context within one line through a memory key, with the rules of R221 (log 5): the line's bytes as they are deciphered under that key
(R229). A line with a write that the context sees early is read at its home, and so is one that was stored through another key. -/
def State.coLoad (s0 : State) (k pa : Nat) (l1 : Bool) (key : Nat) : (VReg × Bool) × State :=
  let line := lineOf pa
  let s := (((s0.placeOverdue line).fill line false).settle line).observe k line
  let c := s.getCtx k
  let core := k / 64
  let cur := s.lineData line
  let curP := s.linePois line
  let mix := s.overlaid k line key (s.seen line key cur, curP)
  let near := l1 && s.keyOf line == key && !(s.early.any (fun e => e.line == line && s.seesEarly k e))
  let atHome (s : State) : (VReg × Bool) × State :=
    let le := s.lease line
    let lt := max c.lt le.1
    let rts := max le.2 (lt + 255)
    let s1 := { (s.setCtx k { c with lt := lt }) with leases := kset s.leases line (le.1, rts) }
    (mix, if near then s1.fillL1 core { line := line, data := cur, pois := curP, wts := le.1, rts := rts, fill := s.cycle } else s1)
  match (if near then s.l1Copy core line c.lt else none) with
  | none => atHome s
  | some x =>
    if x.data = cur ∧ x.pois = curP then ((cur, curP), s)
    else if Config.cached s.fresh then ((x.data, x.pois), { s with fresh := s.fresh + 1 })
    else atHome { s with fresh := s.fresh + 1 }

/-- A line as it was before a store of a context, kept for the commands of that context without acquire as long as R223 lets one read it
(R258). -/
def State.remember (s : State) (k line : Nat) : State :=
  { s with past := { ctx := ctxTag k (s.getCtx k).inc, line := line, key := s.keyOf line, data := s.lineData line, pois := s.linePois line, cycle := s.cycle } ::
      s.past.filter (fun x => decide (s.cycle < x.cycle + 4096)) }

/-- A coherent store of a context within one line through a memory key (R221, R229): an L1 copy of the issuing core takes the line as the store leaves it. -/
def State.coStore (s0 : State) (k pa n v : Nat) (p wt own : Bool) (key : Nat) : State :=
  let line := lineOf pa
  let s := ((((s0.placeOverdue line).placeSeen k line).fill line true).rekey line key).remember k line
  let c := s.getCtx k
  let t := max c.lt ((s.lease line).2 + 1)
  let s1 := (s.setCtx k { c with lt := t }).storeLine pa n v p wt
  let s2 := { s1 with leases := kset s1.leases line (t, t) }
  if own then
    let upd (x : L1Copy) : L1Copy :=
      if x.line = line then { x with data := s2.lineData line, pois := s2.linePois line, wts := t, rts := t } else x
    s2.modCore (k / 64) (fun co => { co with l1 := co.l1.map upd })
  else s2

/-- Whether a physical address belongs to another package's memory, which this one does not hold. -/
def State.elsewhere (s : State) (pa : Nat) : Bool := pkgOf pa != s.pkgNum

/-- An uncached read: device memory's bytes, or for another package's memory free ones (log 9). -/
def State.uncachedLoad (s : State) (pa n key : Nat) : (Nat × Bool) × State :=
  if s.elsewhere pa then
    ((lineBytes (Config.remoteLine s.fresh) (pa % 64) n, Config.remotePois s.fresh), { s with fresh := s.fresh + 1 })
  else
    let s1 := s.maybeWriteBack (lineOf pa)
    let d := s1.deviceLine (lineOf pa)
    ((lineBytes (s1.seen (lineOf pa) key d.1) (pa % 64) n, d.2), s1)

/-- An uncached write: of device memory, or one that leaves the package. -/
def State.uncachedStore (s : State) (pa n v : Nat) (pois : Bool) (key : Nat) : State :=
  if s.elsewhere pa then { s with outputs := s.outputs ++ [.remoteWrite pa n v pois] }
  else ((s.frameFirst pa).rekey (lineOf pa) key).storeDeviceMem pa n v pois

/-! The scratchpad, whose accesses are members of the single order as those of coherent memory are (R210, R222, R225) -/

/-- Whether an unretired instruction of the sum-product engine writes bytes of a core's scratchpad, or the poison of a line of theirs (R231, R279, R282). -/
def Core.spWrites (co : Core) (off n : Nat) : Bool :=
  co.spq.any (fun j => j.writes.any (fun x =>
    (decide (x.1 < off + n) && decide (off < x.1 + 4)) || (x.2.2 && decide (lineOf off ≤ lineOf x.1) && decide (lineOf x.1 ≤ lineOf (off + n - 1)))))

/-- The poison of a line of a core's scratchpad. -/
def Core.scratchPoison (co : Core) (line : Nat) : Bool := co.scratchPois.contains line

/-- The logical times of the last write and of the last read of a line of the scratchpad. -/
def Core.scratchTime (co : Core) (line : Nat) : Nat × Nat := kgetD co.scratchTimes line (0, 0)

/-- `n` bytes of a core's scratchpad with their poison. -/
def Core.scratchGet (co : Core) (off n : Nat) : Nat × Bool := (co.scratch.read off n, co.scratchPoison (lineOf off))

/-- The time at which an access to a line of the scratchpad that follows a logical time takes its place: a read after the last write, a write after the last
read. -/
def Core.readTime (co : Core) (off lt : Nat) : Nat := max lt (co.scratchTime (lineOf off)).1
def Core.writeTime (co : Core) (off lt : Nat) : Nat := max lt (max (co.scratchTime (lineOf off)).1 (co.scratchTime (lineOf off)).2)

/-- A read of a line of the scratchpad at a logical time noted. -/
def State.scratchRead (s : State) (core off t : Nat) : State :=
  s.modCore core (fun co => { co with
    scratchTimes := kset co.scratchTimes (lineOf off) ((co.scratchTime (lineOf off)).1, max (co.scratchTime (lineOf off)).2 t) })

/-- A store to the scratchpad of a core within one line, at a logical time (R210, R231). -/
def State.scratchStore (s : State) (core off n v : Nat) (p : Bool) (t : Nat) : State :=
  s.modCore core (fun co => { co with
    scratch := co.scratch.write off n v
    scratchPois := setPois co.scratchPois (lineOf off) (poisAfter (co.scratchPois.contains (lineOf off)) n p)
    scratchTimes := kset co.scratchTimes (lineOf off) (t, t) })

/-- A context's load from its core's scratchpad. -/
def State.scratchLoadBy (s : State) (k off n : Nat) : (Nat × Bool) × State :=
  let co := s.getCore (k / 64)
  let t := co.readTime off (s.getCtx k).lt
  (co.scratchGet off n, (s.modCtx k (fun c => { c with lt := t })).scratchRead (k / 64) off t)

/-- A context's store to its core's scratchpad. -/
def State.scratchStoreBy (s : State) (k off n v : Nat) (p : Bool) : State :=
  let t := (s.getCore (k / 64)).writeTime off (s.getCtx k).lt
  (s.modCtx k (fun c => { c with lt := t })).scratchStore (k / 64) off n v p t

/-- A load of a context from a place within one line (R81, R83, R208, R228). -/
def State.loadAt (s : State) (k : Nat) (p : Place) (n : Nat) : (Nat × Bool) × State :=
  match p with
  | .scratch off => s.scratchLoadBy k off n
  | .coherent pa l1 _ key => let r := s.coLoad k pa l1 key; ((lineBytes r.1.1 (pa % 64) n, r.1.2), r.2)
  | .uncached pa key => s.uncachedLoad pa n key
  | .device pa => let r := s.deviceRead pa; ((r.1.toNat % 2 ^ (8 * n), false), r.2)

/-- A store of a context to a place within one line. -/
def State.storeAt (s : State) (k : Nat) (p : Place) (n v : Nat) (pois : Bool) : State :=
  match p with
  | .scratch off => s.scratchStoreBy k off n v pois
  | .coherent pa _ wt key => s.coStore k pa n v pois wt true key
  | .uncached pa key => s.uncachedStore pa n v pois key
  | .device pa => s.deviceWrite pa (BitVec.ofNat 64 v)

/-- A load by the running context. -/
def loadE (p : Place) (n : Nat) : Exec (Nat × Bool) := do
  let s ← get
  let r := s.loadAt s.cur p n
  set r.2
  return r.1

/-- A store by the running context. -/
def storeE (p : Place) (n v : Nat) (pois : Bool) : Exec Unit := modify (fun s => s.storeAt s.cur p n v pois)

/-! ### Accesses of the hardware on a region's behalf -/

/-- A step of the hardware that touches such bytes is held back until the instruction has retired (R282). -/
def State.spHolds (s : State) (core off n : Nat) : State :=
  if (s.getCore core).spWrites off n then { s with stalled := true } else s

/-- A read of `n` bytes within one line by virtual address in a space, by the agent of a core, on behalf of a context of it where one is named: it follows the writes
that the context sees. -/
def State.spaceLoadFor (s : State) (ctx : Option Nat) (core : Nat) (sp : Space) (va : Dword) (n : Nat) : Except Byte (Nat × Bool) × State :=
  let r := s.translate (.hw core) core sp va .load n
  match r.1 with
  | .error c => (.error c, r.2)
  | .ok (.scratch off) =>
    let co := r.2.getCore core
    let t := co.readTime off (r.2.agentTime core)
    (.ok (co.scratchGet off n), ((r.2.raiseAgent core t).scratchRead core off t).spHolds core off n)
  | .ok (.coherent pa _ _ key) =>
    let y := match ctx with | none => r.2 | some k => r.2.placeSeen k (lineOf pa)
    let x := y.hwLoad core (64 * lineOf pa) 64
    (.ok (lineBytes (x.2.seen (lineOf pa) key (BitVec.ofNat 512 x.1.1)) (pa % 64) n, x.1.2), x.2)
  | .ok (.uncached pa key) => let x := r.2.uncachedLoad pa n key; (.ok x.1, x.2)
  | .ok (.device pa) => let x := r.2.deviceRead pa; (.ok (x.1.toNat % 2 ^ (8 * n), false), x.2)

/-- A read of `n` bytes within one line by virtual address in a space, by the agent of a core. -/
def State.spaceLoad (s : State) (core : Nat) (sp : Space) (va : Dword) (n : Nat) : Except Byte (Nat × Bool) × State :=
  s.spaceLoadFor none core sp va n

/-- A write of `n` bytes within one line by virtual address in a space, by the agent of a core. -/
def State.spaceStore (s : State) (core : Nat) (sp : Space) (va : Dword) (n v : Nat) (p : Bool) : Except Byte Unit × State :=
  let r := s.translate (.hw core) core sp va .store n
  match r.1 with
  | .error c => (.error c, r.2)
  | .ok (.scratch off) =>
    let t := (r.2.getCore core).writeTime off (r.2.agentTime core)
    (.ok (), ((r.2.spHolds core off n).raiseAgent core t).scratchStore core off n v p t)
  | .ok (.coherent pa _ wt key) => (.ok (), r.2.hwPut core pa n v p wt (some key))
  | .ok (.uncached pa key) => (.ok (), r.2.uncachedStore pa n v p key)
  | .ok (.device pa) => (.ok (), r.2.deviceWrite pa (BitVec.ofNat 64 v))

/-! ### Fetch -/

/-- The word at an address for fetch, or why there is none: its cause, or a stall for a lost plane (R27, R83, R208, R217, R396). -/
def State.fetchWord (s : State) (k : Nat) (va : Dword) : Except Stop Word × State :=
  let core := k / 64
  let r := s.translate (.ctx k) core (s.getCtx k).space va .fetch 4
  match r.1 with
  | .error c => (.error (.trap c va), r.2)
  | .ok (.coherent pa l1 wt key) =>
    if r.2.stalls (.coherent pa l1 wt key) false then (.error (.wait .plane), r.2) else
    let line := lineOf pa
    let s1 := (r.2.fill line false).settle line
    let cur := s1.seen line key (s1.lineData line)
    let word (d : VReg) : Except Stop Word := .ok (BitVec.ofNat 32 (lineBytes d (pa % 64) 4))
    match kget (s1.getCore core).icache line with
    | none => (word cur, s1.fillICache core line cur)
    | some d =>
      if d = cur then (word cur, s1)
      else if Config.cached s1.fresh then (word d, { s1 with fresh := s1.fresh + 1 })
      else (word cur, { s1 with fresh := s1.fresh + 1 }.fillICache core line cur)
  | .ok (.uncached pa key) =>
    let x := r.2.uncachedLoad pa 4 key
    (.ok (BitVec.ofNat 32 x.1.1), x.2)
  | .ok _ => (.error (.trap cACCESS va), r.2)

/-- A group fetched and decoded from the context's pc: its instruction, or why it stops; and the group's description (R27,
R35 to R42). An offending word that is itself a prefix counts in LEN of PFX (log 18), and not in HINT, MOD and NIMM (DESIGN CHOICE, log 49:
R42 does not say). -/
def State.fetchGroup (s : State) (k : Nat) : Nat → Prefixes → Group → Except Stop Instr × Group × State
  | 0, _, g => (.error (.trap cILL (BitVec.setWidth 64 g.word)), g, s)
  | fuel + 1, p, g =>
    let a := g.first + BitVec.ofNat 64 (4 * (g.len - 1))
    let r := s.fetchWord k a
    match r.1 with
    | .error e => (.error e, g, r.2)
    | .ok w =>
      let c := s.getCtx k
      let ends := c.cr.lend == canon a && c.cr.lcnt != 0
      let g1 := { g with word := w }
      match feed p ends w with
      | .ill => (.error (.trap cILL (BitVec.setWidth 64 w)), g1, r.2)
      | .done i => (.ok i, g1, r.2)
      | .more p' =>
        r.2.fetchGroup k fuel p' { g1 with len := g.len + 1, hint := p'.hint, mod := p'.mod, nimm := p'.imms.length }

end Sys2Proof.Machine
end

