-- ==== Sys2Proof/Machine/Records.lean ====
section
/-! DEFINITION. Events, the deck and the kitty, saggar records, squash and rollback (spec 07 R143 to R161, R164). -/

namespace Sys2Proof.Machine

/-- The key of an event as one number: TIME, then SRC, then SERIAL (R147). -/
def eventKey (time : Dword) (src : BitVec 48) (serial : BitVec 32) : Nat :=
  (time.toNat * 2 ^ 48 + src.toNat) * 2 ^ 32 + serial.toNat

def evKey (e : Event) : Nat := eventKey e.time e.src e.serial

/-- The 64 bytes of an event (R146). -/
def eventLine (e : Event) : VReg :=
  e.payload ++ 0#32 ++ e.serial ++ 0#14 ++ (0#1 ++ BitVec.ofBool e.cancel) ++ e.src ++ e.hix ++ e.dst ++ e.time

/-- The second half of a record's header (R155). -/
def recordLine (r : Record) : VReg :=
  let n := r.units.foldl (fun (a : Nat) u => a + (match u with | .undo .. => 2 | _ => 1)) 0
  0#256 ++ BitVec.ofNat 32 n ++ 0#29 ++ BitVec.ofBool r.void ++ BitVec.ofBool r.coll ++ BitVec.ofBool r.done ++
    BitVec.ofNat 64 r.aprev ++ 0#16 ++ r.event.dst ++ r.rngc0

/-- The first line of a unit (R156); the second line of an undo unit is the old block. -/
def unitLine (u : RUnit) : VReg :=
  match u with
  | .undo a _ _ => 0#448 ++ 1#4 ++ 0#3 ++ BitVec.ofNat 51 (a / 64) ++ 0#6
  | .sent t d n => 0#256 ++ 0#32 ++ n ++ 0#16 ++ d ++ t ++ 2#4 ++ 0#60
  | .write z a v _ => 0#320 ++ v ++ a ++ 3#4 ++ 0#58 ++ z.bits
  | .notice w => 0#384 ++ w ++ 4#4 ++ 0#60

/-- Bytes that a unit takes (R156). -/
def unitBytes (u : RUnit) : Nat := match u with | .undo .. => 128 | _ => 64

/-! ### Accesses of the dealer (R148) -/

/-- A store of the dealer to its region's memory; a fault ends the region. -/
def State.dealerStore (s : State) (rcb core : Nat) (va n v : Nat) (p : Bool) : State :=
  match s.getRegion? rcb with
  | none => s
  | some r =>
    let x := s.spaceStore core r.space (BitVec.ofNat 64 va) n v p
    match x.1 with
    | .ok _ => x.2
    | .error c => x.2.endRegion rcb c

/-- A load of the dealer from its region's memory, on behalf of a context where one is named; a fault ends the region. -/
def State.dealerLoadFor (s : State) (ctx : Option Nat) (rcb core : Nat) (va n : Nat) : (Nat × Bool) × State :=
  match s.getRegion? rcb with
  | none => ((0, false), s)
  | some r =>
    let x := s.spaceLoadFor ctx core r.space (BitVec.ofNat 64 va) n
    match x.1 with
    | .ok y => (y, x.2)
    | .error c => ((0, false), x.2.endRegion rcb c)
def State.dealerLoad (s : State) (rcb core : Nat) (va n : Nat) : (Nat × Bool) × State := s.dealerLoadFor none rcb core va n

/-! ### Actors (R143, R144) -/

/-- The address of an actor's entry in its table. -/
def entryAddr (actt actor : Nat) : Nat := actt + 0x40 + 8 * actor

/-- The descriptor's address of an actor by the dealer's reads, 0 if none. -/
def State.actorDesc (s : State) (rcb core actor : Nat) : Nat × State :=
  match s.getRegion? rcb with
  | none => (0, s)
  | some r =>
    let n := s.dealerLoad rcb core r.actt 8
    if n.1.1 % 2 ^ 48 ≤ actor then (0, n.2)
    else let e := n.2.dealerLoad rcb core (entryAddr r.actt actor) 8; (e.1.1, e.2)

/-- The home of a descriptor as package and core (R143). -/
def homeOfWord (w : Nat) : Nat × Nat := (w / 2 ^ 24 % 256, w % 2 ^ 14)

/-- The key of an actor's home in a core's cache (R144). -/
def homeKey (soc actor : Nat) : Nat := soc * 2 ^ 48 + actor

/-- A home put into a core's cache; of a full one a free entry leaves (R144). -/
def State.keepHome (s : State) (core key home : Nat) : State :=
  let l := (s.getCore core).homes
  if l.length < Config.homeEntries then s.modCore core (fun c => { c with homes := kset c.homes key home })
  else
    let gone := (l.map (fun x => x.1)).getD (Config.choose s.fresh % l.length) 0
    { s with fresh := s.fresh + 1 }.modCore core (fun c => { c with homes := kset (kdel c.homes gone) key home })

/-- The home of an actor for a core's dealer: from its cache, else from the table and the descriptor (R144). -/
def State.homeOf (s : State) (rcb core actor : Nat) : (Nat × Nat) × State :=
  let soc := s.socOf rcb
  match kget (s.getCore core).homes (homeKey soc actor) with
  | some h => ((h / 2 ^ 14, h % 2 ^ 14), s)
  | none =>
    let d := s.actorDesc rcb core actor
    if d.1 = 0 then ((s.pkgNum, core), d.2)
    else
      let w := d.2.dealerLoad rcb core (d.1 + 0x18) 8
      let h := homeOfWord w.1.1
      (h, w.2.keepHome core (homeKey soc actor) (h.1 * 2 ^ 14 + h.2))

/-- The home that an actor's descriptor names, by the dealer's reads (R143, R191). -/
def State.homeNow (s : State) (rcb core actor : Nat) : (Nat × Nat) × State :=
  let d := s.actorDesc rcb core actor
  if d.1 = 0 then ((s.pkgNum, core), d.2)
  else let w := d.2.dealerLoad rcb core (d.1 + 0x18) 8; (homeOfWord w.1.1, w.2)

/-- The number that an actor's logical time is kept under: past every access of its firings and of the dealer's for it. -/
def actorAg (soc : Nat) (actor : BitVec 48) : Nat := 32768 + homeKey soc actor.toNat

/-- The endpoint of a core as a whole, of whichever package. SLOT and INC of the home endpoint of R190 are 0 in it, which the value of SQFULL shows (DESIGN CHOICE, log 49: the
spec gives a dealer no slot and no incarnation). -/
def corePt (pkg core : Nat) : BitVec 40 := epAddr pkg core 0 0

/-! ### The in-flight table (R164) -/

/-- An event or cancelling event pushed by the dealer of a core to a home, by its package and its core: it enters the in-flight table and the mesh. -/
def State.sendEventTo (s : State) (rcb core : Nat) (home : Nat × Nat) (e : Event) : State :=
  let co := s.getCore core
  let id := co.nextFlight
  let src := corePt s.pkgNum core
  let dst := corePt home.1 home.2
  let fl : Flight := { id := id, event := e, src := src, dst := dst, rslot := none, rcb := rcb, soc := s.socOf rcb, acked := none, refused := none }
  (s.setCore core { co with nextFlight := id + 1, flight := co.flight ++ [fl] }).push
    [{ net := .req, src := src, dst := dst, rcb := rcb, lt := e.lt, body := .event e none id }]

/-- The same to the home of the event's actor. -/
def State.sendEvent (s : State) (rcb core : Nat) (e : Event) : State :=
  let h := s.homeOf rcb core e.dst.toNat
  h.2.sendEventTo rcb core h.1 e

/-! ### Deck and kitty (R149) -/

/-- The deck capacity of a region. -/
def State.deckCap (s : State) (rcb : Nat) : Nat := ((s.getRegion? rcb).map Region.deck).getD 0

/-- An event inserted into the deck, or the kitty when the deck is full; both full ends the region (R149). The dealer's write of the
entry may end it too (R148). -/
def State.insertEvent (s : State) (rcb core : Nat) (e : Event) : State :=
  let w := s.getWork rcb core
  let cap := s.deckCap rcb
  let place (f : Region → Nat) : State :=
    match s.getRegion? rcb with
    | none => s
    | some r => s.dealerStore rcb core (f r) 64 (eventLine e).toNat e.poison
  if w.deck.length < cap then
    (place (fun r => r.deckAddr core w.deck.length)).modWork rcb core (fun w => { w with deck := w.deck ++ [e] })
  else if w.kitty.length < 4 * cap then
    (place (fun r => r.kittyAddr core w.kitty.length)).modWork rcb core (fun w => { w with kitty := w.kitty ++ [e] })
  else s.endRegion rcb cRESOURCE

/-- An event without its partner: it meets a pending cancel of its key, or is inserted (R161). -/
def sameKey (e f : Event) : Bool := evKey e == evKey f && e.dst == f.dst

/-- Kitty entries moved into the deck while the deck is below half (R149), oldest first: as many as the deck takes (DESIGN CHOICE, log 49: the
spec does not say how many). Half of an odd DECK is rounded down (DESIGN CHOICE, log 49: R149 writes DECK / 2). -/
def Work.refill (cap : Nat) (w : Work) : Work :=
  if w.deck.length < cap / 2 then
    let n := cap - w.deck.length
    { w with deck := w.deck ++ w.kitty.take n, kitty := w.kitty.drop n }
  else w

/-- The refill of a core's deck, with the dealer's reads and writes of the entries (R148). -/
def State.refill (s : State) (rcb core : Nat) : State :=
  match s.getRegion? rcb with
  | none => s
  | some r =>
    let w := s.getWork rcb core
    let w' := w.refill r.deck
    let moved := w'.deck.drop w.deck.length
    let one (t : State) (x : Event × Nat) : State :=
      (t.dealerLoad rcb core (r.kittyAddr core x.2) 64).2.dealerStore rcb core (r.deckAddr core (w.deck.length + x.2)) 64
        (eventLine x.1).toNat x.1.poison
    (moved.zipIdx.foldl one s).modWork rcb core (fun _ => w')

/-- An event filed: it vanishes with a pending cancel of its key, or is inserted (R149, R161). -/
def State.fileEvent (s : State) (rcb core : Nat) (e : Event) : State :=
  let w := s.getWork rcb core
  if (w.deck ++ w.kitty).any (fun f => f.cancel && sameKey e f) then
    (s.modWork rcb core (fun w => { w with
      deck := w.deck.filter (fun f => !(f.cancel && sameKey e f))
      kitty := w.kitty.filter (fun f => !(f.cancel && sameKey e f)) })).refill rcb core
  else s.insertEvent rcb core e

/-- The dealer's read of a pending event that is to fire (R148). -/
def State.readEvent (s : State) (rcb core : Nat) (e : Event) : State :=
  match s.getRegion? rcb with
  | none => s
  | some r =>
    let w := s.getWork rcb core
    (s.dealerLoad rcb core (r.deckAddr core ((w.deck ++ w.kitty).findIdx (· == e))) 64).2

/-! ### The saggar (R155, R157) -/

def Ring.used (r : Ring) : Nat := r.chunks.foldl (fun a c => a + c.bytes) 0

/-- A piece of the ring for a record, within a limit of bytes in use: its offset and the ring with it. -/
def Ring.take (r : Ring) (rec_ n limit : Nat) : Option (Nat × Ring) :=
  let skip := if r.tail + n > r.size then r.size - r.tail else 0
  let off := if r.tail + n > r.size then 0 else r.tail
  if r.used + skip + n > limit then none
  else some (off, { r with tail := off + n, chunks := r.chunks ++ [{ rec_ := rec_, bytes := skip + n, stop := off + n }] })

/-- Whether a record's space may return. -/
def gone (rs : List Record) (a : Nat) : Bool :=
  match rs.find? (fun r => r.addr == a) with
  | none => true
  | some r => r.void || r.coll

/-- The oldest pieces dropped while their records are gone (R157). -/
def dropOldest (rs : List Record) : List Chunk → List Chunk
  | [] => []
  | c :: cs => if gone rs c.rec_ then dropOldest rs cs else c :: cs

/-- The ring after the space of gone records has returned at the oldest end, and that of a rolled-back newest record at the other
(R157); records without a piece left are forgotten. With no piece left in use the next record starts at the ring's base (DESIGN CHOICE, log 25: the spec does
not say where). -/
def Work.reclaim (w : Work) : Work :=
  let void (a : Nat) : Bool := match w.records.find? (fun r => r.addr == a) with | none => true | some r => r.void
  let front := dropOldest w.records w.ring.chunks
  let back := (front.reverse.dropWhile (fun c => void c.rec_)).reverse
  let tail := (back.getLast?.map Chunk.stop).getD 0
  let kept := w.records.filter (fun r => back.any (fun c => c.rec_ == r.addr))
  { w with
    ring := { w.ring with chunks := back, tail := tail, turns := if back.length < w.ring.chunks.length then w.ring.turns + 1 else w.ring.turns }
    records := kept }

/-- The records that follow a record of their actor: the region and the core whose saggar holds each. -/
def State.followers (s : State) (soc : Nat) (r : Record) : List (Nat × Nat × Record) :=
  s.regions.flatMap (fun x => if x.2.soc = soc then
      x.2.work.flatMap (fun w =>
        (w.2.records.filter (fun q => q.event.dst == r.event.dst && q.aprev == r.addr && !q.void)).map (fun q => (x.1, w.1, q)))
    else [])

/-- A collected record that leaves its saggar named no more: NEWEST of its actor is 0 where it was the newest, and APREV of a record behind it, by the dealer of a
core (R143). -/
def State.forget (s : State) (dealer rcb : Nat) (r : Record) : State :=
  let x := s.dealerLoad rcb dealer (r.desc + 0x30) 8
  let s1 := if x.1.1 = r.addr then x.2.dealerStore rcb dealer (r.desc + 0x30) 8 0 false else x.2
  (s1.followers (s1.socOf rcb) r).foldl (fun (t : State) y =>
    let q : Record := { y.2.2 with aprev := 0 }
    (t.modWork y.1 y.2.1 (fun w => { w with records := w.records.map (fun z => if z.addr = q.addr then q else z) })).dealerStore rcb dealer
      (q.addr + 64) 64 (recordLine q).toNat false) s1

/-- The space of gone records of a core's saggar returned by the dealer of a core, its own or the one that has adopted it; of those that were collected nothing names
them any longer (R143, R340). -/
def State.reclaim (s : State) (dealer rcb core : Nat) : State :=
  let w := s.getWork rcb core
  let w' := w.reclaim
  let left := w.records.filter (fun r => r.coll && !w'.records.any (fun q => q.addr == r.addr))
  left.foldl (fun (t : State) r => t.forget dealer rcb r) (s.modWork rcb core (fun _ => w'))

/-- The firings that run on a core: their slots and their keys. -/
def State.firingsOn (s : State) (core : Nat) : List (Nat × Nat) :=
  (s.slotsOf core).filterMap (fun k =>
    match (s.getCtx (ctxKey core k)).firing with
    | none => none
    | some f => some (k, evKey f.event))

/-- The least of a list of numbers. -/
def least : List Nat → Option Nat
  | [] => none
  | x :: xs => match least xs with
    | none => some x
    | some y => some (min x y)

/-- The core's lowest key among its running firings and its pending events (R157): of the events those of the saggar's own region, which alone take space of it, of the firings
every one on the core (DESIGN CHOICE, log 49: R157 does not say what regions that share a core count for one another). -/
def State.lowestKey (s : State) (rcb core : Nat) : Option Nat :=
  let w := s.getWork rcb core
  least ((s.firingsOn core).map (fun x => x.2) ++ ((w.deck ++ w.kitty).filter (fun e => !e.cancel)).map evKey)

/-! ### Squash and rollback (R159, R160) -/

/-- A record changed, in place. -/
def Work.modRecord (w : Work) (a : Nat) (f : Record → Record) : Work :=
  { w with records := w.records.map (fun r => if r.addr = a then f r else r) }

/-- One unit undone: an undo copy is restored by a store of the dealer, an event sent is cancelled (R159). HIX and PAYLOAD of the cancelling event
are 0 (DESIGN CHOICE, log 49: the spec gives its key alone). -/
def State.undoUnit (s : State) (rcb core : Nat) (actor : BitVec 48) (u : RUnit) : State :=
  match u with
  | .undo a old p =>
    let s1 := s.dealerStore rcb core a 64 old.toNat p
    s1.raiseAgent (actorAg (s1.socOf rcb) actor) (s1.agentTime core)
  | .sent t d n =>
    s.sendEvent rcb core
      { time := t, hix := 0, dst := d, cancel := true, src := actor, serial := n, payload := 0, poison := false,
        lt := s.agentTime core }
  | _ => s

/-- Whether the next step of a core's dealer in its walks may be made: a cancelling event needs a free entry in the in-flight table (R164). -/
def State.undoDue (s : State) (core : Nat) : Bool :=
  match (s.getCore core).undo with
  | [] => false
  | u :: _ => match u.unit_ with | .sent .. => decide ((s.getCore core).flight.length < 64) | _ => true

/-- One step of a dealer's walks: one block restored, or one cancelling event sent (R159, R230). -/
def State.undoStep (s : State) (core : Nat) : State :=
  match (s.getCore core).undo with
  | [] => s
  | u :: us => (s.modCore core (fun c => { c with undo := us })).undoUnit u.rcb core u.actor u.unit_

/-- Whether a dealer still has to undo records of an actor, so that none of its events may fire (R159, step 4). -/
def State.undoing (s : State) (soc : Nat) (actor : BitVec 48) : Bool :=
  s.cores.any (fun x => x.2.undo.any (fun u => u.actor == actor && s.socOf u.rcb == soc))

/-- The steps of a core's walks for a region made at once, as its end makes them (R344). -/
def State.undoAll (s : State) (rcb core : Nat) : State :=
  ((s.getCore core).undo.filter (fun u => u.rcb == rcb)).foldl (fun (t : State) u => t.undoUnit u.rcb core u.actor u.unit_)
    (s.modCore core (fun c => { c with undo := c.undo.filter (fun u => u.rcb != rcb) }))

/-- Step 2 of R159 for a record in a saggar of (`rrcb`, `rcore`), by the dealer of a core, for an event at a TIME: its undo units and then its events sent, newest
first, are left to the dealer's steps; VOID is set, and its event returned to the deck of (`rcb`, `core`). -/
def State.undoRecord (s : State) (dealer rcb core time rrcb rcore : Nat) (r : Record) : State :=
  let undos := r.units.filter (fun u => match u with | .undo .. => true | _ => false)
  let sents := r.units.filter (fun u => match u with | .sent .. => true | _ => false)
  let todo := (undos ++ sents).map (fun u => { rcb := rcb, actor := r.event.dst, time := time, unit_ := u : Undo })
  let s1 := s.modCore dealer (fun c => { c with undo := c.undo ++ todo })
  let s2 := s1.modWork rrcb rcore (fun w => w.modRecord r.addr (fun _ => { r with void := true, units := [] }))
  let s3 := s2.dealerStore rcb dealer (r.addr + 64) 64 (recordLine { r with void := true }).toNat false
  s3.insertEvent rcb core r.event

/-- The firing of a slot ended without its record being touched: the slot is held until its tags complete (R153, R160), and what the matrix unit and
the sum-product engine have not retired of it is abandoned (R160). The messages in its inbox are dropped, and their senders get no error
(DESIGN CHOICE, log 49: the spec says what becomes of them at `halt` and `fend` alone). Where no other context of the region is left on the core its shape slots become
empty (DESIGN CHOICE, log 49: R272 empties them with the last context, and says that a squash never changes a slot). -/
def State.dropFiring (s : State) (core slot : Nat) : State :=
  let c := s.getCtx (ctxKey core slot)
  let pending := c.tags.toList.any (fun t => decide (t.pending ≠ 0))
  let s1 := s.modCore core (fun co => { co with
    matq := co.matq.filter (fun j => j.slot != slot)
    spq := co.spq.filter (fun j => j.slot != slot) })
  ((s1.endCtx (ctxKey core slot)).modCtx (ctxKey core slot) (fun c => { c with slot := if pending then .draining none else .free })).emptyShapes core

/-- SPSTAT after an instruction has retired: STALL saturates, COUNT wraps (R281). -/
def spCounted (x : Dword) (stall : Nat) : Dword :=
  BitVec.ofNat 64 (min (x.toNat / 2 ^ 32 + stall) (2 ^ 32 - 1) * 2 ^ 32 + (x.toNat % 2 ^ 32 + 1) % 2 ^ 32)

/-- The words of an instruction of the sum-product engine written at its retirement, at its place in its context's program order, and the instruction counted
(R276, R279 to R282). -/
def State.retireSp (s : State) (core : Nat) (j : SpJob) : State :=
  let k := ctxKey core j.slot
  (j.writes.foldl (fun (t : State) x => t.scratchStoreBy k x.1 4 x.2.1 x.2.2) s).modCtx k (fun c =>
    { c with cr := { c.cr with spstat := spCounted c.cr.spstat j.stall } }.addFlags j.flags)

/-- The oldest instructions of a core's sum-product engine retired, of a number of them, until none of the others writes some bytes of its scratchpad. -/
def State.retireBefore (s : State) (core off n : Nat) : Nat → State
  | 0 => s
  | fuel + 1 =>
    match (s.getCore core).spq with
    | [] => s
    | j :: js =>
      if (s.getCore core).spWrites off n then
        ((s.modCore core (fun c => { c with spq := js, spDone := s.cycle })).retireSp core j).retireBefore core off n fuel
      else s

/-- The lanes that a context standing within its stores has still to make into the scratchpad, each after the instructions of the sum-product engine whose words
it writes have retired (R279, R282). -/
def State.finishLanes (s : State) (core slot : Nat) : State :=
  match (s.getCtx (ctxKey core slot)).plan with
  | none => s
  | some p =>
    if p.store && !p.back then p.todo.foldl (fun (t : State) x => match x.2.2 with
      | .scratch off => (t.retireBefore core off p.bytes (t.getCore core).spq.length).scratchStoreBy (ctxKey core slot) off p.bytes
          (p.value x.1).1 (p.value x.1).2
      | _ => t) s
    else s

/-- A firing squashed for an event at a TIME: its units undone, its record VOID, its event left to fire again, its slot freed. The squash falls at an
instruction boundary: an instruction that has made some of its stores has made the others before, and those in the state window, undone at once, leave nothing (R160). -/
def State.squashFor (s : State) (core slot time : Nat) : State :=
  let c := s.getCtx (ctxKey core slot)
  match c.firing with
  | none => s
  | some f =>
    let rcb := c.rgn
    let s1 := (s.finishLanes core slot).dropFiring core slot
    match ((s1.getWork rcb core).records.find? (fun r => r.addr = f.record)) with
    | none => s1
    | some r =>
      let s2 := s1.undoRecord core rcb core time rcb core r
      let s3 := s2.dealerStore rcb core (r.desc + 0x30) 8 r.aprev false
      s3.reclaim core rcb core

/-- A firing squashed (R160), to fire again at its own TIME. -/
def State.squash (s : State) (core slot : Nat) : State :=
  match (s.getCtx (ctxKey core slot)).firing with
  | none => s
  | some f => s.squashFor core slot f.event.time.toNat

/-- The regions of a society (R163). -/
def State.regionsOf (s : State) (soc : Nat) : List Nat := (s.regions.filter (fun x => x.2.soc == soc)).map (fun x => x.1)

/-- The region that a core of a budget works for in a society: the packet's own where its budget has the core, else the first that has
it (DESIGN CHOICE, log 49: where two regions of a society share a core, the spec does not say whose deck takes an event). -/
def State.hostRegion (s : State) (rcb core : Nat) : Nat :=
  let has (q : Nat) : Bool := ((s.getRegion? q).map (fun r => r.cores.contains core)).getD false
  if has rcb then rcb else ((s.regionsOf (s.socOf rcb)).find? has).getD rcb

/-- The records of an actor that are consumed and not rolled back, with the region and the core whose saggar holds them (R196). -/
def State.recordsOf (s : State) (soc : Nat) (actor : BitVec 48) : List (Nat × Nat × Record) :=
  s.regions.flatMap (fun x => if x.2.soc = soc then
      x.2.work.flatMap (fun w => (w.2.records.filter (fun r => r.event.dst == actor && !r.void)).map (fun r => (x.1, w.1, r)))
    else [])

/-- Records put into a list in falling order of their keys. -/
def insertByKey (x : Nat × Nat × Record) : List (Nat × Nat × Record) → List (Nat × Nat × Record)
  | [] => [x]
  | y :: ys => if evKey x.2.2.event > evKey y.2.2.event then x :: y :: ys else y :: insertByKey x ys

/-- An actor's records from NEWEST through APREV: falling keys (R158). -/
def State.chain (s : State) (soc : Nat) (actor : BitVec 48) : List (Nat × Nat × Record) :=
  (s.recordsOf soc actor).foldl (fun l x => insertByKey x l) []

/-- The slot that fires an actor of a society on a core. -/
def State.firingSlot (s : State) (soc core : Nat) (actor : BitVec 48) : Option Nat :=
  (s.slotsOf core).find? (fun k =>
    let c := s.getCtx (ctxKey core k)
    match c.firing with
    | none => false
    | some f => f.event.dst == actor && s.socOf c.rgn == soc)

/-- TIME of a key (R147). -/
def keyTime (key : Nat) : Nat := key / 2 ^ 80

/-- An actor rolled back by the dealer of its home core through its records at or above a key (R159). A firing in progress is squashed first. -/
def State.rollback (s : State) (rcb core : Nat) (actor : BitVec 48) (bound : Nat) : State :=
  let s0 := match s.firingSlot (s.socOf rcb) core actor with
    | none => s
    | some k =>
      match (s.getCtx (ctxKey core k)).firing with
      | none => s
      | some f => if bound ≤ evKey f.event then s.squashFor core k (keyTime bound) else s
  let walked := (s0.chain (s0.socOf rcb) actor).takeWhile (fun x => decide (bound ≤ evKey x.2.2.event))
  match walked.getLast? with
  | none => s0
  | some (_, _, oldest) =>
    let s1 := walked.foldl (fun t x => t.undoRecord core rcb core (keyTime bound) x.1 x.2.1 x.2.2) s0
    let s2 := s1.dealerStore rcb core (oldest.desc + 0x28) 8 oldest.rngc0.toNat false
    let s3 := s2.dealerStore rcb core (oldest.desc + 0x30) 8 oldest.aprev false
    walked.foldl (fun t x => t.reclaim core x.1 x.2.1) s3

/-- The record of the greatest key above a bound that is not VOID or COLL (R157). -/
def Work.highestAbove (w : Work) (bound : Nat) : Option Record :=
  w.records.foldl (fun (acc : Option Record) r =>
    if r.void || r.coll || decide (evKey r.event ≤ bound) then acc
    else match acc with
      | none => some r
      | some q => if evKey q.event < evKey r.event then some r else acc) none

/-- An actor rolled back at or above a key by the dealer of its home, which may be another core than the one whose saggar holds its records (R159, R196). -/
def State.rollbackAtHome (s : State) (rcb core : Nat) (actor : BitVec 48) (bound : Nat) : State :=
  let h := s.homeNow rcb core actor.toNat
  let home := if h.1.1 = s.pkgNum then h.1.2 else core
  h.2.rollback (h.2.hostRegion rcb home) home actor bound

/-- Space for `n` bytes of a record of a key on a core: from the ring; for the lowest key also from the floor reserve and by rolling back
higher records. `none`: the firing is to be squashed. The fuel bounds the records that can be rolled back (R157). -/
def State.obtain (s : State) (rcb core : Nat) (key rec_ n : Nat) : Nat → Option (Nat × State)
  | 0 => none
  | fuel + 1 =>
    let w := s.getWork rcb core
    let low := (match s.lowestKey rcb core with | none => true | some k => decide (key ≤ k))
    match w.ring.take rec_ n (if low then w.ring.size else w.ring.size - 4096) with
    | some (off, ring) => some (off, s.modWork rcb core (fun w => { w with ring := ring }))
    | none =>
      if !low then none
      else match w.highestAbove key with
        | none => some (0, s.endRegion rcb cRESOURCE)
        | some r => (s.rollbackAtHome rcb core r.event.dst (evKey r.event)).obtain rcb core key rec_ n fuel

/-- How many records a core's saggar may have to roll back. -/
def State.obtainFuel (s : State) (rcb core : Nat) : Nat := (s.getWork rcb core).records.length + 2

/-- Whether a region has ended with a fault. -/
def State.faulted (s : State) (rcb : Nat) : Bool := ((s.getRegion? rcb).map (fun r => r.fault.isSome)).getD false

/-- The state after accesses of the dealer on the running instruction's behalf; the instruction goes no further where they end its region
(R148). -/
def afterDealer (t : State) : Exec Unit := do
  let s ← get
  let rcb := s.cx.rgn
  set t
  if t.faulted rcb && !s.faulted rcb then throw .ended else pure ()

/-- A unit appended to the running firing's record (R154, R156); no space squashes the firing (R157). A unit of a record that is not the newest in its ring lies in a piece of
its own (DESIGN CHOICE, log 25: R155 has a record's units follow its header, and several records grow at once). -/
def appendUnit (u : RUnit) : Exec Unit := do
  let s ← get
  let c := s.cx
  match c.firing with
  | none => pure ()
  | some f =>
    let rcb := c.rgn
    let core := s.coreNum
    match s.obtain rcb core (evKey f.event) f.record (unitBytes u) (s.obtainFuel rcb core) with
    | none => throw .squash
    | some (off, s1) =>
      if s1.faulted rcb && !s.faulted rcb then afterDealer s1 else
      let a := (s1.getWork rcb core).ring.base + off
      let s2 := s1.dealerStore rcb core a 64 (unitLine u).toNat false
      let s3 := match u with
        | .undo _ old p => s2.dealerStore rcb core (a + 64) 64 old.toNat p
        | _ => s2
      let s4 := s3.modWork rcb core (fun w => w.modRecord f.record (fun r => { r with units := u :: r.units }))
      let s5 := match (s4.getWork rcb core).records.find? (fun r => r.addr = f.record) with
        | none => s4
        | some r => s4.dealerStore rcb core (f.record + 64) 64 (recordLine r).toNat false
      afterDealer s5

/-! ### Stores in a firing (R152, R154) -/

/-- Whether bytes lie inside the state window of a firing. -/
def inWindow (f : Firing) (va n : Nat) : Bool := decide (f.base ≤ va) && decide (va + n ≤ f.base + f.size)

/-- Whether an address lies in the scratchpad window (R208). -/
def inScratch (va : Dword) : Bool :=
  decide (Config.scratchBase ≤ va.toNat) && decide (va.toNat < Config.scratchBase + Config.scratchWindow)

/-- The check TIMEDWR of a store (R81, R152). -/
def guardTimed (va : Dword) (n : Nat) : Exec Unit := do
  let c ← cx
  match c.firing with
  | none => pure ()
  | some f => guardTrap (inScratch va || inWindow f va.toNat n) cTIMEDWR va

/-- The undo copy of a block before a store to it, unless the first-touch filter holds the block: the value that the store overwrites, with every write that the context
sees (R154, R230). -/
def logBlock (block : Nat) : Exec Unit := do
  let c ← cx
  match c.firing with
  | none => pure ()
  | some f =>
    if f.filter.contains block then pure ()
    else
      let s ← get
      let r := s.dealerLoadFor (some s.cur) c.rgn s.coreNum (64 * block) 64
      afterDealer r.2
      appendUnit (.undo (64 * block) (BitVec.ofNat 512 r.1.1) r.1.2)
      if f.filter.length < 64 then
        modCx (fun c => { c with firing := c.firing.map (fun f => { f with filter := nadd f.filter block }) })
      else pure ()

/-- The undo copies of the blocks that a store writes in the state window (R154). -/
def logStore (va : Dword) (n : Nat) : Exec Unit := do
  let c ← cx
  match c.firing with
  | none => pure ()
  | some _ =>
    if inScratch va then pure ()
    else
      logBlock (va.toNat / 64)
      if (va.toNat + n - 1) / 64 ≠ va.toNat / 64 then logBlock ((va.toNat + n - 1) / 64) else pure ()

/-! ### Stops -/

/-- The running instruction waits: it has not completed and runs again (R115). A wait goes on counting from where it began. -/
def State.beginWait (s : State) (k : WaitKind) : State :=
  s.modCx (fun c =>
    let since := match c.wait with
      | some w => if w.kind = k then w.since else s.cycle
      | none => s.cycle
    { c with pc := canon s.grp.first, wait := some { kind := k, since := since, grp := s.grp } })

/-- Whether a unit has still to retire an earlier instruction of a context (R19, R283). -/
def State.unitsOwed (s : State) (core slot : Nat) : Bool :=
  (s.getCore core).matq.any (fun j => j.slot == slot) || (s.getCore core).spq.any (fun j => j.slot == slot)

/-- Whether an `mst` or `mstc` of a tile has to wait: until every earlier member of its context has had its turn, and every one that writes the tile has retired (R413). -/
def State.tileOwed (s : State) (m : Nat) : Bool := s.co.matq.any (fun j => j.tile == m || j.slot == s.slotNum)

/-- Whether the units of the running context's core have still to retire something that it has issued. -/
def State.owesUnits (s : State) : Bool := s.unitsOwed s.coreNum s.slotNum

/-- The trap of the running group taken at its first word, when every earlier instruction of its context has retired (R19): until then the group waits and
runs again. A poisoned operand leaves its mark in CHKINT (R342). -/
def State.trapNow (s : State) (cause : Byte) (v : Dword) : State :=
  if s.owesUnits then (if s.cx.wait.isSome then s else s.beginWait .matrix)
  else if cause = cPOISON then
    let s1 := s.modCx (fun c => c.chk 1)
    s1.takeTrap s.cur cause s1.cx.cr.chkint s.grp.first (pfxOf s.grp)
  else s.takeTrap s.cur cause v s.grp.first (pfxOf s.grp)

/-- The stop of the running group (R19): its trap is taken, a PAGE of a firing squashing it first (R172). -/
def State.stop (s : State) (e : Stop) : State :=
  match e with
  | .wait k => s.beginWait k
  | .ended => s
  | .squash =>
    let slot := s.slotNum
    let c := s.cx
    let s1 := s.squash s.coreNum slot
    match c.firing with
    | none => s1
    | some f => s1.modWork c.rgn s.coreNum (fun w =>
        { w with blocked := kset w.blocked (evKey f.event) w.ring.turns })
  | .trap cause v =>
    let c := s.cx
    if cause = cPAGE ∧ c.firing.isSome ∧ c.mode = .user then
      (s.squash s.coreNum s.slotNum).trapToS s.cur (c.trapEntry cause v s.grp.first (pfxOf s.grp))
    else s.trapNow cause v

/-- The state before an instruction that stops, with what its attempt leaves: the counter of free values, the cached translations (R219) with the
leases and the logical time that their walks take (R219, R221), what holds its step up (R282, R396), and the end of a region whose memory failed the dealer,
which is no trap of the instruction (R148). -/
def State.undone (s u : State) : State :=
  let t : State := State.raiseTime { s with fresh := u.fresh, tlb := u.tlb, stalled := u.stalled, leases := u.leases, affine := u.affine } (.ctx s.cur) u.cx.lt
  if u.regions = s.regions then t
  else (u.regions.filter (fun x => x.2.fault.isSome && !s.faulted x.1)).foldl
    (fun (t : State) x => t.endRegion x.1 (x.2.fault.getD 0)) t

/-- The outcome of an instruction: its state if it completes, else its stop taken in the state before it (R19). -/
def finish (m : Exec Unit) (s : State) : Host.Outcome State Fault Refusal :=
  match m s with
  | (.ok _, s') => .next s'
  | (.error e, s') => .next ((s.undone s').stop e)

/-- The running group completes at the end of a computation. -/
def retireE : Exec Unit := modify State.retire

end Sys2Proof.Machine
end

