-- ==== Sys2Proof/Machine/Operands.lean ====
section
/-! DEFINITION. Operand forms: scalar operands with their poison (spec 02 R51), sizes and extension (04 R81), vector operands with
channel ports (06 R136), lanes and predicates (01 R11, 05 R94, R95). -/

namespace Sys2Proof.Machine

/-! ### Scalars -/

/-- The result of an operation on two scalar registers, with poison from both (R51, R77). -/
def State.scalar2 (s : State) (d a b : Reg) (f : Dword → Dword → Dword) : State :=
  (s.modCx (fun c => c.setS d (f (c.s a) (c.s b)) (c.sp a || c.sp b))).retire

/-- The result of an operation on one scalar register (R51, R77, R78). -/
def State.scalar1 (s : State) (d a : Reg) (f : Dword → Dword) : State :=
  (s.modCx (fun c => c.setS d (f (c.s a)) (c.sp a))).retire

/-- The 64-bit form of an operation, or its 32-bit form with the result sign-extended (R52, R77). -/
def form (w : Bool) (f : (n : Nat) → BitVec n → BitVec n → BitVec n) (x y : Dword) : Dword :=
  if w then (f 32 (x.extractLsb' 0 32) (y.extractLsb' 0 32)).signExtend 64 else f 64 x y

end Sys2Proof.Machine

namespace Sys2Proof

/-- Bytes of an access size (R33). -/
def Size.bytes : Size → Nat
  | .b => 1 | .h => 2 | .w => 4 | .d => 8

end Sys2Proof

namespace Sys2Proof.Machine

/-- A loaded value extended to 64 bits (R81). -/
def extend (zext : Bool) (n v : Nat) : Dword :=
  if zext then BitVec.ofNat 64 v else BitVec.ofInt 64 (signedOf (8 * n) v)

/-! ### Vectors -/

/-- A vector operand read as a source: a bound port gives its head packet, an empty one makes the context wait (R136). -/
def srcV (r : Reg) : Exec (VReg × Bool) := do
  let c ← cx
  match c.portOf r with
  | none => return (c.v r, c.vp r)
  | some p =>
    match p.fifo with
    | [] => throw (.wait (.port (r.toNat - 28)))
    | x :: _ => return (x.1, x.2.1)

/-- The logical time of a context raised to that of something that it has taken, so that its later accesses follow the taken thing's
sender's in the single order (R136, R221). -/
def Context.lifted (c : Context) (lt : Nat) : Context := { c with lt := max c.lt lt }

/-- The head packet of a bound port popped, which its sender's accesses precede (R136). -/
def Context.popPort (c : Context) (r : Reg) : Context :=
  match c.portOf r with
  | none => c
  | some p => { c with ports := vset c.ports (r.toNat - 28) (some { p with fifo := p.fifo.drop 1 }) }.lifted ((p.fifo.map (fun (x : VReg × (Bool × Nat)) => x.2.2)).headD 0)

/-- The ports that an instruction named as sources popped, once each (R136). -/
def Context.popPorts (c : Context) (rs : List Reg) : Context := rs.eraseDups.foldl Context.popPort c

/-- Lane `i` of a vector at a width, as a number (R50). -/
def lane (w : Nat) (v : VReg) (i : Nat) : Nat := v.toNat / 2 ^ (w * i) % 2 ^ w

/-- The vector whose lanes, lane 0 first, are the numbers of a list. -/
def ofLanes (w : Nat) : List Nat → Nat
  | [] => 0
  | x :: xs => x % 2 ^ w + 2 ^ w * ofLanes w xs

def ofLanesV (w : Nat) (xs : List Nat) : VReg := BitVec.ofNat 512 (ofLanes w xs)

/-- The lanes of a vector, lane 0 first. -/
def lanesOf (w : Nat) (v : VReg) : List Nat := (rangeFrom 0 (512 / w)).map (lane w v)

/-- Whether lane `i` is active (R11). -/
def active (g : Dword) (i : Nat) : Bool := g.getLsbD i

/-- Whether every one of `n` lanes is active. -/
def allActive (n : Nat) (g : Dword) : Bool := (rangeFrom 0 n).all (active g)

/-- The poison bit of a vector destination: the sources', and the old one's if a lane is inactive (R95). -/
def maskPois (n : Nat) (g : Dword) (src old : Bool) : Bool := src || (old && !allActive n g)

/-- The new value of a vector destination: new lanes where active, old ones elsewhere (R51). -/
def maskLanes (w : Nat) (g : Dword) (old : VReg) (f : Nat → Nat) : VReg :=
  ofLanesV w ((rangeFrom 0 (512 / w)).map (fun i => if active g i then f i else lane w old i))

/-- A lane operation without flags on up to three source vectors: each active lane is computed from the lanes of the sources (R51, R94,
R95). -/
def laneOp (w : Nat) (d : Reg) (srcs : List Reg) (g : PReg) (f : List Nat → Nat) : Exec Unit := do
  let vs ← srcs.mapM srcV
  let c ← cx
  let gv := c.p g
  let v := maskLanes w gv (c.v d) (fun i => f (vs.map (fun x => lane w x.1 i)))
  let p := maskPois (512 / w) gv (vs.any (fun x => x.2)) (c.vp d)
  modCx (fun c => (c.popPorts srcs).setV d v p)
  retireE

/-! ### Scratchpad words that the sum-product engine still owns -/

/-- An access to a scratchpad word that an unretired engine instruction writes waits until that retires: of the context's own (R279), and of another's,
whose group of accesses it may not split (R282). -/
def waitSpWords (p : Place) (n : Nat) : Exec Unit := do
  let s ← get
  match p with
  | .scratch off =>
    if s.co.spWrites off n then throw (.wait .spDone) else pure ()
  | _ => pure ()

end Sys2Proof.Machine
end

