-- ==== Sys2Proof/Machine/Flags.lean ====
section
/-! DEFINITION. Every flag computation: comparisons of branches (spec 04 R84), the settings of FPM and of a mod prefix (02 R38; 03 R57
to R59, R65) and the sticky flags. -/

namespace Sys2Proof.Machine

/-! ### Conditions of branches (R84) -/

def condEq (x y : Dword) : Bool := x == y
def condNe (x y : Dword) : Bool := x != y
def condLt (x y : Dword) : Bool := x.slt y
def condGe (x y : Dword) : Bool := !x.slt y
def condLtn (x y : Dword) : Bool := x.ult y
def condGen (x y : Dword) : Bool := !x.ult y

/-! ### Floating-point settings and flags -/

/-- Rounding modes (R57). -/
inductive Rm where
  | rne | rtz | rdn | rup
  deriving DecidableEq, Repr

/-- The rounding mode of a code of FPM (R57). -/
def rmOf (n : Nat) : Rm := match n % 4 with | 0 => .rne | 1 => .rtz | 2 => .rdn | _ => .rup

/-- The settings that an instruction computes under: rounding, flush, saturation (R38, R57, R59, R65). -/
structure FpEnv where
  rm    : Rm
  flush : Bool
  sat   : Bool
  deriving DecidableEq, Repr

/-- The settings in force for the running instruction: those of its mod prefix where it gives them, else FPM's (R38). -/
def State.fpEnv (s : State) : FpEnv :=
  let f := s.cx.cr.fpm
  let m := s.grp.mod.getD 0
  let rmc := (m.extractLsb' 0 3).toNat
  let satc := (m.extractLsb' 3 2).toNat
  let flc := (m.extractLsb' 5 2).toNat
  { rm := if rmc = 0 then rmOf (f.extractLsb' 0 2).toNat else rmOf (rmc - 1)
    sat := if satc = 0 then f.getLsbD 3 else satc = 1
    flush := if flc = 0 then f.getLsbD 2 else flc = 1 }

/-- The settings that rules name outright: RNE, subnormals kept, no saturation (R70, R235). -/
def FpEnv.plain : FpEnv := { rm := .rne, flush := false, sat := false }

def fNV : FpFlags := 0x01
def fDZ : FpFlags := 0x02
def fOF : FpFlags := 0x04
def fUF : FpFlags := 0x08
def fNX : FpFlags := 0x10
def fSO : FpFlags := 0x20
def fSU : FpFlags := 0x40
def fSV : FpFlags := 0x80

/-- A flag if a condition holds. -/
def flagIf (b : Bool) (f : FpFlags) : FpFlags := if b then f else 0

/-- The OR of the flags of results. -/
def orFlags (fs : List (Nat × FpFlags)) : FpFlags := fs.foldl (fun a x => a ||| x.2) 0

/-- A lane operation with flags: as `laneOp`, and the flags of the active lanes are ORed into FPM (R51, R58). -/
def laneOpF (w : Nat) (d : Reg) (srcs : List Reg) (g : PReg) (f : FpEnv → List Nat → Nat × FpFlags) : Exec Unit := do
  let vs ← srcs.mapM srcV
  let s ← get
  let c := s.cx
  let gv := c.p g
  let rs := (rangeFrom 0 (512 / w)).map (fun i =>
    if active gv i then f s.fpEnv (vs.map (fun x => lane w x.1 i)) else (lane w (c.v d) i, 0))
  let p := maskPois (512 / w) gv (vs.any (fun x => x.2)) (c.vp d)
  modCx (fun c => ((c.popPorts srcs).setV d (ofLanesV w (rs.map (fun x => x.1))) p).addFlags (orFlags rs))
  retireE

end Sys2Proof.Machine
end

