-- ==== Sys2Proof/Machine/Scalar.lean ====
section
/-! DEFINITION. Scalar loads and stores (spec 04 R81 to R83), branches and jumps (R84 to R86), the hardware loop (R87, R88), the
control-register instructions (R89, R90) and the system instructions (R91 to R93; 19 R345). -/

namespace Sys2Proof.Machine

/-! ### Loads and stores -/

/-- A scalar load of a size from an address; `bad` says that a base or index register is poisoned (R76, R81, R82). -/
def loadScalar (d : Reg) (ea : Dword) (z : Size) (zext bad : Bool) : Exec Unit := do
  guardTrap (ea.toNat % z.bytes = 0) cALIGN ea
  let p ← translateT ea .load z.bytes
  guardPoison bad
  waitSpWords p z.bytes
  let r ← loadE p z.bytes
  modCx (fun c => c.setS d (extend zext z.bytes r.1) r.2)
  retireE

/-- A scalar store of a register of a size to an address (R76, R81, R82, R154). -/
def storeScalar (b : Reg) (ea : Dword) (z : Size) (bad : Bool) : Exec Unit := do
  guardTrap (ea.toNat % z.bytes = 0) cALIGN ea
  let p ← translateT ea .store z.bytes
  guardTimed ea z.bytes
  guardPoison bad
  waitSpWords p z.bytes
  logStore ea z.bytes
  let c ← cx
  storeE p z.bytes ((c.s b).toNat % 2 ^ (8 * z.bytes)) (c.sp b)
  retireE

/-- The address of the indexed forms: S[a] + (S[b] << k) (R81). -/
def indexed (c : Context) (a b : Reg) (k : BitVec 2) : Dword := c.s a + (c.s b <<< k.toNat)

/-- `ld` (R81). -/
def execLd (d a : Reg) (z : Size) (off : Dword) (s : State) : Host.Outcome State Fault Refusal :=
  finish (loadScalar d (s.cx.s a + off) z false (s.cx.sp a)) s
/-- `ldn` (R81). -/
def execLdn (d a : Reg) (z : Size) (off : Dword) (s : State) : Host.Outcome State Fault Refusal :=
  finish (loadScalar d (s.cx.s a + off) z true (s.cx.sp a)) s
/-- `st` (R81). -/
def execSt (b a : Reg) (z : Size) (off : Dword) (s : State) : Host.Outcome State Fault Refusal :=
  finish (storeScalar b (s.cx.s a + off) z (s.cx.sp a)) s
/-- `ldx` (R81). -/
def execLdx (d a b : Reg) (k : BitVec 2) (z : Size) (s : State) : Host.Outcome State Fault Refusal :=
  finish (loadScalar d (indexed s.cx a b k) z false (s.cx.sp a || s.cx.sp b)) s
/-- `ldnx` (R81). -/
def execLdnx (d a b : Reg) (k : BitVec 2) (z : Size) (s : State) : Host.Outcome State Fault Refusal :=
  finish (loadScalar d (indexed s.cx a b k) z true (s.cx.sp a || s.cx.sp b)) s
/-- `stx` (R81). -/
def execStx (d a b : Reg) (k : BitVec 2) (z : Size) (s : State) : Host.Outcome State Fault Refusal :=
  finish (storeScalar d (indexed s.cx a b k) z (s.cx.sp a || s.cx.sp b)) s

/-! ### Branches and jumps -/

/-- A branch on a condition: to A + 4 × SX(imm) if it holds (R84, R86). -/
def branch (cond : Dword → Dword → Bool) (b a : Reg) (i : BitVec 16) : Exec Unit := do
  let s ← get
  let c := s.cx
  let taken := cond (c.s a) (c.s b)
  let t := s.lastWord + 4 * i.signExtend 64
  guardTrap (!taken || canonical t) cACCESS t
  guardPoison (c.sp a || c.sp b)
  if taken then set (s.goto t) else retireE

/-- `beq` (R84). -/
def execBeq (b a : Reg) (i : BitVec 16) (s : State) : Host.Outcome State Fault Refusal :=
  finish (branch condEq b a i) s
/-- `bne` (R84). -/
def execBne (b a : Reg) (i : BitVec 16) (s : State) : Host.Outcome State Fault Refusal :=
  finish (branch condNe b a i) s
/-- `blt` (R84). -/
def execBlt (b a : Reg) (i : BitVec 16) (s : State) : Host.Outcome State Fault Refusal :=
  finish (branch condLt b a i) s
/-- `bge` (R84). -/
def execBge (b a : Reg) (i : BitVec 16) (s : State) : Host.Outcome State Fault Refusal :=
  finish (branch condGe b a i) s
/-- `bltn` (R84). -/
def execBltn (b a : Reg) (i : BitVec 16) (s : State) : Host.Outcome State Fault Refusal :=
  finish (branch condLtn b a i) s
/-- `bgen` (R84). -/
def execBgen (b a : Reg) (i : BitVec 16) (s : State) : Host.Outcome State Fault Refusal :=
  finish (branch condGen b a i) s

/-- `jal` (R85, R86). -/
def execJal (d : Reg) (i : BitVec 21) (s : State) : Host.Outcome State Fault Refusal :=
  finish (do
    let s ← get
    let t := s.lastWord + 4 * i.signExtend 64
    guardTrap (canonical t) cACCESS t
    modCx (fun c => c.setS d (s.lastWord + 4) false)
    modify (fun s => s.goto t)) s

/-- `jalr` (R85, R86). -/
def execJalr (d a : Reg) (off : Dword) (s : State) : Host.Outcome State Fault Refusal :=
  finish (do
    let s ← get
    let t := s.cx.s a + off
    guardTrap (t.extractLsb' 0 2 == 0) cALIGN t
    guardTrap (canonical t) cACCESS t
    guardPoison (s.cx.sp a)
    modCx (fun c => c.setS d (s.lastWord + 4) false)
    modify (fun s => s.goto t)) s

/-- `loop` (R87, R88). -/
def execLoop (a : Reg) (n : BitVec 12) (s : State) : Host.Outcome State Fault Refusal :=
  finish (do
    let s ← get
    let c := s.cx
    guardPoison (c.sp a)
    let first := s.lastWord
    let last := first + BitVec.ofNat 64 (4 * n.toNat)
    modCx (fun c => { c with cr := { c.cr with lstart := codeAddr (first + 4), lend := codeAddr last, lcnt := c.s a } })
    modify (fun s => s.goto (if c.s a = 0 then last + 4 else first + 4))) s

/-! ### Control registers -/

/-- The trap PRIV for an S register in user mode (R13, R14). -/
def guardPriv (n : CReg) : Exec Unit := do
  let s ← get
  guardTrap (!n.isS || s.cx.mode == .super) cPRIV (BitVec.setWidth 64 s.grp.word)

/-- An access to FPM waits for the matrix members before it (R413), one to SPSTAT for the engine's instructions (R302). -/
def waitUnits (n : CReg) : Exec Unit := do
  let s ← get
  match n with
  | .fpm => if s.co.matq.any (fun j => j.slot == s.slotNum) then throw (.wait .matrix) else
      if s.co.spq.any (fun j => j.slot == s.slotNum) then throw (.wait .spDone) else pure ()
  | .spstat => if s.co.spq.any (fun j => j.slot == s.slotNum) then throw (.wait .spDone) else pure ()
  | _ => pure ()

/-- The logical time that a read of a control register is placed after: a read of KILN follows the deferred writes of the core's dealer (R169). -/
def State.readTime (s : State) (n : CReg) : Nat :=
  match n with
  | .kiln => s.agentTime s.coreNum
  | _ => 0

/-- `crr` (R89). -/
def execCrr (d : Reg) (n : CReg) (s : State) : Host.Outcome State Fault Refusal :=
  finish (do
    guardPriv n
    waitUnits n
    let s ← get
    modCx (fun c => (c.setS d (s.crRead s.cur n) false).lifted (s.readTime n))
    retireE) s

/-- A write of a control register (R89, R90). Those of SPSTAT by `crs` and `crc` wait for the context's `spup` and `spdown` as `crw` does (DESIGN CHOICE, log 49: R302 names
`crr` and `crw`). -/
def writeCr (kind : CrKind) (a : Reg) (n : CReg) : Exec Unit := do
  guardPriv n
  guardPoison ((← cx).sp a)
  waitUnits n
  let s ← get
  modCx (fun c => c.crSet n (crNew n kind (s.crRead s.cur n) (c.s a)))
  retireE

/-- `crw` (R89). -/
def execCrw (a : Reg) (n : CReg) (s : State) : Host.Outcome State Fault Refusal := finish (writeCr .w a n) s
/-- `crs` (R89). -/
def execCrs (a : Reg) (n : CReg) (s : State) : Host.Outcome State Fault Refusal := finish (writeCr .s a n) s
/-- `crc` (R89). -/
def execCrc (a : Reg) (n : CReg) (s : State) : Host.Outcome State Fault Refusal := finish (writeCr .c a n) s

/-! ### System instructions -/

/-- `nop` (R91). -/
def execNop (s : State) : Host.Outcome State Fault Refusal := .next s.retire

/-- `trap n` raises SYSCALL; the number stays in the word (R91). -/
def execTrap (_n : BitVec 15) (s : State) : Host.Outcome State Fault Refusal :=
  finish (trapWith cSYSCALL s.wordValue) s

/-- `brkpt n` raises BRK (R91). -/
def execBrkpt (_n : BitVec 15) (s : State) : Host.Outcome State Fault Refusal :=
  finish (trapWith cBRK s.wordValue) s

/-- The S context parks once it has neither a trap to handle nor supervisor work (R116). -/
def State.parkS (s : State) (core : Nat) : State :=
  let c := s.getCtx (ctxKey core 0)
  if c.cr.sstat.getLsbD 16 || (s.getCore core).supWork then s
  else s.setCtx (ctxKey core 0) { c.takeBack with slot := .parkedWaiting }

/-- `eret` (R92, R347); the end of a containment notice releases the seals that it told of (R340). -/
def execEret (s : State) : Host.Outcome State Fault Refusal :=
  let c := s.cx
  match c.mode with
  | .super =>
    if c.cr.sstat.getLsbD 16 then
      let s1 := if c.cr.scause.getLsbD 63 then
          s.modCore c.cr.sval.toNat (fun co => { co with sealed := co.sealed.map (fun x => { x with released := true }) })
        else s
      .next (s1.eretS.parkS s.coreNum)
    else finish (trapWith cILL s.wordValue) s
  | .user =>
    if c.cr.ucause.getLsbD 63 then .next s.eretU
    else finish (trapWith cILL s.wordValue) s

/-- `wfe`: it completes when the event latch is set, and clears it (R93). -/
def execWfe (s : State) : Host.Outcome State Fault Refusal :=
  finish (do
    if (← cx).latch then
      modCx (fun c => { c with latch := false })
      retireE
    else throw (.wait .latch)) s

/-- `chkerr`: after every earlier instruction has retired, a trap POISON if a masked CHKINT bit is set (R345). -/
def execChkerr (m : BitVec 3) (s : State) : Host.Outcome State Fault Refusal :=
  finish (do
    let s ← get
    if s.co.matq.any (fun j => j.slot == s.slotNum) then throw (.wait .matrix) else pure ()
    if s.co.spq.any (fun j => j.slot == s.slotNum) then throw (.wait .spDone) else pure ()
    guardTrap (s.cx.cr.chkint.extractLsb' 0 3 &&& m == 0) cPOISON s.cx.cr.chkint
    retireE) s

end Sys2Proof.Machine
end

