-- ==== Sys2Proof/Machine/Dealer.lean ====
section
/-! DEFINITION. What the dealer of a core does (spec 06 R113 to R130, 07 R149, R150, R171, R174, 10 R207): slots and issuing positions, the
work that is eligible, a region coming into force, contexts that start and end, and the choice of a firing. -/

namespace Sys2Proof.Machine

/-- The clock of a sweep scope: CYCLE, or the domain or system count (R165, R399). -/
def State.clock (s : State) : SweepScope → Nat
  | .die => s.cycle
  | .package => s.cycle
  | .domain => s.domTicks
  | .system => s.sysTicks

/-! ### Slots and positions -/

/-- Whether a slot's context holds one of the four issuing positions (R114). -/
def Context.holds (c : Context) : Bool :=
  match c.slot with
  | .issuing => true
  | .waking _ => true
  | _ => false

/-- The contexts of a core that the state lists, by slot. -/
def State.ctxsOn (s : State) (core : Nat) : List (Nat × Context) :=
  (s.ctxs.filter (fun x => x.1 / 64 = core)).map (fun x => (x.1 % 64, x.2))

/-- Issuing positions held on a core. -/
def State.held (s : State) (core : Nat) : Nat := ((s.ctxsOn core).filter (fun x => x.2.holds)).length

/-- Whether a slot may take new work (R23, R114). -/
def Context.open_ (c : Context) : Bool := c.slot == .free && c.trapped.isNone && !c.inTrap

/-- How many slots of a core a region may use (R120, R246). -/
def Region.limit (r : Region) (core : Nat) : Nat := if r.colive = 0 then slotsPer r else kgetD r.reserved core 0

/-- The slots of a core, from slot 1 on, that other regions have reserved and that a region of a priority leaves to them (R121): those of the
co-resident regions of no lower priority. A co-resident region has its own. -/
def State.keptSlots (s : State) (rcb : Nat) (r : Region) (core : Nat) : Nat :=
  if r.colive ≠ 0 then 0
  else (s.regions.filter (fun x => x.1 != rcb && x.2.running && x.2.colive != 0 && decide (r.prio ≤ x.2.prio))).foldl
    (fun (n : Nat) x => max n (kgetD x.2.reserved core 0)) 0

/-- The slots of a core that a region may use (R113, R120, R121). -/
def State.slotsFor (s : State) (rcb : Nat) (r : Region) (core : Nat) : List Nat :=
  let kept := s.keptSlots rcb r core
  rangeFrom (1 + kept) (min (r.limit core) (residents r.part - 1 - kept))

/-- The lowest-numbered free slot of a region on a core (R127); nothing starts while a checkpoint quiesces the domain (R401). -/
def State.freeSlot (s : State) (rcb : Nat) (r : Region) (core : Nat) : Option Nat :=
  if s.ckpt.step == .quiesce then none
  else (s.slotsFor rcb r core).find? (fun k => (s.getCtx (ctxKey core k)).open_)

/-- Whether a wait lets the dealer park its context (R115, R292). -/
def WaitKind.parks : WaitKind → Bool
  | .latch => true | .reply _ _ => true | .inbox => true | .port _ => true | .kiln _ => true | .phase _ => true
  | .send _ _ => true | .tagsAny _ => true | .tagsAll _ => true
  | _ => false

/-- Whether a yield is taken at once at a wait (R290, R292, R348). -/
def WaitKind.yields (w : WaitKind) : Bool := w.parks || (match w with | .engine .. => true | _ => false)

/-- Whether every U slot of a core is free. -/
def State.coreIdle (s : State) (core : Nat) : Bool := (s.ctxsOn core).all (fun x => x.1 == 0 || x.2.slot == .free)

/-! ### The end of a core's last context (R126, R272) -/

/-- The accumulator and scratchpad granules of a core's pool that are gated when its last context ends, freely chosen (log 6); their contents
are lost. -/
def State.gate (s : State) (core : Nat) : State :=
  let co := s.getCore core
  let off := partReg co.part + partAcc co.part
  let gated := (rangeFrom (partReg co.part) (co.usable - partReg co.part)).filter (fun g => Config.gates (s.fresh + g))
  let lost (a : Nat) : Bool := gated.contains (off + a / Config.granule)
  { (s.setCore core { co with
      gated := gated
      scratch := co.scratch.filter (fun x => !lost x.1)
      scratchPois := co.scratchPois.filter (fun l => !lost (64 * l))
      tiles := co.tiles.filter (fun x => !gated.contains (partReg co.part + x.1 / 4)) }) with fresh := s.fresh + 64 }

/-- What follows when a slot of a core is free again: with the last one granules may be gated (R126). -/
def State.afterEnd (s : State) (core : Nat) : State := if s.coreIdle core then s.gate core else s

/-! ### Contexts that start -/

/-- The control registers of a new context of a region (R15, R26, R346); each holds what a write of the region's value would leave (R18, R89). -/
def Region.startCr (r : Region) (rcb : Nat) : CRegs :=
  { CRegs.reset with
    region := BitVec.ofNat 64 rcb, lmap := crNew .lmap .w 0 r.lmap, deleg := crNew .deleg .w 0 r.deleg,
    ptroot := crNew .ptroot .w 0 r.ptroot, asid := r.asid }

/-- A task starts in a slot: the slot's incarnation advances, every gated granule is powered and reads zero (R26, R126, R129). Its logical time is 0
(R221), raised to that of what it is taken from (R136, R178, R179). -/
def State.startCtx (s : State) (rcb core slot : Nat) (t : Task) (caller : Option Caller) : State :=
  match s.getRegion? rcb with
  | none => s
  | some r =>
    let k := ctxKey core slot
    let c := s.getCtx k
    let n : Context := { (Context.reset .user).setBlock 4 t.args 0 with
      slot := .issuing, inc := c.inc + 1, pc := codeAddr t.pc, held := s.cycle, lt := t.lt, caller := caller, start := t, twin := rcb / 2 ^ 64,
      cr := r.startCr rcb }
    (s.setCtx k n).modCore core (fun co => { co with gated := [] })

/-- A slot whose context has ended is free, or takes the retained successor, once no tag of it has a byte pending (R126, R153, R180). A successor that
finds all four issuing positions held is ready for the next (R114). With the core's last context its shape slots are empty (R272). -/
def State.releaseSlot (s : State) (rcb core slot : Nat) (succ : Option Task) : State :=
  let k := ctxKey core slot
  if (s.getCtx k).tags.toList.any (fun t => decide (t.pending ≠ 0)) then (s.modCtx k (fun c => { c with slot := .draining succ })).emptyShapes core
  else match succ with
    | some t =>
      let s1 := s.startCtx rcb core slot t none
      if s.held core < 4 then s1 else s1.modCtx k (fun c => { c with slot := .parkedReady })
    | none => ((s.modCtx k (fun c => { c with slot := .free, cr := { c.cr with region := 0 } })).emptyShapes core).afterEnd core

/-- The error replies for the messages of an inbox whose senders expect a reply (R180). -/
def State.staleReplies (s : State) (k : Nat) : List Packet :=
  let c := s.getCtx k
  let own := epAddr s.pkgNum (k / 64) (k % 64) c.inc
  c.inbox.flatMap (fun m =>
    if m.hdr.getLsbD 45 then
      [{ net := .rpl, src := own, dst := m.hdr.extractLsb' 0 40, rcb := c.rgn, lt := c.lt,
         body := .error { hdr := header 1 (m.hdr.extractLsb' 48 8) 2 false (m.hdr.extractLsb' 40 4) own, data := 0, pois := 0 } none }]
    else [])

/-- The reply to the caller of a `callat` task (R179, R182). -/
def State.callerReply (s : State) (k : Nat) (v : Dword) (p : Bool) : List Packet :=
  let c := s.getCtx k
  let own := epAddr s.pkgNum (k / 64) (k % 64) c.inc
  match c.caller with
  | none => []
  | some q =>
    [{ net := .rpl, src := own, dst := q.ep, rcb := c.rgn, lt := c.lt,
       body := .reply { hdr := header 0 q.tag 1 false q.rslot own, data := 0#192 ++ v, pois := 0#3 ++ BitVec.ofBool p } }]

/-- CHKINT[1:0] of an ending context added to its region's end status (R343). -/
def State.collect (s : State) (k : Nat) : State :=
  let c := s.getCtx k
  s.modRegion c.rgn (fun r => { r with status := r.status ||| c.cr.chkint.extractLsb' 0 2 })

/-- The running context ends (R180): its end status collected, its caller and the senders that wait for it answered, its slot released. An S context is parked
instead, and keeps the landing slots that it holds, where later replies land (DESIGN CHOICE, log 21: the spec does not say whether a parked S context has ended). -/
def State.endTask (s : State) (value : Dword) (pois : Bool) (succ : Option Task) : State :=
  let k := s.cur
  let rcb := s.cx.rgn
  let answers := s.callerReply k value pois ++ s.staleReplies k
  match s.cx.mode with
  | .super => (((s.push answers).modCo (fun co => { co with supWork := false })).modCtx k (fun c => { c with
      inbox := [], ports := Vector.replicate 4 none, slot := .parkedWaiting, wait := none })).retire
  | .user => (((s.collect k).endCtx k).push answers).releaseSlot rcb s.coreNum s.slotNum succ

/-! ### A region in force on a core (R207, R272) -/

/-- Whether a region is in force on a core. -/
def State.inForce (s : State) (rcb core : Nat) : Bool := (s.getCore core).serving == some rcb

/-- Whether the region in force on a core keeps it from a co-resident region: one that is co-resident itself and of no lower priority, whose
reserved slots serve no other region until it ends (R121). -/
def State.keptFrom (s : State) (rcb core : Nat) : Bool :=
  match (s.getCore core).serving.bind s.getRegion?, s.getRegion? rcb with
  | some p, some r => p.running && p.colive != 0 && r.colive != 0 && decide (r.prio ≤ p.prio)
  | _, _ => false

/-- Whether a region may take a core: it is in force there, or every context of the other region has gone. -/
def State.mayServe (s : State) (rcb core : Nat) : Bool := s.inForce rcb core || (s.coreIdle core && !s.keptFrom rcb core)

/-- What a region has on a core, with the SUIT, the KWIN and the last handler that are in force there: none of them before the region has come
into force (R128, R171). -/
def State.workOf (s : State) (rcb core : Nat) : Work :=
  let w := s.getWork rcb core
  if s.inForce rcb core then w else { w with suit := 0, kwin := 0, follow := 0, lastHandler := none }

/-- A region's partition word comes into force on a core: tiles, scratchpad and shape slots start afresh, and so do the SUIT and the KWIN in force (R128, R171). What the units have accepted from the S context stays. A region that goes on in force has no other waiting for its slice to end (R122). -/
def State.serve (s : State) (rcb core : Nat) : State :=
  match s.getRegion? rcb with
  | none => s
  | some r =>
    if s.inForce rcb core then s.modCore core (fun c => { c with rr := 0 })
    else
      (s.modCore core (fun c => { c with
        serving := some rcb, part := r.part, tiles := [], scratch := [], scratchPois := [], scratchTimes := [], gated := [], shapes := [],
        matq := c.matq.filter (fun j => j.slot == 0), spq := c.spq.filter (fun j => j.slot == 0), slice := s.cycle, rr := 0 })).modWork rcb core (fun w => { w with
          suit := 0, kwin := 0, follow := 0, lastHandler := none })

/-! ### Firings that may start (R127, R128, R150, R171, R203) -/

/-- KILN + KWIN, saturating; a window of 0 does not bound (R171). -/
def withinWindow (kiln kwin time : Dword) : Bool :=
  kwin == 0 || decide (time.toNat ≤ kiln.toNat + kwin.toNat)

/-- Whether the saggar has room for a new record of a key (R127, R157). -/
def State.roomFor (s : State) (rcb core : Nat) (e : Event) : Bool :=
  let w := s.getWork rcb core
  let low := (match s.lowestKey rcb core with | none => true | some k => decide (evKey e ≤ k))
  let again := (match kget w.blocked (evKey e) with | none => true | some n => decide (n < w.ring.turns))
  low || (again && (w.ring.take 0 128 (w.ring.size - 4096)).isSome)

/-- The events of a core that may start now (R127); none of an actor that a dealer is still rolling back (R159). -/
def State.candidates (s : State) (rcb core : Nat) : List Event :=
  let w := s.workOf rcb core
  let soc := s.socOf rcb
  let kiln := (s.getCore core).kiln soc
  (w.deck ++ w.kitty).filter (fun e =>
    !e.cancel && withinWindow kiln w.kwin e.time && (s.firingSlot soc core e.dst).isNone && !s.undoing soc e.dst && s.roomFor rcb core e)

/-- The event of least key of a list. -/
def lowestEvent : List Event → Option Event
  | [] => none
  | e :: es => match lowestEvent es with
    | none => some e
    | some f => if evKey e ≤ evKey f then some e else some f

/-- The handler address of an event (R145), and the count of handlers, by the dealer's reads. -/
def State.handlerOf (s : State) (rcb core : Nat) (e : Event) : (Dword × Nat) × State :=
  let d := s.actorDesc rcb core e.dst.toNat
  let htab := d.2.dealerLoad rcb core (d.1 + 0x08) 8
  let nh := htab.2.dealerLoad rcb core (d.1 + 0x10) 8
  let n := nh.1.1 / 2 ^ 48
  if e.hix.toNat ≥ n then ((0, n), nh.2)
  else
    let h := nh.2.dealerLoad rcb core (htab.1.1 + 8 * e.hix.toNat) 8
    ((BitVec.ofNat 64 h.1.1, n), h.2)

/-- The event that the dealer fires next, and whether it displaces the lowest-keyed candidate (R127, R128). -/
def State.choose (s : State) (rcb core : Nat) : Option (Event × Bool) :=
  let cs := s.candidates rcb core
  let w := s.workOf rcb core
  match lowestEvent cs with
  | none => none
  | some low =>
    match w.lastHandler with
    | none => some (low, false)
    | some h =>
      if w.suit = 0 ∨ w.follow ≥ 16 then some (low, false)
      else
        let lowTime := (least (cs.map (fun e => e.time.toNat))).getD 0
        match lowestEvent (cs.filter (fun e =>
            decide (e.time.toNat ≤ lowTime + w.suit.toNat) && (s.handlerOf rcb core e).1.1 == h)) with
        | none => some (low, false)
        | some f => some (f, evKey f != evKey low)

/-! ### Work -/

/-- Entries of a core's task queue, which all its regions share (R125). -/
def State.taskQueue (s : State) (core : Nat) : Nat :=
  s.regions.foldl (fun (n : Nat) x => n + (s.getWork x.1 core).taskq.length) 0

/-- Whether a region's tasks or firings have something to start on a core (R127, items 2 to 5 with a task that a steal has taken). -/
def State.hasWork (s : State) (rcb core : Nat) : Bool :=
  let w := s.getWork rcb core
  !w.deque.isEmpty || !w.taskq.isEmpty || !w.stolen.isEmpty || !(s.candidates rcb core).isEmpty

/-- The task that the dealer starts next on a core, and the work without it (R127, items 3 to 5). -/
def Work.nextTask (w : Work) : Option (CallTask × Work) :=
  match w.deque with
  | t :: ts => some ({ task := t, caller := none }, { w with deque := ts })
  | [] =>
    match w.taskq with
    | t :: ts => some (t, { w with taskq := ts })
    | [] =>
      match w.stolen with
      | t :: ts => some ({ task := t, caller := none }, { w with stolen := ts })
      | [] => none

/-- Whether a saved context is due on a core; the reading of the save records stands with the resumption (R354). -/
def Region.savedDue (r : Region) : Bool := !r.saved.isEmpty && !r.stopping && r.running

/-! ### Fossil collection (R168, R169) -/

/-- Dwords read by the dealer from consecutive addresses. -/
def State.readDwords (s : State) (rcb core va : Nat) : Nat → List Nat × State
  | 0 => ([], s)
  | n + 1 =>
    let x := s.dealerLoad rcb core va 8
    let r := x.2.readDwords rcb core (va + 8) n
    (x.1.1 :: r.1, r.2)

/-- A notice appended to the region's notice queue, or dropped: a full ring counts it (R376, R377). -/
def State.noticeAppend (s : State) (rcb core : Nat) (w : Dword) (actor : BitVec 48) : State :=
  match s.getRegion? rcb with
  | none => s
  | some r =>
    if r.notq = 0 ∨ s.endpoint.enabled.getLsbD 3 = false then s
    else
      let q := s.readDwords rcb core r.notq 8
      let log2 := q.1.getD 1 0
      let head := q.1.getD 2 0
      let tail := q.1.getD 3 0
      if log2 / 256 ≠ 0 ∨ log2 < 4 ∨ 16 < log2 ∨ (q.1.drop 5).any (· != 0) then q.2
      else if (tail + 2 ^ 64 - head) % 2 ^ 64 = 2 ^ log2 then q.2.dealerStore rcb core (r.notq + 0x20) 8 (q.1.getD 4 0 + 1) false
      else
        let a := q.1.getD 0 0 + 16 * (tail % 2 ^ log2)
        let s1 := q.2.dealerStore rcb core a 8 w.toNat false
        let s2 := s1.dealerStore rcb core (a + 8) 8 actor.toNat false
        s2.dealerStore rcb core (r.notq + 0x18) 8 (tail + 1) false

/-- A deferred unit run (R169): a store of the region's address space, or a notice. -/
def State.runUnit (s : State) (rcb core : Nat) (actor : BitVec 48) (u : RUnit) : State :=
  match u with
  | .write z a v p =>
    match s.getRegion? rcb with
    | none => s
    | some r =>
      if inScratch a then s.endRegion rcb cACCESS
      else
        let x := s.spaceStore core r.space a z.bytes v.toNat p
        match x.1 with
        | .ok _ => x.2
        | .error _ => x.2.endRegion rcb cACCESS
  | .notice w => s.noticeAppend rcb core w actor
  | _ => s

/-- Whether a region still runs its deferred actions (R344). -/
def State.acting (s : State) (rcb : Nat) : Bool := ((s.getRegion? rcb).map (fun r => r.fault.isNone)).getD false

/-- A record of a core's saggar collected by a dealer (R168): marked COLL, its event freed, its deferred units run in order. -/
def State.collectRecord (s : State) (dealer rcb core : Nat) (r : Record) : State :=
  let s1 := s.modWork rcb core (fun w => w.modRecord r.addr (fun x => { x with coll := true }))
  let s2 := s1.dealerStore rcb dealer (r.addr + 64) 64 (recordLine { r with coll := true }).toNat false
  r.units.reverse.foldl (fun t u => if t.acting rcb then t.runUnit rcb dealer r.event.dst u else t) s2

/-- The cores whose saggars the dealer of a core keeps: its own, and those of the sealed cores that it has adopted (R340). -/
def State.saggarsOf (s : State) (core : Nat) : List Nat :=
  (if (s.getCore core).sealed.isNone then [core] else []) ++
  (s.cores.filter (fun x => (x.2.sealed.bind Seal.adopter) == some core)).map (fun x => x.1)

/-- The records of a society in the saggars of some cores that a kiln time collects, in rising order of their keys (R168). -/
def State.fossils (s : State) (soc : Nat) (cores : List Nat) (k : Dword) : List (Nat × Nat × Record) :=
  (((s.regionsOf soc).flatMap (fun q => cores.flatMap (fun n => ((s.getWork q n).records.filter (fun r =>
    r.done && !r.void && !r.coll && r.event.time.ult k)).map (fun r => (q, n, r))))).foldl (fun l x => insertByKey x l) []).reverse

/-- Fossil collection by the dealer of a core of a society's records in some cores' saggars below a kiln time, by rising key over all of them (R168). -/
def State.fossil (s : State) (soc dealer : Nat) (cores : List Nat) (k : Dword) : State :=
  let due := s.fossils soc cores k
  let s1 := due.foldl (fun (t : State) x => t.collectRecord dealer x.1 x.2.1 x.2.2) s
  (due.map (fun x => (x.1, x.2.1))).eraseDups.foldl (fun (t : State) q => t.reclaim dealer q.1 q.2) s1

/-- The sealed core whose saggar a core's dealer takes over, with those that it had adopted itself: from now on that dealer collects their records, and first those
that the values published to the sealed core collect already (R168, R340). -/
def State.adopt (s : State) (old dealer : Nat) : State :=
  if ((s.getCore old).sealed.bind Seal.adopter) = some dealer then s else
  let own (x : Nat × Core) : Bool := x.1 == old || (x.2.sealed.bind Seal.adopter) == some old
  let taken := (s.cores.filter own).map (fun x => x.1)
  let t : State := { s with cores := s.cores.map (fun x =>
      if own x then (x.1, { x.2 with sealed := x.2.sealed.map (fun q => { q with adopter := some dealer }) }) else x) }
  t.socs.foldl (fun (u : State) x => u.fossil x.1 dealer taken ((u.getCore old).kiln x.1)) t

end Sys2Proof.Machine
end

