-- ==== Sys2Proof/Machine/Task.lean ====
section
/-! DEFINITION. Task instructions (spec 08 R178 to R182) and message instructions (R183 to R189). -/

namespace Sys2Proof.Machine

/-! ### Shared -/

/-- A register block's poison consumed where it lands in something without a poison bit (R95, R175). -/
def poisonBlock (b : Reg) : Exec Unit := do
  let c ← cx
  modCx (fun c' => c'.poisonIf (c.blockP b != 0))

/-- The trap TIMEDWR with value 0 in a firing (R152). -/
def guardUntimed : Exec Unit := do guardTrap (!(← cx).timed) cTIMEDWR 0

/-- The lowest free landing slot (R177). -/
def Context.freeLanding (c : Context) : Option Nat := (rangeFrom 0 16).find? (fun i => (vget c.landing i none).isNone)

/-- Entries of the in-flight table (R164). -/
def flightMax : Nat := 64

/-- SendREQ up to the landing slot that it takes (R177): it stalls while there is no room, and traps SQFULL when the stall reaches SQLIM. -/
def sendRoom (flight : Bool) (ep : BitVec 40) : Exec Nat := do
  let s ← get
  let c := s.cx
  match (if c.sendq.length ≥ 16 ∨ (flight ∧ s.co.flight.length ≥ flightMax) then none else c.freeLanding) with
  | some l => return l
  | none =>
    let since := match c.wait with
      | some w => if w.kind = .send flight ep then w.since else s.cycle
      | none => s.cycle
    if c.cr.sqlim.toNat ≤ s.cycle - since + 1 then trapWith cSQFULL (BitVec.setWidth 64 ep)
    else throw (.wait (.send flight ep))

/-- A packet put into the send queue, with the landing slot that it holds (R133, R177). -/
def enqueue (l : Nat) (tag : Byte) (reply : Bool) (p : Packet) : Exec Unit :=
  modCx (fun c => { c with
    sendq := c.sendq ++ [p]
    landing := vset c.landing l (some { tag := tag, reply := reply, answer := none }) })

/-- SendREQ of a packet that is no event (R177), which counts for its region until it is answered (R140). It carries the sender's logical time, which its taker's
follows (R136). -/
def sendReq (dst : BitVec 40) (tag : Byte) (reply : Bool) (body : BitVec 4 → Body) : Exec Unit := do
  let l ← sendRoom false dst
  let s ← get
  modify (fun s => s.modRegion s.cx.rgn (fun r => { r with unacked := r.unacked ++ [(s.ownEp, BitVec.ofNat 4 l, dst)] }))
  enqueue l tag reply { net := .req, src := s.ownEp, dst := dst, rcb := s.cx.rgn, lt := s.cx.lt, body := body (BitVec.ofNat 4 l) }

/-- Earlier matrix and sum-product instructions of the context have retired before it ends (R343). -/
def waitEngines : Exec Unit := do
  let s ← get
  if s.co.matq.any (fun j => j.slot == s.slotNum) then throw (.wait .matrix) else pure ()
  if s.co.spq.any (fun j => j.slot == s.slotNum) then throw (.wait .spDone) else pure ()

/-- The ILL of an instruction that its context may not run (R152, R180). -/
def guardIll (ok : Bool) : Exec Unit := do guardTrap ok cILL (← get).wordValue

end Sys2Proof.Machine

namespace Sys2Proof.Machine

/-! ### Tasks -/

/-- `spawn` (R178). -/
def execSpawn (a b : Reg) (s : State) : Host.Outcome State Fault Refusal :=
  finish (do
    let s ← get
    let c := s.cx
    let rcb := c.rgn
    guardTrap ((c.s a).extractLsb' 0 2 == 0) cALIGN (c.s a)
    guardUntimed
    guardTrap ((s.getWork rcb s.coreNum).deque.length < 256) cRESOURCE 256
    guardPoison (c.sp a)
    poisonBlock b
    modify (fun s => s.modWork rcb s.coreNum (fun w => { w with deque := { pc := c.s a, args := c.block b, lt := c.lt } :: w.deque }))
    retireE) s

/-- Whether a core of this package takes work of a region: it qualifies (R120), and of a co-resident region it holds a slot (R246). -/
def State.takesWork (s : State) (rcb core : Nat) : Bool :=
  match s.getRegion? rcb with
  | none => false
  | some r => decide (r.core0 ≤ core) && decide (core < r.core0 + r.ncore) && qualifies (s.getCore core) r.part &&
      (r.colive == 0 || decide (kgetD r.reserved core 0 ≠ 0))

/-- `callat` (R179). -/
def execCallat (d a b : Reg) (s : State) : Host.Outcome State Fault Refusal :=
  finish (do
    let s ← get
    let c := s.cx
    let ep := (c.s d).extractLsb' 0 40
    let tag := (c.s d).extractLsb' 40 8
    guardTrap ((c.s a).extractLsb' 0 2 == 0) cALIGN (c.s a)
    guardUntimed
    guardTrap (epPkg ep == s.pkgNum && s.takesWork c.rgn (epCore ep)) cRESOURCE (BitVec.setWidth 64 ep)
    guardPoison (c.sp d || c.sp a)
    poisonBlock b
    sendReq (ep.extractLsb' 18 22 ++ 0#18) tag true (fun l => .task { pc := c.s a, args := c.block b } tag l)
    retireE) s

/-- `halt` with R = 0 (R180). -/
def execHalt (s : State) : Host.Outcome State Fault Refusal :=
  finish (do
    guardIll (!(← cx).timed)
    waitEngines
    modify (fun s => s.endTask 0 false none)) s

/-- `halt.r`: a retained successor in the same slot (R126, R180). -/
def execHaltR (a : Reg) (s : State) : Host.Outcome State Fault Refusal :=
  finish (do
    let c ← cx
    guardIll (!c.timed)
    guardIll (c.mode == .user)
    guardTrap ((c.s a).extractLsb' 0 2 == 0) cALIGN (c.s a)
    guardPoison (c.sp a)
    waitEngines
    modify (fun s => s.endTask 0 false (some { pc := c.s a, args := c.block 4 }))) s

/-- `tret` (R182). -/
def execTret (a : Reg) (s : State) : Host.Outcome State Fault Refusal :=
  finish (do
    let c ← cx
    guardIll (!c.timed)
    waitEngines
    modify (fun s => s.endTask (c.s a) (c.sp a) none)) s

/-! ### Messages -/

/-- `send` (R183). -/
def execSend (a b : Reg) (s : State) : Host.Outcome State Fault Refusal :=
  finish (do
    let s ← get
    let c := s.cx
    guardUntimed
    guardPoison (c.sp a)
    let tag := (c.s a).extractLsb' 40 8
    let rq := (c.s a).getLsbD 48
    sendReq ((c.s a).extractLsb' 0 40) tag rq (fun l =>
      .message { hdr := header 0 tag 0 rq l s.ownEp, data := c.block b, pois := c.blockP b })
    retireE) s

/-- `sendv` (R183). -/
def execSendv (a b : Reg) (s : State) : Host.Outcome State Fault Refusal :=
  finish (do
    guardUntimed
    let c ← cx
    guardPoison (c.sp a)
    let v ← srcV b
    let tag := (c.s a).extractLsb' 40 8
    sendReq ((c.s a).extractLsb' 0 40) tag false (fun l => .vector tag l v.1 v.2)
    modCx (fun c => c.popPort b)
    retireE) s

/-- `reply` (R185). -/
def execReply (a b : Reg) (s : State) : Host.Outcome State Fault Refusal :=
  finish (do
    let s ← get
    let c := s.cx
    guardUntimed
    let h := c.s a
    if h.extractLsb' 46 2 ≠ 0 ∨ h.getLsbD 45 = false then retireE
    else
      guardPoison (c.sp a)
      let m : Message :=
        { hdr := header 0 (h.extractLsb' 48 8) 1 false (h.extractLsb' 40 4) s.ownEp, data := c.block b, pois := c.blockP b }
      modify (fun s => s.push [{ net := .rpl, src := s.ownEp, dst := h.extractLsb' 0 40, rcb := c.rgn, lt := c.lt, body := .reply m }])
      retireE) s

/-- `bind` (R186); the port is register 28 + p. -/
def execBind (p : BitVec 2) (a : Reg) (s : State) : Host.Outcome State Fault Refusal :=
  finish (do
    let c ← cx
    guardPoison (c.sp a)
    let tag := (c.s a).extractLsb' 0 8
    modCx (fun c => { c with
      ports := vset (c.ports.map (fun q => match q with
        | none => none
        | some x => if x.tag = tag then none else some x)) p.toNat (some { tag := tag, fifo := [] }) })
    retireE) s

/-- `unbind` (R186): the register shows the value that it held before. -/
def execUnbind (p : BitVec 2) (s : State) : Host.Outcome State Fault Refusal :=
  .next (s.modCx (fun c => { c with ports := vset c.ports p.toNat none })).retire

/-- Whether a selector takes a tag (R187). -/
def selects (sel : Dword) (tag : Byte) : Bool := sel.getLsbD 8 || sel.extractLsb' 0 8 == tag

/-- The held landing slots that a selector matches, with their numbers. -/
def Context.matching (c : Context) (sel : Dword) : List (Nat × Landing) :=
  (rangeFrom 0 16).filterMap (fun i => match vget c.landing i none with
    | none => none
    | some l => if selects sel l.tag then some (i, l) else none)

/-- The answer that arrived first among landing slots (R187). -/
def firstAnswer : List (Nat × Landing) → Option (Nat × Nat × Message)
  | [] => none
  | (i, l) :: ls =>
    match l.answer, firstAnswer ls with
    | none, r => r
    | some (o, m), none => some (i, o, m)
    | some (o, m), some (i', o', m') => if o ≤ o' then some (i, o, m) else some (i', o', m')

/-- `wait` (R187). -/
def execWait (d a b : Reg) (s : State) : Host.Outcome State Fault Refusal :=
  finish (do
    let c ← cx
    guardPoison (c.sp a)
    let held := c.matching (c.s a)
    match firstAnswer held with
    | some (i, _, m) =>
      modCx (fun c => (({ c with landing := vset c.landing i none }.lifted m.lt).setS b m.hdr false).setBlock d m.data m.pois)
      retireE
    | none =>
      if held.isEmpty then
        modCx (fun c => (c.setS b 0 false).setBlock d 0 0)
        retireE
      else throw (.wait (.reply ((c.s a).getLsbD 8) ((c.s a).extractLsb' 0 8)))) s

/-- The number of landing slots held, and of those that hold an answer (R188). -/
def Context.landingsHeld (c : Context) : Nat := (c.landing.toList.filter Option.isSome).length
def Context.landingsReady (c : Context) : Nat :=
  (c.landing.toList.filter (fun x => match x with | some l => l.answer.isSome | none => false)).length

/-- PORTS of `poll`: bit k is 1 when port k is bound and holds a packet (R188). -/
def Context.portBits (c : Context) : Nat :=
  c.ports.toList.foldr (fun x (n : Nat) => 2 * n + (match x with | some p => if p.fifo.isEmpty then 0 else 1 | none => 0)) 0

/-- `poll` (R188). -/
def execPoll (d : Reg) (s : State) : Host.Outcome State Fault Refusal :=
  .next (s.modCx (fun c => c.setS d (BitVec.ofNat 64
    (c.portBits * 2 ^ 24 + c.landingsHeld * 2 ^ 16 + c.landingsReady * 2 ^ 8 + c.inbox.length)) false)).retire

/-- `recv` (R189). -/
def execRecv (d b : Reg) (s : State) : Host.Outcome State Fault Refusal :=
  finish (do
    let c ← cx
    match c.inbox with
    | [] => throw (.wait .inbox)
    | m :: ms =>
      modCx (fun c => (({ c with inbox := ms }.lifted m.lt).setS b m.hdr false).setBlock d m.data m.pois)
      retireE) s

end Sys2Proof.Machine
end

