-- ==== Sys2Proof/Machine/Actor.lean ====
section
/-! DEFINITION. Actor instructions (spec 08 R190 to R196; 07 R143 to R153, R167, R170). -/

namespace Sys2Proof.Machine

/-! ### Resolving an actor (R144) -/

/-- A load of the running instruction from an address. -/
def loadAddr (va : Dword) (n : Nat) : Exec (Nat × Bool) := do
  let p ← translateT va .load n
  waitSpWords p n
  loadE p n

/-- The actor table of the running context's region. -/
def State.actt (s : State) : Nat := ((s.getRegion? s.cx.rgn).map Region.actt).getD 0

/-- Identifiers from here upward name no actor (R144). -/
def actorMax : Nat := 0xFFFF_0000_0000

/-- The descriptor's address of an actor by loads of the running instruction, or the value of the trap DESC where the identifier names none (R144). -/
def findDescriptor (actor : BitVec 48) : Exec (Except Dword Nat) := do
  let actt := (← get).actt
  let n ← loadAddr (BitVec.ofNat 64 actt) 8
  if n.1 % 2 ^ 48 ≤ actor.toNat then return .error (BitVec.ofNat 64 actt)
  else
    let ea := BitVec.ofNat 64 (entryAddr actt actor.toNat)
    let e ← loadAddr ea 8
    return if e.1 != 0 && decide (actor.toNat < actorMax) then .ok e.1 else .error ea

/-- A descriptor found, or the trap DESC (R144). -/
def orDesc (d : Except Dword Nat) : Exec Nat :=
  match d with
  | .ok a => return a
  | .error v => trapWith cDESC v

/-- The descriptor's address of an actor by loads of the running instruction; DESC where the identifier names none (R144). -/
def descriptorOf (actor : BitVec 48) : Exec Nat := do orDesc (← findDescriptor actor)

/-- The home of an actor: from the core's cache, else by loads of the running instruction (R144). -/
def resolveHome (actor : BitVec 48) : Exec (Nat × Nat) := do
  let s ← get
  let key := homeKey (s.socOf s.cx.rgn) actor.toNat
  match kget s.co.homes key with
  | some h => return (h / 2 ^ 14, h % 2 ^ 14)
  | none =>
    let d ← descriptorOf actor
    let w ← loadAddr (BitVec.ofNat 64 (d + 0x18)) 8
    let h := homeOfWord w.1
    modify (fun s => s.keepHome s.coreNum key (h.1 * 2 ^ 14 + h.2))
    return h

/-- A load of the dealer on the running instruction's behalf: its fault ends the region (R148). -/
def dealerLoadE (va n : Nat) : Exec Nat := do
  let s ← get
  let r := s.dealerLoad s.cx.rgn s.coreNum va n
  afterDealer r.2
  return r.1.1

/-- A store of the dealer on the running instruction's behalf. -/
def dealerStoreE (va n v : Nat) : Exec Unit := do
  let s ← get
  afterDealer (s.dealerStore s.cx.rgn s.coreNum va n v false)

/-! ### Events -/

/-- The source of events sent outside a firing (R146). -/
def State.taskSource (s : State) : BitVec 48 :=
  BitVec.ofNat 48 (actorMax + (s.pkgDom % 256 * 256 + s.pkgNum % 256) * 2 ^ 14 + s.coreNum)

/-- The condition of R167: the core has sampled a floor above a time for a sweep that has not yet published, or whose value has not reached the core. -/
def State.floorHolds (s : State) (time : Dword) : Bool :=
  match kget s.socs (s.socOf s.cx.rgn) with
  | none => false
  | some so =>
    so.arriving.any (fun x => x.1 == s.coreNum && time.ult x.2) ||
    match so.sweep with
    | none => false
    | some w => w.holds && (match kget w.samples s.coreNum with | none => false | some f => time.ult f)

/-- SRC and SERIAL of the event that `esend` builds, with the checks of CAUSAL; in a firing it obtains the saggar space of its unit (R190). -/
def eventSource (dst : BitVec 48) (time : Dword) : Exec (BitVec 48 × BitVec 32) := do
  let s ← get
  let c := s.cx
  match c.firing with
  | some f =>
    guardTrap (!time.ult c.cr.lvt) cCAUSAL time
    let serial : BitVec 32 := BitVec.ofNat 32 (← dealerLoadE (f.desc + 0x1C) 4)
    guardTrap (!(dst == f.event.dst && decide (eventKey time dst serial ≤ evKey f.event))) cCAUSAL time
    appendUnit (.sent time dst serial)
    return (f.event.dst, serial)
  | none =>
    if s.floorHolds time then throw (.wait (.floor time)) else pure ()
    let kiln := s.crRead s.cur .kiln
    guardTrap (!(time.ult kiln || kiln == BitVec.allOnes 64)) cCAUSAL time
    return (s.taskSource, s.co.serial)

/-- The SERIAL source advanced (R146). -/
def advanceSerial (serial : BitVec 32) : Exec Unit := do
  let c ← cx
  match c.firing with
  | some f => dealerStoreE (f.desc + 0x1C) 4 (serial + 1).toNat
  | none => modify (fun s => s.modCo (fun c => { c with serial := serial + 1 }))

/-- An event entered into the in-flight table and the send queue (R164, R177, R202). -/
def sendEventE (home : BitVec 40) (e : Event) : Exec Unit := do
  let l ← sendRoom true home
  let s ← get
  let rcb := s.cx.rgn
  let soc := s.socOf rcb
  let id := s.co.nextFlight
  let fl : Flight :=
    { id := id, event := e, src := s.ownEp, dst := home, rslot := some (BitVec.ofNat 4 l), rcb := rcb, soc := soc, acked := none, refused := none }
  modify (fun s => s.modCo (fun c => { c with nextFlight := id + 1, flight := c.flight ++ [fl] }))
  modify (fun s => match kget s.socs soc with
    | none => s
    | some so => { s with socs := kset s.socs soc { so with pushed := some (so.pushed.getD (s.clock so.scope)) } })
  enqueue l 0 false { net := .req, src := s.ownEp, dst := home, rcb := rcb, lt := s.cx.lt, body := .event e (some (BitVec.ofNat 4 l)) id }

/-- `esend` (R190). -/
def execEsend (d a b : Reg) (s : State) : Host.Outcome State Fault Refusal :=
  finish (do
    let c ← cx
    let dst := (c.s d).extractLsb' 0 48
    let hix := (c.s d).extractLsb' 48 16
    let time := c.s a
    let h ← resolveHome dst
    let src ← eventSource dst time
    guardPoison (c.sp d || c.sp a)
    let e : Event :=
      { time := time, hix := hix, dst := dst, cancel := false, src := src.1, serial := src.2, payload := c.block b,
        poison := c.blockP b != 0, lt := (← cx).lt }
    sendEventE (corePt h.1 h.2) e
    advanceSerial src.2
    retireE) s

/-! ### Firings -/

/-- The end of a firing: its record DONE, RNGC in the descriptor, its SUIT and KWIN in force (R153, R192). -/
def State.endFiring (s : State) (f : Firing) : State :=
  let c := s.cx
  let rcb := c.rgn
  let core := s.coreNum
  let s1 := s.modWork rcb core (fun w => { (w.modRecord f.record (fun r => { r with done := true })) with
    suit := c.cr.suit, kwin := c.cr.kwin, lastHandler := some c.start.pc })
  let s2 := match (s1.getWork rcb core).records.find? (fun r => r.addr == f.record) with
    | none => s1
    | some r => s1.dealerStore rcb core (f.record + 64) 64 (recordLine r).toNat false
  let s3 := s2.dealerStore rcb core (f.desc + 0x28) 8 c.cr.rngc.toNat false
  s3.raiseAgent (actorAg (s3.socOf rcb) f.event.dst) (max c.lt (s3.agentTime core))

/-- `fend` (R192). -/
def execFend (s : State) : Host.Outcome State Fault Refusal :=
  finish (do
    let c ← cx
    match c.firing with
    | none => guardIll false
    | some f =>
      waitEngines
      modify (fun s => (s.endFiring f).endTask 0 false none)) s

/-- `defer.z` (R193). -/
def execDefer (k : Size) (a b : Reg) (s : State) : Host.Outcome State Fault Refusal :=
  finish (do
    let c ← cx
    guardIll c.timed
    guardTrap ((c.s a).toNat % k.bytes = 0) cALIGN (c.s a)
    guardTrap (canonical (c.s a)) cACCESS (c.s a)
    appendUnit (.write k (c.s a) (BitVec.ofNat 64 ((c.s b).toNat % 2 ^ (8 * k.bytes))) (c.sp b))
    guardPoison (c.sp a)
    retireE) s

/-- `defer.n` (R193): a poisoned notice word is consumed. -/
def execDeferN (a : Reg) (s : State) : Host.Outcome State Fault Refusal :=
  finish (do
    let c ← cx
    guardIll c.timed
    appendUnit (.notice (c.s a))
    modCx (fun x => x.poisonIf (c.sp a))
    retireE) s

/-- `kwait` (R170, R194). -/
def execKwait (a : Reg) (s : State) : Host.Outcome State Fault Refusal :=
  finish (do
    let s ← get
    let c := s.cx
    guardTrap (!(c.timed && !(c.s a).ult c.cr.lvt)) cCAUSAL (c.s a)
    guardPoison (c.sp a)
    let kiln := s.crRead s.cur .kiln
    if (c.s a).ult kiln || kiln == BitVec.allOnes 64 then
      modCx (fun x => x.lifted (s.readTime .kiln))
      retireE
    else throw (.wait (.kiln (c.s a)))) s

/-! ### Registering and moving actors -/

/-- Whether a descriptor's fields are valid for `acre`, given its first, second, third, fourth and last dwords (R195). -/
def descriptorOk (w0 w1 w2 w3 w7 : Nat) : Bool :=
  w0 % 64 == 0 && w1 % 8 == 0 && decide (w2 / 2 ^ 48 ≠ 0) && w2 / 2 ^ 21 % 2 ^ 27 == 0 && w2 % 2 ^ 21 % 64 == 0 &&
  decide (64 ≤ w2 % 2 ^ 21) && decide (w2 % 2 ^ 21 ≤ 2 ^ 20) && w3 / 2 ^ 14 % 2 ^ 10 == 0 && w7 == 0

/-- A place some bytes further on. -/
def Place.plus (p : Place) (n : Nat) : Place :=
  match p with
  | .scratch o => .scratch (o + n)
  | .coherent pa l1 wt key => .coherent (pa + n) l1 wt key
  | .uncached pa key => .uncached (pa + n) key
  | .device pa => .device (pa + n)

/-- Whether a core of this package qualifies for a region (R120). -/
def State.qualifiesFor (s : State) (rcb core : Nat) : Bool :=
  match s.getRegion? rcb with
  | none => false
  | some r => decide (r.core0 ≤ core) && decide (core < r.core0 + r.ncore) && qualifies (s.getCore core) r.part

/-- An actor table entry's value read at the performing point of its update, at its home slice (R195). -/
def State.entryNow (s : State) (p : Place) : Nat × State :=
  match p with
  | .coherent pa _ wt key => let r := s.loadAt s.cur (.coherent pa false wt key) 8; (r.1.1, r.2)
  | p => let r := s.loadAt s.cur p 8; (r.1.1, r.2)

/-- The places of the descriptor and of the actor table's COUNT, at addresses that registers and the region name: PAGE on either comes before ACCESS on either (R21, R195). -/
def acrePlaces (desc actt : Dword) : Exec (Place × Place) := do
  let ps ← soundPlaces [(desc, ← tryTranslate desc .atomic 64), (actt, ← tryTranslate actt .load 8)]
  let dp := ps.getD 0 (.scratch 0)
  let np := ps.getD 1 (.scratch 0)
  guardPlane dp true
  guardPlane np false
  return (dp, np)

/-- The checks and reads of `acre`: the places of the descriptor and of the actor table's entry (R195). -/
def acreChecks (d a b : Reg) : Exec (Place × Place) := do
  let s ← get
  let c := s.cx
  let i := ((c.s d).extractLsb' 0 48).toNat
  let desc := c.s a
  let home := ((c.s b).extractLsb' 0 14).toNat
  let actt := BitVec.ofNat 64 s.actt
  guardTrap (desc.extractLsb' 0 6 == 0) cALIGN desc
  let (dp, np) ← acrePlaces desc actt
  waitSpWords dp 64
  let w0 ← loadE dp 8
  let w1 ← loadE (dp.plus 0x08) 8
  let w2 ← loadE (dp.plus 0x10) 8
  let w3 ← loadE (dp.plus 0x18) 8
  let w7 ← loadE (dp.plus 0x38) 8
  waitSpWords np 8
  let n ← loadE np 8
  let ea := BitVec.ofNat 64 (entryAddr s.actt i)
  guardTrap (!c.timed) cTIMEDWR ea
  guardTrap (decide (i < n.1 % 2 ^ 48) && decide (i < actorMax)) cDESC actt
  let ep ← translateT ea .atomic 8
  waitSpWords ep 8
  guardTrap (descriptorOk w0.1 w1.1 w2.1 w3.1 w7.1) cDESC desc
  guardTrap (s.qualifiesFor c.rgn home) cRESOURCE (BitVec.ofNat 64 home)
  guardPoison (c.sp d || c.sp a || c.sp b)
  return (dp, ep)

/-- `acre` (R195). -/
def execAcre (d a b : Reg) (s : State) : Host.Outcome State Fault Refusal :=
  finish (do
    let c := s.cx
    let home := ((c.s b).extractLsb' 0 14).toNat
    let p ← acreChecks d a b
    storeE (p.1.plus 0x18) 8 (s.pkgNum % 256 * 2 ^ 24 + home) false
    storeE (p.1.plus 0x30) 8 0 false
    let s1 ← get
    let old := s1.entryNow p.2
    set old.2
    guardTrap (old.1 == 0) cDESC (BitVec.ofNat 64 (entryAddr s.actt ((c.s d).extractLsb' 0 48).toNat))
    storeE p.2 8 (c.s a).toNat false
    retireE) s

/-- Events in rising order of their keys. -/
def insertEventByKey (e : Event) : List Event → List Event
  | [] => [e]
  | f :: fs => if evKey e ≤ evKey f then e :: f :: fs else f :: insertEventByKey e fs

/-- The unfinished records of an actor on a sealed core squashed by a dealer, their events left in the sealed core's deck (R340). -/
def State.adoptUnfinished (s : State) (soc dealer old : Nat) (actor : BitVec 48) : State :=
  ((s.chain soc actor).filter (fun x => x.2.1 == old && !x.2.2.done)).foldl (fun (t : State) x =>
    (t.undoRecord dealer x.1 old x.2.2.event.time.toNat x.1 old x.2.2).dealerStore x.1 dealer (x.2.2.desc + 0x30) 8 x.2.2.aprev false) s

/-- What the dealer of a core has still to undo for an actor of a society left to the dealer of another, ahead of what that one finds itself to undo for it
(R159, R196, R340). -/
def State.moveUndo (s : State) (soc : Nat) (actor : BitVec 48) (old new to_ : Nat) : State :=
  let mine (u : Undo) : Bool := u.actor == actor && s.socOf u.rcb == soc
  let l := (s.getCore old).undo.filter mine
  if old = new || l.isEmpty then s
  else
    (s.modCore old (fun c => { c with undo := c.undo.filter (fun u => !mine u) })).modCore new
      (fun c => { c with undo := c.undo ++ l.map (fun u => { u with rcb := to_ }) })

/-- Step 3 of a move of an actor by a dealer: a firing in progress squashed; of an actor of a sealed core the unfinished records, after its saggar has been adopted (R196, R340). -/
def State.rehomeStop (s : State) (rcb : Nat) (actor : BitVec 48) (old dealer : Nat) : State :=
  if (s.getCore old).sealed.isSome then (s.adopt old dealer).adoptUnfinished (s.socOf rcb) dealer old actor
  else match s.firingSlot (s.socOf rcb) old actor with
    | some k => s.squash old k
    | none => s

/-- Whether a society has regions in other packages, as far as its scope says (R165). -/
def State.spread (s : State) (soc : Nat) : Bool :=
  match (kget s.socs soc).map Society.scope with
  | some .domain => true
  | some .system => true
  | _ => false

/-- Step 4 of a move of an actor by a dealer: events filed at the new home, or sent there where it lies in another package (R196); these stand in the in-flight table of the
dealer's core until they are filed, which so counts them (R163, R164). -/
def State.passEvents (s : State) (rcb dealer : Nat) (new : Nat × Nat) (l : List Event) : State :=
  if new.1 = s.pkgNum then l.foldl (fun t e => t.insertEvent (s.hostRegion rcb new.2) new.2 e) s
  else l.foldl (fun t e => t.sendEventTo rcb dealer new e) s

/-- Step 5 of a move of an actor by a dealer: every actor-home cache of the society told, those of this package on SYS, the others through what leaves the package (R196). -/
def State.tellCaches (s : State) (rcb : Nat) (actor : BitVec 48) (dealer : Nat) : State :=
  let scope := ((s.regionsOf (s.socOf rcb)).flatMap (fun q => ((s.getRegion? q).map Region.cores).getD [])).eraseDups
  let t := s.push (scope.map (fun c =>
    { net := .sys, src := corePt s.pkgNum dealer, dst := corePt s.pkgNum c, rcb := rcb, body := .homeInvalidate actor }))
  if s.spread (s.socOf rcb) then { t with outputs := t.outputs ++ [.homeInvalidate (s.socOf rcb) actor] } else t

/-- Steps 3 to 5 of a move of an actor that lives here to a new home, by its package and its core: a firing in progress squashed, pending events and cancels that the old
home holds for any region of the society passed on in key order, HPKG and HCORE written, and every actor-home cache of the society told. The old home's dealer does it
(R196), for a sealed core that of the issuing core (R340). -/
def State.rehome (s : State) (rcb : Nat) (actor : BitVec 48) (desc old : Nat) (new : Nat × Nat) (issuer : Nat) : State :=
  let lost := (s.getCore old).sealed.isSome
  let dealer := if lost then issuer else old
  let from_ := s.regionsOf (s.socOf rcb)
  let walker := if lost then issuer else if new.1 = s.pkgNum then new.2 else old
  let s1 := (s.rehomeStop rcb actor old dealer).moveUndo (s.socOf rcb) actor old walker (s.hostRegion rcb walker)
  let held := from_.flatMap (fun q => let w := s1.getWork q old; (w.deck ++ w.kitty).filter (fun e => e.dst == actor))
  let moved := held.foldl (fun l e => insertEventByKey e l) []
  let s2 := from_.foldl (fun (t : State) q => t.modWork q old (fun w => ({ w with
    deck := w.deck.filter (fun e => e.dst != actor)
    kitty := w.kitty.filter (fun e => e.dst != actor) }).refill (s1.deckCap q))) s1
  let s3 := s2.passEvents rcb dealer new moved
  (s3.dealerStore rcb dealer (desc + 0x18) 4 (new.1 % 256 * 2 ^ 24 + new.2) false).tellCaches rcb actor dealer

/-- A move of an actor of a society that lives here, asked for by another package (R196): the old home's dealer is of this one. -/
def State.moveAway (s : State) (soc : Nat) (actor : BitVec 48) (new : Nat × Nat) : State :=
  match (s.regionsOf soc).head? with
  | none => s
  | some q =>
    let cores := ((s.getRegion? q).map Region.cores).getD []
    let n := ((cores.find? (fun c => (s.getCore c).sealed.isNone)).or cores.head?).getD 0
    let d := s.actorDesc q n actor.toNat
    if d.1 = 0 then d.2
    else
      let w := d.2.dealerLoad q n (d.1 + 0x18) 8
      let h := homeOfWord w.1.1
      if h.1 ≠ s.pkgNum ∨ h = new then w.2 else w.2.rehome q actor d.1 h.2 new n

/-- Whether a packet tells an actor-home cache of a move of an actor. -/
def tellsOf (actor : BitVec 48) (p : Packet) : Bool :=
  match p.body with
  | .homeInvalidate a => a == actor
  | _ => false

/-- Whether a move of an actor of a society has still to reach a core of its scope: of this package, or of another, which says so once it is done (R196). -/
def State.moveOpen (s : State) (soc : Nat) (actor : BitVec 48) : Bool := s.net.any (tellsOf actor) || s.dom.untold.contains (soc, actor)

/-- A move of an actor to a core of this package: by the dealer of its old home, which for one that lives in another package is asked to do it (R196, log 44). The other
packages of the society have then to say that the move is done. -/
def State.moveTo (s : State) (rcb : Nat) (actor : BitVec 48) (desc : Nat) (old : Nat × Nat) (new issuer : Nat) : State :=
  let soc := s.socOf rcb
  let t := if old.1 = s.pkgNum then s.rehome rcb actor desc old.2 (s.pkgNum, new) issuer
    else { s with outputs := s.outputs ++ [.rehomeRequest soc actor new] }
  if old.1 ≠ s.pkgNum || s.spread soc then { t with dom := { t.dom with untold := t.dom.untold ++ [(soc, actor)] } } else t

/-- `arehome` (R196): the reads that resolve the actor are its own loads, whose traps come first (R21, R144); it completes when every core of the scope has been
told. -/
def execArehome (a b : Reg) (s : State) : Host.Outcome State Fault Refusal :=
  finish (do
    let s ← get
    let c := s.cx
    let rcb := c.rgn
    let actor := (c.s a).extractLsb' 0 48
    let new := ((c.s b).extractLsb' 0 14).toNat
    let told : Exec Unit := do
      if (← get).moveOpen (s.socOf rcb) actor then modify (fun s => s.beginWait (.rehome actor)) else retireE
    if c.wait.map Wait.kind = some (.rehome actor) then told
    else
      let f ← findDescriptor actor
      let w ← match f with
        | .ok d => loadAddr (BitVec.ofNat 64 (d + 0x18)) 8
        | .error _ => pure (0, false)
      guardUntimed
      let d ← orDesc f
      guardTrap (s.qualifiesFor rcb new) cRESOURCE (BitVec.ofNat 64 new)
      guardPoison (c.sp a || c.sp b)
      let h := homeOfWord w.1
      if h = (s.pkgNum, new) then retireE
      else
        modify (fun s => s.moveTo rcb actor d h new s.coreNum)
        told) s

end Sys2Proof.Machine
end

