-- ==== Sys2Proof/Machine/Alu.lean ====
section
/-! DEFINITION. The register-register integer operations (spec 04 R77; 03 R52, R53) and the immediate operations (R78 to R80). -/

namespace Sys2Proof.Machine

/-- The signed quotient (R53). -/
def quotS (n : Nat) (x y : BitVec n) : BitVec n := if y = 0 then BitVec.allOnes n else x.sdiv y
/-- The unsigned quotient (R53). -/
def quotU (n : Nat) (x y : BitVec n) : BitVec n := if y = 0 then BitVec.allOnes n else x.udiv y
/-- The signed remainder (R53). -/
def remS (n : Nat) (x y : BitVec n) : BitVec n := if y = 0 then x else x.srem y
/-- The unsigned remainder (R53). -/
def remU (n : Nat) (x y : BitVec n) : BitVec n := if y = 0 then x else x.umod y

/-- The shift count of a form: y[5:0], or y[4:0] in the 32-bit form (R77). -/
def shiftCount (n : Nat) (y : BitVec n) : Nat := y.toNat % n

/-- Bits [127:64] of an exact product (R77). -/
def highProduct (x y : Int) : Dword := BitVec.ofInt 64 (x * y / 2 ^ 64)

/-- The number of leading zeros of a dword (R77). -/
def leadingZeros (x : Dword) : Nat := if x = 0 then 64 else 63 - Nat.log2 x.toNat

/-- The number of trailing zeros of a dword (R77). -/
def trailingZeros (x : Dword) : Nat := ((rangeFrom 0 64).find? (fun i => x.getLsbD i)).getD 64

/-- The number of one bits of a dword (R77, R104). -/
def onesCount (x : Dword) : Nat := ((rangeFrom 0 64).filter (fun i => x.getLsbD i)).length

/-- The bytes of a dword in reverse order (R77). -/
def reverseBytes (x : Dword) : Dword :=
  x.extractLsb' 0 8 ++ x.extractLsb' 8 8 ++ x.extractLsb' 16 8 ++ x.extractLsb' 24 8 ++
  x.extractLsb' 32 8 ++ x.extractLsb' 40 8 ++ x.extractLsb' 48 8 ++ x.extractLsb' 56 8


/-- `add` (R77). -/
def execAdd (d a b : Reg) (w : Bool) (s : State) : Host.Outcome State Fault Refusal :=
  .next (s.scalar2 d a b (form w (fun _ x y => x + y)))

/-- `sub` (R77). -/
def execSub (d a b : Reg) (w : Bool) (s : State) : Host.Outcome State Fault Refusal :=
  .next (s.scalar2 d a b (form w (fun _ x y => x - y)))

/-- `and` (R77). -/
def execAnd (d a b : Reg) (s : State) : Host.Outcome State Fault Refusal :=
  .next (s.scalar2 d a b (fun x y => x &&& y))

/-- `or` (R77). -/
def execOr (d a b : Reg) (s : State) : Host.Outcome State Fault Refusal :=
  .next (s.scalar2 d a b (fun x y => x ||| y))

/-- `xor` (R77). -/
def execXor (d a b : Reg) (s : State) : Host.Outcome State Fault Refusal :=
  .next (s.scalar2 d a b (fun x y => x ^^^ y))

/-- `andn` (R77). -/
def execAndn (d a b : Reg) (s : State) : Host.Outcome State Fault Refusal :=
  .next (s.scalar2 d a b (fun x y => x &&& ~~~y))

/-- `sll` (R77). -/
def execSll (d a b : Reg) (w : Bool) (s : State) : Host.Outcome State Fault Refusal :=
  .next (s.scalar2 d a b (form w (fun n x y => x <<< shiftCount n y)))

/-- `srl` (R77). -/
def execSrl (d a b : Reg) (w : Bool) (s : State) : Host.Outcome State Fault Refusal :=
  .next (s.scalar2 d a b (form w (fun n x y => x >>> shiftCount n y)))

/-- `sra` (R77). -/
def execSra (d a b : Reg) (w : Bool) (s : State) : Host.Outcome State Fault Refusal :=
  .next (s.scalar2 d a b (form w (fun n x y => x.sshiftRight (shiftCount n y))))

/-- `slt` (R77). -/
def execSlt (d a b : Reg) (s : State) : Host.Outcome State Fault Refusal :=
  .next (s.scalar2 d a b (fun x y => Dword.ofBool (x.slt y)))

/-- `sltn` (R77). -/
def execSltn (d a b : Reg) (s : State) : Host.Outcome State Fault Refusal :=
  .next (s.scalar2 d a b (fun x y => Dword.ofBool (x.ult y)))

/-- `min` (R77). -/
def execMin (d a b : Reg) (s : State) : Host.Outcome State Fault Refusal :=
  .next (s.scalar2 d a b (fun x y => if x.slt y then x else y))

/-- `max` (R77). -/
def execMax (d a b : Reg) (s : State) : Host.Outcome State Fault Refusal :=
  .next (s.scalar2 d a b (fun x y => if x.slt y then y else x))

/-- `minn` (R77). -/
def execMinn (d a b : Reg) (s : State) : Host.Outcome State Fault Refusal :=
  .next (s.scalar2 d a b (fun x y => if x.ult y then x else y))

/-- `maxn` (R77). -/
def execMaxn (d a b : Reg) (s : State) : Host.Outcome State Fault Refusal :=
  .next (s.scalar2 d a b (fun x y => if x.ult y then y else x))

/-- `mul` (R77). -/
def execMul (d a b : Reg) (w : Bool) (s : State) : Host.Outcome State Fault Refusal :=
  .next (s.scalar2 d a b (form w (fun _ x y => x * y)))

/-- `mulh` (R77). -/
def execMulh (d a b : Reg) (s : State) : Host.Outcome State Fault Refusal :=
  .next (s.scalar2 d a b (fun x y => highProduct x.toInt y.toInt))

/-- `mulhn` (R77). -/
def execMulhn (d a b : Reg) (s : State) : Host.Outcome State Fault Refusal :=
  .next (s.scalar2 d a b (fun x y => highProduct x.toNat y.toNat))

/-- `mulhsn` (R77). -/
def execMulhsn (d a b : Reg) (s : State) : Host.Outcome State Fault Refusal :=
  .next (s.scalar2 d a b (fun x y => highProduct x.toInt y.toNat))

/-- `div` (R77). -/
def execDiv (d a b : Reg) (w : Bool) (s : State) : Host.Outcome State Fault Refusal :=
  .next (s.scalar2 d a b (form w (quotS)))

/-- `divn` (R77). -/
def execDivn (d a b : Reg) (w : Bool) (s : State) : Host.Outcome State Fault Refusal :=
  .next (s.scalar2 d a b (form w (quotU)))

/-- `rem` (R77). -/
def execRem (d a b : Reg) (w : Bool) (s : State) : Host.Outcome State Fault Refusal :=
  .next (s.scalar2 d a b (form w (remS)))

/-- `remn` (R77). -/
def execRemn (d a b : Reg) (w : Bool) (s : State) : Host.Outcome State Fault Refusal :=
  .next (s.scalar2 d a b (form w (remU)))

/-- `clz` (R77). -/
def execClz (d a : Reg) (s : State) : Host.Outcome State Fault Refusal :=
  .next (s.scalar1 d a (fun x => BitVec.ofNat 64 (leadingZeros x)))

/-- `ctz` (R77). -/
def execCtz (d a : Reg) (s : State) : Host.Outcome State Fault Refusal :=
  .next (s.scalar1 d a (fun x => BitVec.ofNat 64 (trailingZeros x)))

/-- `popc` (R77). -/
def execPopc (d a : Reg) (s : State) : Host.Outcome State Fault Refusal :=
  .next (s.scalar1 d a (fun x => BitVec.ofNat 64 (onesCount x)))

/-- `bswap` (R77). -/
def execBswap (d a : Reg) (s : State) : Host.Outcome State Fault Refusal :=
  .next (s.scalar1 d a (reverseBytes))

/-! ### Immediate operations -/

/-- `addi` (R78). -/
def execAddi (d a : Reg) (imm : Dword) (s : State) : Host.Outcome State Fault Refusal :=
  .next (s.scalar1 d a (fun x => x + imm))

/-- `andi` (R78). -/
def execAndi (d a : Reg) (imm : Dword) (s : State) : Host.Outcome State Fault Refusal :=
  .next (s.scalar1 d a (fun x => x &&& imm))

/-- `ori` (R78). -/
def execOri (d a : Reg) (imm : Dword) (s : State) : Host.Outcome State Fault Refusal :=
  .next (s.scalar1 d a (fun x => x ||| imm))

/-- `xori` (R78). -/
def execXori (d a : Reg) (imm : Dword) (s : State) : Host.Outcome State Fault Refusal :=
  .next (s.scalar1 d a (fun x => x ^^^ imm))

/-- `slti` (R78). -/
def execSlti (d a : Reg) (imm : Dword) (s : State) : Host.Outcome State Fault Refusal :=
  .next (s.scalar1 d a (fun x => Dword.ofBool (x.slt imm)))

/-- `sltni` (R78). -/
def execSltni (d a : Reg) (imm : Dword) (s : State) : Host.Outcome State Fault Refusal :=
  .next (s.scalar1 d a (fun x => Dword.ofBool (x.ult imm)))

/-- `slli` (R79). -/
def execSlli (d a : Reg) (c : BitVec 6) (s : State) : Host.Outcome State Fault Refusal :=
  .next (s.scalar1 d a (fun x => x <<< c.toNat))

/-- `srli` (R79). -/
def execSrli (d a : Reg) (c : BitVec 6) (s : State) : Host.Outcome State Fault Refusal :=
  .next (s.scalar1 d a (fun x => x >>> c.toNat))

/-- `srai` (R79). -/
def execSrai (d a : Reg) (c : BitVec 6) (s : State) : Host.Outcome State Fault Refusal :=
  .next (s.scalar1 d a (fun x => x.sshiftRight c.toNat))

/-- The field of `len` bits at a position, zero-extended (R80). -/
def fieldAt (x : Dword) (p len : Nat) : Nat := x.toNat / 2 ^ p % 2 ^ len

/-- `bfx` (R80). -/
def execBfx (d a : Reg) (l p : BitVec 6) (s : State) : Host.Outcome State Fault Refusal :=
  .next (s.scalar1 d a (fun x => BitVec.ofNat 64 (fieldAt x p.toNat (l.toNat + 1))))
/-- `bfxs`: bfx with the sign bit set (R80). -/
def execBfxs (d a : Reg) (l p : BitVec 6) (s : State) : Host.Outcome State Fault Refusal :=
  .next (s.scalar1 d a (fun x => BitVec.ofInt 64 (signedOf (l.toNat + 1) (fieldAt x p.toNat (l.toNat + 1)))))
/-- `bfi`: d is read, then written (R80). -/
def execBfi (d a : Reg) (l p : BitVec 6) (s : State) : Host.Outcome State Fault Refusal :=
  .next (s.scalar2 d d a (fun v x =>
    let m : Dword := BitVec.ofNat 64 ((2 ^ (l.toNat + 1) - 1) * 2 ^ p.toNat)
    (v &&& ~~~m) ||| ((x <<< p.toNat) &&& m)))

end Sys2Proof.Machine
end

