-- ==== Sys2Proof/Machine/Float.lean ====
section
/-! DEFINITION. IEEE arithmetic (spec 03 R55 to R60): exact values, one rounding, the operations of the vector families. -/

namespace Sys2Proof.Machine

/-- A format: exponent bits and trailing significand bits (R55). -/
structure FFmt where
  eb : Nat
  mb : Nat
  deriving DecidableEq, Repr

def FFmt.f16 : FFmt := { eb := 5, mb := 10 }
def FFmt.bf16 : FFmt := { eb := 8, mb := 7 }
def FFmt.f32 : FFmt := { eb := 8, mb := 23 }
def FFmt.f64 : FFmt := { eb := 11, mb := 52 }

/-- The format of a floating-point type; for an integer type, one of its width that no operation uses. -/
def fmtOf (t : ETy) : FFmt :=
  match t with
  | .f16 => .f16 | .bf16 => .bf16 | .f32 => .f32 | .f64 => .f64
  | .i8 => .f16 | .i16 => .f16 | .i32 => .f32 | .i64 => .f64

def FFmt.bias (f : FFmt) : Nat := 2 ^ (f.eb - 1) - 1
def FFmt.signBit (f : FFmt) : Nat := 2 ^ (f.eb + f.mb)
def FFmt.infBits (f : FFmt) : Nat := (2 ^ f.eb - 1) * 2 ^ f.mb
/-- The canonical quiet NaN (R56). -/
def FFmt.qnan (f : FFmt) : Nat := f.infBits + 2 ^ (f.mb - 1)
def FFmt.maxBits (f : FFmt) : Nat := f.infBits - 1
/-- The least normal exponent. -/
def FFmt.emin (f : FFmt) : Int := 1 - (f.bias : Int)

/-- The sign bit on a magnitude. -/
def FFmt.withSign (f : FFmt) (neg : Bool) (x : Nat) : Nat := if neg then f.signBit + x else x

/-- A value: a NaN (signalling or not), an infinity, or ±m × 2^e exactly. -/
inductive FVal where
  | nan (sig : Bool)
  | inf (neg : Bool)
  | fin (neg : Bool) (m : Nat) (e : Int)
  deriving DecidableEq, Repr

/-- The value of a bit pattern; a subnormal is read as a zero when flush is in force (R59). -/
def FFmt.decode (f : FFmt) (flush : Bool) (x : Nat) : FVal :=
  let neg := x / f.signBit % 2 = 1
  let ex := x / 2 ^ f.mb % 2 ^ f.eb
  let t := x % 2 ^ f.mb
  if ex = 2 ^ f.eb - 1 then
    if t = 0 then .inf neg else .nan (t < 2 ^ (f.mb - 1))
  else if ex = 0 then
    if flush then .fin neg 0 0 else .fin neg t (f.emin - f.mb)
  else .fin neg (2 ^ f.mb + t) ((ex : Int) - f.bias - f.mb)

/-- Whether a NaN signals. -/
def FVal.sig : FVal → Bool
  | .nan s => s
  | _ => false

def FVal.isNan : FVal → Bool
  | .nan _ => true
  | _ => false

/-- The number of bits of a natural number. -/
def bitLen (n : Nat) : Nat := if n = 0 then 0 else Nat.log2 n + 1

/-- `(m + a little more if sticky) × 2^e` rounded to a multiple of `2^q`: the multiple, and whether it is inexact (R55). -/
def roundAt (rm : Rm) (neg : Bool) (m : Nat) (e q : Int) (sticky : Bool) : Nat × Bool :=
  if q ≤ e then
    let n := m * 2 ^ (e - q).toNat
    let up := sticky && (match rm with | .rne => false | .rtz => false | .rdn => neg | .rup => !neg)
    (if up then n + 1 else n, sticky)
  else
    let sh := (q - e).toNat
    let n := m / 2 ^ sh
    let r := m % 2 ^ sh
    let half := 2 ^ (sh - 1)
    let inexact := r ≠ 0 || sticky
    let up := match rm with
      | .rne => decide (r > half) || (r == half && (sticky || n % 2 == 1))
      | .rtz => false
      | .rdn => inexact && neg
      | .rup => inexact && !neg
    (if up then n + 1 else n, inexact)

/-- The result of an overflow (R59): infinity or the largest finite value by the rounding mode; under saturation the latter (R106). -/
def FFmt.overflow (f : FFmt) (env : FpEnv) (neg : Bool) : Nat × FpFlags :=
  if env.sat then (f.withSign neg f.maxBits, fSV)
  else
    let big := match env.rm with | .rne => true | .rtz => false | .rdn => neg | .rup => !neg
    (f.withSign neg (if big then f.infBits else f.maxBits), fOF ||| fNX)

/-- An exact nonzero value `±(m + a little more if sticky) × 2^e` rounded once to a format (R55, R59). Saturation applies only where the
settings carry it. -/
def FFmt.round (f : FFmt) (env : FpEnv) (neg : Bool) (m : Nat) (e : Int) (sticky : Bool) : Nat × FpFlags :=
  let top : Int := (bitLen m : Int) - 1 + e
  let q := max top f.emin - f.mb
  let r := roundAt env.rm neg m e q sticky
  let u := roundAt env.rm neg m e (top - f.mb) sticky
  let tiny := decide (top < f.emin) && !(u.1 == 2 ^ (f.mb + 1) && decide (top + 1 = f.emin))
  if tiny && env.flush then (f.withSign neg 0, fUF ||| fNX)
  else
    let n := r.1
    let carry := n = 2 ^ (f.mb + 1)
    let ex : Int := if n < 2 ^ f.mb then 0 else q + f.mb + f.bias + (if carry then 1 else 0)
    if ex ≥ (2 ^ f.eb - 1 : Nat) then f.overflow env neg
    else
      let t := if n < 2 ^ f.mb then n else if carry then 0 else n - 2 ^ f.mb
      (f.withSign neg (ex.toNat * 2 ^ f.mb + t), flagIf r.2 fNX ||| flagIf (tiny && r.2) fUF)

/-- An exact value rounded to a format; an exact zero keeps the sign given. -/
def FFmt.result (f : FFmt) (env : FpEnv) (v : FVal) : Nat × FpFlags :=
  match v with
  | .nan s => (f.qnan, flagIf s fNV)
  | .inf neg => (f.withSign neg f.infBits, 0)
  | .fin neg 0 _ => (f.withSign neg 0, 0)
  | .fin neg m e => f.round env neg m e false

/-- The settings of an arithmetic operation: saturation belongs to conversions only (R57). -/
def FpEnv.arith (env : FpEnv) : FpEnv := { env with sat := false }

/-- A signed exact dyadic number: numerator and exponent. -/
def dyad (neg : Bool) (m : Nat) : Int := if neg then -(m : Int) else m

/-- The exact sum of two finite values; a zero sum has the sign of IEEE 754 (R99). -/
def finAdd (rm : Rm) (n1 : Bool) (m1 : Nat) (e1 : Int) (n2 : Bool) (m2 : Nat) (e2 : Int) : FVal :=
  if m1 = 0 ∧ m2 = 0 then .fin (if n1 = n2 then n1 else rm == .rdn) 0 0
  else
    let e := if m1 = 0 then e2 else if m2 = 0 then e1 else min e1 e2
    let a := if m1 = 0 then 0 else dyad n1 m1 * 2 ^ (e1 - e).toNat
    let b := if m2 = 0 then 0 else dyad n2 m2 * 2 ^ (e2 - e).toNat
    let t := a + b
    if t = 0 then .fin (rm == .rdn) 0 0 else .fin (decide (t < 0)) t.natAbs e

/-- Sum of two values, not rounded, with the flags of the operands (R56). -/
def vAdd (rm : Rm) (x y : FVal) : FVal × FpFlags :=
  match x, y with
  | .nan s, b => (.nan false, flagIf (s || b.sig) fNV)
  | a, .nan s => (.nan false, flagIf (s || a.sig) fNV)
  | .inf a, .inf b => if a = b then (.inf a, 0) else (.nan false, fNV)
  | .inf a, .fin .. => (.inf a, 0)
  | .fin .., .inf b => (.inf b, 0)
  | .fin n1 m1 e1, .fin n2 m2 e2 => (finAdd rm n1 m1 e1 n2 m2 e2, 0)

/-- Product of two values, exact. -/
def vMul (x y : FVal) : FVal × FpFlags :=
  match x, y with
  | .nan s, b => (.nan false, flagIf (s || b.sig) fNV)
  | a, .nan s => (.nan false, flagIf (s || a.sig) fNV)
  | .inf a, .inf b => (.inf (a != b), 0)
  | .inf a, .fin b m _ => if m = 0 then (.nan false, fNV) else (.inf (a != b), 0)
  | .fin a m _, .inf b => if m = 0 then (.nan false, fNV) else (.inf (a != b), 0)
  | .fin n1 m1 e1, .fin n2 m2 e2 => (.fin (n1 != n2) (m1 * m2) (e1 + e2), 0)

def FVal.neg : FVal → FVal
  | .nan s => .nan s
  | .inf n => .inf (!n)
  | .fin n m e => .fin (!n) m e

/-- A value and its flags rounded to a format. -/
def FFmt.finishOp (f : FFmt) (env : FpEnv) (r : FVal × FpFlags) : Nat × FpFlags :=
  let x := f.result env.arith r.1
  (x.1, x.2 ||| r.2)

/-- Sum of two bit patterns (R97). -/
def FFmt.add (f : FFmt) (env : FpEnv) (x y : Nat) : Nat × FpFlags :=
  f.finishOp env (vAdd env.rm (f.decode env.flush x) (f.decode env.flush y))

/-- Difference of two bit patterns (R97). -/
def FFmt.sub (f : FFmt) (env : FpEnv) (x y : Nat) : Nat × FpFlags :=
  f.finishOp env (vAdd env.rm (f.decode env.flush x) (f.decode env.flush y).neg)

/-- Product of two bit patterns (R97). -/
def FFmt.mul (f : FFmt) (env : FpEnv) (x y : Nat) : Nat × FpFlags :=
  f.finishOp env (vMul (f.decode env.flush x) (f.decode env.flush y))

/-- Quotient of two values rounded to a format (R97). -/
def FFmt.divV (f : FFmt) (env : FpEnv) (x y : FVal) : Nat × FpFlags :=
  match x, y with
  | .nan s, b => (f.qnan, flagIf (s || b.sig) fNV)
  | a, .nan s => (f.qnan, flagIf (s || a.sig) fNV)
  | .inf _, .inf _ => (f.qnan, fNV)
  | .inf a, .fin b _ _ => (f.withSign (a != b) f.infBits, 0)
  | .fin a _ _, .inf b => (f.withSign (a != b) 0, 0)
  | .fin a m1 e1, .fin b m2 e2 =>
    if m2 = 0 then if m1 = 0 then (f.qnan, fNV) else (f.withSign (a != b) f.infBits, fDZ)
    else if m1 = 0 then (f.withSign (a != b) 0, 0)
    else
      let k := f.mb + 4 + bitLen m2
      let n := m1 * 2 ^ k
      f.round env.arith (a != b) (n / m2) (e1 - e2 - k) (n % m2 != 0)

def FFmt.div (f : FFmt) (env : FpEnv) (x y : Nat) : Nat × FpFlags :=
  f.divV env (f.decode env.flush x) (f.decode env.flush y)

/-- The integer square root, bit by bit from bit `k - 1`. -/
def isqrtFrom (n : Nat) : Nat → Nat → Nat
  | 0, r => r
  | k + 1, r => isqrtFrom n k (if (r + 2 ^ k) * (r + 2 ^ k) ≤ n then r + 2 ^ k else r)

def isqrt (n : Nat) : Nat := isqrtFrom n (bitLen n / 2 + 1) 0

/-- The square root of `m × 2^e`, as an integer part with its exponent and whether more follows. -/
def rootOf (prec m : Nat) (e : Int) : Nat × Int × Bool :=
  let k := 2 * (prec + 3) + (if (e - (2 * (prec + 3) : Nat)) % 2 = 0 then 0 else 1)
  let n := m * 2 ^ k
  let r := isqrt n
  (r, (e - k) / 2, r * r != n)

/-- Square root (R97). -/
def FFmt.sqrt (f : FFmt) (env : FpEnv) (x : Nat) : Nat × FpFlags :=
  match f.decode env.flush x with
  | .nan s => (f.qnan, flagIf s fNV)
  | .inf true => (f.qnan, fNV)
  | .inf false => (f.infBits, 0)
  | .fin neg m e =>
    if m = 0 then (f.withSign neg 0, 0)
    else if neg then (f.qnan, fNV)
    else
      let r := rootOf f.mb m e
      f.round env.arith false r.1 r.2.1 r.2.2

/-- `±(x × y) ± z` rounded once; an invalid product counts even with a NaN addend (R99). -/
def FFmt.fma (f : FFmt) (negP negZ : Bool) (env : FpEnv) (x y z : Nat) : Nat × FpFlags :=
  let p := vMul (f.decode env.flush x) (f.decode env.flush y)
  let zv := f.decode env.flush z
  let s := vAdd env.rm (if negP then p.1.neg else p.1) (if negZ then zv.neg else zv)
  f.finishOp env (s.1, s.2 ||| p.2)

/-- Comparison of two values that are no NaN: their order, with −0 equal to +0 (R103). -/
def cmpVal (x y : FVal) : Ordering :=
  match x, y with
  | .inf a, .inf b => if a = b then .eq else if a then .lt else .gt
  | .inf a, _ => if a then .lt else .gt
  | _, .inf b => if b then .gt else .lt
  | .fin n1 m1 e1, .fin n2 m2 e2 =>
    let e := min e1 e2
    let a := dyad n1 m1 * 2 ^ (e1 - e).toNat
    let b := dyad n2 m2 * 2 ^ (e2 - e).toNat
    if a < b then .lt else if a = b then .eq else .gt
  | .nan _, _ => .eq
  | _, .nan _ => .eq

/-- minimumNumber and maximumNumber (R97): −0 below +0, the other operand where one is a NaN. -/
def FFmt.minMax (f : FFmt) (wantMax : Bool) (env : FpEnv) (x y : Nat) : Nat × FpFlags :=
  let a := f.decode env.flush x
  let b := f.decode env.flush y
  let fl := flagIf (a.sig || b.sig) fNV
  let out (v : FVal) (bits : Nat) : Nat := match v with
    | .fin n 0 _ => f.withSign n 0
    | _ => bits
  if a.isNan && b.isNan then (f.qnan, fl)
  else if a.isNan then (out b y, fl)
  else if b.isNan then (out a x, fl)
  else
    let aFirst := match cmpVal a b with
      | .lt => true
      | .gt => false
      | .eq => decide (x / f.signBit % 2 = 1)
    if aFirst != wantMax then (out a x, fl) else (out b y, fl)

/-- |x| and −x: the sign bit alone changes; a NaN gives the canonical one (R97). -/
def FFmt.absV (f : FFmt) (x : Nat) : Nat × FpFlags :=
  match f.decode false x with
  | .nan s => (f.qnan, flagIf s fNV)
  | _ => (x % f.signBit, 0)

def FFmt.negV (f : FFmt) (x : Nat) : Nat × FpFlags :=
  match f.decode false x with
  | .nan s => (f.qnan, flagIf s fNV)
  | _ => (if x / f.signBit % 2 = 1 then x % f.signBit else x + f.signBit, 0)

end Sys2Proof.Machine
end

