-- ==== Sys2Proof/Machine/Cache.lean ====
section
/-! DEFINITION. Atomics, fences and cache instructions (spec 11 R232 to R245). -/

namespace Sys2Proof.Machine

/-! ### Atomics -/

/-- The value at a place before an atomic, with the line's poison, read at the performing point (R233). -/
def State.atomicRead (s : State) (k : Nat) (p : Place) (n : Nat) : (Nat × Bool) × State :=
  match p with
  | .scratch off => s.loadAt k (.scratch off) n
  | .coherent pa _ _ key =>
    let line := lineOf pa
    let s1 := ((((s.placeOverdue line).placeSeen k line).fill line true).settle line).rekey line key
    ((s1.mem.read pa n, s1.linePois line), s1)
  | .uncached pa key => s.uncachedLoad pa n key
  | .device _ => ((0, false), s)

/-- The store of an atomic: the issuer's L1 copy is left as it was (R221, R224). -/
def State.atomicWrite (s : State) (k : Nat) (p : Place) (n v : Nat) (pois : Bool) : State :=
  match p with
  | .coherent pa _ wt key => s.coStore k pa n v pois wt false key
  | _ => s.storeAt k p n v pois

/-- The checks of an atomic, in the order of R234. -/
def atomicPlace (a : Reg) (n : Nat) : Exec Place := do
  let c ← cx
  let ea := c.s a
  guardTrap (ea.toNat % n = 0) cALIGN ea
  let p ← translateT ea .atomic n
  guardTimed ea n
  guardPoison (c.sp a)
  waitSpWords p n
  logStore ea n
  return p

/-- The register value of an old word: sign-extended in the 4-byte form (R234). -/
def oldValue (z : Bool) (v : Nat) : Dword := if z then BitVec.ofNat 64 v else BitVec.ofInt 64 (signedOf 32 v)

/-- An `amo` with its function of the old value and the operand, in bits of the access, with flags (R234, R235). -/
def amo (d a b : Reg) (z : Bool) (f : Nat → Nat → Nat → Nat × FpFlags) : Exec Unit := do
  let n := if z then 8 else 4
  let p ← atomicPlace a n
  let s ← get
  let c := s.cx
  let r := s.atomicRead s.cur p n
  let new := f (8 * n) r.1.1 ((c.s b).toNat % 2 ^ (8 * n))
  set (r.2.atomicWrite s.cur p n new.1 (c.sp b))
  modCx (fun c => (c.setS d (oldValue z r.1.1) r.1.2).addFlags new.2)
  retireE

/-- `amo.add` (R234). -/
def execAmoAdd (d a b : Reg) (z : Bool) (s : State) : Host.Outcome State Fault Refusal :=
  finish (amo d a b z (fun w x y => ((x + y) % 2 ^ w, 0))) s

/-- `amo.and` (R234). -/
def execAmoAnd (d a b : Reg) (z : Bool) (s : State) : Host.Outcome State Fault Refusal :=
  finish (amo d a b z (fun _ x y => (x &&& y, 0))) s

/-- `amo.or` (R234). -/
def execAmoOr (d a b : Reg) (z : Bool) (s : State) : Host.Outcome State Fault Refusal :=
  finish (amo d a b z (fun _ x y => (x ||| y, 0))) s

/-- `amo.xor` (R234). -/
def execAmoXor (d a b : Reg) (z : Bool) (s : State) : Host.Outcome State Fault Refusal :=
  finish (amo d a b z (fun _ x y => (x ^^^ y, 0))) s

/-- `amo.min` (R234). -/
def execAmoMin (d a b : Reg) (z : Bool) (s : State) : Host.Outcome State Fault Refusal :=
  finish (amo d a b z (fun w x y => (if signedOf w x < signedOf w y then x else y, 0))) s

/-- `amo.max` (R234). -/
def execAmoMax (d a b : Reg) (z : Bool) (s : State) : Host.Outcome State Fault Refusal :=
  finish (amo d a b z (fun w x y => (if signedOf w x < signedOf w y then y else x, 0))) s

/-- `amo.minn` (R234). -/
def execAmoMinn (d a b : Reg) (z : Bool) (s : State) : Host.Outcome State Fault Refusal :=
  finish (amo d a b z (fun _ x y => (min x y, 0))) s

/-- `amo.maxn` (R234). -/
def execAmoMaxn (d a b : Reg) (z : Bool) (s : State) : Host.Outcome State Fault Refusal :=
  finish (amo d a b z (fun _ x y => (max x y, 0))) s

/-- `amo.swap` (R234). -/
def execAmoSwap (d a b : Reg) (z : Bool) (s : State) : Host.Outcome State Fault Refusal :=
  finish (amo d a b z (fun _ _ y => (y, 0))) s

/-- `amo.fadd`: one rounding under RNE, subnormals kept (R235). -/
def execAmoFadd (d a b : Reg) (z : Bool) (s : State) : Host.Outcome State Fault Refusal :=
  finish (amo d a b z (fun _ x y => (if z then FFmt.f64 else FFmt.f32).add FpEnv.plain x y)) s

/-- `cas`: a failed compare is still a store (R236). -/
def execCas (d a b : Reg) (z : Bool) (s : State) : Host.Outcome State Fault Refusal :=
  finish (do
    let n := if z then 8 else 4
    let p ← atomicPlace a n
    let s ← get
    let c := s.cx
    let r := s.atomicRead s.cur p n
    let hit := r.1.1 == (c.s d).toNat % 2 ^ (8 * n)
    set (r.2.atomicWrite s.cur p n (if hit then (c.s b).toNat % 2 ^ (8 * n) else r.1.1) (hit && c.sp b))
    modCx (fun c => c.setS d (oldValue z r.1.1) r.1.2)
    retireE) s

/-! ### Fences -/

/-- The wider of two scopes (R227). -/
def Scope.rank : Scope → Nat
  | .ctx => 0 | .core => 1 | .die => 2 | .pkg => 3 | .dom => 4 | .sys => 5
def wider (a b : Scope) : Scope := if Scope.rank a < Scope.rank b then b else a

/-- Whether a copy or attention command of the running context is still under way (R238). -/
def State.commandsOpen (s : State) : Bool := s.commandsOf s.coreNum s.slotNum s.cx.inc

/-- Whether a write of an engine is one of the running context's. -/
def State.ownEarly (s : State) (e : Early) : Bool := e.of s.cur s.cx

/-- The running context, told from those that have held its slot before. -/
def State.ownTag (s : State) : Nat := ctxTag s.cur s.cx.inc

/-- A write that has not reached its place after a fence of the running context: one of its own commands is seen within the fence's scope from now on, and one that
the context has seen, or sees at the fence, precedes the reads of its later commands (R227, R238). That it is enough for the context to see it is the model's choice
(DESIGN CHOICE, log 11: the release that lets it be seen need not have come before anything that the context has read). -/
def State.fencedWrite (s : State) (sc : Scope) (e : Early) : Early :=
  if s.ownEarly e then { e with scope := some (wider sc (e.scope.getD .ctx)), observed := kset e.observed s.ownTag true }
  else if e.seenBy s.ownTag || s.seesEarly s.cur e then { e with observed := kset e.observed s.ownTag true }
  else e

/-- What a fence makes of the earlier writes of the running context's commands: at dom and sys they take their places, at a narrower scope the
observers within it see them (R227, R238). The context's later accesses, and the reads of its later commands, follow those writes and all that it and its commands
have accessed before (R238): no command of the context reads what its lines were before the fence. -/
def State.fenced (s : State) (sc : Scope) : State :=
  let s1 := { s with past := s.past.filter (fun x => x.ctx != s.ownTag) }
  let s2 := if sc == .dom || sc == .sys then s1.placeThose s.ownEarly else s1
  { s2 with early := s2.early.map (s2.fencedWrite sc) }.modCx (fun c => { c with lt := max c.lt c.cmdLt, fenceLt := max c.lt c.cmdLt })

/-- Whether a lost plane holds up a write that a fence at dom or sys must place (R396). -/
def State.fenceHeld (s : State) (sc : Scope) : Bool :=
  (sc == .dom || sc == .sys) && s.early.any (fun e => s.ownEarly e && s.heldUp e.line true)

/-- The computation of a fence: it completes once the context's commands have performed their accesses (R238). -/
def fence (sc : Scope) : Exec Unit := do
  if (← get).commandsOpen then throw (.wait .commands) else pure ()
  if (← get).fenceHeld sc then throw (.wait .plane) else pure ()
  modify (fun s => s.fenced sc)
  retireE

/-- `fence` (R238). -/
def execFence (sc : Scope) (s : State) : Host.Outcome State Fault Refusal := finish (fence sc) s

/-- `fence.io` (R239): what `fence.sys` does; accesses to devices are performed as their instructions complete, so nothing of them is open. -/
def execFenceIo (s : State) : Host.Outcome State Fault Refusal := finish (fence .sys) s

/-! ### Caches -/

/-- The instruction copies of a line dropped on the cores within scope (R240). -/
def State.dropICache (s : State) (sc : Scope) (line : Nat) : State :=
  { s with cores := s.cores.map (fun x =>
      if inScope sc s.coreNum x.1 then (x.1, { x.2 with icache := kdel x.2.icache line }) else x) }

/-- Whether another package of the domain may hold newer data of a line than its home does (R240, step 2; R390). -/
def State.dirtyElsewhere (s : State) (line : Nat) : Bool :=
  match kget s.dom.dir line with
  | none => false
  | some e => e.state != .shared && e.owner != s.pkgNum

/-- A copy that another package holds in M or O written back to the line's home, as a read by the home brings it there (R240, step 2; R391). -/
def State.flushCopies (s : State) (line : Nat) : State :=
  if s.dirtyElsewhere line then s.getS line (homePkg line) else s

/-- `cflush` (R240). -/
def execCflush (a : Reg) (sc : Scope) (s : State) : Host.Outcome State Fault Refusal :=
  finish (do
    let c ← cx
    let p ← translateT (c.s a) .flush 1
    guardPoison (c.sp a)
    match p with
    | .coherent pa _ _ _ =>
      let line := lineOf pa
      modify (fun s => s.placeSeen s.cur line)
      if sc == .dom || sc == .sys then
        let s ← get
        if s.recovering line && s.dirtyElsewhere line then throw (.wait .plane) else set (s.flushCopies line)
      else pure ()
      modify (fun s => (s.writeBack line).dropICache sc line)
    | _ => pure ()
    retireE) s

/-- The trap PRIV of an instruction for supervisor mode (R13, R237). -/
def guardSuper : Exec Unit := do
  let s ← get
  guardTrap (s.cx.mode == .super) cPRIV (BitVec.setWidth 64 s.grp.word)

/-- `cinval`: the line takes the content of device memory (R241). -/
def execCinval (a : Reg) (sc : Scope) (s : State) : Host.Outcome State Fault Refusal :=
  finish (do
    guardSuper
    let c ← cx
    let p ← translateT (c.s a) .inval 1
    guardTrap (!c.timed) cTIMEDWR (c.s a)
    guardPoison (c.sp a)
    match p with
    | .coherent pa _ _ _ =>
      let line := lineOf pa
      modify (fun s =>
        let s1 := (s.placeSeen s.cur line).maybeWriteBack line
        let d := s1.deviceLine line
        (s1.coStore s1.cur (64 * line) 64 d.1.toNat d.2 true true (s1.keyOf line)).dropICache sc line)
    | _ => pure ()
    retireE) s

/-- A line filled into the data L1 of the running core, with a lease; no access of the context (R242). -/
def State.prefetchFill (s0 : State) (pa : Nat) : State :=
  let line := lineOf pa
  let s := s0.fill line false
  let le := s.lease line
  let rts := max le.2 (s.cx.lt + 255)
  let copy : L1Copy := { line := line, data := s.lineData line, pois := s.linePois line, wts := le.1, rts := rts, fill := s.cycle }
  { s with leases := kset s.leases line (le.1, rts) }.fillL1 s.coreNum copy

/-- `prefetch`: into the data L1, or into the slice alone under intent 1 and on a page without L1; it never traps after decode (R242). A line that
the L1 may not serve to the context comes no nearer than its slice. -/
def execPrefetch (i : Bool) (a : Reg) (s : State) : Host.Outcome State Fault Refusal :=
  finish (do
    let c ← cx
    if c.sp a || inScratch (c.s a) then pure ()
    else
      match ← tryTranslate (c.s a) .load 1 with
      | .ok (.coherent pa l1 wt key) =>
        let s ← get
        let line := lineOf pa
        if s.stalls (.coherent pa l1 wt key) false then pure ()
        else if i || !l1 || s.keyOf line != key || s.early.any (fun e => e.line == line && s.seesEarly s.cur e) then
          set (s.fill line false)
        else set (s.prefetchFill pa)
      | _ => pure ()
    retireE) s

end Sys2Proof.Machine
end

