-- ==== Sys2Proof/Machine/Barrier.lean ====
section
/-! DEFINITION. Barriers and chain reductions (spec 06 R137 to R139; 08 R197 to R201). -/

namespace Sys2Proof.Machine

/-- A barrier at launch (R197). -/
def Barrier.reset : Barrier :=
  { members := [], perCore := 0, op := 0, ty := 0, phase := 0, arrived := [], partials := [], arrLt := 0, phaseLt := 0 }

/-- A barrier of a region, and a change of it. -/
def State.barrier (s : State) (rcb b : Nat) : Barrier :=
  match s.getRegion? rcb with
  | none => Barrier.reset
  | some r => kgetD r.barriers b Barrier.reset
def State.modBarrier (s : State) (rcb b : Nat) (f : Barrier → Barrier) : State :=
  s.modRegion rcb (fun r => { r with barriers := kset r.barriers b (f (kgetD r.barriers b Barrier.reset)) })

/-- Arrivals made in the current phase, by all cores. -/
def Barrier.total (b : Barrier) : Nat := b.arrived.foldl (fun a x => a + x.2) 0

/-- One arrival of a core at a logical time: the M-th ends the phase (R137), which every access before its arrivals precedes (R138). -/
def Barrier.arrive (b : Barrier) (core lt : Nat) : Barrier :=
  let b' := { b with arrived := kset b.arrived core (kgetD b.arrived core 0 + 1), arrLt := max b.arrLt lt }
  if b'.total < b.members.length * b.perCore then b'
  else { b' with phase := b.phase + 1, arrived := [], phaseLt := max b.phaseLt b'.arrLt }

/-- The number of a barrier register (R197). -/
def barrierOf (x : Dword) : Nat := x.toNat % 32

/-- The checks of an arrival: no firing, a member core, and the poison of the barrier number (R197). -/
def guardArrival (b : Reg) (chain : Bool) : Exec Nat := do
  let s ← get
  let c := s.cx
  let n := barrierOf (c.s b)
  let br := s.barrier c.rgn n
  guardUntimed
  guardTrap (br.members.contains s.coreNum && (!chain || br.perCore == 1)) cRESOURCE (BitVec.ofNat 64 n)
  guardPoison (c.sp b)
  return n

/-- The running context arrives: a core beyond its arrivals of the phase waits until the phase ends (R197). The answer is the phase of the
arrival. -/
def arriveE (n : Nat) : Exec (BitVec 32) := do
  let s ← get
  let rcb := s.cx.rgn
  let br := s.barrier rcb n
  if br.perCore ≤ kgetD br.arrived s.coreNum 0 then throw (.wait (.room n)) else pure ()
  modify (fun s => s.modBarrier rcb n (fun b => b.arrive s.coreNum s.cx.lt))
  modCx (fun c => { c with arrivals := kset c.arrivals n br.phase })
  return br.phase

/-- `bar.arr` (R199). -/
def execBarArr (d a : Reg) (s : State) : Host.Outcome State Fault Refusal :=
  finish (do
    let n ← guardArrival a false
    let ph ← arriveE n
    modCx (fun c => c.setS d (BitVec.setWidth 64 ph) false)
    retireE) s

/-- `bar.wait` (R200). -/
def execBarWait (a : Reg) (s : State) : Host.Outcome State Fault Refusal :=
  finish (do
    guardUntimed
    let s ← get
    let c := s.cx
    guardPoison (c.sp a)
    let n := barrierOf (c.s a)
    match kget c.arrivals n with
    | none => retireE
    | some ph =>
      let b := s.barrier c.rgn n
      if b.phase = ph then throw (.wait (.phase n)) else pure ()
      modCx (fun c => c.lifted b.phaseLt)
      retireE) s

/-- The fields of a configuration record's header (R198). -/
structure BarRecord where
  ty    : Nat
  op    : Nat
  c     : Nat
  count : Nat
  first : Nat
  rsvd  : Bool
  deriving DecidableEq, Repr

def BarRecord.of (h : Nat) : BarRecord :=
  { ty := h / 2 ^ 44 % 16, op := h / 2 ^ 40 % 16, c := h / 2 ^ 32 % 64, count := h / 2 ^ 14 % 2 ^ 14 + 1, first := h % 2 ^ 14,
    rsvd := !(h / 2 ^ 48 == 0 && h / 2 ^ 38 % 4 == 0 && h / 2 ^ 28 % 16 == 0) }

/-- The dwords of a bitmap loaded in ascending order, with whether any is poisoned. -/
def loadDwords : Nat → Dword → Exec (List Nat × Bool)
  | 0, _ => return ([], false)
  | n + 1, va => do
    let p ← translateT va .load 8
    waitSpWords p 8
    let x ← loadE p 8
    let r ← loadDwords n (va + 8)
    return (x.1 :: r.1, x.2 || r.2)

/-- The member cores of a bitmap: bit j is core FIRST + j (R198). -/
def BarRecord.members (h : BarRecord) (ws : List Nat) : List Nat :=
  ((rangeFrom 0 h.count).filter (fun j => ws.getD (j / 64) 0 / 2 ^ (j % 64) % 2 == 1)).map (fun j => h.first + j)

/-- Whether a configuration record is valid for a region (R198). -/
def State.barOk (s : State) (r : Region) (h : BarRecord) (members : List Nat) : Bool :=
  !h.rsvd && decide (h.op ≤ 7) && decide (h.ty ≤ 2) && !(decide (3 ≤ h.op) && h.ty != 0) && !members.isEmpty &&
  members.all (fun m => decide (r.core0 ≤ m) && decide (m < r.core0 + r.ncore) && qualifies (s.getCore m) r.part) &&
  decide (h.c ≤ slotsPer r)

/-- The header and the first bitmap dword of a record, whose addresses a register alone names, so that they are checked together (R21); and the other bitmap dwords, each
checked as it is loaded (DESIGN CHOICE, log 49: the header in memory says how many there are). -/
def loadBarRecord (va : Dword) : Exec (BarRecord × List Nat × Bool) := do
  let xs ← (← placesT [va, va + 8] .load 8).mapM (fun p => do
    waitSpWords p 8
    loadE p 8)
  let hd := xs.getD 0 (0, false)
  let b0 := xs.getD 1 (0, false)
  let h := BarRecord.of hd.1
  let ws ← loadDwords ((h.count + 63) / 64 - 1) (va + 16)
  return (h, b0.1 :: ws.1, hd.2 || b0.2 || ws.2)

/-- `bar.cfg` (R198). -/
def execBarCfg (d a b : Reg) (s : State) : Host.Outcome State Fault Refusal :=
  finish (do
    let s ← get
    let c := s.cx
    let rcb := c.rgn
    guardTrap ((c.s b).extractLsb' 0 3 == 0) cALIGN (c.s b)
    let (h, ws, bad) ← loadBarRecord (c.s b)
    guardUntimed
    guardPoison (c.sp a || c.sp b)
    let n := barrierOf (c.s a)
    let members := h.members ws
    if (s.barrier rcb n).arrived ≠ [] then modCx (fun c => (c.setS d 1 false).poisonIf bad)
    else
      match s.getRegion? rcb with
      | some r =>
        if bad || !s.barOk r h members then modCx (fun c => (c.setS d 2 false).poisonIf bad)
        else
          modify (fun s => s.modBarrier rcb n (fun x => { x with members := members, perCore := h.c, op := h.op, ty := h.ty }))
          modCx (fun c => c.setS d 0 false)
      | none => modCx (fun c => (c.setS d 2 false).poisonIf bad)
    retireE) s

/-! ### Chain reduction -/

/-- The combination of a chain reduction: the predecessor's partial on the left (R201). -/
def chainOp (ty op : Nat) (x y : Dword) : Dword × FpFlags :=
  let int : Dword := match op with
    | 0 => x + y
    | 1 => if x.slt y then x else y
    | 2 => if x.slt y then y else x
    | 3 => if x.ult y then x else y
    | 4 => if x.ult y then y else x
    | 5 => x &&& y
    | 6 => x ||| y
    | _ => x ^^^ y
  let float (f : FFmt) (a b : Nat) : Dword × FpFlags :=
    let r := match op with
      | 0 => f.add FpEnv.plain a b
      | 1 => f.minMax false FpEnv.plain a b
      | _ => f.minMax true FpEnv.plain a b
    (BitVec.ofNat 64 r.1, r.2)
  match ty with
  | 0 => (int, 0)
  | 1 => float .f64 x.toNat y.toNat
  | _ => float .f32 (x.toNat % 2 ^ 32) (y.toNat % 2 ^ 32)

/-- The member that follows a core in the chain (R139). -/
def Barrier.next (b : Barrier) (core : Nat) : Option Nat := least (b.members.filter (fun m => decide (core < m)))

/-- The chain that an arrival of a core joins: its barrier as it is configured in the phase of the arrival, which a later configuration does not change (R139, R198). -/
def Barrier.chainOf (b : Barrier) (core : Nat) : Chain := { op := b.op, ty := b.ty, next := b.next core }

/-- The result of a member: forwarded to the following member, and written with its flags (R201). -/
def chainResult (n : Nat) (d : Reg) (ph : BitVec 32) (ch : Chain) (r : Dword) (p : Bool) (fl : FpFlags) : Exec Unit := do
  modify (fun s => s.modBarrier s.cx.rgn n (fun b =>
    match ch.next with
    | none => b
    | some m => { b with partials := kset b.partials (partialKey m ph) (ph, r, p, s.cx.lt) }))
  modCx (fun c => (c.setS d r p).addFlags fl)
  retireE

/-- A member that waits for its predecessor's partial takes it if it is there (R201). -/
def chainTake (n : Nat) (d : Reg) (own : Dword) (pois : Bool) (ph : BitVec 32) (ch : Chain) : Exec Unit := do
  let s ← get
  let rcb := s.cx.rgn
  let b := s.barrier rcb n
  let key := partialKey s.coreNum ph
  match kget b.partials key with
  | none => modify (fun s => s.beginWait (.chain n d own pois ph ch))
  | some (_, x, p, lt) =>
    modify (fun s => s.modBarrier rcb n (fun b => { b with partials := kdel b.partials key }))
    modCx (fun c => c.lifted lt)
    let r := chainOp ch.ty ch.op x own
    chainResult n d ph ch r.1 (p || pois) r.2

/-- The first member's own value as a result: in an f32 chain its low word, zero-extended (R201). -/
def chainFirst (ty : Nat) (x : Dword) : Dword := if ty = 2 then BitVec.setWidth 64 (x.extractLsb' 0 32) else x

/-- `chred` (R201). -/
def execChred (d a b : Reg) (s : State) : Host.Outcome State Fault Refusal :=
  finish (do
    let c ← cx
    match c.wait.map Wait.kind with
    | some (.chain n d' own pois ph ch) => chainTake n d' own pois ph ch
    | _ =>
      let n ← guardArrival b true
      let s ← get
      let br := s.barrier c.rgn n
      let ch := br.chainOf s.coreNum
      let ph ← arriveE n
      if br.members.any (fun m => decide (m < s.coreNum)) then chainTake n d (c.s a) (c.sp a) ph ch
      else chainResult n d ph ch (chainFirst ch.ty (c.s a)) (c.sp a) 0) s

end Sys2Proof.Machine
end

