-- ==== Sys2Proof/Machine/Engine.lean ====
section
/-! DEFINITION. What the decoupled engines share (spec 13 R248 to R251, R256 to R258; 15 R289, R290): copy tags, room in a queue, and an
engine's accesses by 64-byte block. -/

namespace Sys2Proof.Machine

/-! ### Tags -/

/-- The most bytes that a tag can have pending (R290). -/
def tagMax : Nat := 2 ^ 40 - 1

/-- Bytes issued on a tag (R250). -/
def Context.tagIssue (c : Context) (t n : Nat) : Context :=
  let g := vget c.tags t Tag.reset
  { c with tags := vset c.tags t { g with pending := g.pending + n } }

/-- An error recorded on a tag: REASON keeps the first, and CHKINT takes TAGERR, with ENGERR for an error of the engine (R251). -/
def Context.tagFail (c : Context) (t : Nat) (reason : Byte) : Context :=
  let g := vget c.tags t Tag.reset
  ({ c with tags := vset c.tags t { g with err := true, reason := if g.reason = 0 then reason else g.reason }, latch := true }).chk
    (if reason = 0x11 then 6 else 4)

/-- Bytes of a tag performed or abandoned (R250); below zero it stays at 0 and records UNDERRUN (R251). Completion sets the event
latch (R93). -/
def Context.tagDone (c : Context) (t n : Nat) : Context :=
  let g := vget c.tags t Tag.reset
  let c1 := { c with
    tags := vset c.tags t { g with pending := g.pending - n }
    latch := c.latch || decide (g.pending ≤ n) }
  if n ≤ g.pending then c1 else c1.tagFail t 0x10

/-- The status word of a tag (R249). -/
def Tag.status (t : Tag) : Dword :=
  BitVec.ofNat 64 (t.reason.toNat * 2 ^ 56 + (if t.err then 2 ^ 40 else 0) + t.pending % 2 ^ 40)

/-! ### Issue -/

/-- Copy commands under way in a quad's engine. -/
def State.quadCopies (s : State) (quad : Nat) : Nat := (s.copies.filter (fun x => x.2.core / 4 == quad)).length

/-- The key of a new command: one more than the last. -/
def nextId {α : Type} (l : List (Nat × α)) : Nat := (l.getLast?.map (fun x => x.1 + 1)).getD 0

/-- A command with room in its engine's queue issues when its tag can count its bytes; else it stalls (R290). -/
def engineRoom (attn room : Bool) (tag bytes : Nat) : Exec Unit := do
  let c ← cx
  if room && decide ((vget c.tags tag Tag.reset).pending + bytes ≤ tagMax) then pure ()
  else throw (.wait (.engine attn tag bytes))

/-- The poison of steering operands and of the lines read at issue, checked last (R289). -/
def guardSteering (bad : Bool) : Exec Unit := guardPoison bad

/-! ### Accesses by block (R227, R231, R256, R258) -/

/-- How the accesses of a command are ordered (R227): its issuer, by its slot and by the incarnation that it had at the issue, with its region, its number, its flags and its
scope, and the logical time that its accesses follow. -/
structure CommandOrder where
  ctx   : Nat
  inc   : BitVec 12
  rcb   : Nat
  cmd   : Nat
  acq   : Bool
  rel   : Bool
  scope : Scope
  lt    : Nat
  deriving DecidableEq, Repr

/-- The logical time that the accesses of a command follow which a context issues: with acquire, that of all its accesses before; else that of its last fence
(R227, R238). -/
def Context.commandTime (c : Context) (acq : Bool) : Nat := if acq then c.lt else c.fenceLt

/-- Whether the issuer of a command sees a write that has not reached its place, as it did at the issue, also where it has ended since: a write of its commands, or one within
the scope of whose release its core is (R227, R258). -/
def CommandOrder.sees (o : CommandOrder) (e : Early) : Bool := (e.ctx == o.ctx && e.inc == o.inc) || e.reaches (o.ctx / 64)

/-- The issuer of a command, told from the other contexts of its slot. -/
def CommandOrder.issuer (o : CommandOrder) : Nat := ctxTag o.ctx o.inc

/-- What a command may read a line as through a key, each with whether the line is so from now on, so that what follows the command's reads follows it: with acquire, what
its issuer sees of it; else also what the line is without the writes that the issuer sees early, but for those that it has seen before a fence (R238), or was before one
of the issuer's stores, as long as R223 lets it be read (R227, R258). -/
def State.commandViews (s : State) (o : CommandOrder) (line key : Nat) : List (Bool × (VReg × Bool)) :=
  let home := (s.seen line key (s.lineData line), s.linePois line)
  let own := s.overlaidBy o.sees line key home
  let cur := s.overlaidBy (fun e => e.observed.contains (o.issuer, true) && o.sees e) line key home
  if o.acq then [(true, own)]
  else ((true, own) :: (true, cur) :: ((s.past.filter (fun x => x.ctx == o.issuer && x.line == line && decide (s.cycle < x.cycle + 4096))).map
    (fun x => (false, (reciphered x.key key line x.data, x.pois))))).eraseDups

/-- The place of a command's access noted with its issuer and its region. -/
def State.noteCommand (s : State) (o : CommandOrder) (t : Nat) : State := s.noteTime o.ctx o.inc o.rcb t

/-- A command has read a line as it stands: what its issuer's fences order follows the read (R238), and so do its writes to the line. -/
def State.commandRead (s : State) (o : CommandOrder) (line : Nat) : State :=
  (s.noteCommand o (max o.lt (s.lease line).1)).observeBy o.issuer o.sees line

/-- A 64-byte block read at a place by a command of a core. -/
def State.blockAt (s : State) (core : Nat) (o : CommandOrder) (p : Place) : (VReg × Bool) × State :=
  match p with
  | .scratch a =>
    let co := s.getCore core
    let d := co.scratchGet (a / 64 * 64) 64
    let t := co.readTime a o.lt
    ((BitVec.ofNat 512 d.1, d.2), ((s.spHolds core (a / 64 * 64) 64).scratchRead core a t).noteCommand o t)
  | .coherent pa _ _ key =>
    let line := lineOf pa
    let s1 := ((s.placeOverdue line).homeLoad o.lt (64 * line) 64).2
    match s1.commandViews o line key with
    | [x] => (x.2, s1.commandRead o line)
    | vs =>
      let x := vs.getD (Config.choose s1.fresh % vs.length) (true, (0, false))
      let t : State := { s1 with fresh := s1.fresh + 1 }
      (x.2, if x.1 then t.commandRead o line else t)
  | .uncached pa key => let r := s.uncachedLoad (pa / 64 * 64) 64 key; ((BitVec.ofNat 512 r.1.1, r.1.2), r.2)
  | .device _ => ((0, false), s)

/-- The bytes of a mask stored one by one at an uncached place. -/
def State.uncachedBytes (s : State) (pa : Nat) (mask : BitVec 64) (v : VReg) (pois : Bool) (key : Nat) : State :=
  ((rangeFrom 0 64).filter (fun i => mask.getLsbD i)).foldl (fun (t : State) i => t.uncachedStore (pa + i) 1 (lineBytes v i 1) pois key) s

/-- Before a write of a command its line takes the writes that its issuer sees. -/
def State.placeBefore (s : State) (o : CommandOrder) (line : Nat) : State :=
  if s.early.isEmpty then s else s.placeThose (fun e => e.line == line && o.sees e)

/-- A write of a command to coherent memory, which follows every write to its line that its issuer sees: it takes its place at once under a release at dom or sys, else now or
later, as a free value has it, and until then its issuer and the scope of its release alone see it (R227). -/
def State.putEarly (s : State) (o : CommandOrder) (e : Early) : State :=
  if o.rel && (o.scope == .dom || o.scope == .sys) then (s.placeBefore o e.line).placeWrite e
  else
    let t : State := { s with fresh := s.fresh + 1 }
    if Config.choose s.fresh % 2 = 0 then (t.placeBefore o e.line).placeWrite e
    else let u := t.observeBy o.issuer o.sees e.line; { u with early := u.early ++ [e] }

/-- Some bytes of a 64-byte block written at a place by a command of a core; a scratchpad word of the sum-product engine holds it back (R282). -/
def State.putBlock (s : State) (core : Nat) (o : CommandOrder) (p : Place) (mask : BitVec 64) (v : VReg) (pois : Bool) : State :=
  match p with
  | .scratch a =>
    let co := s.getCore core
    let d := co.scratchGet (a / 64 * 64) 64
    let t := co.writeTime a o.lt
    ((s.spHolds core (a / 64 * 64) 64).scratchStore core (a / 64 * 64) 64 (maskLine (BitVec.ofNat 512 d.1) v mask).toNat (maskPoison d.2 pois mask) t).noteCommand o t
  | .coherent pa _ wt key =>
    let line := lineOf pa
    (s.placeOverdue line).putEarly o
      { ctx := o.ctx, inc := o.inc, cmd := o.cmd, scope := if o.rel then some o.scope else none, line := line,
        mask := mask, data := v, pois := pois, key := key, wt := wt, done := none, lt := o.lt, rcb := o.rcb, observed := [] }
  | .uncached pa key =>
    if mask = BitVec.allOnes 64 then s.uncachedStore (pa / 64 * 64) 64 v.toNat pois key
    else s.uncachedBytes (pa / 64 * 64) mask v pois key
  | .device _ => s

/-- A command of a context is over: the time runs by the end of which its writes have their places (R227). -/
def State.commandOver (s : State) (ctx cmd : Nat) : State :=
  { s with early := s.early.map (fun e =>
      if e.ctx == ctx && e.cmd == cmd && e.done.isNone then { e with done := some s.cycle } else e) }

/-- The write time of the line at a place. -/
def State.writeTime (s : State) (p : Place) : Nat :=
  match p with
  | .coherent pa _ _ _ => (s.lease (lineOf pa)).1
  | _ => 0

/-- Where an engine's access of a block leads, with the walk's reads at or after a logical time: a source in the scratchpad and any place in device space fail with ACCESS (R256). -/
def State.enginePlace (s : State) (t0 core : Nat) (sp : Space) (va : Dword) (acc : Access) : Except Byte Place × State :=
  let r := s.translate (.since t0) core sp va acc 64
  match r.1 with
  | .ok (.device _) => (.error cACCESS, r.2)
  | .ok (.scratch o) => if acc = .load then (.error cACCESS, r.2) else (.ok (.scratch o), r.2)
  | x => (x, r.2)

/-- Whether a lost plane stalls an engine's access of consecutive blocks (R396). -/
def State.engineStalls (s : State) (core : Nat) (sp : Space) (va : Dword) (acc : Access) (n : Nat) : Bool :=
  (rangeFrom 0 n).any (fun i =>
    match (s.enginePlace 0 core sp (va + BitVec.ofNat 64 (64 * i)) acc).1 with
    | .ok p => s.stalls p (acc == .store)
    | .error _ => false)

/-- The issuer of a command changed: its tag's bytes, and the write time that its own later loads must see (R258). Where `dtagst` has set the tag's count to 0 and the
issuing context has ended while its command runs, the subtractions go to the context that holds its slot then (DESIGN CHOICE, log 27: R126 and R295 leave it open). -/
def State.tagPerformed (s : State) (core slot tag n lt : Nat) : State :=
  s.modCtx (ctxKey core slot) (fun c => { c.tagDone tag n with lt := max c.lt lt })

/-- A command fails: the error is recorded and its remaining bytes are abandoned (R250, R251), at the context that holds the issuer's slot, also where that one has ended
after `dtagst` has set the tag's count to 0 (DESIGN CHOICE, log 27). -/
def State.tagAbandoned (s : State) (core slot tag n : Nat) (reason : Byte) : State :=
  s.modCtx (ctxKey core slot) (fun c => (c.tagFail tag reason).tagDone tag n)

/-- Consecutive 64-byte blocks read by an engine: their bytes as one number, and whether any is poisoned; the first failure ends it. -/
def State.engineLines (s : State) (core : Nat) (o : CommandOrder) (sp : Space) (va : Dword) : Nat → Except Byte (Nat × Bool) × State
  | 0 => (.ok (0, false), s)
  | n + 1 =>
    let p := s.enginePlace o.lt core sp va .load
    match p.1 with
    | .error c => (.error c, p.2)
    | .ok q =>
      let x := p.2.blockAt core o q
      let r := x.2.engineLines core o sp (va + 64) n
      match r.1 with
      | .error c => (.error c, r.2)
      | .ok y => (.ok (x.1.1.toNat + 2 ^ 512 * y.1, x.1.2 || y.2), r.2)

/-! ### Accesses of the front complex (R366, R369, R376) -/

/-- The number that stands for the front complex among the cores, which the translation caches know it by. -/
def frontCore : Nat := 16384

/-- Whether a space may name an address: a physical one in this package; else no address of a scratchpad. -/
def frontOk (s : State) (sp : Space) (va : Dword) : Bool :=
  if sp.physical then decide (pkgOf va.toNat = s.pkgNum) else !inScratch va

/-- A read of `n` bytes within one line by the front complex. -/
def State.frontLoad (s : State) (sp : Space) (va : Dword) (n : Nat) : Except Byte (Nat × Bool) × State :=
  if frontOk s sp va then s.spaceLoad frontCore sp va n else (.error cACCESS, s)

/-- A write of `n` bytes within one line by the front complex. -/
def State.frontStore (s : State) (sp : Space) (va : Dword) (n v : Nat) (p : Bool) : Except Byte Unit × State :=
  if frontOk s sp va then s.spaceStore frontCore sp va n v p else (.error cACCESS, s)

/-! ### Home slices (R213 to R215) -/

/-- The slice that homes the line at an address, where it is mapped to this package; a slice-affine page is homed whole. -/
def State.homeSlice (s : State) (sp : Space) (va : Dword) : Option Nat :=
  if sp.physical then some (sliceOf s.localHoming va.toNat)
  else match (s.walk (.since 0) sp va).1 with
    | .error _ => none
    | .ok (leaf, lvl) =>
      let page := (leaf.extractLsb' 23 36).toNat * 65536
      some (sliceOf s.localHoming (if leaf.getLsbD 14 then page else page + va.toNat % leafSize lvl))

end Sys2Proof.Machine
end

