-- ==== Sys2Proof/Machine/Special.lean ====
section
/-! DEFINITION. The special functions of binary32 (spec 03 R61), correctly rounded: 1/x and 1/√x from exact quotients and roots, 2^x,
log2 x and tanh x from 256-bit fixed-point series whose error lies far below the distance of any result from a rounding boundary. -/

namespace Sys2Proof.Machine

/-- Fraction bits of the fixed-point series. -/
def fxBits : Nat := 256
def fxOne : Nat := 2 ^ fxBits

/-- The sum of `z^(2k+1)/(2k+1)` from a term on: atanh of a fixed-point number below 1/2. -/
def atanhFrom (z2 : Nat) : Nat → Nat → Nat → Nat
  | 0, _, _ => 0
  | n + 1, k, t => t / (2 * k + 1) + atanhFrom z2 n (k + 1) (t * z2 / fxOne)

def fxAtanh (z : Nat) : Nat := atanhFrom (z * z / fxOne) 140 0 z

/-- ln 2 = 2 atanh(1/3). -/
def fxLn2 : Nat := 2 * fxAtanh (fxOne / 3)

/-- The sum of `y^k/k!` from a term on. -/
def expFrom (y : Nat) : Nat → Nat → Nat → Nat
  | 0, _, _ => 0
  | n + 1, k, t => t + expFrom y n (k + 1) (t * y / fxOne / (k + 1))

/-- e^y for a fixed-point y below 1. -/
def fxExp (y : Nat) : Nat := expFrom y 80 0 fxOne

/-- 1/x (R61). -/
def sfRcp (env : FpEnv) (x : Nat) : Nat × FpFlags :=
  FFmt.f32.divV env (.fin false 1 0) (FFmt.f32.decode env.flush x)

/-- 1/√x (R61). -/
def sfRsqrt (env : FpEnv) (x : Nat) : Nat × FpFlags :=
  let f := FFmt.f32
  match f.decode env.flush x with
  | .nan s => (f.qnan, flagIf s fNV)
  | .inf true => (f.qnan, fNV)
  | .inf false => (0, 0)
  | .fin neg m e =>
    if m = 0 then (f.withSign neg f.infBits, fDZ)
    else if neg then (f.qnan, fNV)
    else
      let e0 := if e % 2 = 0 then e else e - 1
      let m0 := if e % 2 = 0 then m else 2 * m
      let k : Nat := 80
      let n := 2 ^ (2 * k) / m0
      let r := isqrt n
      f.round env.arith false r (-(k : Int) - e0 / 2) (r * r * m0 != 2 ^ (2 * k))

/-- 2^x (R61). -/
def sfExp2 (env : FpEnv) (x : Nat) : Nat × FpFlags :=
  let f := FFmt.f32
  match f.decode env.flush x with
  | .nan s => (f.qnan, flagIf s fNV)
  | .inf true => (0, 0)
  | .inf false => (f.infBits, 0)
  | .fin neg m e =>
    if m = 0 then f.round env.arith false 1 0 false
    else if e + (bitLen m : Int) < -60 then
      if neg then f.round env.arith false (2 ^ 100 - 1) (-100) true else f.round env.arith false (2 ^ 100) (-100) true
    else if e + (bitLen m : Int) > 10 then
      if neg then f.round env.arith false 1 (-1000) false else f.round env.arith false 1 1000 false
    else
      let v : Int := dyad neg m * 2 ^ ((fxBits : Int) + e).toNat
      let n := v / fxOne
      let fr := (v % fxOne).toNat
      if fr = 0 then f.round env.arith false 1 n false
      else f.round env.arith false (fxExp (fr * fxLn2 / fxOne)) (n - fxBits) true

/-- log2 x (R61). -/
def sfLog2 (env : FpEnv) (x : Nat) : Nat × FpFlags :=
  let f := FFmt.f32
  match f.decode env.flush x with
  | .nan s => (f.qnan, flagIf s fNV)
  | .inf true => (f.qnan, fNV)
  | .inf false => (f.infBits, 0)
  | .fin neg m e =>
    if m = 0 then (f.withSign true f.infBits, fDZ)
    else if neg then (f.qnan, fNV)
    else
      let l := bitLen m - 1
      let n : Int := e + l
      if m = 2 ^ l then f.result env.arith (if n = 0 then .fin false 0 0 else .fin (decide (n < 0)) n.natAbs 0)
      else
        let z := (m - 2 ^ l) * fxOne / (m + 2 ^ l)
        let lg := 2 * fxAtanh z * fxOne / fxLn2
        let t : Int := n * fxOne + lg
        f.round env.arith (decide (t < 0)) (if t < 0 then t.natAbs - 1 else t.natAbs) (-(fxBits : Int)) true

/-- tanh x (R61). -/
def sfTanh (env : FpEnv) (x : Nat) : Nat × FpFlags :=
  let f := FFmt.f32
  match f.decode env.flush x with
  | .nan s => (f.qnan, flagIf s fNV)
  | .inf neg => f.round env.arith neg 1 0 false
  | .fin neg m e =>
    if m = 0 then (f.withSign neg 0, 0)
    else if e + (bitLen m : Int) < -60 then f.round env.arith neg (m * 2 ^ 100 - 1) (e - 100) true
    else if e + (bitLen m : Int) > 6 then f.round env.arith neg (2 ^ 100 - 1) (-100) true
    else
      let y := 2 * m * 2 ^ ((fxBits : Int) + e).toNat
      let k := y / fxLn2
      let w := fxExp (y - k * fxLn2) * 2 ^ k
      f.round env.arith neg ((w - fxOne) * fxOne / (w + fxOne)) (-(fxBits : Int)) true

end Sys2Proof.Machine
end

