-- ==== Sys2Proof/Machine/Attention.lean ====
section
/-! DEFINITION. Attention (spec 13 R265 to R269; 15 R301; 17 R304 to R308): the query and the table, blocks, and the result. -/

namespace Sys2Proof.Machine

/-! ### Arithmetic (R266 to R268) -/

/-- Operations of the attention units: RNE, subnormals kept, no flag kept. -/
def aAdd (x y : Nat) : Nat := (FFmt.f32.add FpEnv.plain x y).1
def aSub (x y : Nat) : Nat := (FFmt.f32.sub FpEnv.plain x y).1
def aMul (x y : Nat) : Nat := (FFmt.f32.mul FpEnv.plain x y).1
def aDiv (x y : Nat) : Nat := (FFmt.f32.div FpEnv.plain x y).1
def aMax (x y : Nat) : Nat := (FFmt.f32.minMax true FpEnv.plain x y).1

/-- Exp (R266). -/
def aExp (d : Nat) : Nat := (sfExp2 FpEnv.plain (aMul d 0x3FB8_AA3B)).1

/-- One level of the tree of R74 over positions that may hold nothing. -/
def mergeLevel {α : Type} (f : α → α → α) : List (Option α) → List (Option α)
  | a :: b :: r => (match a, b with
      | some x, some y => some (f x y)
      | some x, none => some x
      | none, y => y) :: mergeLevel f r
  | [a] => [a]
  | [] => []

/-- The tree of R74 of a number of levels. -/
def mergeLevels {α : Type} (f : α → α → α) : Nat → List (Option α) → Option α
  | 0, xs => xs.headD none
  | k + 1, xs => mergeLevels f k (mergeLevel f xs)

/-- The tree of R74 over all positions of a list. -/
def mergeTree {α : Type} (f : α → α → α) (xs : List (Option α)) : Option α := mergeLevels f (bitLen xs.length) xs

/-- TreeSum (R267). -/
def treeSum (xs : List (Option Nat)) : Nat := (mergeTree aAdd xs).getD 0

/-- The elements of a vector of a format, D of them from an index of a number. -/
def attnElems (fmt : Byte) (dim x i : Nat) : List FVal :=
  let f := if fmt = 0x22 then FFmt.bf16 else FFmt.f16
  (rangeFrom 0 dim).map (fun d => f.decode false (x / 2 ^ (16 * (dim * i + d)) % 2 ^ 16))

/-- The exact sum of products of two vectors. -/
def exactDot (xs ys : List FVal) : FVal :=
  match (xs.zip ys).map (fun x => (vMul x.1 x.2).1) with
  | [] => .fin false 0 0
  | p :: ps => ps.foldl (fun a q => (vAdd .rne a q).1) p

/-- The score of a token (R267). -/
def score (scale : Nat) (q k : List FVal) : Nat :=
  (FFmt.f32.result FpEnv.plain (vMul (FFmt.f32.decode false scale) (exactDot q k)).1).1

/-- The partial triple of one block for one query (R267): scores and values by token position, none where no token is admitted. -/
def partialTriple (dim : Nat) (ss : List (Option Nat)) (vs : Nat → List FVal) : Option Triple :=
  match ss.filterMap id with
  | [] => none
  | x :: xs =>
    let m := xs.foldl aMax x
    let ps := ss.map (fun s => s.map (fun y => aExp (aSub y m)))
    let o := (rangeFrom 0 dim).map (fun j => treeSum (ps.zipIdx.map (fun p => p.1.map (fun y =>
      (FFmt.f32.result FpEnv.plain (vMul (FFmt.f32.decode false y) ((vs p.2).getD j (.fin false 0 0))).1).1))))
    some { m := m, l := treeSum ps, o := o }

/-- Two triples merged, the lower position on the left (R268). -/
def mergeTriple (x y : Triple) : Triple :=
  let m := aMax x.m y.m
  let ex := aExp (aSub x.m m)
  let ey := aExp (aSub y.m m)
  { m := m, l := aAdd (aMul x.l ex) (aMul y.l ey), o := (x.o.zip y.o).map (fun p => aAdd (aMul p.1 ex) (aMul p.2 ey)) }

/-- A query's result from the triples of the blocks (R268). -/
def attnRoot (dim : Nat) (ts : List (Option Triple)) : List Nat :=
  match mergeTree mergeTriple ts with
  | none => List.replicate dim FFmt.f32.qnan
  | some t => t.o.map (fun x => aDiv x t.l)

/-! ### The query descriptor and the block table (R304 to R307) -/

/-- An extent of a block table. -/
structure Extent where
  base   : Nat
  tail   : Bool
  order  : Nat
  blocks : Nat
  tokens : Nat
  tago   : Nat
  deriving DecidableEq, Repr

def Extent.of (x : Nat) : Extent :=
  { base := x / 2 ^ 16 % 2 ^ 48 * 2 ^ 16, tail := x / 2 ^ 15 % 2 == 1, order := x / 2 ^ 11 % 16, blocks := x % 2 ^ 11,
    tokens := x / 2 ^ 64 % 2 ^ 32, tago := x / 2 ^ 96 }

/-- Tokens that a block of an extent has room for, and its bytes for a head dimension (R305). -/
def Extent.room (e : Extent) : Nat := if e.tail then 16 else 256
def Extent.blockBytes (e : Extent) (dim : Nat) : Nat := if e.tail then 64 * dim else 1024 * dim

/-- The head dimension of a code (R304). -/
def headDim (code : Nat) : Nat := 64 * 2 ^ code

/-- A block table: header and extents as read. -/
structure BlockTable where
  hdr  : Nat
  exts : List Extent
  deriving DecidableEq, Repr

def BlockTable.fmt (t : BlockTable) : Nat := t.hdr / 2 ^ (8 * 0x20 + 16) % 256
def BlockTable.dcode (t : BlockTable) : Nat := t.hdr / 2 ^ (8 * 0x20 + 8) % 4
def BlockTable.next (t : BlockTable) : Nat := t.hdr / 2 ^ (8 * 0x20) % 128

/-- A dword of the header. -/
def BlockTable.dword (t : BlockTable) (i : Nat) : Nat := t.hdr / 2 ^ (64 * i) % 2 ^ 64

/-- Whether an extent at an index of a table is valid (R306). -/
def Extent.ok (e : Extent) (next i : Nat) : Bool :=
  canonical (BitVec.ofNat 64 e.base) && decide (e.tokens ≤ e.room * e.blocks) &&
  if e.tail then i + 1 == next && e.order == 0 && decide (e.blocks ≤ 16)
  else decide (1 ≤ e.blocks) && decide (e.blocks ≤ 2 ^ e.order) && decide (e.order ≤ 10)

/-- Whether a table is valid (R306). -/
def BlockTable.ok (t : BlockTable) : Bool :=
  let w := t.dword 4
  w / 2 ^ 24 == 0 && w / 2 ^ 10 % 2 ^ 6 == 0 && w / 2 ^ 7 % 2 == 0 && t.dword 7 == 0 &&
  decide (t.next ≤ 64) && t.dcode != 3 && (t.fmt == 0x22 || t.fmt == 0x23) &&
  t.exts.zipIdx.all (fun x => x.1.ok t.next x.2)

/-- The blocks of a table with their positions' order and sequence positions (R305). -/
def BlockTable.attnBlocks (t : BlockTable) (slice : Dword → Option Nat) : List AttnBlock :=
  let dim := headDim t.dcode
  (t.exts.foldl (fun (acc : List AttnBlock × Nat) e =>
    let bs := (rangeFrom 0 e.blocks).map (fun b =>
      let base := e.base + b * e.blockBytes dim
      { base := base, slice := slice (BitVec.ofNat 64 base), room := e.room, tokens := min e.room (e.tokens - b * e.room),
        pos := acc.2 + b * e.room : AttnBlock })
    (acc.1 ++ bs, acc.2 + e.tokens)) ([], 0)).1

/-- Whether a query descriptor is valid (R307). -/
def queryOk (d : Nat) : Bool :=
  d % 64 == 0 && d / 2 ^ (64 + 38) % 2 ^ 26 == 0 && d / 2 ^ 256 == 0

/-! ### attn -/

/-- A line, or an extent, loaded at issue from its place (R301). -/
def issueLoad (p : Place) (n : Nat) : Exec (Nat × Bool) := do
  waitSpWords p n
  loadE p n

/-- The extents of a table checked and loaded one after another (DESIGN CHOICE, log 28: a header in memory says how many there are, so that R21 does not order their checks),
with whether a line is poisoned. -/
def loadExtents : Nat → Dword → Exec (List Extent × Bool)
  | 0, _ => return ([], false)
  | n + 1, va => do
    let x ← issueLoad (← translateT va .load 16) 16
    let r ← loadExtents n (va + 16)
    return (Extent.of x.1 :: r.1, x.2 || r.2)

/-- Whether every slice that a command involves has room for its query set (R248). -/
def State.attnRoom (s : State) (blocks : List AttnBlock) : Bool :=
  let left (a : AttnCmd) : List (Option Nat) := (a.blocks.drop a.done.length).map AttnBlock.slice
  (blocks.filterMap AttnBlock.slice).eraseDups.all (fun k =>
    decide ((s.attns.filter (fun x => (left x.2).contains (some k))).length < 16))

/-- `attn` (R289, R290, R301). Of a table whose NEXT is above 64 it reads up to 127 extents before it traps DESC, so that a page that is missing among them traps PAGE first
(DESIGN CHOICE, log 28: R306 does not say how many are read). The descriptor and the table's header are at addresses that registers name, so they are checked together
(R21); where both are invalid, DESC has S[q] as its value (DESIGN CHOICE, log 28: R301 has `S[q] or S[t]`). -/
def execAttn (q t d : Reg) (g : BitVec 5) (acq rel : Bool) (c : Scope) (s : State) : Host.Outcome State Fault Refusal :=
  finish (do
    let x ← cx
    let qa := x.s q
    let ta := x.s t
    let db := x.s d
    guardTrap (qa.toNat % 64 = 0) cALIGN qa
    guardTrap (ta.toNat % 64 = 0) cALIGN ta
    guardTrap (db.toNat % 64 = 0) cALIGN db
    let ps ← placesT [qa, ta] .load 64
    let ls ← ps.mapM (fun p => issueLoad p 64)
    let qd := ls.getD 0 (0, false)
    let hd := ls.getD 1 (0, false)
    let ex ← loadExtents ({ hdr := hd.1, exts := [] : BlockTable }).next (ta + 64)
    let tab : BlockTable := { hdr := hd.1, exts := ex.1 }
    guardTrap (queryOk qd.1) cDESC qa
    guardTrap tab.ok cDESC ta
    let nq := qd.1 / 2 ^ (64 + 32) % 64 + 1
    let dim := headDim tab.dcode
    let n := 4 * dim * nq
    guardTrap (!x.timed || spanInScratchN db n) cTIMEDWR db
    guardSteering (x.sp q || x.sp t || x.sp d || qd.2 || hd.2 || ex.2)
    let s ← get
    let blocks := tab.attnBlocks (s.homeSlice x.space)
    engineRoom true (s.attnRoom blocks) g.toNat n
    modCx (fun y => y.tagIssue g.toNat n)
    modify (fun s => { s with attns := s.attns ++ [(nextId s.attns,
      { core := s.coreNum, slot := s.slotNum, inc := x.inc, rcb := x.rgn, tag := g.toNat, qaddr := qd.1 % 2 ^ 64, nq := nq, dim := dim, fmt := BitVec.ofNat 8 tab.fmt,
        scale := qd.1 / 2 ^ 64 % 2 ^ 32, qpos := qd.1 / 2 ^ 128 % 2 ^ 64, win := qd.1 / 2 ^ 192 % 2 ^ 64, blocks := blocks,
        query := none, dst := db, done := [], failed := none, pois := false, acq := acq, rel := rel, scope := c,
        lt := s.cx.commandTime acq, space := x.space })] })
    retireE) s
where
  /-- Whether `n` bytes at an address lie in the scratchpad window. -/
  spanInScratchN (va : Dword) (n : Nat) : Bool :=
    inScratch va && decide (va.toNat + n ≤ Config.scratchBase + Config.scratchWindow)

/-! ### ATTN_BLOCK and ATTN_RESULT -/

/-- Whether query `r` admits the token at a sequence position (R308). -/
def AttnCmd.admits (a : AttnCmd) (r pos : Nat) : Bool :=
  decide (pos ≤ a.qpos + r) && (a.win == 0 || decide (a.qpos + r - pos < a.win))

/-- Whether any query admits a token of a block. -/
def AttnCmd.touches (a : AttnCmd) (b : AttnBlock) : Bool :=
  (rangeFrom 0 a.nq).any (fun r => (rangeFrom 0 b.tokens).any (fun j => a.admits r (b.pos + j)))

/-- The triples of a block, one for each query (R267). -/
def AttnCmd.triples (a : AttnCmd) (b : AttnBlock) (qs ks vs : Nat) : List (Option Triple) :=
  (rangeFrom 0 a.nq).map (fun r =>
    let q := attnElems a.fmt a.dim qs r
    let ss := (rangeFrom 0 b.room).map (fun j =>
      if decide (j < b.tokens) && a.admits r (b.pos + j) then some (score a.scale q (attnElems a.fmt a.dim ks j)) else none)
    partialTriple a.dim ss (fun j => attnElems a.fmt a.dim vs j))

/-- The 64-byte blocks that hold a number of vectors. -/
def AttnCmd.lines (a : AttnCmd) (n : Nat) : Nat := 2 * a.dim * n / 64

/-- How the accesses of an attention command are ordered (R227, R269). The numbers of attention commands and of copies are kept apart. -/
def AttnCmd.order (a : AttnCmd) (id : Nat) : CommandOrder :=
  { ctx := ctxKey a.core a.slot, inc := a.inc, rcb := a.rcb, cmd := 2 * id + 1, acq := a.acq, rel := a.rel, scope := a.scope, lt := a.lt }

/-- The query vectors read, if they have not been. A line of theirs that cannot be read fails the whole command with that cause, at its first block (DESIGN
CHOICE, log 28: R269 speaks of a failing block alone). -/
def State.attnQuery (s : State) (o : CommandOrder) (a : AttnCmd) : Except Byte AttnCmd × State :=
  match a.query with
  | some _ => (.ok a, s)
  | none =>
    let r := s.engineLines a.core o a.space (BitVec.ofNat 64 a.qaddr) (a.lines a.nq)
    match r.1 with
    | .error c => (.error c, r.2)
    | .ok x => (.ok { a with query := some x.1, pois := a.pois || x.2 }, r.2)

/-- One block: its keys and values read where a query admits a token of it, and its triples (R265, R267, R268, R301). -/
def State.attnCompute (s : State) (o : CommandOrder) (a : AttnCmd) (b : AttnBlock) : Except Byte AttnCmd × State :=
  let q := s.attnQuery o a
  match q.1 with
  | .error c => (.error c, q.2)
  | .ok a1 =>
    if !a1.touches b then (.ok { a1 with done := a1.done ++ [List.replicate a1.nq none] }, q.2)
    else
      let ks := q.2.engineLines a1.core o a1.space (BitVec.ofNat 64 b.base) (a1.lines b.tokens)
      match ks.1 with
      | .error c => (.error c, ks.2)
      | .ok x =>
        let vs := ks.2.engineLines a1.core o a1.space (BitVec.ofNat 64 (b.base + 2 * a1.dim * b.room)) (a1.lines b.tokens)
        match vs.1 with
        | .error c => (.error c, vs.2)
        | .ok y =>
          (.ok { a1 with done := a1.done ++ [a1.triples b (a1.query.getD 0) x.1 y.1], pois := a1.pois || x.2 || y.2 }, vs.2)

/-- Whether a lost plane stalls what a block reads (R396). -/
def State.attnStalls (s : State) (a : AttnCmd) (b : AttnBlock) : Bool :=
  (a.query.isNone && s.engineStalls a.core a.space (BitVec.ofNat 64 a.qaddr) .load (a.lines a.nq)) ||
  (a.touches b && (s.engineStalls a.core a.space (BitVec.ofNat 64 b.base) .load (a.lines b.tokens) ||
    s.engineStalls a.core a.space (BitVec.ofNat 64 (b.base + 2 * a.dim * b.room)) .load (a.lines b.tokens)))

/-- The slices that have still to work for a command. -/
def AttnCmd.slicesLeft (a : AttnCmd) : List Nat := (a.blocks.drop a.done.length).filterMap AttnBlock.slice

/-- Whether a command may start or go on: a slice's attention unit starts commands in the order of arrival, with the reading of their queries
(R248). -/
def State.attnStarts (s : State) (id : Nat) (a : AttnCmd) : Bool :=
  a.query.isSome || s.attns.all (fun x => decide (id ≤ x.1) || x.2.query.isSome || x.2.failed.isSome ||
    !(x.2.slicesLeft.any (fun k => a.slicesLeft.contains k)))

/-- ATTN_BLOCK: the next block in ascending position; a block that cannot be read fails the command (R301). The units of different slices read their blocks one
after another in ascending position (DESIGN CHOICE, log 28: R265 lets them work apart). -/
def execAttnBlock (cmd : Nat) (s : State) : Host.Outcome State Fault Refusal :=
  match kget s.attns cmd with
  | none => .next s
  | some a =>
    match a.failed, a.blocks.drop a.done.length with
    | none, b :: _ =>
      if s.attnStalls a b || !s.attnStarts cmd a then .next s else
      let r := s.attnCompute (a.order cmd) a b
      match r.1 with
      | .error c => .next { r.2 with attns := kset r.2.attns cmd { a with failed := some c } }
      | .ok a' => .next { r.2 with attns := kset r.2.attns cmd a' }
    | _, _ => .next s

/-- Whether a command has nothing more to compute. -/
def AttnCmd.ready (a : AttnCmd) : Bool := a.failed.isSome || decide (a.blocks.length ≤ a.done.length)

/-- Bytes of a command's result. -/
def AttnCmd.bytes (a : AttnCmd) : Nat := 4 * a.dim * a.nq

/-- The 64-byte blocks of a command's result, in ascending address (R268, R301). -/
def AttnCmd.result (a : AttnCmd) : List (Dword × Nat) :=
  let xs := (rangeFrom 0 a.nq).flatMap (fun r => attnRoot a.dim (a.done.map (fun d => d.getD r none)))
  (rangeFrom 0 (a.bytes / 64)).map (fun i => (a.dst + BitVec.ofNat 64 (64 * i), (xs.drop (16 * i)).take 16)) |>.map (fun x =>
    (x.1, x.2.foldr (fun y (n : Nat) => y % 2 ^ 32 + 2 ^ 32 * n) 0))

/-- Where the lines of a result lead, or the first failure. -/
def State.resultPlaces (s : State) (t0 core : Nat) (sp : Space) : List (Dword × Nat) → Except Byte (List (Place × Nat)) × State
  | [] => (.ok [], s)
  | x :: xs =>
    let p := s.enginePlace t0 core sp x.1 .store
    match p.1 with
    | .error c => (.error c, p.2)
    | .ok q =>
      let r := p.2.resultPlaces t0 core sp xs
      match r.1 with
      | .error c => (.error c, r.2)
      | .ok l => (.ok ((q, x.2) :: l), r.2)

/-- ATTN_RESULT: all result lines in ascending address, or none (R269, R301). -/
def execAttnResult (cmd : Nat) (s : State) : Host.Outcome State Fault Refusal :=
  match kget s.attns cmd with
  | none => .next s
  | some a =>
    if !a.ready then .next s
    else
      let o := a.order cmd
      let gone (t : State) : State := { t with attns := kdel t.attns cmd }
      match a.failed with
      | some c => .next ((gone s).tagAbandoned a.core a.slot a.tag a.bytes c)
      | none =>
        let r := s.resultPlaces o.lt a.core a.space a.result
        match r.1 with
        | .error c => .next ((gone r.2).tagAbandoned a.core a.slot a.tag a.bytes c)
        | .ok ps =>
          if ps.any (fun p => r.2.stalls p.1 true) then .next s else
          let s1 := ps.foldl (fun (t : State) p => t.putBlock a.core o p.1 (BitVec.allOnes 64) (BitVec.ofNat 512 p.2) a.pois) (gone r.2)
          let lt := ps.foldl (fun (m : Nat) p => max m (s1.writeTime p.1)) 0
          let s2 := (s1.commandOver o.ctx o.cmd).tagPerformed a.core a.slot a.tag a.bytes lt
          .next (if a.pois then s2.modCtx (ctxKey a.core a.slot) (fun c => c.chk 1) else s2)

end Sys2Proof.Machine
end

