-- ==== Sys2Proof/Machine/Preempt.lean ====
section
/-! DEFINITION. Pre-emption (spec 19 R348 to R355; 06 R121, R122; 02 R40): `safe`, yield requests, saving a context and resuming it. -/

namespace Sys2Proof.Machine

/-! ### Save records (R349, R352) -/

/-- The base of a save record. -/
def Region.saveBase (r : Region) (i : Nat) : Nat := r.save + 4096 * i

/-- The first save record of a region that is free. -/
def Region.freeRecord (r : Region) : Option Nat := (rangeFrom 0 (min r.nsave (r.saved.length + 1))).find? (fun i => r.saved.all (fun x => x.index != i))

/-- The live-map entry of an index: its masks, or none where it cannot be read or a reserved bit is set (R349). -/
def State.liveMap (s : State) (core : Nat) (c : Context) (ix : Nat) : Option (Dword × Dword) × State :=
  let a := c.cr.lmap + BitVec.ofNat 64 (16 * ix)
  let x := s.spaceLoad core c.space a 8
  match x.1 with
  | .error _ => (none, x.2)
  | .ok (m, _) =>
    let y := x.2.spaceLoad core c.space (a + 8) 8
    match y.1 with
    | .error _ => (none, y.2)
    | .ok (n, _) => (if n / 256 = 0 then some (BitVec.ofNat 64 m, BitVec.ofNat 64 n) else none, y.2)

/-- The offsets of the image dwords that a save writes: those of the named registers, the poison bits, the PC and the control registers
(R349, R352). -/
def savedDwords (smask vmask pmask : Nat) : List Nat :=
  ((rangeFrom 1 31).filter (fun k => smask / 2 ^ k % 2 == 1)).map (fun k => 8 * k) ++
  ((rangeFrom 0 32).filter (fun k => vmask / 2 ^ k % 2 == 1)).flatMap (fun k => (rangeFrom 0 8).map (fun j => 0x100 + 64 * k + 8 * j)) ++
  ((rangeFrom 1 7).filter (fun k => pmask / 2 ^ k % 2 == 1)).map (fun k => 0x900 + 8 * k) ++
  (rangeFrom 0 24).map (fun j => 0x940 + 8 * j)

/-- The dwords of an inbox message in a record: its header with bit 44 the OR of its poison bits, its words, and a reserved dword (R352). -/
def messageDwords (m : Message) : List Dword :=
  [if m.pois = 0 then m.hdr else m.hdr ||| 0x1000_0000_0000, m.data.extractLsb' 0 64, m.data.extractLsb' 64 64,
   m.data.extractLsb' 128 64, m.data.extractLsb' 192 64, 0]

/-- The dwords of a save record with their offsets (R352): the masks are the live-map entry's, or all ones in a full save. -/
def Context.record (c : Context) (core : Nat) (lm : Option (Nat × Dword × Dword)) : List (Nat × Dword) :=
  let head : Dword := match lm with | none => 0x1_0000 | some (ix, _) => BitVec.ofNat 64 (ix % 65536)
  let ones : Dword := BitVec.allOnes 64
  let m : Dword × Dword := match lm with | none => (ones, ones) | some (_, x) => x
  let reason (k : Nat) : Nat := (vget c.tags k Tag.reset).reason.toNat
  let reasons (j : Nat) : Dword :=
    BitVec.ofNat 64 ((rangeFrom 0 8).foldr (fun i (a : Nat) => a * 256 + reason (8 * j + i)) 0)
  let image := (savedDwords (m.1.toNat % 2 ^ 32) (m.1.toNat / 2 ^ 32) (m.2.toNat % 256)).map (fun o => (0x40 + o, c.imageDword o))
  let inbox := (c.inbox.zipIdx.map (fun x => (messageDwords x.1).zipIdx.map (fun y => (0xA40 + 48 * x.2 + 8 * y.2, y.1)))).flatten
  let arr (b : Nat) : Dword := match kget c.arrivals b with
    | none => 0
    | some ph => 0x8000_0000_0000_0000 ||| BitVec.setWidth 64 ph
  [(0x00, head), (0x08, m.1), (0x10, m.2), (0x18, BitVec.ofNat 64 (c.inbox.length * 2 ^ 32) ||| c.tagErrBits)] ++
  (rangeFrom 0 4).map (fun j => (0x20 + 8 * j, reasons j)) ++ image ++ inbox ++
  (rangeFrom 0 32).map (fun b => (0xD40 + 8 * b, arr b)) ++ [(0xE40, BitVec.ofNat 64 (core % 16384))]

/-- Whether a write that has not reached its place is one of a context's commands, or one that the context has seen. -/
def Early.knownTo (e : Early) (k : Nat) (c : Context) : Bool := e.of k c || e.seenBy (ctxTag k c.inc)

/-- Whether nothing of a context is under way: it is no firing, no trap of it is being handled, its engine instructions have retired and its
commands are complete (R348), also one whose bytes its tag does not count any longer (R295), with no write of theirs, or that it has seen, that a lost plane keeps from
its place (R396). -/
def State.quiet (s : State) (core slot : Nat) : Bool :=
  let c := s.getCtx (ctxKey core slot)
  let co := s.getCore core
  c.live && c.firing.isNone && !c.inTrap && c.tags.toList.all (fun t => t.pending == 0) &&
  co.matq.all (fun j => j.slot != slot) && co.spq.all (fun j => j.slot != slot) && !s.commandsOf core slot c.inc &&
  !s.early.any (fun e => e.knownTo (ctxKey core slot) c && s.heldUp e.line true)

/-- Whether a context may be saved now: nothing of it is under way, and it stands at an instruction boundary (R348). -/
def State.settled (s : State) (core slot : Nat) : Bool := s.quiet core slot && !(s.getCtx (ctxKey core slot)).midway

/-- A context written to a save record and its slot given up (R351 to R353). The writes of its commands and those that it has seen take their places, so that what it does where it
resumes follows them (R238, R258); with its work stay its latch (R93), its logical times and those of its inbox. -/
def State.saveCtx (s0 : State) (core slot i : Nat) (lm : Option (Nat × Dword × Dword)) : State :=
  let k := ctxKey core slot
  let s := s0.placeThose (fun e => e.knownTo k (s0.getCtx k))
  let c := s.getCtx k
  let rcb := c.rgn
  match s.getRegion? rcb with
  | none => s
  | some r =>
    let s1 := (c.record core lm).foldl (fun t x => t.dealerStore rcb core (r.saveBase i + x.1) 8 x.2.toNat false) s
    let s2 := s1.modRegion rcb (fun r => { r with
      saved := r.saved ++ [{
        index := i, core := core, caller := c.caller, start := c.start, latch := c.latch, lt := max c.lt c.cmdLt, fenceLt := c.fenceLt,
        times := c.inbox.map Message.lt }] })
    let s3 := s2.modCtx k (fun c => { c with trapped := none })
    (s3.endCtx k).releaseSlot rcb core slot none

/-- A full save, where a record is free (R348, R371); a context of a region that its owner stops needs none. -/
def State.saveFull (s : State) (core slot : Nat) : State :=
  let c := s.getCtx (ctxKey core slot)
  let rcb := c.rgn
  match (s.getRegion? rcb).bind Region.freeRecord with
  | none =>
    if ((s.getRegion? rcb).map (fun r => r.fault.isSome)).getD false && s.quiet core slot && !s.completes (ctxKey core slot) c then
      ((s.modCtx (ctxKey core slot) (fun c => { c with trapped := none })).endCtx (ctxKey core slot)).releaseSlot rcb core slot none
    else s
  | some i => if s.settled core slot then s.saveCtx core slot i none else s

/-! ### `safe` -/

/-- `safe` (R40, R348): a pending yield is taken at the boundary after it, saving what the live map names. -/
def execSafe (xi : BitVec 16) (s : State) : Host.Outcome State Fault Refusal :=
  finish (do
    let s ← get
    let c := s.cx
    let rec_ := (s.getRegion? c.rgn).bind Region.freeRecord
    match c.yieldReq, rec_ with
    | some _, some i =>
      if c.mode == .super || c.timed then retireE
      else if !s.settled s.coreNum s.slotNum then throw (.wait .commands)
      else
        let lm := s.liveMap s.coreNum c xi.toNat
        set lm.2
        retireE
        modify (fun s => s.saveCtx s.coreNum s.slotNum i (lm.1.map (fun m => (xi.toNat, m))))
    | _, _ => retireE) s

/-! ### Yield requests -/

/-- Whether a pending yield request takes a context at once: a firing, or one that waits as R115 has it, for an engine's queue or for the S context
(R172, R290, R348). -/
def Context.yieldsNow (c : Context) : Bool :=
  c.yieldReq.isSome && (c.firing.isSome || c.trapped.isSome || (match c.wait with | none => false | some w => w.kind.yields))

/-- Whether a task can be taken off its slot: its region has a free save record, or is being stopped by its owner (R348, R371, R372). -/
def State.savable (s : State) (c : Context) : Bool :=
  match s.getRegion? c.rgn with
  | none => false
  | some r => r.freeRecord.isSome || r.fault.isSome

/-- Whether a task is held at its wait until a pending yield has saved it there (R292, R348). -/
def State.yielding (s : State) (c : Context) : Bool := c.mode == .user && c.firing.isNone && c.yieldsNow && s.savable c

/-- Whether 20,000 cycles have passed since a yield request (R348). -/
def State.overdue (s : State) (c : Context) : Bool :=
  match c.yieldReq with
  | none => false
  | some t => decide (t + 20000 ≤ s.cycle)

/-- Whether a context issues no more until a pending yield has taken it at its boundary: a firing, which is squashed at once, a task at its wait, or one whose 20,000
cycles are over (R172, R292, R348). -/
def State.heldToYield (s : State) (c : Context) : Bool :=
  c.mode == .user && c.yieldReq.isSome && !c.midway && (c.firing.isSome || s.yielding c || (s.overdue c && s.savable c))

/-- A yield requested of a context, where none is pending (R348). -/
def State.askCtx (s : State) (k : Nat) : State :=
  let c := s.getCtx k
  if c.live && c.yieldReq.isNone then s.setCtx k { c with yieldReq := some s.cycle } else s

/-- YIELD_REQUEST: a request reaches a U context; a firing is squashed, a waiting task is saved in full (R172, R348). -/
def execYieldRequest (core slot : Nat) (s : State) : Host.Outcome State Fault Refusal :=
  let k := ctxKey core slot
  let c := s.getCtx k
  if c.live && c.mode == .user then
    let s1 := s.askCtx k
    .next (if !(s1.getCtx k).yieldsNow then s1 else if c.firing.isSome then s1.squash core slot else s1.saveFull core slot)
  else .next s

/-- PREEMPT_TIMEOUT (R348). -/
def execPreemptTimeout (core slot : Nat) (s : State) : Host.Outcome State Fault Refusal :=
  let c := s.getCtx (ctxKey core slot)
  if c.live && c.mode == .user && s.overdue c then .next (s.saveFull core slot) else .next s

/-- A yield requested of every U context of a region that a core holds (R122, R348). -/
def State.requestYield (s : State) (rcb core : Nat) : State :=
  ((s.slotsOf core).filter (fun k => (s.getCtx (ctxKey core k)).rgn == rcb)).foldl
    (fun (t : State) k => t.askCtx (ctxKey core k)) s

/-- Whether a core of a region holds contexts that no yield has been requested of. -/
def State.unasked (s : State) (core : Nat) : Bool :=
  (s.ctxsOn core).any (fun x => x.1 != 0 && x.2.live && x.2.yieldReq.isNone)

/-! ### Which work is eligible (R121, R122, R127, R246, R354) -/

/-- Whether a region runs and may use a core: one of its budget, and for a co-resident region one with slots reserved (R246). -/
def Region.uses (r : Region) (core : Nat) : Bool :=
  r.running && !r.stopping && r.fault.isNone && r.cores.contains core && decide (r.limit core ≠ 0)

/-- Whether a region of higher priority has a core, or has work for it (R121, R122). -/
def State.preempted (s : State) (r : Region) (core : Nat) : Bool :=
  s.regions.any (fun x => decide (r.prio < x.2.prio) && x.2.uses core &&
    ((s.inForce x.1 core && !s.coreIdle core) || s.hasWork x.1 core || !x.2.saved.isEmpty))

/-- Whether a region's saved contexts resume on their own cores alone (R355). -/
def Region.bound (r : Region) : Bool := r.barriers.any (fun b => !b.2.members.isEmpty)

/-- The slots of a core that a region could start contexts in at once (R354). -/
def State.openSlots (s : State) (rcb : Nat) (r : Region) (core : Nat) : Nat :=
  if qualifies (s.getCore core) r.part && s.mayServe rcb core then
    ((s.slotsFor rcb r core).filter (fun k => (s.getCtx (ctxKey core k)).open_)).length
  else 0

/-- Whether all saved contexts of a region can resume at once (R354, R355). -/
def State.savedFit (s : State) (rcb : Nat) (r : Region) : Bool :=
  if r.bound then r.cores.all (fun c => decide ((r.saved.filter (fun x => x.core == c)).length ≤ s.openSlots rcb r c))
  else decide (r.saved.length ≤ r.cores.foldl (fun (n : Nat) c => n + s.openSlots rcb r c) 0)

/-- Whether every reserved slot of a co-resident region can be given back to it at once, with room for its saved contexts (R121, R354). -/
def State.allGiven (s : State) (rcb : Nat) (r : Region) : Bool :=
  r.reserved.all (fun x => x.2 == 0 || s.mayServe rcb x.1) && s.savedFit rcb r

/-- Whether a co-resident region is stopped as a whole: pre-empted on a core where it has slots, or stopped before and not to be resumed yet (R121). -/
def State.stoppedWhole (s : State) (rcb : Nat) (r : Region) : Bool :=
  r.colive != 0 &&
  (r.reserved.any (fun x => x.2 != 0 && s.preempted r x.1) || (r.stoppedAll && !s.allGiven rcb r))

/-- A co-resident region that has been stopped as a whole gets every slot reserved for it back at once, as it resumes (R121). -/
def State.comeBack (s : State) (rcb : Nat) : State :=
  match s.getRegion? rcb with
  | none => s
  | some r =>
    if r.stoppedAll then
      (r.reserved.filter (fun x => x.2 != 0)).foldl (fun (t : State) x => t.serve rcb x.1) (s.modRegion rcb (fun r => { r with stoppedAll := false }))
    else s

/-- Whether a saved context of a region may resume on a core (R354, R355), the oldest first; of a co-resident region they resume all together. -/
def State.resumable (s : State) (rcb : Nat) (r : Region) (core : Nat) : Option Saved :=
  if r.savedDue && r.cores.contains core && qualifies (s.getCore core) r.part && !s.stoppedWhole rcb r &&
      (r.colive == 0 || s.savedFit rcb r) then
    r.saved.find? (fun x => !r.bound || x.core == core)
  else none

/-- Whether a region has eligible work for a core, where it may use a slot of it (R122, R127, R246, R354). -/
def State.eligible (s : State) (rcb core : Nat) : Bool :=
  match s.getRegion? rcb with
  | none => false
  | some r => r.uses core && !(s.slotsFor rcb r core).isEmpty && !s.stoppedWhole rcb r && (s.hasWork rcb core || (s.resumable rcb r core).isSome)

/-- Whether new work of a region of at least some priority is eligible on a core: with a free slot for it, or a task that a steal has brought
(R115, R127, R181). -/
def State.newWork (s : State) (core prio : Nat) : Bool :=
  s.regions.any (fun x => decide (prio ≤ x.2.prio) && s.eligible x.1 core &&
    ((s.freeSlot x.1 x.2 core).isSome || !(s.getWork x.1 core).stolen.isEmpty))

/-- The priority of the region in force on a core. -/
def State.servingPrio (s : State) (core : Nat) : Option Nat :=
  (((s.getCore core).serving.bind s.getRegion?)).map Region.prio

/-- Whether a region of higher priority than the one in force has eligible work for a core (R122). -/
def State.higherWork (s : State) (core : Nat) : Bool :=
  match s.servingPrio core with
  | none => false
  | some p => s.regions.any (fun x => decide (p < x.2.prio) && s.eligible x.1 core)

/-- The co-resident regions with slots reserved on a core that a region of higher priority takes from them, as long as they do not count as stopped, or a context of
theirs on any core has not been asked to yield: the whole region stops (R121). -/
def State.stopsWhole (s : State) (core : Nat) : List (Nat × Region) :=
  s.regions.filter (fun x => x.2.running && x.2.colive != 0 && kgetD x.2.reserved core 0 != 0 && s.preempted x.2 core &&
    (!x.2.stoppedAll ||
      x.2.cores.any (fun n => (s.ctxsOn n).any (fun y => y.1 != 0 && y.2.live && y.2.yieldReq.isNone && y.2.rgn == x.1))))

/-- A co-resident region stopped as a whole: a yield is asked of all its contexts (R121). -/
def State.stopRegion (s : State) (rcb : Nat) (r : Region) : State :=
  r.cores.foldl (fun (t : State) n => t.requestYield rcb n) (s.modRegion rcb (fun r => { r with stoppedAll := true }))

/-- Whether the dealer of a core has yields to request for a region of higher priority (R121, R122). -/
def State.yieldDue (s : State) (core : Nat) : Bool := (s.higherWork core && s.unasked core) || !(s.stopsWhole core).isEmpty

/-- PRIORITY_YIELD (R122): the lower region's contexts are asked to yield; a co-resident region stops as a whole (R121). -/
def execPriorityYield (core : Nat) (s : State) : Host.Outcome State Fault Refusal :=
  let s1 := if s.higherWork core then s.requestYield ((s.getCore core).serving.getD 0) core else s
  .next ((s.stopsWhole core).foldl (fun (t : State) x => t.stopRegion x.1 x.2) s1)

/-- Whether a time slice is over: 2,500,000 cycles with equal-priority work of another region waiting, for a region that is not co-resident
(R121, R122, R142). -/
def State.sliceOver (s : State) (core : Nat) : Bool :=
  let co := s.getCore core
  match co.serving with
  | none => false
  | some q =>
    match s.getRegion? q with
    | none => false
    | some r => r.colive == 0 && decide (co.slice + 2500000 ≤ s.cycle) &&
        s.regions.any (fun x => x.1 != q && x.2.prio == r.prio && s.eligible x.1 core)

/-- TIME_SLICE_END (R122): the next region of equal priority is to take the core at safe points. -/
def execTimeSliceEnd (core : Nat) (s : State) : Host.Outcome State Fault Refusal :=
  if s.sliceOver core then
    let s1 := s.requestYield ((s.getCore core).serving.getD 0) core
    .next (s1.modCore core (fun c => { c with rr := (c.serving.getD 0) + 1, slice := s.cycle }))
  else .next s

/-! ### Which region a core serves next (R122) -/

/-- The region that a core serves: of the highest priority with eligible work; among equals the one in force, or after a slice the next by
block address; on a core with none in force, or where the one in force has no work, the lowest block address (DESIGN CHOICE, log 49: the spec gives the round robin
at the end of a slice alone). It waits until the contexts of another region have gone. -/
def State.pick (s : State) (core : Nat) : Option Nat :=
  let cs := s.regions.filter (fun x => s.eligible x.1 core)
  let top := cs.foldl (fun (p : Nat) x => max p x.2.prio) 0
  let best := (cs.filter (fun x => x.2.prio == top)).map (fun x => x.1)
  let co := s.getCore core
  let q? := if co.rr = 0 then
      match co.serving with
      | some q => if best.contains q then some q else best.head?
      | none => best.head?
    else
      match best.find? (fun q => decide (co.rr ≤ q)) with
      | some q => some q
      | none => best.head?
  match q? with
  | none => none
  | some q => if s.mayServe q core then some q else none

/-! ### Resumption -/

/-- The message of a save record (R352): each word takes bit 44 as its poison. Its sender's logical time has stayed with the region's work (R136). -/
def readMessage (ws : List Nat) (lt : Nat) : Message :=
  let h : Dword := BitVec.ofNat 64 (ws.getD 0 0)
  { hdr := h &&& ~~~0x1000_0000_0000
    data := BitVec.ofNat 64 (ws.getD 4 0) ++ BitVec.ofNat 64 (ws.getD 3 0) ++ BitVec.ofNat 64 (ws.getD 2 0) ++ BitVec.ofNat 64 (ws.getD 1 0)
    pois := if h.getLsbD 44 then 0xF else 0
    lt := lt }

/-- The tags of a save record: nothing pending, errors and reasons as saved (R352). -/
def savedTags (errs : Nat) (reasons : List Nat) : Vector Tag 32 :=
  (rangeFrom 0 32).foldl (fun (v : Vector Tag 32) k =>
    vset v k { pending := 0, err := errs / 2 ^ k % 2 == 1, reason := BitVec.ofNat 8 (reasons.getD (k / 8) 0 / 2 ^ (8 * (k % 8))) })
    (Vector.replicate 32 Tag.reset)

/-- A context resumed in a slot from its save record: only the registers that the save named are restored (R350, R354, R355). -/
def State.resumeIn (s : State) (rcb core slot : Nat) (r : Region) (x : Saved) : State :=
  let base := r.saveBase x.index
  let head := s.readDwords rcb core base 8
  let image := head.2.readDwords rcb core (base + 0x40) 320
  let nin := head.1.getD 3 0 / 2 ^ 32 % 32
  let inbox := image.2.readDwords rcb core (base + 0xA40) (6 * nin)
  let arr := inbox.2.readDwords rcb core (base + 0xD40) 32
  let s1 := arr.2.startCtx rcb core slot x.start x.caller
  let m0 := head.1.getD 1 0
  let offs := savedDwords (m0 % 2 ^ 32) (m0 / 2 ^ 32) (head.1.getD 2 0 % 256)
  let c0 := s1.getCtx (ctxKey core slot)
  let blank : Context := { c0 with sregs := Vector.replicate 32 0, lt := max c0.lt x.lt, fenceLt := x.fenceLt, latch := x.latch }
  let c1 := offs.foldl (fun (c : Context) o => c.setImageDword o (BitVec.ofNat 64 (image.1.getD (o / 8) 0))) blank
  let named (mask : Nat) : BitVec 32 := BitVec.ofNat 32 mask
  let c2 := { c1 with
    spois := c1.spois &&& named (m0 % 2 ^ 32)
    vpois := c1.vpois &&& named (m0 / 2 ^ 32)
    tags := savedTags (head.1.getD 3 0) (head.1.drop 4)
    inbox := (rangeFrom 0 nin).map (fun j => readMessage (inbox.1.drop (6 * j)) (x.times.getD j 0))
    arrivals := (rangeFrom 0 32).filterMap (fun b =>
      let w := arr.1.getD b 0
      if w / 2 ^ 63 = 1 then some (b, BitVec.ofNat 32 w) else none)
    start := x.start }
  (s1.setCtx (ctxKey core slot) c2).modRegion rcb (fun r => { r with saved := r.saved.filter (fun y => y.index != x.index) })

/-- A saved context resumed on the first core with room for it; beyond a core's issuing positions it is parked, ready to issue (R114, R354). -/
def State.resumeSomewhere (s : State) (rcb : Nat) (r : Region) (x : Saved) : State :=
  match (if r.bound then [x.core] else r.cores).find? (fun c => decide (0 < s.openSlots rcb r c)) with
  | none => s
  | some core =>
    match s.freeSlot rcb r core with
    | none => s
    | some k =>
      let t := (s.serve rcb core).resumeIn rcb core k r x
      if t.held core ≤ 4 then t else t.modCtx (ctxKey core k) (fun c => { c with slot := .parkedReady })

/-- All saved contexts of a co-resident region resumed at once, oldest save first (R121, R354). -/
def State.resumeAll (s : State) (rcb : Nat) (r : Region) : State := r.saved.foldl (fun (t : State) x => t.resumeSomewhere rcb r x) s

end Sys2Proof.Machine
end

