-- ==== Sys2Proof/Machine/VectorMem.lean ====
section
/-! DEFINITION. Vector loads and stores, gather and scatter (spec 05 R100 to R102, R112). -/

namespace Sys2Proof.Machine

/-- The address of the contiguous forms: S[a] + SX(offset) × 64 (R100). -/
def vectorEA (c : Context) (a : Reg) (off : BitVec 11) : Dword := c.s a + off.signExtend 64 * 64

/-- The active lanes of `n` with their addresses. -/
def laneAddrs (n : Nat) (g : Dword) (f : Nat → Dword) : List (Nat × Dword) :=
  ((rangeFrom 0 n).filter (active g)).map (fun i => (i, f i))

/-- The checks of all active lanes: the first cause in R21's order, with the lowest lane that has it (R100). -/
def laneChecks (addrs : List (Nat × Dword)) (acc : Access) (n : Nat) : Exec (List (Nat × Dword × Place)) := do
  let ps ← checkPlaces (addrs.map (fun x => x.2)) acc n
  return (addrs.zip ps).map (fun x => (x.1.1, x.1.2, x.2))

/-- The check TIMEDWR of the lanes of a store (R100). -/
def laneTimed (addrs : List (Nat × Dword)) (n : Nat) : Exec Unit := do
  let _ ← addrs.mapM (fun x => guardTimed x.2 n)
  pure ()

/-- Whether a place lies in coherent memory or the scratchpad. -/
def Place.oneBlock : Place → Bool
  | .scratch _ => true
  | .coherent .. => true
  | _ => false

/-- The place of the block that holds a place. -/
def Place.block : Place → Place
  | .scratch o => .scratch (o / 64 * 64)
  | .coherent pa l w key => .coherent (pa / 64 * 64) l w key
  | .uncached pa key => .uncached pa key
  | .device pa => .device pa

/-! Lanes one after another (R112): between two of them other contexts may make their accesses, so the instruction may stop midway and go
on when the context issues again. Its checks are made once, before its first lane (R100). -/

/-- Whether the machine holds a lane of a context back for now: a lost plane (R396), a frame that a checkpoint is to copy first (R402), or a word that the
sum-product engine is to write (R279, R282). -/
def State.laneHeld (s : State) (core n : Nat) (write : Bool) (p : Place) : Bool :=
  s.stalls p write || (write && (s.frameDue p).isSome) || (match p with | .scratch off => (s.getCore core).spWrites off n | _ => false)

/-- The lanes that are made now: a free number of those at the front that nothing holds back. -/
def takeLanes (p : LanePlan) : Exec (List (Nat × (Dword × Place))) := do
  let s ← get
  let free := p.todo.takeWhile (fun x => !s.laneHeld s.coreNum p.bytes p.store x.2.2)
  if free.length ≤ 1 then return free
  else return free.take ((Config.choose (← draw)) % free.length + 1)

/-- One lane of a vector load made. -/
def loadLane (p : LanePlan) (x : Nat × (Dword × Place)) : Exec LanePlan := do
  let r ← loadE x.2.2 p.bytes
  return { p with acc := lineWith p.acc (p.bytes * x.1) p.bytes r.1, pois := p.pois || r.2 }

/-- The undo copy of the block of a lane, right before the first lane of the instruction that stores to it (R100, R154, R230). A row or an element with a value of its own is
a store of its own, and has its copy as every store has (R154, R298, R324). -/
def logLane (p : LanePlan) (va : Dword) : Exec LanePlan := do
  let b := va.toNat / 64
  if (← cx).firing.isNone || inScratch va || (p.vals.isEmpty && p.logged.contains b) then return p
  else
    logBlock b
    return { p with logged := nadd p.logged b }

/-- One lane of a store made: from now on nothing takes the instruction back. -/
def storeLane (p : LanePlan) (x : Nat × (Dword × Place)) : Exec LanePlan := do
  let q ← logLane p x.2.1
  storeE x.2.2 p.bytes (p.value x.1).1 (p.value x.1).2
  return { q with back := false }

/-- Lanes of an access made in ascending order: all that are left, or some of them, and then the instruction stops midway. The answer is the access
with what is left of it (R112). -/
def runLanes (p : LanePlan) : Exec LanePlan := do
  let now ← takeLanes p
  let q ← now.foldlM (if p.store then storeLane else loadLane) { p with todo := p.todo.drop now.length }
  if q.todo.isEmpty then return q
  else
    modify (fun s => s.beginWait (.lanes q))
    return q

/-- A vector load made: as one access where the address is that of a block, else lane by lane in ascending order (R112). `cut` is the lane at which
`vldff` is cut short. -/
def loadLanes (ea : Dword) (n : Nat) (cut : Option Nat) (ls : List (Nat × (Dword × Place))) : Exec LanePlan := do
  let p : LanePlan := { bytes := n, todo := ls, store := false, acc := 0, pois := false, cut := cut, logged := [], vals := [], back := false }
  match ls with
  | (_, _, p0) :: _ =>
    if ea.toNat % 64 = 0 ∧ p0.oneBlock then
      guardPlane p0 false
      let _ ← ls.mapM (fun x => waitSpWords x.2.2 n)
      let r ← loadE p0.block 64
      return { p with todo := [], acc := BitVec.ofNat 512 r.1, pois := r.2 }
    else runLanes p
  | [] => return p

/-- The lanes of a predicate below a bound. -/
def lanesBelow (k : Nat) : Dword := BitVec.ofNat 64 (2 ^ k - 1)

/-- A vector load's result: loaded lanes, and old ones elsewhere (R95, R100); of `vldff` cut short at a lane, the predicate without the lanes from that one on
(R101). An instruction that has stopped midway has no result yet. -/
def putLoaded (w : Nat) (d : Reg) (pops : List Reg) (g : PReg) (p : LanePlan) : Exec Unit :=
  if !p.todo.isEmpty then pure ()
  else do
    let gv := (← cx).p g
    let used := match p.cut with | none => gv | some k => gv &&& lanesBelow k
    modCx (fun c => (c.popPorts pops).setV d (maskLanes w used (c.v d) (fun i => lane w p.acc i)) (maskPois (512 / w) used p.pois (c.vp d)))
    match p.cut with
    | none => pure ()
    | some k => modCx (fun c => c.setP g (gv &&& (lanesBelow k ||| ~~~lanesBelow (512 / w))))
    retireE

/-- A vector load that goes on where it has stopped midway, or begins. -/
def loadFrom (w : Nat) (d : Reg) (pops : List Reg) (g : PReg) (begin_ : Exec LanePlan) : Exec Unit := do
  match (← cx).plan with
  | some p => putLoaded w d pops g (← runLanes p)
  | none => putLoaded w d pops g (← begin_)

/-- A vector load of active lanes at addresses, with its checks (R100, R102); `bad` says that a source is poisoned. -/
def beginLoad (ea : Dword) (n : Nat) (addrs : List (Nat × Dword)) (bad : Bool) : Exec LanePlan := do
  let ls ← laneChecks addrs .load n
  guardPoison bad
  loadLanes ea n none ls

/-- `vld` (R100). -/
def execVld (d a : Reg) (g : PReg) (z : Size) (off : BitVec 11) (s : State) : Host.Outcome State Fault Refusal :=
  finish (loadFrom (8 * z.bytes) d [] g (do
    let c ← cx
    let n := z.bytes
    let ea := vectorEA c a off
    guardTrap (ea.toNat % n = 0) cALIGN ea
    beginLoad ea n (laneAddrs (64 / n) (c.p g) (fun i => ea + BitVec.ofNat 64 (i * n))) (c.sp a))) s

/-- What a lane of `vldff` meets: its place or cause, and whether it has a valid translation to an uncached page or to device space. A lane whose leaf forbids the load
counts by that leaf (DESIGN CHOICE, log 49: R101 does not say whether such a translation is valid). -/
abbrev LaneFound := Nat × Dword × Except Byte Place × Bool

/-- What each lane's address meets, by one translation each. -/
def laneTranslations (addrs : List (Nat × Dword)) (n : Nat) : Exec (List LaneFound) :=
  addrs.mapM (fun x => do
    let s ← get
    let r := s.translateLeaf (.ctx s.cur) s.coreNum s.cx.space x.2 .load n
    set r.2
    return (x.1, x.2, r.1))

/-- Whether a lane meets no cause. -/
def LaneFound.sound (x : LaneFound) : Bool := match x.2.2.1 with | .ok _ => true | .error _ => false

/-- The lane at which `vldff` is cut short: the first beyond the lowest active one that meets a cause, unless some lane is uncached (R101). -/
def cutLane (l : List LaneFound) : Option Nat :=
  if l.any (fun x => x.2.2.2) then none else ((l.drop 1).find? (fun x => !x.sound)).map (fun x => x.1)

/-- The lanes whose causes trap and that `vldff` loads: those below the lane at which it is cut short. -/
def lanesLoaded (l : List LaneFound) : List LaneFound :=
  match cutLane l with
  | none => l
  | some k => l.filter (fun x => decide (x.1 < k))

/-- The checks and the lanes of `vldff`: a cause beyond the lowest active lane shortens the load, where no lane is uncached (R101). -/
def beginLoadFirst (ea : Dword) (n : Nat) (addrs : List (Nat × Dword)) (bad : Bool) : Exec LanePlan := do
  let l ← laneTranslations addrs n
  let ps ← soundPlaces ((lanesLoaded l).map (fun x => (x.2.1, x.2.2.1)))
  guardPoison bad
  loadLanes ea n (cutLane l) (((lanesLoaded l).zip ps).map (fun x => (x.1.1, x.1.2.1, x.2)))

/-- `vldff`: as `vld` where a lane is uncached or of a device, else with the first cause beyond the lowest active lane cutting it short (R101). -/
def execVldff (d a : Reg) (g : PReg) (z : Size) (off : BitVec 11) (s : State) : Host.Outcome State Fault Refusal :=
  finish (loadFrom (8 * z.bytes) d [] g (do
    let c ← cx
    let n := z.bytes
    let ea := vectorEA c a off
    guardTrap (ea.toNat % n = 0) cALIGN ea
    beginLoadFirst ea n (laneAddrs (64 / n) (c.p g) (fun i => ea + BitVec.ofNat 64 (i * n))) (c.sp a))) s

/-- Some bytes of one block stored by a context as one access (R112). -/
def State.storeMasked (s : State) (k : Nat) (p : Place) (v : VReg) (mask : BitVec 64) (pois : Bool) : State :=
  match p with
  | .scratch off =>
    let d := (s.getCore (k / 64)).scratchGet (64 * lineOf off) 64
    s.scratchStoreBy k (64 * lineOf off) 64 (maskLine (BitVec.ofNat 512 d.1) v mask).toNat (maskPoison d.2 pois mask)
  | .coherent pa _ wt key =>
    let line := lineOf pa
    let s1 := (((s.placeOverdue line).placeSeen k line).fill line true).rekey line key
    s1.coStore k (64 * line) 64 (maskLine (s1.lineData line) v mask).toNat (maskPoison (s1.linePois line) pois mask) wt true key
  | _ => s

/-- The bytes of the active lanes in a block. -/
def laneMask (n : Nat) (g : Dword) : BitVec 64 :=
  BitVec.ofNat 64 ((rangeFrom 0 64).foldr (fun i (m : Nat) => 2 * m + if active g (i / n) then 1 else 0) 0)

/-- The checks of a vector store's lanes (R100, R102); `bad` says that a scalar or an index source is poisoned. -/
def storeChecks (addrs : List (Nat × Dword)) (n : Nat) (bad : Bool) : Exec (List (Nat × (Dword × Place))) := do
  let ls ← laneChecks addrs .store n
  laneTimed addrs n
  guardPoison bad
  return ls

/-- Stores under way made, all that are left or some of them; with the last one the instruction pops its ports and completes. -/
def goOnStoring (pops : List Reg) (p : LanePlan) : Exec Unit := do
  if (← runLanes p).todo.isEmpty then
    modCx (fun c => c.popPorts pops)
    retireE
  else pure ()

/-- A vector store of a source with its poison that goes on where it has stopped midway, or begins with the lanes that `begin_` answers; `none`: it has been made
as one access. It completes, and pops its ports, with its last lane. -/
def storeFrom (n : Nat) (pops : List Reg) (v : VReg × Bool) (begin_ : Exec (Option (List (Nat × (Dword × Place))))) : Exec Unit := do
  match (← cx).plan with
  | some p => goOnStoring pops p
  | none =>
    match ← begin_ with
    | some l => goOnStoring pops { bytes := n, todo := l, store := true, acc := v.1, pois := v.2, cut := none, logged := [], vals := [], back := false }
    | none =>
      modCx (fun c => c.popPorts pops)
      retireE

/-- `vst` (R100): it waits on an empty port for its source before it makes any check (DESIGN CHOICE, log 49: no rule orders the wait of R136 against the traps; so do
`vscatter` and `vgather`). At the address of a block its active lanes are one access, else one after another (R112). To an uncached page or a device the
lanes go one by one (R112), so that they leave the poison of the line as it is (DESIGN CHOICE, log 49: R231 names a `vst` of every lane
at a block's address without regard to the page). -/
def execVst (b a : Reg) (g : PReg) (z : Size) (off : BitVec 11) (s : State) : Host.Outcome State Fault Refusal :=
  finish (do
    let v ← srcV b
    storeFrom z.bytes [b] v (do
      let c ← cx
      let n := z.bytes
      let ea := vectorEA c a off
      guardTrap (ea.toNat % n = 0) cALIGN ea
      let ls ← storeChecks (laneAddrs (64 / n) (c.p g) (fun i => ea + BitVec.ofNat 64 (i * n))) n (c.sp a)
      match ls with
      | (_, _, p0) :: _ =>
        if ea.toNat % 64 = 0 ∧ p0.oneBlock then
          guardPlane p0 true
          let _ ← ls.mapM (fun x => waitSpWords x.2.2 n)
          logStore ea 64
          modify (fun s => s.storeMasked s.cur p0 v.1 (laneMask n (c.p g)) v.2)
          return none
        else return some ls
      | [] => return some ls)) s

/-- The address of a lane of gather and scatter (R102). -/
def gatherAddr (w : Nat) (base : Dword) (idx : VReg) (i : Nat) : Dword :=
  base + BitVec.ofInt 64 (signedOf w (lane w idx i) * ((w / 8 : Nat) : Int))

/-- `vgather` (R102); of an empty port as index vector see `execVst`. -/
def execVgather (d a b : Reg) (g : PReg) (t : ETy) (s : State) : Host.Outcome State Fault Refusal :=
  finish (do
    let y ← srcV b
    loadFrom t.width d [b] g (do
      let c ← cx
      let n := t.width / 8
      guardTrap ((c.s a).toNat % n = 0) cALIGN (c.s a)
      beginLoad 1 n (laneAddrs (64 / n) (c.p g) (gatherAddr t.width (c.s a) y.1)) (c.sp a || y.2))) s

/-- `vscatter`: lanes are stored in ascending order (R102); of an empty port as source or index vector see `execVst`. -/
def execVscatter (d a b : Reg) (g : PReg) (t : ETy) (s : State) : Host.Outcome State Fault Refusal :=
  finish (do
    let x ← srcV d
    let y ← srcV b
    storeFrom (t.width / 8) [d, b] x (do
      let c ← cx
      let n := t.width / 8
      guardTrap ((c.s a).toNat % n = 0) cALIGN (c.s a)
      return some (← storeChecks (laneAddrs (64 / n) (c.p g) (gatherAddr t.width (c.s a) y.1)) n (c.sp a || y.2)))) s

end Sys2Proof.Machine
end

