-- ==== Sys2Proof/Machine/DealerSteps.lean ====
section
/-! DEFINITION. The steps of the dealer (spec 01 R23; 04 R93; 06 R114 to R130; 07 R149 to R153, R157, R174; 19 R354). -/

namespace Sys2Proof.Machine

/-! ### Waits -/

/-- Whether a waiting context would go on if it issued now (R114, R115). -/
def State.waitReady (s0 : State) (k : Nat) (w : Wait) : Bool :=
  let s := { s0 with cur := k }
  let c := s.cx
  let rcb := c.rgn
  match w.kind with
  | .latch => c.latch
  | .reply any tag =>
    let held := c.matching (BitVec.setWidth 64 tag ||| (if any then 0x100 else 0))
    held.isEmpty || held.any (fun x => x.2.answer.isSome)
  | .inbox => !c.inbox.isEmpty
  | .port i => match vget c.ports i none with | none => true | some p => !p.fifo.isEmpty
  | .kiln t => let kiln := s.crRead k .kiln; t.ult kiln || kiln == BitVec.allOnes 64
  | .phase b => match kget c.arrivals b with | none => true | some ph => (s.barrier rcb b).phase != ph
  | .room b => decide (kgetD (s.barrier rcb b).arrived s.coreNum 0 < (s.barrier rcb b).perCore)
  | .chain b _ _ _ ph _ => (kget (s.barrier rcb b).partials (partialKey s.coreNum ph)).isSome
  | .send flight _ =>
    decide (c.cr.sqlim.toNat ≤ s.cycle - w.since + 1) ||
    (decide (c.sendq.length < 16) && c.freeLanding.isSome && (!flight || decide (s.co.flight.length < flightMax)))
  | .floor t => !s.floorHolds t
  | .tagsAny m => c.tagBits &&& m != 0
  | .tagsAll m => c.tagBits &&& m == m
  | .engine _ _ _ => true
  | .commands => !s.commandsOpen
  | .matrix => s.co.matq.all (fun j => j.slot != s.slotNum)
  | .tile m => !s.tileOwed m
  | .spDone => s.co.spq.all (fun j => j.slot != s.slotNum)
  | .spDep .. => true
  | .rehome a => !s.moveOpen (s.socOf rcb) a
  | .plane => s.dom.recovery.isEmpty
  | .frame f => (match s.ckpt.step with | .stream n => decide (f < n) || s.ckpt.taken.contains f | _ => true)
  | .translated => true
  | .lanes p => (match p.todo with | [] => true | x :: _ => !s.laneHeld s.coreNum p.bytes p.store x.2.2)

/-- Whether a parked context is able to issue (R114): one whose trap the S context handles, or that waits for the S context, is not. -/
def State.parkedReady (s : State) (k : Nat) (c : Context) : Bool :=
  !c.stoppedOut &&
  match c.slot with
  | .parkedReady => true
  | .parkedWaiting => k % 64 != 0 && (match c.wait with | none => true | some w => s.waitReady k w)
  | _ => false

/-- The lowest slot of a core whose context is parked and able to issue (R127, item 1). -/
def State.lowestReady (s : State) (core : Nat) : Option Nat :=
  least (((s.ctxsOn core).filter (fun x => s.parkedReady (ctxKey core x.1) x.2)).map (fun x => x.1))

/-- Whether the dealer finds work for `yield` of a context of a region: a parked context that is able to issue, or new work of the same or a higher
priority (R127, R181). -/
def State.yieldWork (s : State) (rcb core : Nat) : Bool :=
  (s.lowestReady core).isSome || s.newWork core (((s.getRegion? rcb).map Region.prio).getD 0)

/-- `yield` (R181). -/
def execYield (s : State) : Host.Outcome State Fault Refusal :=
  finish (do
    let s ← get
    let c := s.cx
    guardIll (!c.timed)
    retireE
    if c.mode == .user && decide (4 ≤ s.held s.coreNum) && s.yieldWork c.rgn s.coreNum then
      modCx (fun c => { c with slot := .parkedReady })
    else pure ()) s

/-- Whether other work is eligible on a core: a parked context that is ready, or new work (R115, R127). -/
def State.otherWork (s : State) (core : Nat) : Bool :=
  (s.lowestReady core).isSome || s.newWork core ((s.servingPrio core).getD 0)

/-! ### Traps and waits -/

/-- The lowest slot of a core whose trap waits for the S context, where that can take it (R23). -/
def State.queuedTrap (s : State) (core : Nat) : Option Nat :=
  if (s.getCtx (ctxKey core 0)).cr.sstat.getLsbD 16 ∨ (s.getCtx (ctxKey core 0)).midway ∨ (s.getCore core).shut then none
  else least (((s.ctxsOn core).filter (fun x => x.2.trapped.isSome)).map (fun x => x.1))

/-- QUEUED_TRAP_ENTRY (R23). -/
def execQueuedTrapEntry (core : Nat) (s : State) : Host.Outcome State Fault Refusal :=
  match s.queuedTrap core with
  | none => .next s
  | some k =>
    let key := ctxKey core k
    match (s.getCtx key).trapped with
    | none => .next s
    | some e => .next ((s.modCtx key (fun c => { c with trapped := none, inTrap := true })).enterS core k e)

/-- Whether a `wfe` has waited for 4,096 cycles (R93). -/
def State.wfeDue (s : State) (c : Context) : Bool :=
  match c.wait with
  | some w => w.kind == .latch && !c.latch && decide (w.since + 4096 ≤ s.cycle)
  | none => false

/-- WFE_TIMEOUT (R93). -/
def execWfeTimeout (core slot : Nat) (s : State) : Host.Outcome State Fault Refusal :=
  let k := ctxKey core slot
  .next (if s.wfeDue (s.getCtx k) then s.modCtx k (fun c => { c with latch := true }) else s)

/-! ### Parking and waking -/

/-- Whether an issuing U context has held its position longest on its core (R115). -/
def State.heldLongest (s : State) (core : Nat) (c : Context) : Bool :=
  (s.ctxsOn core).all (fun x => x.1 == 0 || x.2.slot != .issuing || decide (c.held ≤ x.2.held))

/-- Whether the S context of a core has neither a trap to handle nor supervisor work (R116). -/
def State.idleS (s : State) (core : Nat) : Bool := !(s.getCtx (ctxKey core 0)).cr.sstat.getLsbD 16 && !(s.getCore core).supWork

/-- Whether the dealer parks a context now: a U context for one of R115's reasons, the S context when it has nothing to do (R116). -/
def State.mayPark (s : State) (core slot : Nat) : Bool :=
  let c := s.getCtx (ctxKey core slot)
  c.slot == .issuing && !c.midway && c.plan.isNone &&
  if slot = 0 then s.idleS core else decide (4 ≤ s.held core) &&
  ((match c.wait with
    | some w => w.kind.parks && decide (w.since + 256 ≤ s.cycle) && !s.waitReady (ctxKey core slot) w && s.otherWork core
    | none => false) ||
   (decide (c.held + 16384 ≤ s.cycle) && s.otherWork core) ||
   ((s.getCtx (ctxKey core 0)).slot == .parkedReady && s.heldLongest core c))

/-- DEALER_PARK (R115, R116). -/
def execDealerPark (core slot : Nat) (s : State) : Host.Outcome State Fault Refusal :=
  let k := ctxKey core slot
  .next (if s.mayPark core slot then
      s.modCtx k (fun c => { c with slot := if slot = 0 || c.wait.isSome || c.stoppedOut then .parkedWaiting else .parkedReady })
    else s)

/-- The pause of a core's stealing is over: local work has turned up (R130). -/
def State.endPause (s : State) (core : Nat) : State := s.modCore core (fun c => { c with steal := { c.steal with paused := none } })

/-- DEALER_WAKE (R114, R127): into a free issuing position, lowest slot first. -/
def execDealerWake (core slot : Nat) (s : State) : Host.Outcome State Fault Refusal :=
  .next (if s.held core < 4 ∧ s.lowestReady core = some slot then
      (s.endPause core).modCtx (ctxKey core slot) (fun c => { c with slot := .waking (s.cycle + 64) })
    else s)

/-- Whether a waking context has woken (R114). -/
def State.awake (s : State) (c : Context) : Bool :=
  match c.slot with
  | .waking d => decide (d ≤ s.cycle)
  | _ => false

/-- WAKE_DONE (R114). -/
def execWakeDone (core slot : Nat) (s : State) : Host.Outcome State Fault Refusal :=
  let k := ctxKey core slot
  .next (if s.awake (s.getCtx k) then s.modCtx k (fun c => { c with slot := .issuing, held := s.cycle }) else s)

/-! ### Tasks -/

/-- Where new work may start on a core: the region that it serves, and a free slot with a free position and no parked context first. -/
def State.startPlace (s : State) (core : Nat) : Option (Nat × Region × Nat) :=
  if (s.getCore core).shut ∨ 4 ≤ s.held core ∨ (s.lowestReady core).isSome then none
  else match s.pick core with
    | none => none
    | some q => match s.getRegion? q with
      | none => none
      | some r => (s.freeSlot q r core).map (fun k => (q, r, k))

/-- TASK_START (R127, items 3 to 5). -/
def execTaskStart (core : Nat) (s : State) : Host.Outcome State Fault Refusal :=
  match s.startPlace core with
  | none => .next s
  | some (q, r, k) =>
    if !(s.candidates q core).isEmpty || (s.resumable q r core).isSome then .next s
    else match (s.getWork q core).nextTask with
      | none => .next s
      | some (t, w) => .next (((((s.endPause core).modWork q core (fun _ => w)).comeBack q).serve q core).startCtx q core k t.task t.caller)

/-- Why a region's saved contexts can resume nowhere, so that it ends: no core of the budget qualifies (R354), or the one that its barriers bind a
context to has been sealed (R341, R355). -/
def State.resumeFails (s : State) (r : Region) : Option Byte :=
  if !r.savedDue || r.fault.isSome then none
  else if (s.qualifying r).isEmpty then some cRESOURCE
  else if r.bound && r.saved.any (fun x => (s.getCore x.core).sealed.isSome) then some 0x10
  else none

/-- SAVED_CONTEXT_RESUME (R354, R355): the oldest saved context that may resume on the core, ahead of new tasks, of a co-resident region all of them at once (R121);
or the end of a region whose contexts can resume nowhere. -/
def execSavedContextResume (core : Nat) (s : State) : Host.Outcome State Fault Refusal :=
  match s.regions.find? (fun x => x.2.cores.contains core && (s.resumeFails x.2).isSome) with
  | some x => .next (s.endRegion x.1 ((s.resumeFails x.2).getD cRESOURCE))
  | none =>
    match s.startPlace core with
    | none => .next s
    | some (q, r, k) =>
      if !(s.candidates q core).isEmpty then .next s
      else match s.resumable q r core with
        | none => .next s
        | some x =>
          let t := (s.endPause core).comeBack q
          .next (if r.colive = 0 then (t.serve q core).resumeIn q core k r x else t.resumeAll q r)

/-- TAG_HOLD_RELEASE (R153, R180). -/
def execTagHoldRelease (core slot : Nat) (s : State) : Host.Outcome State Fault Refusal :=
  match (s.getCtx (ctxKey core slot)).slot with
  | .draining succ => .next (s.releaseSlot ((s.getCore core).serving.getD 0) core slot succ)
  | _ => .next s

/-! ### Stealing (R130) -/

/-- The region that an idle core steals for: the one in force while its contexts live, else the next in order that has the core; one that has
itself nothing under items 1 to 4 of R127 there (R130, R247), and that no eligible region keeps from the core: one of higher priority, or of the same where the region is
not in force (R122). For which of several such regions it steals first the spec does not say: the next by block address after the last pass, whatever the priorities
(DESIGN CHOICE, log 43). -/
def State.stealFor (s : State) (core : Nat) : Option (Nat × Region) :=
  let co := s.getCore core
  let barred (x y : Nat × Region) : Bool :=
    (x.1 == y.1 || decide (x.2.prio < y.2.prio) || (x.2.prio == y.2.prio && !s.inForce x.1 core)) && s.eligible y.1 core
  let fit (x : Nat × Region) : Bool := x.2.uses core && !s.stoppedWhole x.1 x.2 && !s.regions.any (barred x) &&
    decide (2 ≤ x.2.cores.length) && (s.freeSlot x.1 x.2 core).isSome && s.mayServe x.1 core
  let all := s.regions.filter fit
  match all.find? (fun x => decide (co.steal.rcb ≤ x.1)) with
  | some x => some x
  | none => all.head?

/-- The victim of probe k (R130): its number among the budget's cores. -/
def victim (n c seed k : Nat) : Nat :=
  let o := (k + seed % (n - 1)) % (n - 1) + 1
  (c + o) % n

/-- Whether a core has nothing to start: it may steal (R127, R130). -/
def State.mayProbe (s : State) (core : Nat) : Option (Nat × Region) :=
  let co := s.getCore core
  if co.shut ∨ co.steal.asked ∨ co.steal.paused.isSome ∨ 4 ≤ s.held core ∨ (s.lowestReady core).isSome ∨
      (s.pick core).isSome then none
  else s.stealFor core

/-- STEAL_PROBE (R130): one REQ packet to the next victim of the pass. -/
def execStealProbe (core : Nat) (s : State) : Host.Outcome State Fault Refusal :=
  match s.mayProbe core with
  | none => .next s
  | some (q, r) =>
    let co := s.getCore core
    let i := if co.steal.rcb = q then co.steal.index else 0
    let v := r.cores.getD (victim r.cores.length (r.cores.findIdx (· == core)) r.seed i) 0
    .next ((s.setCore core { co with steal := { rcb := q, index := i, asked := true, paused := none } }).push
      [{ net := .req, src := s.coreEp core, dst := s.coreEp v, rcb := q, body := .probe }])

/-- Whether a REQ packet waits behind one that a full sink of its core holds in the network (R132). -/
def State.reqBlocked (s : State) (p : Packet) : Bool :=
  match (s.getCore (epCore p.dst)).reqHeld with
  | none => false
  | some q => p != q && s.net.contains q

/-- STEAL_PROBE_RECEIVE (R130, R337): the old end of the deque, also of a sealed core. -/
def execStealProbeReceive (p : Packet) (s : State) : Host.Outcome State Fault Refusal :=
  let core := epCore p.dst
  let w := s.getWork p.rcb core
  let s1 := { s with net := s.net.erase p }
  .next (if s.reqBlocked p then s
    else (s1.modWork p.rcb core (fun w => { w with deque := w.deque.dropLast })).push
      [{ net := .rpl, src := p.dst, dst := p.src, rcb := p.rcb, body := .probeAnswer w.deque.getLast? }])

/-- STEAL_PROBE_ANSWER (R130): a task ends the pass; the last empty answer is followed by a pause of 1,024 cycles. An answer to a sealed core is
discarded (R337, step 3). -/
def execStealProbeAnswer (p : Packet) (s : State) : Host.Outcome State Fault Refusal :=
  let core := epCore p.dst
  let s1 := { s with net := s.net.erase p }
  let co := s1.getCore core
  let n := ((s.getRegion? p.rcb).map (fun r => r.cores.length)).getD 0
  if co.sealed.isSome then .next s1
  else match p.body with
  | .probeAnswer (some t) =>
    .next ((s1.setCore core { co with steal := { rcb := p.rcb, index := 0, asked := false, paused := none } }).modWork p.rcb core
      (fun w => { w with stolen := w.stolen ++ [t] }))
  | _ =>
    let i := co.steal.index + 1
    .next (s1.setCore core { co with steal :=
      if i + 1 < n then { co.steal with index := i, asked := false }
      else { rcb := p.rcb + 1, index := 0, asked := false, paused := some (s.cycle + 1024) } })

/-- Whether a pause of stealing ends: after its time, or with a new local candidate (R130). -/
def State.pauseOver (s : State) (core : Nat) : Bool :=
  match (s.getCore core).steal.paused with
  | none => false
  | some t => decide (t ≤ s.cycle) || (s.pick core).isSome

/-- STEAL_PAUSE_EXPIRY (R130). -/
def execStealPauseExpiry (core : Nat) (s : State) : Host.Outcome State Fault Refusal :=
  .next (if s.pauseOver core then s.endPause core else s)

/-! ### Firings (R150) -/

/-- The event taken out of the deck or the kitty. -/
def Work.takeEvent (w : Work) (e : Event) : Work :=
  { w with
    deck := w.deck.filter (fun f => f.cancel || !sameKey e f)
    kitty := w.kitty.filter (fun f => f.cancel || !sameKey e f)
    blocked := kdel w.blocked (evKey e) }

/-- A saggar record opened for an event (R155): its header in memory, NEWEST on it. RNGC and the actor's previous record are read once the space has been found,
which may have rolled back or reclaimed others (R143, R157); the answer is the record's address with RNGC. -/
def State.openRecord (s : State) (rcb core : Nat) (e : Event) (desc : Nat) (done : Bool) : Option ((Nat × Dword) × State) :=
  match s.obtain rcb core (evKey e) 0 128 (s.obtainFuel rcb core) with
  | none => none
  | some (off, s0) =>
    if s0.faulted rcb && !s.faulted rcb then some ((0, 0), s0) else
    let x := s0.dealerLoad rcb core (desc + 0x28) 8
    let y := x.2.dealerLoad rcb core (desc + 0x30) 8
    let rngc : Dword := BitVec.ofNat 64 x.1.1
    let newest := y.1.1
    let s1 := y.2
    let w := s1.getWork rcb core
    let a := w.ring.base + off
    let r : Record := { addr := a, event := e, desc := desc, rngc0 := rngc, aprev := newest, units := [], done := done, coll := false,
                        void := false }
    let chunks := w.ring.chunks.map (fun c => if c.rec_ = 0 then { c with rec_ := a } else c)
    let s2 := s1.modWork rcb core (fun w => { w with ring := { w.ring with chunks := chunks }, records := w.records ++ [r] })
    let s3 := s2.dealerStore rcb core a 64 (eventLine e).toNat e.poison
    let s4 := s3.dealerStore rcb core (a + 64) 64 (recordLine r).toNat false
    some ((a, rngc), s4.dealerStore rcb core (desc + 0x30) 8 a false)

/-- The context of a firing (R150, R151). Its accesses follow those of the event's sender (R191) and of the actor's earlier firings; a handler address
that cannot be fetched faults there (R145). -/
def State.startFiring (s : State) (rcb core slot : Nat) (e : Event) (rec_ desc : Nat) (handler rngk rngc : Dword) (base size : Nat) : State :=
  let args : BitVec 256 := BitVec.setWidth 64 e.src ++ e.time ++ BitVec.ofNat 64 base ++ BitVec.ofNat 64 (rec_ + 0x20)
  let lt := max e.lt (s.agentTime (actorAg (s.socOf rcb) e.dst))
  let s1 := s.startCtx rcb core slot { pc := handler, args := args, lt := lt } none
  let s2 := s1.modCtx (ctxKey core slot) (fun c => { c with
    pc := handler &&& ~~~3
    firing := some { event := e, record := rec_, desc := desc, base := base, size := size, filter := [] }
    cr := { c.cr with
      rngk := rngk
      rngc := rngc
      lvt := e.time
      akey := BitVec.setWidth 64 e.src
      astate := 0x8000_0000_0000_0000 ||| BitVec.ofNat 64 (e.hix.toNat * 2 ^ 32 + e.serial.toNat) } })
  if handler.extractLsb' 0 2 = 0 then s2
  else s2.takeTrap (ctxKey core slot) cALIGN handler (codeAddr handler) (pfxOf Group.reset)

/-- A firing of an event begun in a slot, or processed empty where its handler index has no handler (R150); none where an access of the dealer has ended the region
(R148). -/
def State.fire (s : State) (rcb core : Nat) (slot : Option Nat) (e : Event) (displaced : Bool) : State :=
  let d := s.actorDesc rcb core e.dst.toNat
  let h := d.2.handlerOf rcb core e
  let f := (h.2.readEvent rcb core e).readDwords rcb core d.1 8
  let empty := decide (h.1.2 ≤ e.hix.toNat)
  match f.2.openRecord rcb core e d.1 empty with
  | none => s
  | some ((a, rngc), s1) =>
    if s1.faulted rcb then s1 else
    let s2 := (s1.modWork rcb core (fun w => w.takeEvent e)).refill rcb core
    match empty, slot with
    | false, some k =>
      let s3 := ((s2.comeBack rcb).serve rcb core).modWork rcb core (fun w => { w with follow := if displaced then w.follow + 1 else 0 })
      s3.startFiring rcb core k e a d.1 h.1.1 (BitVec.ofNat 64 (f.1.getD 4 0)) rngc (f.1.getD 0 0) (f.1.getD 2 0 % 2 ^ 21)
    | _, _ => s2

/-- The running firing of the highest key on a core (R174). -/
def highestFiring : List (Nat × Nat) → Option (Nat × Nat)
  | [] => none
  | x :: xs => match highestFiring xs with
    | none => some x
    | some y => if x.2 ≤ y.2 then some y else some x

/-- FIRING_START (R127, R128, R150, R174). -/
def execFiringStart (core : Nat) (s : State) : Host.Outcome State Fault Refusal :=
  if (s.getCore core).shut then .next s
  else match s.pick core with
    | none => .next s
    | some q =>
      let s := s.endPause core
      match s.getRegion? q, s.choose q core with
      | some r, some (e, displaced) =>
        let h := s.handlerOf q core e
        if h.1.2 ≤ e.hix.toNat then .next (s.fire q core none e false)
        else if s.held core < 4 ∧ (s.lowestReady core).isSome then .next s
        else match (if s.held core < 4 then s.freeSlot q r core else none) with
          | some k => .next (s.fire q core (some k) e displaced)
          | none =>
            match lowestEvent (s.candidates q core), highestFiring (s.firingsOn core) with
            | some low, some (k, key) => .next (if evKey low < key then s.squash core k else s)
            | _, _ => .next s
      | _, _ => .next s

/-- FIRING_SQUASH (R160, R172): a firing that a yield is requested of is squashed at its boundary. -/
def execFiringSquash (core slot : Nat) (s : State) : Host.Outcome State Fault Refusal :=
  let c := s.getCtx (ctxKey core slot)
  .next (if c.live && c.firing.isSome && c.yieldReq.isSome && !c.midway then s.squash core slot else s)

end Sys2Proof.Machine
end

