-- ==== Sys2Proof/Machine/PacketSteps.lean ====
section
/-! DEFINITION. Packets that land, and the send queues (spec 06 R131 to R136; 08 R177, R184, R185, R201; 19 R337; 22 R385). -/

namespace Sys2Proof.Machine

/-- A packet taken out of the mesh. One that a full sink held opens its core's REQ input again (R132). -/
def State.takeOff (s : State) (p : Packet) : State :=
  let s1 := { s with net := s.net.erase p }
  if (s.getCore (epCore p.dst)).reqHeld = some p then s1.modCore (epCore p.dst) (fun c => { c with reqHeld := none }) else s1

/-- A full sink holds a REQ packet in the network (R131): it stops the core's whole REQ input (R132). -/
def State.holdReq (s : State) (p : Packet) : State := s.modCore (epCore p.dst) (fun c => { c with reqHeld := some p })

/-- A packet for another package (R385): what nothing has the number of is answered STALE; any other leaves on a link, or by the network cards for
the package that the gateway table gives. -/
def State.depart (s : State) (p : Packet) : State :=
  let s1 := s.takeOff p
  if s.noPackage (epPkg p.dst) then s1.push (errorFor 1 p)
  else if 128 ≤ epPkg p.dst then { s1 with outputs := s1.outputs ++ [.gateway (kgetD s.dom.gateway (epPkg p.dst - 128) 0) p] }
  else if s.dom.lost.contains (epPkg p.dst) then s1.push (errorFor 2 p)
  else
    let link := s1.dom.route (epCore p.src) (epCore p.dst)
    let sent := kgetD s1.dom.replay link [] ++ [p]
    let held := s1.dom.recovery.any (fun r => r.plane == link)
    { s1 with outputs := if held then s1.outputs else s1.outputs ++ [.packet p]
              dom := { s1.dom with replay := kset s1.dom.replay link sent } }

/-- The key of the context that a packet is addressed to. -/
def dstKey (p : Packet) : Nat := ctxKey (epCore p.dst) (epSlot p.dst)

/-- Whether a packet's endpoint names a live context (R134). -/
def State.reaches (s : State) (p : Packet) : Bool :=
  let c := s.getCtx (dstKey p)
  c.live && c.inc == epInc p.dst

/-- Whether the core that a packet is addressed to is sealed (R337). -/
def State.toSealed (s : State) (p : Packet) : Bool := (s.getCore (epCore p.dst)).sealed.isSome

/-- The answer of a sealed core to a REQ packet, sent after every store that its contexts have performed (R337, step 2). -/
def State.sealedErrors (s : State) (p : Packet) : List Packet :=
  (errorFor 2 p).map (fun q => { q with lt := s.agentTime (epCore p.dst) })

/-- The acknowledgement of a packet that landed (R133). -/
def ackOf (p : Packet) (rslot : BitVec 4) : Packet :=
  { net := .rpl, src := p.dst, dst := p.src, rcb := p.rcb, body := .ack rslot }

/-- A REQ packet for a context: it leaves, waits behind one that is held, is refused by a sealed core, is stale, or lands. -/
def State.landReq (s : State) (p : Packet) (land : State → State) : State :=
  if epPkg p.dst ≠ s.pkgNum then s.depart p
  else if s.reqBlocked p then s
  else if s.toSealed p then (s.takeOff p).push (s.sealedErrors p)
  else if !s.reaches p then (s.takeOff p).push (errorFor 1 p)
  else land s

/-- MESSAGE_ARRIVAL (R133, R135): a full inbox holds the packet in the network. -/
def execMessageArrival (p : Packet) (s : State) : Host.Outcome State Fault Refusal :=
  match p.body with
  | .message m0 =>
    let m := { m0 with lt := p.lt }
    .next (s.landReq p (fun s =>
      if (s.getCtx (dstKey p)).inbox.length ≥ 16 then s.holdReq p
      else
        let s1 := (s.takeOff p).modCtx (dstKey p) (fun c => { c with inbox := c.inbox ++ [m], latch := true })
        if m.hdr.getLsbD 45 then s1 else s1.push [ackOf p (m.hdr.extractLsb' 40 4)]))
  | _ => .next s

/-- The port of a context that a tag is bound to (R136). -/
def Context.portWith (c : Context) (tag : Byte) : Option (Nat × Port) :=
  (rangeFrom 0 4).findSome? (fun i => match vget c.ports i none with
    | none => none
    | some q => if q.tag = tag then some (i, q) else none)

/-- PORT_PACKET_ARRIVAL (R136). -/
def execPortPacketArrival (p : Packet) (s : State) : Host.Outcome State Fault Refusal :=
  match p.body with
  | .vector tag rs v pois =>
    .next (s.landReq p (fun s =>
      match (s.getCtx (dstKey p)).portWith tag with
      | none => (s.takeOff p).push (errorFor 3 p)
      | some (i, q) =>
        if q.fifo.length ≥ 4 then s.holdReq p
        else ((s.takeOff p).modCtx (dstKey p) (fun c => { c with
          ports := vset c.ports i (some { q with fifo := q.fifo ++ [(v, pois, p.lt)] }), latch := true })).push [ackOf p rs]))
  | _ => .next s

/-- CALLAT_TASK_ARRIVAL (R125): a full task queue holds the packet in the network. -/
def execCallatTaskArrival (p : Packet) (s : State) : Host.Outcome State Fault Refusal :=
  match p.body with
  | .task t tag rs =>
    let core := epCore p.dst
    .next (if epPkg p.dst ≠ s.pkgNum then s.depart p
      else if s.reqBlocked p then s
      else if s.toSealed p then (s.takeOff p).push (s.sealedErrors p)
      else if s.taskQueue core ≥ 64 then s.holdReq p
      else (s.takeOff p).modWork p.rcb core (fun w => { w with
        taskq := w.taskq ++ [{ task := { t with lt := p.lt }, caller := some { ep := p.src, tag := tag, rslot := rs } }] }))
  | _ => .next s

/-- The next number in the order of arrival of a context's answers (R187). -/
def Context.nextOrder (c : Context) : Nat :=
  c.landing.toList.foldl (fun (n : Nat) l => match l with
    | some { answer := some (o, _), .. } => max n (o + 1)
    | _ => n) 0

/-- Whether a context still awaits the answer to a packet that holds a landing slot of it (R133). -/
def Context.awaits (c : Context) (i : BitVec 4) : Bool :=
  match vget c.landing i.toNat none with
  | none => false
  | some l => l.answer.isNone

/-- The packet of a sender that a landing slot stood for is answered: it counts for its region no longer (R140). -/
def State.answered (s : State) (ep : BitVec 40) (i : BitVec 4) : State :=
  { s with regions := s.regions.map (fun x => (x.1, { x.2 with unacked := x.2.unacked.filter (fun u => u.1 != ep || u.2.1 != i) })) }

/-- An RPL packet for a landing slot of a context: it leaves, is discarded, or lands (R134, R337). -/
def State.landRpl (s : State) (p : Packet) (i : BitVec 4) (land : Context → Context) : State :=
  if epPkg p.dst ≠ s.pkgNum then s.depart p
  else if s.toSealed p || !s.reaches p then (s.takeOff p).answered p.dst i
  else
    let t := (s.takeOff p).modCtx (dstKey p) land
    if (t.getCtx (dstKey p)).awaits i then t else t.answered p.dst i

/-- The landing slot that an answer names (R184, R185). -/
def answerSlot (m : Message) : BitVec 4 := m.hdr.extractLsb' 40 4

/-- An answer put into a held landing slot: a reply only where one of its tag is awaited (R184, R185). -/
def Context.answer (c : Context) (m : Message) (isReply : Bool) : Context :=
  let i := (answerSlot m).toNat
  match vget c.landing i none with
  | none => c
  | some l =>
    if l.answer.isSome || l.tag != m.hdr.extractLsb' 48 8 || (isReply && !l.reply) then c
    else { c with landing := vset c.landing i (some { l with answer := some (c.nextOrder, m) }), latch := true }

/-- REPLY_ARRIVAL (R185). -/
def execReplyArrival (p : Packet) (s : State) : Host.Outcome State Fault Refusal :=
  match p.body with
  | .reply m => .next (s.landRpl p (answerSlot m) (fun c => c.answer { m with lt := p.lt } true))
  | _ => .next s

/-- A landing slot freed. -/
def Context.freeSlotAt (c : Context) (i : BitVec 4) : Context := { c with landing := vset c.landing i.toNat none }

/-- An in-flight entry of a core changed. -/
def Core.modFlight (c : Core) (id : Nat) (f : Flight → Flight) : Core :=
  { c with flight := c.flight.map (fun x => if x.id = id then f x else x) }

/-- ERROR_REPLY (R184, R339): it lands in the slot that waits; of a refused event the slot is freed and the in-flight entry kept. A sealed
core takes none (R337, step 3). -/
def execErrorReply (p : Packet) (s : State) : Host.Outcome State Fault Refusal :=
  match p.body with
  | .error m none => .next (s.landRpl p (answerSlot m) (fun c => c.answer { m with lt := p.lt } false))
  | .error _ (some (id, rs)) =>
    .next (if epPkg p.dst ≠ s.pkgNum then s.depart p
      else if s.toSealed p then s.takeOff p
      else
        let s1 := s.modCore (epCore p.dst) (fun co => co.modFlight id (fun f => { f with refused := some s.cycle }))
        match rs with
        | some l => if s1.reaches p then s1.landRpl p l (fun c => c.freeSlotAt l) else s1.takeOff p
        | none => s1.takeOff p)
  | _ => .next s

/-- ACK_ARRIVAL (R133): the landing slot is freed. -/
def execAckArrival (p : Packet) (s : State) : Host.Outcome State Fault Refusal :=
  match p.body with
  | .ack rs => .next (s.landRpl p rs (fun c => c.freeSlotAt rs))
  | _ => .next s

/-- SEND_QUEUE_DRAIN (R133): the oldest entry enters the mesh. -/
def execSendQueueDrain (core slot : Nat) (s : State) : Host.Outcome State Fault Refusal :=
  let k := ctxKey core slot
  match (s.getCtx k).sendq with
  | [] => .next s
  | p :: ps => .next ((s.modCtx k (fun c => { c with sendq := ps })).push [p])

/-- Whether a stalled send of a context has reached SQLIM (R133, R177). -/
def State.stallOver (s : State) (c : Context) (core : Nat) : Option (Wait × BitVec 40) :=
  match c.wait with
  | some w =>
    match w.kind with
    | .send flight ep =>
      let room := decide (c.sendq.length < 16) && c.freeLanding.isSome &&
        (!flight || decide ((s.getCore core).flight.length < flightMax))
      if !room && decide (c.cr.sqlim.toNat ≤ s.cycle - w.since + 1) then some (w, ep) else none
    | _ => none
  | none => none

/-- SEND_STALL_TIMEOUT (R177): SQFULL is taken at the sending group, once every earlier instruction of its context has retired (R19). -/
def execSendStallTimeout (core slot : Nat) (s : State) : Host.Outcome State Fault Refusal :=
  let k := ctxKey core slot
  let c := s.getCtx k
  match (if c.live && !c.inTrap && c.trapped.isNone && !s.unitsOwed core slot then s.stallOver c core else none) with
  | none => .next s
  | some (w, ep) => .next (s.takeTrap k cSQFULL (BitVec.setWidth 64 ep) w.grp.first (pfxOf w.grp))

/-- CHRED_PARTIAL_ARRIVAL (R201): the waiting member combines and forwards. -/
def execChredPartialArrival (core slot : Nat) (s : State) : Host.Outcome State Fault Refusal :=
  let k := ctxKey core slot
  match (s.getCtx k).wait with
  | some w =>
    match w.kind with
    | .chain n d own pois ph ch =>
      if s.waitReady k w then finish (chainTake n d own pois ph ch) { s with cur := k, grp := w.grp } else .next s
    | _ => .next s
  | none => .next s

/-- LT_TICK (R221): every 16 cycles the logical time of each context advances. -/
def execLtTick (s : State) : Host.Outcome State Fault Refusal :=
  let n := (s.cycle - s.ltCycle) / 16
  .next { s with ltCycle := s.ltCycle + 16 * n, ctxs := s.ctxs.map (fun x => (x.1, if x.2.live then { x.2 with lt := x.2.lt + n } else x.2)) }

end Sys2Proof.Machine
end

