-- ==== Sys2Proof/Machine/EventSteps.lean ====
section
/-! DEFINITION. Events that arrive, kiln sweeps and fossil collection (spec 07 R149, R158 to R169; 08 R191; 09 R202; 19 R339; 22 R399). -/

namespace Sys2Proof.Machine

/-! ### Arrivals -/

/-- The acknowledgement of an event (R149). -/
def eventAckOf (p : Packet) (rs : Option (BitVec 4)) (id : Nat) : Packet :=
  { net := .rpl, src := p.dst, dst := p.src, rcb := p.rcb, body := .eventAck rs id }

/-- The actor's last processed key (R158). -/
def State.lastKey (s : State) (soc : Nat) (actor : BitVec 48) : Option Nat := ((s.chain soc actor).head?).map (fun x => evKey x.2.2.event)

/-- Whether a pending cancel of an event is held on a core (R161). -/
def Work.cancels (w : Work) (e : Event) : Bool := (w.deck ++ w.kitty).any (fun f => f.cancel && sameKey e f)

/-- The region of a society whose work on a core meets a condition: the dealer has one deck and one kitty for each of its regions there (R148, R161). -/
def State.holder (s : State) (soc core : Nat) (p : Work → Bool) : Option Nat := (s.regionsOf soc).find? (fun q => p (s.getWork q core))

/-- An event filed by its home's dealer: it meets its cancel, which any region of the society may hold there, or it is inserted, a straggler after a rollback (R149,
R158, R159, R161). -/
def State.arriveEvent (s : State) (rcb core : Nat) (e : Event) : State :=
  match s.holder (s.socOf rcb) core (fun w => w.cancels e) with
  | some q => s.fileEvent q core e
  | none =>
    let s1 := match s.lastKey (s.socOf rcb) e.dst with
      | none => s
      | some k => if evKey e < k then s.rollback rcb core e.dst (evKey e + 1) else s
    (s1.insertEvent rcb core e).refill rcb core

/-- An event removed from a core's deck and kitty. -/
def Work.dropEvent (w : Work) (e : Event) : Work :=
  { w with
    deck := w.deck.filter (fun f => f.cancel || !sameKey e f)
    kitty := w.kitty.filter (fun f => f.cancel || !sameKey e f) }

/-- Whether an event is pending on a core. -/
def Work.pends (w : Work) (e : Event) : Bool := (w.deck ++ w.kitty).any (fun f => !f.cancel && sameKey e f)

/-- An event that is pending on a core, with whichever region of its society, removed. -/
def State.dropPending (s : State) (soc core : Nat) (e : Event) : State :=
  match s.holder soc core (fun w => w.pends e) with
  | none => s
  | some q => (s.modWork q core (fun w => w.dropEvent e)).refill q core

/-- A cancelling event filed (R161): its event vanishes, is rolled back and vanishes, or has not come yet. -/
def State.arriveCancel (s : State) (rcb core : Nat) (e : Event) : State :=
  let soc := s.socOf rcb
  if (s.holder soc core (fun w => w.pends e)).isSome then s.dropPending soc core e
  else if (s.chain soc e.dst).any (fun x => evKey x.2.2.event == evKey e) then (s.rollback rcb core e.dst (evKey e)).dropPending soc core e
  else s.insertEvent rcb core e

/-- A society changed, if it exists. -/
def State.modSoc (s : State) (soc : Nat) (f : Society → Society) : State :=
  match kget s.socs soc with
  | none => s
  | some so => { s with socs := kset s.socs soc (f so) }

/-- Whether the first push of a society lies before the start of the sweep under way, or of the next one, so that an earlier push changes nothing. -/
def Society.pushedBefore (so : Society) : Bool :=
  match so.pushed with
  | none => false
  | some t => match so.sweep with
    | some w => w.holds && decide (t < so.next)
    | none => decide (t < so.next)

/-- A society has an event that another package pushed. When that push was is not known here: before the sweep under way started, which then publishes unless the
plane that combines it has failed (R399), or after it, as a free value has it; it may be earlier than the first push of this package (R202, log 35). -/
def State.pushedElsewhere (s : State) (soc : Nat) : State :=
  match kget s.socs soc with
  | none => s
  | some so =>
    if so.pushedBefore then s
    else
      let t : State := { s with fresh := s.fresh + 1 }
      if Config.choose s.fresh % 2 = 0 then
        t.modSoc soc (fun so => { so with pushed := some 0, sweep := so.sweep.map (fun w => { w with publishes := !w.lost, holds := true }) })
      else t.modSoc soc (fun so => { so with pushed := some (min (so.pushed.getD (s.clock so.scope)) (s.clock so.scope)) })

/-- An event or cancelling event that reaches a core: refused by a sealed one, forwarded to the actor's home, or filed and acknowledged
(R149, R191, R337). -/
def State.landEvent (s : State) (p : Packet) (e : Event) (rs : Option (BitVec 4)) (id : Nat) (file : State → Nat → Nat → Event → State) :
    State :=
  let core := epCore p.dst
  if epPkg p.dst ≠ s.pkgNum then s.depart p
  else if s.reqBlocked p then s
  else if s.toSealed p then (s.takeOff p).push (s.sealedErrors p)
  else
    let q := s.hostRegion p.rcb core
    let h := (s.takeOff p).homeNow q core e.dst.toNat
    if h.1 = (s.pkgNum, core) then
      (file (if epPkg p.src = s.pkgNum then h.2 else h.2.pushedElsewhere (s.socOf q)) q core e).push [eventAckOf p rs id]
    else h.2.push [{ p with dst := corePt h.1.1 h.1.2 }]

/-- EVENT_ARRIVAL (R149). -/
def execEventArrival (p : Packet) (s : State) : Host.Outcome State Fault Refusal :=
  match p.body with
  | .event e rs id => .next (if e.cancel then s else s.landEvent p e rs id State.arriveEvent)
  | _ => .next s

/-- CANCEL_ARRIVAL (R161). -/
def execCancelArrival (p : Packet) (s : State) : Host.Outcome State Fault Refusal :=
  match p.body with
  | .event e rs id => .next (if e.cancel then s.landEvent p e rs id State.arriveCancel else s)
  | _ => .next s

/-- IN_FLIGHT_ACK (R164, R337): the entry is marked, also of a sealed core, and the landing slot is freed. -/
def execInFlightAck (p : Packet) (s : State) : Host.Outcome State Fault Refusal :=
  match p.body with
  | .eventAck rs id =>
    let core := epCore p.dst
    .next (if epPkg p.dst ≠ s.pkgNum then s.depart p
      else
        let mark (f : Flight) : Flight :=
          let now := s.clock (((kget s.socs f.soc).map Society.scope).getD .package)
          { f with acked := some now, refused := none }
        let s1 := (s.takeOff p).modCore core (fun co => co.modFlight id mark)
        match rs with
        | some r => if s1.reaches p && (s1.getCore core).sealed.isNone then s1.modCtx (dstKey p) (fun c => c.freeSlotAt r) else s1
        | none => s1)
  | _ => .next s

/-- A refused event sent again to the home that the descriptor names (R339). -/
def State.resend (s : State) (core : Nat) (f : Flight) : State :=
  let q := s.hostRegion f.rcb core
  let h := s.homeNow q core f.event.dst.toNat
  let dst := corePt h.1.1 h.1.2
  (h.2.modCore core (fun co => co.modFlight f.id (fun x => { x with src := s.coreEp core, dst := dst, rslot := none, refused := none }))).push
    [{ net := .req, src := s.coreEp core, dst := dst, rcb := f.rcb, lt := f.event.lt, body := .event f.event none f.id }]

/-- Whether a refused event is due to be sent again (R339). -/
def State.resendDue (s : State) (f : Flight) : Bool :=
  match f.refused with
  | none => false
  | some t => decide (t + 4096 ≤ s.cycle)

/-- SEALED_EVENT_RESEND (R339). -/
def execSealedEventResend (core flight : Nat) (s : State) : Host.Outcome State Fault Refusal :=
  match (s.getCore core).flight.find? (fun f => f.id == flight) with
  | none => .next s
  | some f => .next (if s.resendDue f then s.resend core f else s)

/-- HOME_CACHE_INVALIDATE (R196, R339): the line is dropped, and refused events of the actor are sent again. -/
def execHomeCacheInvalidate (p : Packet) (s : State) : Host.Outcome State Fault Refusal :=
  match p.body with
  | .homeInvalidate a =>
    let core := epCore p.dst
    let soc := s.socOf p.rcb
    let s1 := (s.takeOff p).modCore core (fun c => { c with homes := kdel c.homes (homeKey soc a.toNat) })
    let due := (s1.getCore core).flight.filter (fun f => f.event.dst == a && f.refused.isSome)
    .next (due.foldl (fun t f => t.resend core f) s1)
  | _ => .next s

/-! ### Sweeps (R163 to R167, R202, R399) -/

/-- The period of a scope's sweeps, the delay of its samples, and that of its publication (R165, R399). -/
def sweepPeriod : SweepScope → Nat
  | .die => 1024 | .package => 4096 | .domain => 65536 | .system => 1250000
def sweepDelay : SweepScope → Nat
  | .die => 0 | .package => 0 | .domain => 512 | .system => 16384
def sweepPublish : SweepScope → Nat
  | .die => 96 | .package => 512 | .domain => 4096 | .system => 250000

/-- The cores that serve a society: those of its regions' budgets. -/
def State.coresOf (s : State) (soc : Nat) : List Nat :=
  ((s.regions.filter (fun x => x.2.soc == soc)).flatMap (fun x => x.2.cores)).eraseDups

/-- The cores that a sweep of a society has to sample: those that serve it, and those on which something of it is left, an entry of an event that they have sent or a walk, after
their regions have ended (R163 to R165). Any other core of its scope has a floor of all ones, which changes no minimum. -/
def State.sampleCores (s : State) (soc : Nat) : List Nat :=
  (s.coresOf soc ++ (s.cores.filter (fun x => x.2.flight.any (fun f => f.soc == soc) || x.2.undo.any (fun u => s.socOf? u.rcb == some soc))).map
    (fun x => x.1)).eraseDups

/-- Whether a sweep of a society starts now (R165). -/
def State.sweepDue (s : State) (so : Society) : Bool := so.sweep.isNone && decide (so.next ≤ s.clock so.scope)

/-- SWEEP_START (R165, R202): a sweep that starts no later than the society's first push publishes nothing. -/
def execSweepStart (soc : Nat) (s : State) : Host.Outcome State Fault Refusal :=
  match kget s.socs soc with
  | none => .next s
  | some so =>
    if s.sweepDue so then
      let publishes := (match so.pushed with | none => false | some t => decide (t < so.next))
      let period := sweepPeriod so.scope
      .next (s.modSoc soc (fun so => { so with
        sweep := some { scope := so.scope, start := so.next, publishes := publishes, holds := publishes, lost := false, samples := [] }
        next := (s.clock so.scope / period + 1) * period
        other := none }))
    else .next s

/-- The least of a list of times, or all ones (R163). -/
def leastTime (ts : List Nat) : Dword := BitVec.ofNat 64 ((least ts).getD (2 ^ 64 - 1))

/-- The times of the walks for a society that the dealer of a core has not ended: that which each is made for, and those of the cancelling events still to be sent. -/
def State.walkTimes (s : State) (soc core : Nat) : List Nat :=
  ((s.getCore core).undo.filter (fun u => s.socOf u.rcb == soc)).flatMap (fun u =>
    u.time :: (match u.unit_ with | .sent t _ _ => [t.toNat] | _ => []))

/-- A core's local floor for a society at a sweep that started at an instant (R163, R164, R337); for a sealed core that has been adopted, what its adopter's dealer
has still to do counts too, as that core need not be one of the society (R340). -/
def State.localFloor (s : State) (soc core start : Nat) : Dword :=
  let co := s.getCore core
  let unacked (n : Nat) : List Nat :=
    ((s.getCore n).flight.filter (fun f => f.soc == soc && (match f.acked with | none => true | some t => decide (start ≤ t)))).map
      (fun f => f.event.time.toNat)
  let flying := unacked core
  match co.sealed with
  | some x =>
    let all := match x.adopter with
      | none => flying
      | some d => flying ++ unacked d ++ s.walkTimes soc d
    if x.released then leastTime all else leastTime ((kgetD x.kiln soc 0).toNat :: all)
  | none =>
    let pending := (s.regions.filter (fun r => r.2.soc == soc)).flatMap (fun r =>
      let w := s.getWork r.1 core
      (w.deck ++ w.kitty).map (fun e => e.time.toNat))
    let firing := (s.slotsOf core).filterMap (fun k =>
      let c := s.getCtx (ctxKey core k)
      if s.socOf? c.rgn = some soc then c.firing.map (fun f => f.event.time.toNat) else none)
    leastTime (pending ++ firing ++ s.walkTimes soc core ++ flying)

/-- Whether a core has still to sample for a sweep whose wave may have reached it (R165, R399). -/
def State.sampleDue (s : State) (so : Society) (core : Nat) : Bool :=
  match so.sweep with
  | none => false
  | some w => (kget w.samples core).isNone && decide (w.start + sweepDelay w.scope ≤ s.clock w.scope)

/-- SWEEP_SAMPLE (R163 to R165): the floor is sampled, and entries acknowledged before the start are freed. -/
def execSweepSample (soc core : Nat) (s : State) : Host.Outcome State Fault Refusal :=
  match kget s.socs soc with
  | none => .next s
  | some so =>
    match so.sweep with
    | none => .next s
    | some w =>
      if s.sampleDue so core && (s.sampleCores soc).contains core then
        let v := s.localFloor soc core w.start
        let s1 := s.modSoc soc (fun so => { so with sweep := some { w with samples := kset w.samples core v } })
        .next (s1.modCore core (fun c => { c with flight := c.flight.filter (fun f =>
          !(f.soc == soc && (match f.acked with | none => false | some t => decide (t < w.start)))) }))
      else .next s

/-! ### Kiln times (R166, R168) -/

/-- The collection that a kiln time brings to a core (R168): by its own dealer, of all the saggars that it keeps; of a sealed core by the dealer that has adopted its saggar,
which does it with its own where it serves the society itself (R340). -/
def State.collectAt (s : State) (soc : Nat) (k : Dword) (core : Nat) : State :=
  match (s.getCore core).sealed with
  | none => s.fossil soc core (s.saggarsOf core) k
  | some q => match q.adopter with
    | none => s
    | some d => if (s.coresOf soc).contains d then s else s.fossil soc d [core] k

/-- A kiln time that reaches a core (R166, R168): fossils first, then KILN and the event latches of the society's contexts, the S context while its
REGION is of the society (R93, R415). The latches are set at every publication, also where the value stays as it was (DESIGN CHOICE, log 49: R93
speaks of a new kiln value). -/
def State.kilnAt (s : State) (soc : Nat) (k : Dword) (core : Nat) : State :=
  let s1 := s.collectAt soc k core
  let s2 := s1.modCore core (fun c => { c with kilns := kset c.kilns soc (if (c.kiln soc).ult k then k else c.kiln soc) })
  (s2.ctxsOn core).foldl (fun (t : State) x => t.modCtx (ctxKey core x.1) (fun c =>
    if s.socOf? c.rgn = some soc && c.live then { c with latch := true } else c)) s2

/-- Whether a sweep waits for the least floor of the other packages of the domain, or of the other domains (R399). -/
def State.awaitsOthers (s : State) (so : Society) : Bool :=
  so.other.isNone &&
  match so.scope with
  | .die => false
  | .package => false
  | .domain => decide (1 < s.dom.members.length)
  | .system => decide (1 < s.dom.members.length) || decide (1 < s.dom.ndoms)

/-- Whether a sweep publishes now: its time has come, and every core and the rest of the scope have sampled (R165, R399). -/
def State.publishDue (s : State) (soc : Nat) (so : Society) : Bool :=
  match so.sweep with
  | none => false
  | some w => w.publishes && decide (w.start + sweepPublish w.scope ≤ s.clock w.scope) &&
      (s.sampleCores soc).all (fun c => (kget w.samples c).isSome) && !s.awaitsOthers so

/-- KILN_PUBLISH (R165, R166): the society's value is published; it reaches each of the cores in a step of its own, as nothing orders the deferred writes of one with
those of another (R168, R169). -/
def execKilnPublish (soc : Nat) (s : State) : Host.Outcome State Fault Refusal :=
  match kget s.socs soc with
  | none => .next s
  | some so =>
    match so.sweep with
    | none => .next s
    | some w =>
      if s.publishDue soc so then
        let m := leastTime (w.samples.map (fun x => x.2.toNat) ++ (so.other.map BitVec.toNat).toList)
        let k := if so.kiln.ult m then m else so.kiln
        .next (s.modSoc soc (fun so => { so with sweep := none, kiln := k, arriving := so.arriving ++ (s.coresOf soc).map (fun c => (c, k)) }))
      else .next s

/-- The oldest published value of a society that has still to reach a core reaches it. -/
def State.kilnArrives (s : State) (soc core : Nat) : State :=
  match ((kget s.socs soc).map Society.arriving).getD [] |>.find? (fun x => x.1 == core) with
  | none => s
  | some x => (s.modSoc soc (fun so => { so with arriving := so.arriving.erase x })).kilnAt soc x.2 core

/-- Whether the instant at which a sweep that publishes nothing would have published has come (R167). -/
def State.unpublishedDue (s : State) (w : Sweep) : Bool := !w.publishes && decide (w.start + sweepPublish w.scope ≤ s.clock w.scope)

/-- UNPUBLISHED_SWEEP_INSTANT (R167, R202): the instant at which a sweep that publishes nothing would have published. -/
def execUnpublishedSweepInstant (soc : Nat) (s : State) : Host.Outcome State Fault Refusal :=
  match kget s.socs soc with
  | none => .next s
  | some so =>
    match so.sweep with
    | none => .next s
    | some w =>
      .next (if s.unpublishedDue w then
          s.modSoc soc (fun so => { so with sweep := none })
        else s)

end Sys2Proof.Machine
end

