-- ==== Sys2Proof/Machine/Regions.lean ====
section
/-! DEFINITION. The end of a region (spec 06 R140; 19 R343, R344; 21 R372). -/

namespace Sys2Proof.Machine

/-! ### Region blocks -/

/-- The space in which the front core reads and writes for an owner: physical addresses for the outside host (R119, R366, R369). -/
def State.ownerSpace (s : State) (owner : Dword) : Space :=
  if owner = 0 then { ptroot := 0, asid := 0, super := true, physical := true }
  else kgetD s.owners owner.toNat { ptroot := 0, asid := 0, super := false, physical := false }

/-- The status dword of a region block (R118). -/
def statusWord (done : Bool) (reason : Option Byte) : Nat :=
  (if done then 1 else 0) + (match reason with | none => 0 | some r => 2 + 256 * r.toNat)

/-- A status dword with DONE, FAULT and REASON replaced; its reserved bits stay (R118). -/
def statusOver (old new : Nat) : Nat := old / 2 ^ 16 * 2 ^ 16 + old / 4 % 2 ^ 6 * 4 + new

/-- The status written in a region's own block (R119, R371). -/
def State.putStatus (s : State) (sp : Space) (rcb : Nat) (done : Bool) (reason : Option Byte) : State :=
  let a := BitVec.ofNat 64 (rcb + 0x68)
  let x := s.frontLoad sp a 8
  let old := match x.1 with | .ok v => v.1 | .error _ => 0
  (x.2.frontStore sp a 8 (statusOver old (statusWord done reason)) false).2

/-! ### What a region still has -/

/-- The slots of a region's cores whose context lives in it. -/
def State.liveIn (s : State) (rcb : Nat) : List Nat :=
  (s.ctxs.filter (fun x => x.1 % 64 != 0 && x.2.live && x.2.rgn == rcb)).map (fun x => x.1)

/-- Whether a slot of a core that serves a region is held for the tags of a context that has ended (R153). -/
def State.drainingIn (s : State) (rcb : Nat) : Bool :=
  s.ctxs.any (fun x => (match x.2.slot with | .draining _ => true | _ => false) && (s.getCore (x.1 / 64)).serving == some rcb)

end Sys2Proof.Machine

namespace Sys2Proof

/-- Whether a packet keeps its region from being done: one that carries a message, a task or an event, or their answers (R140). -/
def Packet.counts (p : Packet) : Bool :=
  match p.body with
  | .probe => false
  | .probeAnswer t => t.isSome
  | .homeInvalidate _ => false
  | .sealNotice _ => false
  | _ => true

end Sys2Proof

namespace Sys2Proof.Machine

/-- Whether what a region has on a core is all done: no task, no event, and every record collected (R140, R168). -/
def Work.idle (w : Work) : Bool :=
  w.deque.isEmpty && w.taskq.isEmpty && w.stolen.isEmpty && w.deck.isEmpty && w.kitty.isEmpty &&
  w.records.all (fun r => r.void || r.coll)

/-- Whether the conditions of R140 hold for a region, its child regions counted as its own. A packet that has been acknowledged, and lies in the inbox or at a port of a context of
another region or of an S context, does not count, and of the regions below it only its running children do (DESIGN CHOICE, log 22: R140 does not say, of either). -/
def State.quietRegion (s : State) (rcb : Nat) (r : Region) : Bool :=
  (s.liveIn rcb).isEmpty && !s.drainingIn rcb && r.work.all (fun x => x.2.idle) && r.saved.isEmpty &&
  s.net.all (fun p => p.rcb != rcb || !p.counts) && r.unacked.isEmpty &&
  s.cores.all (fun x => x.2.flight.all (fun f => f.rcb != rcb || f.acked.isSome) && x.2.undo.all (fun u => u.rcb != rcb)) &&
  s.regions.all (fun x => x.2.parent != rcb % 2 ^ 64 || x.2.owner != r.owner || !x.2.running)

/-! ### The end -/

/-- Whether the matrix unit and the sum-product engine have retired what a region's tasks gave them, and none of those has an instruction to complete that has done a part of
its work: the end of a region, which stops its tasks at once, takes a context only after that (R25, R41, R283, R344, R413). -/
def State.tasksSettled (s : State) (rcb : Nat) : Bool :=
  (s.liveIn rcb).all (fun k =>
    let co := s.getCore (k / 64)
    let c := s.getCtx k
    c.firing.isSome || (co.matq.all (fun j => j.slot != k % 64) && co.spq.all (fun j => j.slot != k % 64) && !s.completes k c))

/-- Another region of a region's society that goes on, one that has a core where one is named. -/
def State.heir (s : State) (rcb : Nat) (core : Option Nat) : Option Nat :=
  (s.regionsOf (s.socOf rcb)).find? (fun q => q != rcb && (s.getRegion? q).any (fun r =>
    r.running && r.fault.isNone && core.all r.cores.contains))

/-- What becomes of a packet of a region that is stopped: an event or a cancel that it has sent to another region of its society, or to another package, is on its way still,
and so is the acknowledgement of one; whatever else it has in the mesh is discarded (R344). -/
def State.leftPacket (s : State) (rcb : Nat) (p : Packet) : Option Packet :=
  if p.rcb != rcb || !p.counts then some p
  else match p.body with
    | .event .. => (s.heir rcb (if epPkg p.dst = s.pkgNum then some (epCore p.dst) else none)).map (fun q => { p with rcb := q })
    | .eventAck .. => (s.heir rcb none).map (fun q => { p with rcb := q })
    | _ => none

/-- Whether a packet carries the event of an entry of a core's in-flight table. -/
def carries (core : Nat) (f : Flight) (p : Packet) : Bool :=
  match p.body with
  | .event _ _ id => epCore p.src == core && p.src == f.src && id == f.id
  | _ => false

/-- What becomes of an in-flight entry of a region that is stopped, of a core, with the packets that are left and those that were: that of an event which has arrived, or is on
its way still, stands until a sweep that starts after its acknowledgement (R164); that of one which is discarded or has been refused goes. -/
def State.leftFlight (s : State) (rcb core : Nat) (was left : List Packet) (f : Flight) : Option Flight :=
  if f.rcb != rcb then some f
  else if f.refused.isSome then none
  else if was.any (carries core f) && !left.any (carries core f) then none
  else (s.heir rcb none).map (fun q => { f with rcb := q })

/-- Whatever a region still runs stopped at once: firings squashed, contexts ended and not saved, its tasks, packets and events discarded
(R344). What it has sent to the other regions of its society stays theirs. -/
def State.clearRegion (s : State) (rcb : Nat) : State :=
  let s0 := (s.liveIn rcb).foldl (fun (t : State) k =>
    if (t.getCtx k).firing.isSome then t.squash (k / 64) (k % 64)
    else ((t.modCtx k (fun c => { c with sendq := [] })).endCtx k).releaseSlot rcb (k / 64) (k % 64) none) s
  let s1 := s0.cores.foldl (fun (t : State) x => t.undoAll rcb x.1) s0
  let s2 := s1.modRegion rcb (fun r => { r with work := [], saved := [] })
  let left := s2.net.filterMap (s2.leftPacket rcb)
  let was := s2.net ++ (s.liveIn rcb).flatMap (fun k => (s.getCtx k).sendq)
  { s2 with
    net := left
    cores := s2.cores.map (fun x => (x.1, { x.2 with flight := x.2.flight.filterMap (s2.leftFlight rcb x.1 was left) })) }

/-- A society forgotten when no region of it is left: its kiln values, homes and in-flight entries (R166). -/
def State.dropSociety (s : State) (soc : Nat) : State :=
  if s.regions.any (fun x => x.2.soc == soc) then s
  else
    { s with
      socs := kdel s.socs soc
      cores := s.cores.map (fun x => (x.1, { x.2 with
        kilns := kdel x.2.kilns soc
        homes := x.2.homes.filter (fun h => decide (h.1 / 2 ^ 48 ≠ soc))
        flight := x.2.flight.filter (fun f => f.soc != soc) })) }

/-- The other running regions of a fault domain stopped (R344). -/
def State.stopDomain (s : State) (rcb : Nat) (r : Region) : State :=
  if r.fdom = 0 then s
  else (s.regions.filter (fun x => x.1 != rcb && x.2.running && x.2.fdom == r.fdom && x.2.owner == r.owner)).foldl
    (fun (t : State) (x : Nat × Region) => t.endRegion x.1 0x15) s

/-- The writes of a region's commands that wait for their places take them (R376). -/
def State.placeRegion (s : State) (rcb : Nat) : State := s.placeThose (fun e => e.rcb == rcb)

/-- The logical time of a region that is past every access of it. -/
def State.regionTime (s : State) (rcb : Nat) : Nat := ((s.getRegion? rcb).map Region.lt).getD 0

/-- A region reported done: its status written after every access of the region and of its commands (R371, R376), its cores and slots given back, its fault domain stopped if it
ended with a fault. -/
def State.finishRegion (s : State) (rcb : Nat) (r : Region) (reason : Option Byte) : State :=
  let s0 := s.placeRegion rcb
  let s1 := (s0.raiseAgent agFront (s0.regionTime rcb)).putStatus (s.ownerSpace r.owner) rcb true reason
  let s2 := if reason.isSome then s1.stopDomain rcb r else s1
  let s3 := { s2 with
    regions := kdel s2.regions rcb
    cores := s2.cores.map (fun (x : Nat × Core) => (x.1, if x.2.serving = some rcb then { x.2 with serving := none } else x.2))
    queues := s2.queues.map (fun (x : Nat × Queue) => (x.1, { x.2 with launched := x.2.launched.filter (· != rcb) })) }
  s3.dropSociety r.soc

/-- The reason of a region whose contexts ended with CHKINT bits set (R343). -/
def statusReason (st : BitVec 2) : Option Byte :=
  if st = 0 then none else if st.getLsbD 0 then some 0x0F else some 0x11

/-- Whether a region is to be reported done, or to be cleared for its end, now: not while a lost plane keeps a write of its commands from its place (R396). -/
def State.endDue (s : State) (rcb : Nat) (r : Region) : Bool :=
  r.running && !s.early.any (fun e => e.rcb == rcb && s.heldUp e.line true) && match r.fault with
  | some _ => (r.stopping && s.tasksSettled rcb) || ((s.liveIn rcb).isEmpty && !s.drainingIn rcb)
  | none => s.quietRegion rcb r

/-- REGION_DONE_REPORT (R140, R343, R344): a region that ends with a fault is cleared first, and reported once nothing of it is left. -/
def execRegionDoneReport (rcb : Nat) (s : State) : Host.Outcome State Fault Refusal :=
  match s.getRegion? rcb with
  | none => .next s
  | some r =>
    if !s.endDue rcb r then .next s
    else match r.fault with
      | none => .next (s.finishRegion rcb r (statusReason r.status))
      | some f =>
        let s1 := s.clearRegion rcb
        .next (if s1.drainingIn rcb then s1 else s1.finishRegion rcb r (some f))

/-- REGION_STOP (R372): the owner or the resident kernel stops a running region, which yields its contexts. -/
def execRegionStop (rcb : Nat) (s : State) : Host.Outcome State Fault Refusal :=
  match s.getRegion? rcb with
  | none => .next s
  | some r =>
    if !r.running then .next s
    else
      let s1 := s.modRegion rcb (fun r => { r with fault := some (r.fault.getD 0x12) })
      .next (r.cores.foldl (fun (t : State) c => t.requestYield rcb c) s1)

end Sys2Proof.Machine
end

