-- ==== Sys2Proof/Machine/Queues.lean ====
section
/-! DEFINITION. Command queues (spec 21 R364 to R369, R373 to R378): packets, levels, held lines and what ends a packet. -/

namespace Sys2Proof.Machine

/-! ### Packets (R367, R368) -/

/-- A packet: its header fields with the reserved ones, and dwords 1 to 3. -/
structure Pkt where
  opc : Nat
  len : Nat
  sub : Nat
  rsv : Nat
  arg : Nat
  d1  : Dword
  d2  : Dword
  d3  : Dword
  deriving DecidableEq, Repr

/-- A packet out of the number that its first 16 bytes make and that of the next 16. -/
def Pkt.of (a b : Nat) : Pkt :=
  { opc := a % 256, len := a / 2 ^ 8 % 256, sub := a / 2 ^ 16 % 256, rsv := a / 2 ^ 24 % 256, arg := a / 2 ^ 32 % 2 ^ 32,
    d1 := BitVec.ofNat 64 (a / 2 ^ 64), d2 := BitVec.ofNat 64 b, d3 := BitVec.ofNat 64 (b / 2 ^ 64) }

/-- Whether a LEN is the table's for an opcode (R368). -/
def Pkt.lenOk (p : Pkt) : Bool :=
  match p.opc with
  | 0 => decide (1 ≤ p.len)
  | 3 => p.len == 2
  | 5 => p.len == 2
  | 6 => p.len == 2
  | 7 => p.len == 2
  | _ => p.len == 1

/-- Whether a reserved field is not zero, or a CMP, SUB or ARG is out of range (R368, R369). -/
def Pkt.fieldsBad (p : Pkt) : Bool :=
  let plain := p.rsv == 0 && p.arg == 0
  match p.opc with
  | 0 => !(plain && p.sub == 0)
  | 1 => !(plain && p.sub == 0)
  | 2 => !(p.rsv == 0 && p.sub == 0 && p.arg % 16 == 0 && decide (16 ≤ p.arg) && decide (p.arg ≤ 2 ^ 20))
  | 3 => !(plain && decide (p.sub ≤ 3))
  | 4 => !(p.rsv == 0 && decide (1 ≤ p.sub) && decide (p.sub ≤ 16) && decide (1 ≤ p.arg) && p.d1 == 0)
  | 5 => !(plain && decide (p.sub ≤ 3) && p.d3 == 0)
  | 6 => !(p.rsv == 0 && p.sub == 0 && decide (p.arg < 256) && p.d3 == 0)
  | 7 => !(plain && decide (p.sub ≤ 3))
  | 10 => !(plain && p.sub == 0)
  | _ => !(plain && p.sub == 0 && p.d1 == 0)

/-- The alignment that a packet's address must have (R368). -/
def Pkt.align (p : Pkt) : Nat :=
  match p.opc with
  | 1 => 64
  | 2 => 16
  | 3 => 8
  | 5 => 2 ^ p.sub
  | 6 => 8
  | 7 => 8
  | 10 => 64
  | _ => 1

/-! ### Levels (R373) -/

/-- The ring as level 0, at HEAD. -/
def Queue.ring (q : Queue) : Level := { base := q.base, size := 2 ^ q.log2, pos := q.head, loop := none, skip := 0, held := [] }

/-- The open levels, the innermost first. -/
def Queue.open_ (q : Queue) : List Level := match q.levels with | [] => [q.ring] | l => l

def Queue.level (q : Queue) : Level := q.open_.headD q.ring
def Queue.below (q : Queue) : List Level := q.open_.tail

/-- Bytes that lie ahead in a level: of the ring up to TAIL, of a buffer up to its end (R365). -/
def Queue.ahead (q : Queue) : Nat :=
  let l := q.level
  if q.below.isEmpty then (q.tail + l.size - l.pos) % l.size else l.size - l.pos

/-- The address of the packet in progress or next. -/
def Queue.at_ (q : Queue) : Nat := q.level.base + q.level.pos

/-- The innermost level replaced. -/
def Queue.withLevel (q : Queue) (l : Level) : Queue := { q with levels := l :: q.below }

/-! ### Held lines (R374) -/

/-- A line of packet bytes: held, or read now and held from now on. -/
def State.packetLine (s : State) (sp : Space) (l : Level) (line : Nat) : Except Byte VReg × Level × State :=
  match kget l.held line with
  | some v => (.ok v, l, s)
  | none =>
    let r := s.frontLoad sp (BitVec.ofNat 64 (64 * line)) 64
    match r.1 with
    | .error c => (.error c, l, r.2)
    | .ok x => (.ok (BitVec.ofNat 512 x.1), { l with held := kset l.held line (BitVec.ofNat 512 x.1) }, r.2)

/-- Sixteen bytes of a packet at an address. -/
def State.packetUnit (s : State) (sp : Space) (l : Level) (a : Nat) : Except Byte Nat × Level × State :=
  let r := s.packetLine sp l (a / 64)
  match r.1 with
  | .error c => (.error c, r.2)
  | .ok v => (.ok (lineBytes v (a % 64) 16), r.2)

/-- The lines that the front core may read ahead of a packet, ascending: none that starts 512 bytes or more beyond the packet's first
byte, and none at or beyond TAIL or the end of the buffer. -/
def Queue.window (q : Queue) : List Nat :=
  let l := q.level
  let a := q.at_
  let n := min 512 q.ahead
  let starts := (rangeFrom 0 9).filter (fun i => i == 0 || decide (64 * (a / 64 + i) < a + n))
  starts.map (fun i =>
    let line := a / 64 + i
    if q.below.isEmpty then (l.base + (64 * line + l.size - l.base) % l.size) / 64 else line)

/-- Some more lines read ahead, as many as a free value says; a line that cannot be read ends it (log 10). -/
def State.readAhead (s : State) (sp : Space) (l : Level) : List Nat → Level × State
  | [] => (l, s)
  | x :: xs =>
    let r := s.packetLine sp l x
    match r.1 with
    | .error _ => r.2
    | .ok _ => r.2.2.readAhead sp r.2.1 xs

/-- The lines that the front core may yet read, cut off at a free number. -/
def State.fetchAhead (s : State) (q : Queue) (l : Level) : Level × State :=
  let rest := q.window.filter (fun x => (kget l.held x).isNone)
  match rest with
  | [] => (l, s)
  | _ => { s with fresh := s.fresh + 1 }.readAhead q.space l (rest.take (Config.choose s.fresh % (rest.length + 1)))

/-- The held lines of the ring that lie behind the packet in progress dropped, so that the ring's next turn reads them again; a loop holds all that
it has read (R374). -/
def Level.prune (l : Level) : Level :=
  match l.loop with
  | some _ => l
  | none => { l with held := l.held.filter (fun x => decide ((64 * x.1 % l.size + l.size - l.pos / 64 * 64) % l.size < 576)) }

/-- The offset in a level after `n` bytes: the ring wraps at its end (R365). -/
def Level.plus (l : Level) (ring : Bool) (n : Nat) : Nat := if ring then (l.pos + n) % l.size else l.pos + n

/-! ### Beginning a packet (R365, R369) -/

/-- What the front core finds at the next packet: nothing yet, a malformed one with its opcode (or none) and FCODE, or a packet with the level
that holds its lines. -/
inductive Begun where
  | absent
  | bad (opc : Option Nat) (code : Nat) (s : State)
  | ok (p : Pkt) (l : Level) (s : State)

/-- Whether the governed packets of a LOOP stay within the buffer, as far as their headers may be read (R369, R374); a ring has no end for them
(R365). -/
def State.governs (q : Queue) (s : State) (l : Level) (pos : Nat) : Nat → Bool × Level × State
  | 0 => (true, l, s)
  | n + 1 =>
    if q.below.isEmpty then (true, l, s)
    else if l.size ≤ pos then (false, l, s)
    else if !q.window.contains ((l.base + pos) / 64) then (true, l, s)
    else
      let r := s.packetUnit q.space l (l.base + pos)
      match r.1 with
      | .error _ => (true, r.2)
      | .ok x =>
        let len := (Pkt.of x 0).len
        if len = 0 then (true, r.2)
        else if l.size < pos + 16 * len then (false, r.2)
        else State.governs q r.2.2 r.2.1 (pos + 16 * len) n

/-- Whether the next packet of a level is the last of a loop's governed set. -/
def Level.lastOfPass (l : Level) : Bool := match l.loop with | none => false | some x => x.done + 1 == x.n

/-- The FCODE of a packet that breaks a rule by itself or by its place, in ascending order of FCODE. -/
def Queue.code (q : Queue) (p : Pkt) (governed : Bool) : Option Nat :=
  let l := q.level
  let stop := l.pos + 16 * p.len
  if p.fieldsBad then some 3
  else if p.d1.toNat % p.align ≠ 0 then some 4
  else if p.opc = 2 ∧ 2 ≤ q.below.length then some 5
  else if p.opc = 4 ∧ (l.loop.isSome ∨ !governed) then some 6
  else if p.opc = 3 ∧ ((stop = l.size ∧ !q.below.isEmpty) ∨ l.lastOfPass) then some 6
  else none

/-- The next packet of a queue read and checked. -/
def State.beginPacket (s : State) (q : Queue) : Begun :=
  let l := q.level
  if q.ahead = 0 then .absent
  else
    let h := s.packetUnit q.space l q.at_
    match h.1 with
    | .error _ => .bad none 9 h.2.2
    | .ok x =>
      let p := Pkt.of x 0
      let opc := if p.opc ≤ 10 then some p.opc else none
      if 10 < p.opc ∨ (p.opc = 10 ∧ !s.endpoint.enabled.getLsbD 4) then .bad opc 1 h.2.2
      else if !p.lenOk ∨ l.size < l.pos + 16 * p.len then .bad opc 2 h.2.2
      else if q.ahead < 16 * p.len then .absent
      else
        let t := if p.len = 2 ∧ p.opc ≠ 0 then h.2.2.packetUnit q.space h.2.1 (q.at_ + 16) else (.ok 0, h.2)
        match t.1 with
        | .error _ => .bad opc 9 t.2.2
        | .ok y =>
          let p := Pkt.of x y
          let g := if p.opc = 4 then State.governs q t.2.2 t.2.1 (l.pos + 16) p.sub else (true, t.2)
          match q.code p g.1 with
          | some c => .bad opc c g.2.2
          | none => .ok p g.2.1 g.2.2

/-! ### Ending a packet -/

/-- A level after a packet of `n` bytes: a loop's next packet, its next pass, or the packet after it (R373). -/
def Level.step (l : Level) (ring : Bool) (n : Nat) : Level :=
  let pos := l.plus ring n
  let skip := l.skip - 1
  match l.loop with
  | none => { l with pos := pos, skip := skip }
  | some x =>
    if x.done + 1 < x.n then { l with pos := pos, skip := skip, loop := some { x with done := x.done + 1 } }
    else if 1 < x.left then { l with pos := x.first, skip := skip, loop := some { x with done := 0, left := x.left - 1 } }
    else { l with pos := pos, skip := skip, loop := none }

/-- The levels after the innermost has ended a packet of `n` bytes: a buffer that is at its end returns to the packet after its IB. -/
def advanceLevels (n : Nat) : List Level → List Level
  | [] => []
  | [l] => [(l.step true n).prune]
  | l :: rest => if (l.step false n).pos < l.size then l.step false n :: rest else advanceLevels 16 rest

/-- The address of the LOOP of a level of a buffer, if the buffer ends after a packet of `n` bytes with governed packets left: they run past its end, where
no header of theirs could be read ahead (R369, R374). -/
def Level.pastEnd (l : Level) (n : Nat) : Option Nat :=
  match l.loop with
  | none => none
  | some x => if x.done + 1 < x.n ∧ l.size ≤ l.pos + n then some (l.base + x.first - 16) else none

/-- The same of the levels that a packet of `n` bytes ends: the innermost, and each one below whose IB opened a level that ends with it. -/
def loopPastEnd (n : Nat) : List Level → Option Nat
  | [] => none
  | [_] => none
  | l :: rest => match l.pastEnd n with
    | some a => some a
    | none => if (l.step false n).pos < l.size then none else loopPastEnd 16 rest

/-- The queue after its levels have changed: HEAD is written when a packet of the ring has been processed (R365). A queue that the packet itself
has stopped stays as it is. -/
def State.putLevels (s : State) (n : Nat) (ls : List Level) : State :=
  match kget s.queues n with
  | none => s
  | some q =>
    if q.stopped then s
    else match ls with
      | [l] =>
        let s1 := { s with queues := kset s.queues n { q with levels := [l], head := l.pos, waiting := none } }
        s1.putDesc q 0x10 (BitVec.ofNat 64 l.pos)
      | _ => { s with queues := kset s.queues n { q with levels := ls, waiting := none } }

/-- A packet of `b` bytes has been processed; a LOOP whose packets run past the end of its buffer turns out to be malformed (R369). -/
def State.bytesDone (s : State) (n : Nat) (q : Queue) (b : Nat) : State :=
  match loopPastEnd b q.open_ with
  | some a => s.stopQueue n (BitVec.ofNat 64 a) 6
  | none => s.putLevels n (advanceLevels b q.open_)

/-- A packet has been processed. -/
def State.packetDone (s : State) (n : Nat) (q : Queue) (p : Pkt) : State := s.bytesDone n q (16 * p.len)

/-- The queue as it stands in the state. -/
def State.putQueue (s : State) (n : Nat) (q : Queue) : State := { s with queues := kset s.queues n q }

/-! ### One packet -/

/-- Whether a front core attends to a queue: features are enabled, for one of the outside host those queues too (R380), it is not stopped, and no checkpoint holds
it (R401). -/
def State.queueLives (s : State) (q : Queue) : Bool :=
  s.endpoint.nstat == 1 && (q.owner != 0 || s.endpoint.enabled.getLsbD 2) && !q.stopped && !(s.ckpt.step == .quiesce)

/-- Whether a front core begins a packet of a queue: it attends to the queue, which waits for nothing that has not come. -/
def State.queueRuns (s : State) (q : Queue) : Bool :=
  s.queueLives q &&
  (match q.waiting with
  | none => true
  | some .fence => q.launched.isEmpty
  | some (.cond ..) => false)

/-- A level in which a LOOP is begun: its governed packets run some times (R373), or are skipped with it. -/
def Level.enterLoop (l : Level) (ring : Bool) (p : Pkt) (skipped : Bool) : Level :=
  let at_ := l.plus ring 16
  { l with
    pos := at_
    loop := some { first := at_, n := p.sub, done := 0, left := if skipped then 1 else p.arg }
    skip := if skipped then l.skip - 1 + p.sub else l.skip }

/-- Every held line of every open level discarded (R375). -/
def Queue.dropLines (q : Queue) : Queue := { q with levels := q.levels.map (fun l => { l with held := [] }) }

/-- Whether the next packet of a queue is there, whole or malformed. -/
def State.ready (s : State) (q : Queue) : Bool :=
  match s.beginPacket q with
  | .absent => false
  | _ => true

/-- Whether a front core is processing a packet of a queue, begun or next (R375). -/
def State.processing (s : State) (q : Queue) : Bool :=
  s.queueLives q && (q.waiting.isSome || s.ready q)

/-- While a front core processes no packet of a queue, the queue holds no line, as after an FFENCE (R375). -/
def State.idleQueues (s : State) : State :=
  { s with queues := s.queues.map (fun x => (x.1, if s.processing x.2 then x.2 else x.2.dropLines)) }

/-- One packet of an opcode: read, checked, and skipped or performed (R369, R373, R374). A packet that is skipped is only passed over, a LOOP
with its governed packets. -/
def packetStep (n opc : Nat) (perform : Queue → Pkt → State → State) (s : State) : Host.Outcome State Fault Refusal :=
  match kget s.queues n with
  | none => .next s
  | some q =>
    if !s.queueRuns q then .next s
    else match s.beginPacket q with
      | .absent => .next s
      | .bad o code s1 => if o.getD 0 = opc then .next (s1.stopQueue n (BitVec.ofNat 64 q.at_) code) else .next s
      | .ok p l s1 =>
        if p.opc ≠ opc then .next s
        else
          let a := s1.fetchAhead q l
          let q1 := q.withLevel a.1
          if l.skip = 0 then .next (perform q1 p (a.2.putQueue n q1))
          else
            .next (if p.opc = 4 then a.2.putLevels n (a.1.enterLoop q.below.isEmpty p true :: q.below) else a.2.packetDone n q1 p)

/-- A packet's own access failed (R369). -/
def State.packetFault (s : State) (n : Nat) (q : Queue) (code : Nat) : State := s.stopQueue n (BitVec.ofNat 64 q.at_) code

/-- The comparison of PRED and WAIT (R368). -/
def cmpHolds (cmp : Nat) (x v : Dword) : Bool :=
  match cmp with
  | 0 => x == v
  | 1 => x != v
  | 2 => x.ult v
  | _ => !x.ult v

/-- A condition tested in memory. -/
def State.testCond (s : State) (q : Queue) (cmp : Nat) (addr ref mask : Dword) : Except Byte Bool × State :=
  let r := s.frontLoad q.space addr 8
  match r.1 with
  | .error c => (.error c, r.2)
  | .ok x => (.ok (cmpHolds cmp (BitVec.ofNat 64 x.1 &&& mask) ref), r.2)

/-! ### The packets but for LAUNCH (R368) -/

/-- NOP. -/
def execNopPacket (q : Nat) (s : State) : Host.Outcome State Fault Refusal :=
  packetStep q 0 (fun x p s => s.packetDone q x p) s

/-- IB: a level opens over the buffer (R373). -/
def execIb (q : Nat) (s : State) : Host.Outcome State Fault Refusal :=
  packetStep q 2 (fun x p s =>
    let l : Level := { base := p.d1.toNat, size := p.arg, pos := 0, loop := none, skip := 0, held := [] }
    s.putQueue q { x with levels := l :: x.open_ }) s

/-- PRED: a condition that fails skips the next packet. -/
def execPred (q : Nat) (s : State) : Host.Outcome State Fault Refusal :=
  packetStep q 3 (fun x p s =>
    let r := s.testCond x p.sub p.d1 p.d2 p.d3
    match r.1 with
    | .error _ => r.2.packetFault q x 9
    | .ok true => r.2.packetDone q x p
    | .ok false =>
      let l := { x.level with skip := 2 }
      r.2.packetDone q (x.withLevel l) p) s

/-- LOOP: the next n packets run k times (R373). -/
def execLoopPacket (q : Nat) (s : State) : Host.Outcome State Fault Refusal :=
  packetStep q 4 (fun x p s =>
    s.putLevels q (x.level.enterLoop x.below.isEmpty p false :: x.below)) s

/-- WRITE: one store. -/
def execWrite (q : Nat) (s : State) : Host.Outcome State Fault Refusal :=
  packetStep q 5 (fun x p s =>
    let n := 2 ^ p.sub
    let r := s.frontStore x.space p.d1 n (p.d2.toNat % 2 ^ (8 * n)) false
    match r.1 with
    | .error _ => r.2.packetFault q x 9
    | .ok _ => r.2.packetDone q x p) s

/-- A fence that must wait for regions launched earlier. -/
def State.fenceWait (s : State) (n : Nat) (q : Queue) : State := s.putQueue n { q with waiting := some .fence }

/-- FENCE. -/
def execFencePacket (q : Nat) (s : State) : Host.Outcome State Fault Refusal :=
  packetStep q 8 (fun x p s => if x.launched.isEmpty then s.packetDone q x p else s.fenceWait q x) s

/-- The vector of a SIGNAL raised, 0 for none: that of a process's queue, a resident-kernel interrupt, at the application cores too (R368, R382). -/
def State.raiseVector (s : State) (n : Nat) (q : Queue) (vector : Nat) : State :=
  if vector = 0 then s
  else
    let s1 := { s with outputs := s.outputs ++ [.interrupt n vector] }
    if q.owner = 0 then s1 else s1.raiseIrq (.signal n vector)

/-- SIGNAL: a fence, a store of one dword with release at sys, then the vector (R368, R376). -/
def execSignal (q : Nat) (s : State) : Host.Outcome State Fault Refusal :=
  packetStep q 6 (fun x p s =>
    if !x.launched.isEmpty then s.fenceWait q x
    else
      let r := s.frontStore x.space p.d1 8 p.d2.toNat false
      match r.1 with
      | .error _ => r.2.packetFault q x 9
      | .ok _ =>
        (r.2.packetDone q x p).raiseVector q x p.arg) s

/-- WAIT: the first test (R368). -/
def execWaitPacket (q : Nat) (s : State) : Host.Outcome State Fault Refusal :=
  packetStep q 7 (fun x p s =>
    let r := s.testCond x p.sub p.d1 p.d2 p.d3
    match r.1 with
    | .error _ => r.2.packetFault q x 9
    | .ok true => r.2.packetDone q x p
    | .ok false => r.2.putQueue q { x with waiting := some (.cond p.sub p.d1 p.d2 p.d3 s.cycle) }) s

/-- Whether a waiting queue tests its condition again now: once every 1,024 cycles. -/
def State.testDue (s : State) (q : Queue) : Bool :=
  match q.waiting with
  | some (.cond _ _ _ _ since) => s.queueLives q && decide (since + 1024 ≤ s.cycle)
  | _ => false

/-- WAIT_PACKET_TEST (R368). -/
def execWaitPacketTest (q : Nat) (s : State) : Host.Outcome State Fault Refusal :=
  match kget s.queues q with
  | none => .next s
  | some x =>
    if !s.testDue x then .next s
    else match x.waiting with
      | some (.cond cmp addr ref mask since) =>
        let r := s.testCond x cmp addr ref mask
        match r.1 with
        | .error _ => .next (r.2.packetFault q x 9)
        | .ok true => .next (r.2.bytesDone q x 32)
        | .ok false => .next (r.2.putQueue q { x with waiting := some (.cond cmp addr ref mask (since + 1024)) })
      | _ => .next s

/-- FFENCE (R375). -/
def execFfence (q : Nat) (s : State) : Host.Outcome State Fault Refusal :=
  packetStep q 9 (fun x p s => s.packetDone q x.dropLines p) s

/-- PROMOTE: the request is posted to the wedging engine of the slice that homes the block table's first byte (R312, R368). -/
def execPromote (q : Nat) (s : State) : Host.Outcome State Fault Refusal :=
  packetStep q 10 (fun x p s =>
    let a := s.frontLoad x.space p.d1 8
    match a.1 with
    | .error _ => a.2.packetFault q x 9
    | .ok table =>
      let b := a.2.frontLoad x.space (p.d1 + 8) 8
      match b.1 with
      | .error _ => b.2.packetFault q x 9
      | .ok done =>
        let r : Request := { table := table.1, done := done.1, space := x.space, broken := false, stage := .start }
        let key := b.2.requests.foldl (fun m y => max m (y.1 + 1)) 0
        let s1 := { b.2 with requests := kset b.2.requests key r }
        s1.packetDone q x p) s

/-! ### Doorbells (R365, R378) -/

/-- DOORBELL_TAIL. -/
def execDoorbellTail (q : Nat) (v : Dword) (s : State) : Host.Outcome State Fault Refusal := .next (s.doorbellTail q v)

/-- DOORBELL_RESET. -/
def execDoorbellReset (q : Nat) (v : Dword) (s : State) : Host.Outcome State Fault Refusal := .next (s.doorbellReset q v)

end Sys2Proof.Machine
end

