-- ==== Sys2Proof/Machine/Launch.lean ====
section
/-! DEFINITION. LAUNCH (spec 06 R118 to R121; 12 R204; 21 R370 to R372): the launch record, the block chain, qualification, slots and the root
task. -/

namespace Sys2Proof.Machine

/-! ### Blocks and records -/

/-- `n` bits of a block or record, given as one number, from a byte offset and a bit. -/
def rcbField (v off lo n : Nat) : Nat := v / 2 ^ (8 * off + lo) % 2 ^ n

/-- The reserved bits of a region control block: offset, lowest bit, width (R118). -/
def rcbReserved : List (Nat × Nat × Nat) :=
  [(0x08, 33, 31), (0x08, 16, 16), (0x10, 46, 18), (0x10, 14, 18), (0x18, 38, 26), (0x28, 24, 8), (0x28, 11, 5), (0x28, 0, 8),
   (0x30, 16, 48), (0x58, 16, 48), (0x68, 16, 48), (0x68, 2, 6), (0x78, 0, 64)]

/-- The reserved bits of a launch record (R370). -/
def recordReserved : List (Nat × Nat × Nat) := [(0x30, 14, 50), (0x40, 32, 32), (0x50, 0, 384)]

/-- Whether every reserved bit is zero. -/
def reservedZero (v : Nat) (l : List (Nat × Nat × Nat)) : Bool := l.all (fun x => rcbField v x.1 x.2.1 x.2.2 == 0)

/-- OVR of a block: which fields it gives, RESTART as field 15 (R118). -/
def ovr (v k : Nat) : Bool := rcbField v 0x08 k 1 == 1

/-- A block or record of 128 bytes read by the front core. -/
def State.frontBlock (s : State) (sp : Space) (a : Dword) : Except Byte Nat × State :=
  let x := s.frontLoad sp a 64
  match x.1 with
  | .error c => (.error c, x.2)
  | .ok lo =>
    let y := x.2.frontLoad sp (a + 64) 64
    match y.1 with
    | .error c => (.error c, y.2)
    | .ok hi => (.ok (lo.1 + 2 ^ 512 * hi.1), y.2)

/-- The blocks above one, nearest first, of at most a number of them (R119). -/
def State.readChain (s : State) (sp : Space) (parent : Nat) : Nat → Except Byte (List Nat) × State
  | 0 => if parent = 0 then (.ok [], s) else (.error cDESC, s)
  | n + 1 =>
    if parent = 0 then (.ok [], s)
    else if parent % 64 ≠ 0 then (.error cDESC, s)
    else
      let r := s.frontBlock sp (BitVec.ofNat 64 parent)
      match r.1 with
      | .error c => (.error c, r.2)
      | .ok v =>
        let t := r.2.readChain sp (rcbField v 0 0 64) n
        match t.1 with
        | .error c => (.error c, t.2)
        | .ok vs => (.ok (v :: vs), t.2)

/-- A region with nothing resolved. -/
def Region.blank : Region :=
  { core0 := 0, ncore := 0, ctx := 0, part := 0, sagg := 0, deck := 0, colive := 0, fdom := 0, prio := 0, deleg := 0, lmap := 0, actt := 0,
    seed := 0, ptroot := 0, asid := 0, area := 0, restart := false, soc := 0, queue := 0, owner := 0, parent := 0, rootc := 0, save := 0,
    nsave := 0, notq := 0, reserved := [], barriers := [], saved := [], work := [], cores := [], status := 0, fault := none,
    stopping := false, running := true, lt := 0, unacked := [], stoppedAll := false }

/-- A field that the block gives if its bit of OVR says so, else the inherited one. -/
def pick {α : Type} (v k : Nat) (mine inherited : α) : α := if ovr v k then mine else inherited

/-- The fields that a block gives over those it inherits (R118, R119). -/
def Region.override (r : Region) (v : Nat) : Region :=
  { r with
    core0 := pick v 0 (rcbField v 0x10 0 14) r.core0
    ncore := pick v 0 (rcbField v 0x10 32 14) r.ncore
    ctx := pick v 1 (rcbField v 0x18 32 6) r.ctx
    part := pick v 2 (BitVec.ofNat 32 (rcbField v 0x18 0 32)) r.part
    sagg := pick v 3 (rcbField v 0x20 32 32) r.sagg
    deck := pick v 4 (rcbField v 0x20 0 32) r.deck
    colive := pick v 5 (rcbField v 0x28 32 32) r.colive
    fdom := pick v 6 (rcbField v 0x28 16 8) r.fdom
    prio := pick v 7 (rcbField v 0x28 8 3) r.prio
    deleg := pick v 8 (BitVec.ofNat 64 (rcbField v 0x30 0 16)) r.deleg
    lmap := pick v 9 (BitVec.ofNat 64 (rcbField v 0x38 0 64)) r.lmap
    actt := pick v 10 (rcbField v 0x40 0 64) r.actt
    seed := pick v 11 (rcbField v 0x48 0 64) r.seed
    ptroot := pick v 12 (BitVec.ofNat 64 (rcbField v 0x50 0 64)) r.ptroot
    asid := pick v 13 (BitVec.ofNat 64 (rcbField v 0x58 0 16)) r.asid
    area := pick v 14 (rcbField v 0x60 0 64) r.area
    restart := pick v 15 (rcbField v 0x08 32 1 == 1) r.restart }

/-- The chain resolved, the region's own block first: a root gives every field, and a child stays within its parent (R119). -/
def resolveChain : List Nat → Option Region
  | [] => none
  | [v] => if rcbField v 0x08 0 16 = 0xFFFF ∧ reservedZero v rcbReserved then some (Region.blank.override v) else none
  | v :: rest =>
    match resolveChain rest with
    | none => none
    | some p =>
      let r := p.override v
      if reservedZero v rcbReserved ∧ p.core0 ≤ r.core0 ∧ r.core0 + r.ncore ≤ p.core0 + p.ncore ∧ r.ctx ≤ p.ctx then some r else none

/-- Whether a partition word is one (R204). -/
def partOk (w : BitVec 32) : Bool :=
  w.extractLsb' 10 22 == 0 && decide (3 ≤ partReg w) && decide (partAcc w ≤ 29) && decide (partReg w + partAcc w ≤ 32)

/-- The ranges and alignments of the resolved fields (R118, R119). -/
def Region.inRange (r : Region) : Bool :=
  decide (1 ≤ r.ncore) && decide (r.core0 + r.ncore ≤ Config.cores) && decide (1 ≤ r.ctx) && decide (r.ctx ≤ 47) &&
  r.sagg % 4096 == 0 && decide (8192 ≤ r.sagg) && decide (64 ≤ r.deck) && r.area % 65536 == 0

/-- Why a launch record is rejected, if it is (R370, R372). -/
def recordFault (v : Nat) : Option Byte :=
  if reservedZero v recordReserved = false ∨ rcbField v 0x08 0 2 ≠ 0 ∨ rcbField v 0x38 0 12 ≠ 0 then some cDESC
  else if rcbField v 0x40 0 32 = 0 ∧ rcbField v 0x38 0 64 ≠ 0 then some 0x14
  else none

/-! ### Qualification and slots (R120, R121) -/

/-- The slots that a co-resident region reserves: on ROOTC first, then on the other qualifying cores. -/
def reserveSlots (u : Nat) : Nat → List Nat → List (Nat × Nat)
  | _, [] => []
  | left, c :: cs => if left = 0 then [] else kset (reserveSlots u (left - min u left) cs) c (min u left)

/-- Why a region is not admitted, if it is not: no core qualifies, ROOTC does not, or its slots are too few. -/
def Region.refused (r : Region) (cores : List Nat) : Option Byte :=
  if cores.isEmpty then some cRESOURCE
  else if !cores.contains r.rootc then some 0x13
  else if r.colive ≠ 0 ∧ slotsPer r * cores.length < r.colive then some cRESOURCE
  else none

/-! ### Societies (R163, R165) -/

/-- The narrowest scope within a package for budgets given by their first core and count. -/
def scopeOf (l : List (Nat × Nat)) : SweepScope :=
  match l with
  | [] => .die
  | x :: _ => if l.all (fun y => dieOf y.1 == dieOf x.1 && dieOf (y.1 + y.2 - 1) == dieOf x.1) then .die else .package

/-- The society of a new region: that of the regions with its actor table, or one of its own. -/
def State.joinSociety (s : State) (r : Region) : Nat × State :=
  match s.socs.find? (fun x => x.2.actt == r.actt && x.2.ptroot == r.ptroot) with
  | some (k, so) =>
    let budgets := (r.core0, r.ncore) :: (s.regions.filter (fun x => x.2.soc == k)).map (fun x => (x.2.core0, x.2.ncore))
    let scope := match so.scope with | .die => scopeOf budgets | other => other
    let next := if scope = so.scope then so.next else (s.clock scope / sweepPeriod scope + 1) * sweepPeriod scope
    (k, { s with socs := kset s.socs k { so with scope := scope, next := next } })
  | none =>
    let k := s.socs.foldl (fun m x => max m (x.1 + 1)) 0
    let scope := scopeOf [(r.core0, r.ncore)]
    let next := (s.clock scope / sweepPeriod scope + 1) * sweepPeriod scope
    let so : Society :=
      { actt := r.actt, ptroot := r.ptroot, scope := scope, pushed := none, sweep := none, next := next, kiln := 0, other := none, arriving := [] }
    (k, { s with socs := kset s.socs k so })

/-! ### LAUNCH (R371) -/

/-- The kiln value of a society on the cores that serve a region of it from now on: each holds the value of the society's last publication (R166). A core that serves the
society already has its value when that reaches it (R168). -/
def State.shareKiln (s : State) (soc : Nat) (cores : List Nat) : State :=
  match kget s.socs soc with
  | none => s
  | some so =>
    if so.kiln = 0 then s
    else
      let joins (n : Nat) : Bool := !(s.coresOf soc).contains n && so.arriving.all (fun x => x.1 != n)
      (cores.filter joins).foldl (fun (t : State) n => t.modCore n (fun c => { c with kilns := kset c.kilns soc so.kiln })) s

/-- A region admitted: its slots reserved, its society joined, and the root task ready to start on ROOTC, after every access that the front core
has made. It waits at the end of ROOTC's task queue, where it counts as one of the 64 entries (DESIGN CHOICE, log 49: the spec does not say where). -/
def State.admitRegion (s : State) (rcb n : Nat) (q : Queue) (r : Region) (cores : List Nat) (root : Task) : State :=
  let j := s.joinSociety r
  let u := slotsPer r
  let reserved := if r.colive = 0 then [] else reserveSlots u r.colive (r.rootc :: cores.filter (fun c => c != r.rootc))
  let r1 := { r with soc := j.1, queue := n, owner := q.owner, cores := cores, reserved := reserved }
  ((j.2.shareKiln j.1 cores).setRegion rcb r1).modWork rcb r.rootc (fun w => { w with taskq := w.taskq ++
    [{ task := { root with lt := j.2.agentTime agFront }, caller := none }] })

/-- The region that a record and a chain give, or why the launch fails (R119, R204, R370, R372). -/
def State.prepare (s : State) (record : Nat) (chain : List Nat) : Except Byte (Region × List Nat) :=
  match resolveChain chain with
  | none => .error cDESC
  | some r0 =>
    if !r0.inRange || !partOk r0.part then .error cDESC
    else match recordFault record with
      | some c => .error c
      | none =>
        let r := { r0 with
          parent := (chain.head?.map (fun v => rcbField v 0 0 64)).getD 0
          rootc := rcbField record 0x30 0 14
          save := rcbField record 0x38 0 64
          nsave := rcbField record 0x40 0 32
          notq := rcbField record 0x48 0 64 }
        let cores := s.qualifying r
        match r.refused cores with
        | some c => .error c
        | none => .ok (r, cores)

/-- The root task of a record. -/
def rootTask (record : Nat) : Task := { pc := BitVec.ofNat 64 (rcbField record 0x08 0 64), args := BitVec.ofNat 256 (rcbField record 0x10 0 256) }

/-- What a LAUNCH does once its record is read and its region's own block is known to be readable and writable. -/
def State.launchFrom (s : State) (n : Nat) (q : Queue) (rcb record own : Nat) : State :=
  let fail (t : State) (c : Byte) : State := t.putStatus q.space rcb true (some c)
  let chain := s.readChain q.space (rcbField own 0 0 64) 7
  match chain.1 with
  | .error c => fail chain.2 c
  | .ok above =>
    match chain.2.prepare record (own :: above) with
    | .error c => fail chain.2 c
    | .ok (r, cores) =>
      let notq := if r.notq = 0 then (chain.2.dwordAt (q.desc + 0x38)).toNat else r.notq
      let s1 := chain.2.admitRegion rcb n q { r with notq := notq } cores (rootTask record)
      match kget s1.queues n with
      | none => s1
      | some q1 => s1.putQueue n { q1 with launched := nadd q1.launched rcb }

/-- A region's own block as LAUNCH reads it; of one that is not aligned to 64 bytes the status dword alone. -/
def State.ownBlock (s : State) (sp : Space) (rcb : Nat) : Except Byte Nat × State :=
  if rcb % 64 = 0 then s.frontBlock sp (BitVec.ofNat 64 rcb)
  else
    let x := s.frontLoad sp (BitVec.ofNat 64 (rcb + 0x68)) 8
    (match x.1 with | .error c => .error c | .ok v => .ok (v.1 * 2 ^ (8 * 0x68)), x.2)

/-- The region's own block read, and then its DONE, FAULT, REASON and KSAVE cleared; nothing, and no change, if it cannot be read and written (R118, R119, R371). -/
def State.clearBlock (s : State) (sp : Space) (rcb : Nat) : Option Nat × State :=
  let b := s.ownBlock sp rcb
  match b.1 with
  | .error _ => (none, b.2)
  | .ok v =>
    let st := b.2.frontStore sp (BitVec.ofNat 64 (rcb + 0x68)) 8 (statusOver (rcbField v 0x68 0 64) 0) false
    match st.1 with
    | .error _ => (none, st.2)
    | .ok _ => (some v, (st.2.frontStore sp (BitVec.ofNat 64 (rcb + 0x70)) 8 0 false).2)

/-- Whether a region of an owner that has not ended has its block at an address (R369). -/
def State.blockInUse (s : State) (owner : Dword) (rcb : Nat) : Bool := s.regions.any (fun x => x.1 % 2 ^ 64 == rcb && x.2.owner == owner)

/-- The number of a new region: the address of its block, with a multiple of 2^64 added where a region of another owner has a block of the same
address. -/
def State.newKey (s : State) (rcb : Nat) : Nat :=
  ((rangeFrom 0 (s.regions.length + 1)).map (fun i => rcb + 2 ^ 64 * i)).find? (fun k => (s.getRegion? k).isNone) |>.getD rcb

/-- A LAUNCH packet that is performed counted for the checkpoint's step (R400). -/
def State.countLaunch (s : State) : State := { s with ckpt := { s.ckpt with launches := s.ckpt.launches + 1 } }

/-- LAUNCH (R371): a region's own block that cannot be read and written makes the packet malformed (R119, R369); any other failure is written in
that block. -/
def execLaunch (q : Nat) (s : State) : Host.Outcome State Fault Refusal :=
  packetStep q 1 (fun x p s =>
    let rec_ := s.frontBlock x.space p.d1
    match rec_.1 with
    | .error _ => rec_.2.packetFault q x 9
    | .ok record =>
      let rcb := rcbField record 0 0 64
      if rec_.2.blockInUse x.owner rcb then rec_.2.packetFault q x 8
      else if rcb % 8 ≠ 0 then rec_.2.packetFault q x 9
      else
        let own := rec_.2.clearBlock x.space rcb
        match own.1 with
        | none => own.2.packetFault q x 9
        | some v =>
          let t := own.2.countLaunch
          let s1 := if rcb % 64 ≠ 0 then t.putStatus x.space rcb true (some cDESC) else t.launchFrom q x (t.newKey rcb) record v
          s1.packetDone q x p) s

end Sys2Proof.Machine
end

