-- ==== Sys2Proof/Machine/Endpoint.lean ====
section
/-! DEFINITION. The endpoint and firmware (spec 21 R366, R379 to R382; 22 R406, R408, R409): queue registration, negotiation, live update,
reset, attestation, monitors, and the accesses of the host side. -/

namespace Sys2Proof.Machine

/-! ### Queue registration (R366) -/

/-- Whether a physical address lies in this package's device memory (R212, R363). -/
def State.ownMemory (s : State) (pa n : Nat) : Bool := decide (pkgOf pa = s.pkgNum) && decide (pa % 2 ^ 44 + n ≤ 2 ^ 40)

/-- A queue command ends with a RESULT. -/
def State.queueResult (s : State) (r : Nat) : State :=
  { s with endpoint := { s.endpoint with qcmd := (s.endpoint.qcmd &&& 0x3_0FFF) ||| BitVec.ofNat 64 (r * 2 ^ 56) } }

/-- Whether a queue command with an OP runs. -/
def State.queueCommand (s : State) (op : Nat) : Bool := s.endpoint.qcmd.getLsbD 63 && (s.endpoint.qcmd.extractLsb' 16 2).toNat == op

/-- The queue number of a command (R366). -/
def Endpoint.qnum (e : Endpoint) : Nat := (e.qcmd.extractLsb' 0 12).toNat

/-- A dword of the descriptor at an address. -/
def State.descDword (s : State) (desc i : Nat) : Nat := (s.hwLoad agFront (desc + 8 * i) 8).1.1

/-- The queue that a descriptor describes, if it is one (R364, R366). -/
def State.queueAt (s : State) (desc : Nat) : Option Queue :=
  let d := s.descDword desc
  let log2 := d 1
  if desc % 64 = 0 ∧ s.ownMemory desc 64 ∧ 12 ≤ log2 ∧ log2 ≤ 20 ∧ d 0 % 2 ^ log2 = 0 ∧ d 3 < 2 ∧ d 5 < 256 then
    let owner := BitVec.ofNat 64 (d 6)
    some { desc := desc, base := d 0, log2 := log2, owner := owner, space := s.ownerSpace owner, head := d 2, tail := d 2,
           stopped := d 3 == 1, levels := [], waiting := none, launched := [] }
  else none

/-- QCMD_REGISTER: the queue of the descriptor at QADDR, under the number in QCMD. -/
def execQcmdRegister (s : State) : Host.Outcome State Fault Refusal :=
  if !s.queueCommand 1 then .next s
  else
    let n := s.endpoint.qnum
    .next (if (kget s.queues n).isSome then s.queueResult 1
      else match s.queueAt s.endpoint.qaddr.toNat with
        | none => s.queueResult 2
        | some q =>
          if q.owner = 0 ∧ !s.endpoint.enabled.getLsbD 2 then s.queueResult 4
          else ({ s with queues := kset s.queues n q }).queueResult 0)

/-- Whether a packet of a queue is in progress (R366): a buffer is open, a loop runs, or the front core waits. -/
def Queue.busy (q : Queue) : Bool :=
  decide (2 ≤ q.levels.length) || q.waiting.isSome || q.levels.any (fun l => l.loop.isSome)

/-- QCMD_UNREGISTER: it completes when no packet of the queue is in progress. -/
def execQcmdUnregister (s : State) : Host.Outcome State Fault Refusal :=
  if !s.queueCommand 2 then .next s
  else
    let n := s.endpoint.qnum
    match kget s.queues n with
    | none => .next (s.queueResult 3)
    | some q =>
      if s.descDword s.endpoint.qaddr.toNat 6 ≠ q.owner.toNat then .next (s.queueResult 3)
      else if q.busy then .next s
      else .next (({ s with queues := kdel s.queues n }).queueResult 0)

/-! ### Registers and negotiation (R6, R380) -/

/-- COMMIT. -/
def execCommit (s : State) : Host.Outcome State Fault Refusal := .next s.commit

/-- The translation of an owner of queues changed (R366). -/
def State.setOwner (s : State) (o : Nat) (f : Space → Space) : State :=
  { s with owners := kset s.owners o (f (kgetD s.owners o { ptroot := 0, asid := 0, super := false, physical := false })) }

/-- Whether a cached translation of the ASID that a memory key identifier is assigned to is left, so that firmware does not yet withdraw the
assignment (R407). -/
def State.keyHeld (s : State) (k : Nat) : Bool :=
  match kget s.keys k with
  | none => false
  | some a => s.tlb.any (fun e => e.asid == a)

/-- A memory key identifier assigned to an ASID, or with bit 63 withdrawn from its own, once no translation of that is left (R407). -/
def State.assignKey (s : State) (k : Nat) (v : Dword) : State :=
  if k = 0 ∨ 256 ≤ k ∨ s.keyHeld k then s
  else { s with keys := if v.getLsbD 63 then kdel s.keys k else kset s.keys k (v.toNat % 65536) }

/-- Firmware starts supervisor work in the S context of a core, or has none left for it: then the context is parked unless it handles a trap (R116), within an
instruction only at its end. -/
def State.setSupWork (s : State) (core : Nat) (on : Bool) : State :=
  let s1 := s.modCore core (fun c => { c with supWork := on })
  if on then s1.modCtx (ctxKey core 0) (fun c =>
    { c with lt := max c.lt (s.cycle / 16), slot := if c.slot = .parkedWaiting then .parkedReady else c.slot })
  else if (s1.getCtx (ctxKey core 0)).midway then s1
  else s1.parkS core

/-- An entry of the gateway table filled with a domain and a package of it, 256·DOM + NUM, or emptied with bit 63 (R385). -/
def State.setGateway (s : State) (entry : Nat) (v : Dword) : State :=
  if 128 ≤ entry then s
  else s.modDom (fun d => { d with gateway := if v.getLsbD 63 then kdel d.gateway entry else kset d.gateway entry (v.toNat % 65536) })

/-- A society's scope widened to the domain (2) or the system (3), where regions of other packages or domains belong to it (R165); a sweep under way at the
narrower scope publishes nothing. -/
def State.widenSociety (s : State) (soc : Nat) (v : Dword) : State :=
  let wide (sc : SweepScope) : State :=
    s.modSoc soc (fun so => { so with
      scope := sc, sweep := so.sweep.map (fun w => { w with publishes := false, lost := true }), next := (s.clock sc / sweepPeriod sc + 1) * sweepPeriod sc })
  if v = 2 then wide .domain else if v = 3 then wide .system else s

/-- A debugger halts a context, or lets it go on (R357). The halt of a U context brings it a yield request (R348). -/
def State.haltCtx (s : State) (core slot : Nat) (on : Bool) : State :=
  let s1 := s.modCtx (ctxKey core slot) (fun c => { (if on then c.takeBack else c) with halted := on })
  if on && (s.getCtx (ctxKey core slot)).mode == .user then s1.askCtx (ctxKey core slot) else s1

/-- What the least floor of the other packages tells of their pushes (R202): a TIME is that of an event that one of them has pushed; all ones, which says that none of their
events is left, leaves open whether there was one (log 35). -/
def State.floorElsewhere (s : State) (soc : Nat) (v : Dword) : State :=
  if v ≠ BitVec.allOnes 64 then s.pushedElsewhere soc
  else if ((kget s.socs soc).map Society.pushedBefore).getD true then s
  else
    let t : State := { s with fresh := s.fresh + 1 }
    if Config.choose s.fresh % 2 = 0 then t else t.pushedElsewhere soc

/-- A register of an application core changed (R382). -/
def AppCore.put (a : AppCore) (r : AppReg) (v : Dword) : AppCore :=
  match r with
  | .pc => { a with pc := v }
  | .x n => if n = 0 then a else { a with x := vset a.x n.toNat v }
  | .f n => { a with f := vset a.f n.toNat v }
  | .v n part =>
    let old := vget a.v n.toNat 0
    let k := 64 * part.toNat
    let cleared := old &&& ~~~((BitVec.setWidth 256 (BitVec.allOnes 64)) <<< k)
    { a with v := vset a.v n.toNat (cleared ||| (BitVec.setWidth 256 v) <<< k) }
  | .csr n => { a with csrs := kset a.csrs n.toNat v }
  | .mode => { a with mode := if v = 3 then .machine else if v = 1 then .supervisor else .user }

/-- An application core changed (R382, log 52). -/
def State.setApp (s : State) (core : Nat) (f : AppCore → AppCore) : State :=
  { s with apps := kset s.apps core (f (kgetD s.apps core AppCore.reset)) }

/-- Whether a source is enabled for a target of the interrupt controller. -/
def Plic.enable (p : Plic) (target : Nat) (i : IrqSource) (on : Bool) : Plic :=
  let l := p.enabled.filter (fun x => x != (target, i))
  { p with enabled := if on then l ++ [(target, i)] else l }

/-- A dword of a loop core's 256 KiB of tightly coupled memory written (R328). -/
def State.setTcm (s : State) (core off : Nat) (v : Dword) : State :=
  if core < 16 ∧ off < 2 ^ 18 then { s with tcms := kset s.tcms core (kset (kgetD s.tcms core []) (off / 8) v) } else s

/-- A commit of a sequence with a number of accepted drafts: its committed length grows by one more than that, and its draws go on at the counter that RNGC has reached
(R328, step 4). -/
def State.commitLoop (s : State) (n accepted : Nat) (ctr : Dword) : State :=
  match kget s.loops n with
  | none => s
  | some x => { s with loops := kset s.loops n { x with ctr := ctr, len := x.len + 1 + accepted } }

/-- REGISTER_WRITE (R6): a register of the endpoint block (R366, R380), where 0x40 is COMMIT's own; a trigger of the checkpoints (R400); what kernel,
firmware or a debugger sets (R116, R357, R366, R385, R407); what reaches this package from the others (R165, R196, R399, R400); what the application
cores do to themselves and to their interrupt controller (R382); or what the loop cores keep (R328). -/
def execRegisterWrite (r : HostReg) (v : Dword) (s : State) : Host.Outcome State Fault Refusal :=
  match r with
  | .endpoint off => .next (if off = 0x40 then s else s.endpointWrite off v)
  | .ckper => .next { s with ckpt := { s.ckpt with ckper := v.toNat } }
  | .ckstep => .next { s with ckpt := { s.ckpt with ckstep := v.toNat } }
  | .memoryKey k => .next (s.assignKey k v)
  | .ownerRoot o => .next (s.setOwner o (fun x => { x with ptroot := v }))
  | .ownerAsid o => .next (s.setOwner o (fun x => { x with asid := v &&& 0xFFFF }))
  | .gateway n => .next (s.setGateway n v)
  | .supWork core => .next (s.setSupWork core (v != 0))
  | .halt core slot => .next (s.haltCtx core slot (v != 0))
  | .otherLaunches => .next { s with ckpt := { s.ckpt with launches := s.ckpt.launches + v.toNat } }
  | .societyScope soc => .next (s.widenSociety soc v)
  | .otherFloor soc =>
    .next ((s.floorElsewhere soc v).modSoc soc (fun so => if so.sweep.isSome then { so with other := some v } else so))
  | .moveHome soc a => .next (s.moveAway soc a (v.toNat / 2 ^ 14 % 256, v.toNat % 2 ^ 14))
  | .moved soc a => .next (s.modDom (fun d => { d with untold := d.untold.filter (fun x => x != (soc, a)) }))
  | .appCore c r => .next (s.setApp c.toNat (fun x => x.put r v))
  | .raise i => .next (s.raiseIrq i)
  | .irqPriority i => .next { s with plic := { s.plic with priority := (i, v.toNat) :: s.plic.priority.filter (fun x => x.1 != i) } }
  | .irqEnable n i => .next { s with plic := s.plic.enable n i (v != 0) }
  | .irqThreshold n => .next { s with plic := { s.plic with threshold := kset s.plic.threshold n v.toNat } }
  | .claim n => .next (s.claimIrq n)
  | .complete i => .next { s with plic := { s.plic with claimed := s.plic.claimed.erase i } }
  | .tcm core off => .next (s.setTcm core off v)
  | .loopStart n ctr len => .next { s with loops := kset s.loops n { key := v, ctr := ctr, len := len } }
  | .loopCommit n a => .next (s.commitLoop n a v)
  | .loopEnd n => .next { s with loops := kdel s.loops n }

/-- ENDPOINT_RESET: the block returns to its reset values; which complex is active stays. -/
def execEndpointReset (s : State) : Host.Outcome State Fault Refusal :=
  .next { s with endpoint := { Endpoint.reset with active := s.endpoint.active } }

/-! ### Firmware (R379, R406, R408, R409) -/

/-- The version of a complex's image, complex B's or A's (R379). -/
def Flash.version (f : Flash) (b : Bool) : Nat := if b then f.versionB else f.versionA

/-- The image of a complex replaced. -/
def Flash.setVersion (f : Flash) (b : Bool) (v : Nat) : Flash := if b then { f with versionB := v } else { f with versionA := v }

/-- The state table of a version imported: what later versions add starts empty (R379). The state of the generation loops came with version 2 (R328), the notice
queues with version 3. -/
def State.importTable (s : State) (version : Nat) : State :=
  let s1 := if version < 2 then { s with loops := [] } else s
  if version < 3 then { s1 with regions := s1.regions.map (fun x => (x.1, { x.2 with notq := 0 })) } else s1

/-- LIVE_UPDATE: UPST reads 1 while the standby complex boots the image (the step is then not over, see `State.unfinished`); next it imports the
state table, of at most its own version, and takes over, as an FFENCE on every queue, or the old complex stays. -/
def execLiveUpdate (version security : Nat) (signed : Bool) (s : State) : Host.Outcome State Fault Refusal :=
  let e := s.endpoint
  if !e.enabled.getLsbD 0 then .next s
  else if e.upst ≠ 1 then .next { s with endpoint := { e with upst := 1 } }
  else if !signed ∨ security < s.flash.secver ∨ version < s.flash.version e.active then
    .next { s with endpoint := { e with upst := 3 } }
  else
    .next { s.importTable (s.flash.version e.active) with
      endpoint := { e with upst := 2, active := !e.active }
      flash := s.flash.setVersion (!e.active) version
      queues := s.queues.map (fun (x : Nat × Queue) => (x.1, x.2.dropLines)) }

/-! ### Boot and identity (R405 to R409) -/

/-- The dwords of the signed configuration block (R405). -/
def Flash.block (f : Flash) : List Dword :=
  [0x4647_4E43_5658_3934, BitVec.ofNat 64 (f.secver * 2 ^ 32 + if f.local_ then 1 else 0)] ++ f.rmap.toList ++ [f.cert, f.sig]

/-- Dwords as bytes with their offsets. -/
def dwordBytes (ds : List Dword) : List (Nat × Byte) :=
  (ds.zipIdx.map (fun x => (rangeFrom 0 8).map (fun i => (8 * x.2 + i, x.1.extractLsb' (8 * i) 8)))).flatten

/-- The flash after a boot has applied the repair of the cores that the service log marks, through the repair map (R406, R409). A repair changes the usable granules of the
marked cores alone and raises none of their counts (DESIGN CHOICE, log 38: R3 lets it draw on the spare column and gives no bound). -/
def Flash.repair (f : Flash) : Flash :=
  { f with usable := f.service.foldl (fun l c => kset l c (min (kgetD l c 32) (Config.repaired c))) f.usable }

/-- The identity key that firmware derives from the device secret at every boot (R407). -/
def identity : BitVec 256 := Config.identityKey Config.deviceSecret

/-- The five measurements of an attestation: stage one, firmware A, firmware B, the resident kernel and the configuration block (R408). -/
def State.measurements (s : State) : List (BitVec 256) :=
  [Config.measurement 0 0, Config.measurement 1 s.flash.versionA, Config.measurement 1 s.flash.versionB, Config.measurement 2 0,
   Config.digest (dwordBytes s.flash.block)]

/-- The package after the step of a boot that applies repair (R406): what flash, fuses and the domain keep stays, and everything else is as after
reset. -/
def State.booted (s : State) : State :=
  { State.reset with
    fresh := s.fresh, inputs := s.inputs, outputs := s.outputs, domTicks := s.domTicks, sysTicks := s.sysTicks, pkgNum := s.pkgNum,
    pkgDom := s.pkgDom, localHoming := s.flash.local_, leafIndex := s.leafIndex, flash := s.flash.repair,
    cores := s.cores.map (fun (x : Nat × Core) => (x.1, { Core.reset with usable := kgetD s.flash.repair.usable x.1 x.2.usable })),
    dom := { Domain.reset with members := s.dom.members, ndoms := s.dom.ndoms, gateway := s.dom.gateway },
    ckpt := { Checkpoint.reset with images := s.ckpt.images } }

/-- The package halted in the first step of a boot, before the repair (R406). -/
def State.unbooted (s : State) : State :=
  { s.booted with
    flash := s.flash, cores := s.cores.map (fun x => (x.1, { Core.reset with usable := x.2.usable })), stopped := true }

/-- PACKAGE_RESET: the boot. Where the ROM's verification fails, the package halts with no endpoint; stage one, after the repair, rejects firmware or a
kernel that does not verify or whose security version is below SECVER (R406), and the package then has no endpoint either (log 38). -/
def execPackageReset (verified : BootCheck) (s : State) : Host.Outcome State Fault Refusal :=
  .next (if !verified.rom then s.unbooted
    else if verified.images && decide (s.flash.secver ≤ verified.security) then s.booted
    else { s.booted with stopped := true })

/-- ATTESTATION (R408): a report signed with the identity key under the next leaf, whose index is advanced first; with no leaf left it refuses. -/
def execAttestation (nonce : BitVec 256) (s : State) : Host.Outcome State Fault Refusal :=
  if s.leafIndex < 2 ^ 20 then
    let content := nonce :: (s.measurements ++ [BitVec.setWidth 256 s.endpoint.enabled])
    .next { s with
      leafIndex := s.leafIndex + 1
      outputs := s.outputs ++ [.report s.leafIndex nonce s.measurements s.endpoint.enabled
        (Config.signature identity s.leafIndex content)] }
  else .next s

/-- MONITOR_SAMPLE: one reading of the monitors. -/
def execMonitorSample (m : Sample) (s : State) : Host.Outcome State Fault Refusal :=
  .next (if 115 < m.temp ∨ m.voltageOut then { s with stopped := true }
    else if 105 < m.temp ∨ 2800 < m.power then { s with throttle := max 4 (s.throttle - 1) }
    else if m.temp < 95 ∧ m.power < 2700 then { s with throttle := min 16 (s.throttle + 1) }
    else s)

/-! ### Accesses of the host side (R381, R382) -/

/-- A run of bytes cut into pieces that each lie within one line, as an address and its bytes. -/
def linePieces : Nat → Nat → List Byte → List (Nat × List Byte)
  | 0, _, _ => []
  | _, _, [] => []
  | fuel + 1, pa, b :: bs =>
    let n := 64 - pa % 64
    (pa, (b :: bs).take n) :: linePieces fuel (pa + n) ((b :: bs).drop n)

/-- Bytes as one number, the first the least significant. -/
def bytesNat : List Byte → Nat
  | [] => 0
  | b :: bs => b.toNat + 256 * bytesNat bs

/-- The bytes of a number. -/
def natBytes : Nat → Nat → List Byte
  | 0, _ => []
  | n + 1, v => BitVec.ofNat 8 v :: natBytes n (v / 256)

/-- Physical addresses, as the agents outside the cores use them. -/
def physicalSpace : Space := { ptroot := 0, asid := 0, super := true, physical := true }

/-- A coherent read at scope sys by an agent outside the cores; the addresses have been checked before. -/
def State.sysRead (s : State) (ps : List (Nat × List Byte)) : List Byte × State :=
  ps.foldl (fun (a : List Byte × State) p =>
    let r := a.2.spaceLoad agOutside physicalSpace (BitVec.ofNat 64 p.1) p.2.length
    (a.1 ++ natBytes p.2.length (match r.1 with | .ok x => x.1 | .error _ => 0), r.2)) ([], s)

/-- A coherent write at scope sys by an agent outside the cores. -/
def State.sysWrite (s : State) (ps : List (Nat × List Byte)) : State :=
  ps.foldl (fun (t : State) p =>
    (t.spaceStore agOutside physicalSpace (BitVec.ofNat 64 p.1) p.2.length (bytesNat p.2) false).2) s

/-- HOST_DEVICE_ACCESS: reads are coherent; writes go to device memory without passing the slices. The data of a read gives its length. -/
def execHostDeviceAccess (isWrite : Bool) (pa : Nat) (data : List Byte) (s : State) : Host.Outcome State Fault Refusal :=
  let ps := linePieces data.length pa data
  if !s.ownMemory pa data.length then .next s
  else if isWrite then
    .next (ps.foldl (fun (t : State) p => t.uncachedStore p.1 p.2.length (bytesNat p.2) false 0) s)
  else
    let r := s.sysRead ps
    .next { r.2 with outputs := r.2.outputs ++ [.hostRead pa r.1] }

/-- APPLICATION_CORE_ACCESS: coherent at scope sys, in the single order. -/
def execApplicationCoreAccess (isWrite : Bool) (pa : Nat) (data : List Byte) (s : State) : Host.Outcome State Fault Refusal :=
  let ps := linePieces data.length pa data
  if !s.ownMemory pa data.length then .next s
  else if isWrite then
    .next (s.sysWrite ps)
  else
    let r := s.sysRead ps
    .next { r.2 with outputs := r.2.outputs ++ [.hostRead pa r.1] }

end Sys2Proof.Machine
end

