-- ==== Sys2Proof/Machine/Domain.lean ====
section
/-! DEFINITION. The coherence domain around the package (spec 22 R386, R389 to R397): requests and releases at the planes, forwards, recalls,
heartbeats, lost planes and lost packages. -/

namespace Sys2Proof.Machine

/-! ### Links (R386) -/

/-- LINK_REPLAY: the flits that the far side has not acknowledged, a free number of the newest, are sent again in order; receivers discard
duplicates (R396). -/
def execLinkReplay (link : Nat) (s : State) : Host.Outcome State Fault Refusal :=
  let l := kgetD s.dom.replay link []
  if l.isEmpty then .next s
  else
    let keep := l.drop (Config.choose s.fresh % (l.length + 1))
    .next { s with
      fresh := s.fresh + 1
      outputs := s.outputs ++ keep.map .packet
      dom := { s.dom with replay := kset s.dom.replay link keep } }

/-! ### Requests (R391) -/

/-- GETS. A request for a recovering line is held (R396). -/
def execGets (line pkg : Nat) (s : State) : Host.Outcome State Fault Refusal :=
  .next (if s.recovering line then s else s.getS line pkg)

/-- GETM. -/
def execGetm (line pkg : Nat) (s : State) : Host.Outcome State Fault Refusal :=
  .next (if s.recovering line then s else s.getM line pkg)

/-! ### Releases (R391, R396) -/

/-- Bytes that a release brings home: taken where this package is the home and still needs them (R396, step 2). -/
def State.bringHome (s : State) (line : Nat) (data : VReg) (pois : Bool) : State :=
  if homePkg line = s.pkgNum ∧ s.dom.homeStale.contains line then s.arrive line data pois else s

/-- The home's bits after the line's last copy has gone. -/
def State.homeAlone (s : State) (line : Nat) : State := ((s.setX line false).setD line false).freeDir line

/-- A holder taken out of an entry: what an owner leaves behind is clean copies, its data being home. -/
def DirEntry.without (e : DirEntry) (pkg : Nat) : DirEntry :=
  if e.state ≠ .shared ∧ e.owner = pkg then { e with state := .shared, sharers := ndel e.sharers pkg }
  else { e with sharers := ndel e.sharers pkg }

/-- A release of a line that is recovering from the loss of its plane goes to the home alone (R396, step 2); the package holds the line no
more. -/
def State.releaseRecovering (s : State) (line pkg : Nat) : State :=
  ((s.giveUp line pkg).setD line false).modDom (fun d => { d with
    dir := match kget d.dir line with | none => d.dir | some e => kset d.dir line (e.without pkg) })

/-- PUTS: a sharer releases its copy, clean at the home (R389). -/
def execPuts (line pkg : Nat) (s : State) : Host.Outcome State Fault Refusal :=
  if s.recovering line then .next (s.releaseRecovering line pkg)
  else match kget s.dom.dir line with
    | none => .next s
    | some e =>
      if e.state = .shared ∧ e.sharers.contains pkg then
        let s1 := (s.giveUp line pkg).setD line false
        let rest := ndel e.sharers pkg
        .next (if rest.isEmpty then s1.homeAlone line else s1.setDir line .shared e.owner rest)
      else .next s

/-- PUTE: the owner in E releases its clean copy. -/
def execPute (line pkg : Nat) (s : State) : Host.Outcome State Fault Refusal :=
  if s.recovering line then .next (s.releaseRecovering line pkg)
  else match kget s.dom.dir line with
    | none => .next s
    | some e => if e.state = .exclusive ∧ e.owner = pkg then .next ((s.giveUp line pkg).homeAlone line) else .next s

/-- PUTM: the owner writes the line home and releases it; an owner in E may have written it without a request (R390). -/
def execPutm (line pkg : Nat) (data : VReg) (pois : Bool) (s : State) : Host.Outcome State Fault Refusal :=
  if s.recovering line then .next ((s.bringHome line data pois).releaseRecovering line pkg)
  else match kget s.dom.dir line with
    | none => .next s
    | some e =>
      if (e.state = .modified ∨ e.state = .exclusive) ∧ e.owner = pkg then
        .next (((s.bringHome line data pois).giveUp line pkg).homeAlone line)
      else .next s

/-- PUTO: the owner in O writes the line home and releases it; the sharers stay. -/
def execPuto (line pkg : Nat) (data : VReg) (pois : Bool) (s : State) : Host.Outcome State Fault Refusal :=
  if s.recovering line then .next ((s.bringHome line data pois).releaseRecovering line pkg)
  else match kget s.dom.dir line with
    | none => .next s
    | some e =>
      if e.state = .owned ∧ e.owner = pkg then
        let s1 := ((s.bringHome line data pois).giveUp line pkg).setD line false
        .next (if e.sharers.isEmpty then s1.homeAlone line else s1.setDir line .shared pkg e.sharers)
      else .next s

/-! ### Forwards and recalls (R392, R394) -/

/-- FORWARD: a holder supplies its copy and keeps it, supplies and drops it, or drops it; what it drops raises RH first. -/
def execForward (line pkg : Nat) (k : FwdKind) (s : State) : Host.Outcome State Fault Refusal :=
  match k with
  | .supplyKeep =>
    .next (match s.copyOf pkg line with
      | some .m => s.setCopy pkg line (some .o)
      | some .e => s.setCopy pkg line (some .cleanS)
      | _ => s)
  | .supplyDrop => .next (s.giveUp line pkg)
  | .invalidate => .next (s.giveUp line pkg)

/-- RECALL: the least recently used entry of the full set that must take a line. -/
def execRecall (line : Nat) (s : State) : Host.Outcome State Fault Refusal := .next (s.makeRoom line)

/-! ### A plane lost (R395, R396) -/

/-- The live packages of the domain. -/
def Domain.alive (d : Domain) : List Nat := d.members.filter (fun p => !d.lost.contains p)

/-- The plane that combines sweeps: the lowest-numbered live one, where one that has been declared lost lives no more (R399). -/
def Domain.combiner (d : Domain) : Option Nat := d.live.find? (fun p => d.recovery.all (fun r => r.plane != p))

/-- The sweeps under way that a plane combines publish nothing once it has failed: those of a domain and of the system (R399). -/
def State.dropSweeps (s : State) (plane : Nat) : State :=
  if s.dom.combiner ≠ some plane then s
  else { s with socs := s.socs.map (fun x => (x.1,
    match x.2.scope with
    | .die => x.2
    | .package => x.2
    | _ => { x.2 with sweep := x.2.sweep.map (fun w => { w with publishes := false, lost := true }) })) }

/-- Whether a plane has been declared lost already, or is none. -/
def Domain.declared (d : Domain) (plane : Nat) : Bool :=
  d.deadPlanes.contains plane || d.recovery.any (fun r => r.plane == plane) || decide (Config.planes ≤ plane)

/-- A plane declared lost: its recovery begins, beside any other plane's that is under way; the loss is announced, and this package releases every copy that it holds of
a line of the plane, RH raised first (R395, R396). -/
def State.declareLost (s : State) (plane : Nat) : State :=
  if s.dom.declared plane then s
  else
    let s1 := (s.dropSweeps plane).modDom (fun d => { d with recovery := d.recovery ++ [{ plane := plane, reported := [], since := s.sysTicks }] })
    let mine := (kgetD s1.dom.copies s1.pkgNum []).filter (fun x => s1.dom.planeOf x.1 == plane)
    let s2 := mine.foldl (fun (t : State) x => t.giveUp x.1 t.pkgNum) s1
    { s2 with outputs := s2.outputs ++ [.announcePlane plane] }

/-- The packets of a failed link's replay buffer sent again on their new routes, in order (R396). -/
def State.replayMoved (s : State) (plane : Nat) : State :=
  (kgetD s.dom.replay plane []).foldl (fun (t : State) p =>
    let link := t.dom.route (epCore p.src) (epCore p.dst)
    { t with outputs := t.outputs ++ [.packet p]
             dom := { t.dom with replay := kset t.dom.replay link (kgetD t.dom.replay link [] ++ [p]) } })
    (s.modDom (fun d => { d with replay := kdel d.replay plane }))

/-- The end of one plane's recovery: X is cleared, a line that is still stale is poisoned, the new map holds, and what the failed plane had not carried is sent on it. -/
def State.finishRecovery (s : State) (plane : Nat) : State :=
  let moved (line : Nat) : Bool := s.dom.planeOf line == plane
  let stale := s.dom.homeStale.filter (fun x => moved x && homePkg x == s.pkgNum)
  let s1 : State := { s with
    poison := stale.foldl (fun p x => setPois p x true) s.poison
    dom := { s.dom with
      exported := s.dom.exported.filter (fun x => !moved x)
      homeStale := s.dom.homeStale.filter (fun x => !moved x)
      dir := s.dom.dir.filter (fun x => !moved x.1)
      copies := s.dom.copies.map (fun (x : Nat × List (Nat × CopyState)) => (x.1, x.2.filter (fun y => !moved y.1)))
      known := s.dom.known.filter (fun x => !moved x)
      deadPlanes := nadd s.dom.deadPlanes plane
      missed := kdel s.dom.missed plane
      recovery := s.dom.recovery.filter (fun r => r.plane != plane) } }
  s1.replayMoved plane

/-- A recovery ends when every live package has reported (R396). -/
def State.endRecovery (s : State) : State :=
  (s.dom.recovery.filter (fun r => s.dom.alive.all r.reported.contains)).foldl (fun (t : State) r => t.finishRecovery r.plane) s

/-- A package's report put down for the first recovery that lacks it. -/
def noteReport (pkg : Nat) : List Recovery → List Recovery
  | [] => []
  | r :: rs => if r.reported.contains pkg then r :: noteReport pkg rs else { r with reported := nadd r.reported pkg } :: rs

/-- HEARTBEAT: the 64th in a row that fails to arrive declares the plane lost. -/
def execHeartbeat (plane : Nat) (arrived : Bool) (s : State) : Host.Outcome State Fault Refusal :=
  if arrived then .next (s.modDom (fun d => { d with missed := kdel d.missed plane, beats := d.beats + 1 }))
  else
    let n := kgetD s.dom.missed plane 0 + 1
    let s1 := s.modDom (fun d => { d with missed := kset d.missed plane n, beats := d.beats + 1 })
    .next (if 64 ≤ n then s1.declareLost plane else s1)

/-- PLANE_LOST: the link to a plane goes down, or another package announces its loss. -/
def execPlaneLost (plane : Nat) (s : State) : Host.Outcome State Fault Refusal := .next (s.declareLost plane)

/-- RECOVERY_REPORT: a package has released its copies; its reports answer the recoveries under way in the order of their declarations. -/
def execRecoveryReport (pkg : Nat) (s : State) : Host.Outcome State Fault Refusal :=
  .next (s.modDom (fun d => { d with recovery := noteReport pkg d.recovery })).endRecovery

/-! ### A package lost (R397) -/

/-- Whether a survivor has brought the line of a lost owner in O home already, in the recovery from a plane's loss: D is clear (R396, step 2). -/
def State.broughtHome (s : State) (line : Nat) (e : DirEntry) : Bool :=
  e.state == .owned && s.recovering line && homePkg line == s.pkgNum && !s.dom.homeStale.contains line

/-- A line whose owner is lost: taken from a survivor's copy where there is one, else poisoned, where no survivor has brought it home, and its entry freed. -/
def State.ownerLost (s : State) (pkg line : Nat) (e : DirEntry) : State :=
  let survivors := e.sharers.filter (fun p => p != pkg && s.copyOf p line == some .ownerS)
  if e.state = .owned ∧ !survivors.isEmpty then
    let s1 := if homePkg line = s.pkgNum then s.arriveFree line else s
    (s1.setD line false).setDir line .shared e.owner (ndel e.sharers pkg)
  else
    let s1 := if homePkg line = s.pkgNum ∧ s.broughtHome line e = false then { s with poison := setPois s.poison line true } else s
    s1.homeAlone line

/-- One entry after the loss of a package. -/
def State.afterLoss (s : State) (pkg line : Nat) (e : DirEntry) : State :=
  if e.state ≠ .shared ∧ e.owner = pkg then s.ownerLost pkg line e
  else if e.sharers.contains pkg then
    let rest := ndel e.sharers pkg
    if e.state = .shared ∧ rest.isEmpty then s.homeAlone line else s.setDir line e.state e.owner rest
  else s

/-- The running regions. -/
def State.runningRegions (s : State) : List (Nat × Region) := s.regions.filter (fun x => x.2.running)

/-- The answers to what this package has sent to a lost one and that nothing has answered: messages, tasks and events, each with ERR SEALED (R397). -/
def State.lostAnswers (s : State) (pkg : Nat) : List Packet :=
  let mk (rcb : Nat) (src dst : BitVec 40) (tag : Byte) (rs : BitVec 4) (fl : Option (Nat × Option (BitVec 4))) : Packet :=
    { net := .rpl, src := dst, dst := src, rcb := rcb, body := .error { hdr := header 2 tag 2 false rs dst, data := 0, pois := 0 } fl }
  let tagOf (ep : BitVec 40) (rs : BitVec 4) : Byte :=
    ((vget (s.getCtx (ctxKey (epCore ep) (epSlot ep))).landing rs.toNat none).map Landing.tag).getD 0
  s.regions.flatMap (fun x => (x.2.unacked.filter (fun u => epPkg u.2.2 == pkg)).map (fun u => mk x.1 u.1 u.2.2 (tagOf u.1 u.2.1) u.2.1 none)) ++
  s.cores.flatMap (fun x => (x.2.flight.filter (fun f => epPkg f.dst == pkg && f.acked.isNone && f.refused.isNone)).map (fun f =>
    mk f.rcb f.src f.dst 0 (f.rslot.getD 0) (some (f.id, f.rslot))))

/-- PACKAGE_LOST: every link of a package is down, or it makes no report in time. What has been sent to it and is not answered, and what is sent to it from now on, is answered SEALED
(see `State.depart`, R397). The cores of every region here are this package's own, so its regions end where it is lost itself. -/
def execPackageLost (pkg : Nat) (s : State) : Host.Outcome State Fault Refusal :=
  if pkg = s.pkgNum then .next (s.runningRegions.foldl (fun (t : State) x => t.endRegion x.1 0x10) s)
  else if !s.dom.alive.contains pkg then .next s
  else
    let s1 := s.dom.dir.foldl (fun (t : State) x => t.afterLoss pkg x.1 x.2) s
    let s2 := s1.modDom (fun d => { d with lost := nadd d.lost pkg, copies := kdel d.copies pkg })
    .next (s2.push (s.lostAnswers pkg)).endRecovery

/-- Whether the ten milliseconds in which a package must report have passed for one of them, by the rated clock (R2, R396, R397). -/
def State.silent (s : State) : Option Nat :=
  s.dom.recovery.findSome? (fun r =>
    if s.sysTicks < r.since + 12_500_000 then none
    else s.dom.alive.find? (fun p => !r.reported.contains p && p != s.pkgNum))

end Sys2Proof.Machine
end

