-- ==== Sys2Proof/Machine/Checkpoint.lean ====
section
/-! DEFINITION. Checkpoint and restore (spec 22 R400 to R404). -/

namespace Sys2Proof.Machine

/-- Ticks of the rated clock in a millisecond (R399). -/
def tickMs : Nat := 1_250_000

/-- Whether a trigger has come (R400). -/
def State.triggered (s : State) : Bool :=
  let k := s.ckpt
  (k.ckper != 0 && decide (k.since + k.ckper * tickMs ≤ s.sysTicks)) || (k.ckstep != 0 && decide (k.ckstep ≤ k.launches))

/-- The U contexts that live. -/
def State.liveTasks (s : State) : List (Nat × Context) := s.ctxs.filter (fun x => x.1 % 64 != 0 && x.2.live)

/-- Whether contexts of running regions have not been asked to yield. -/
def State.askable (s : State) : Bool :=
  s.liveTasks.any (fun x => x.2.yieldReq.isNone && ((s.getRegion? x.2.rgn).map Region.running).getD false)

/-- Whether a checkpoint starts now, or goes on asking contexts to yield (R400, R401). -/
def State.ckptDue (s : State) : Bool :=
  match s.ckpt.step with
  | .idle => s.endpoint.enabled.getLsbD 1 && s.triggered
  | .quiesce => s.askable
  | .stream _ => false

/-- CHECKPOINT_START: the front cores stop at packet boundaries, dealers start nothing, and every running region is pre-empted. -/
def execCheckpointStart (s : State) : Host.Outcome State Fault Refusal :=
  if !s.ckptDue then .next s
  else
    let s1 := { s with ckpt := { s.ckpt with step := .quiesce } }
    .next (s1.runningRegions.foldl (fun (t : State) x => x.2.cores.foldl (fun (u : State) c => u.requestYield x.1 c) t) s1)

/-- Whether the domain, as far as this package goes, has drained (R401): every published kiln value has reached its cores too, so that the deferred actions below the one
that KSAVE takes have run (R404). -/
def State.drained (s : State) : Bool :=
  s.liveTasks.isEmpty && s.ctxs.all (fun x => x.2.sendq.isEmpty && (match x.2.slot with | .draining _ => false | _ => true)) &&
  s.copies.isEmpty && s.attns.isEmpty && s.requests.isEmpty && s.cores.all (fun x => x.2.flight.isEmpty) &&
  s.net.all (fun p => p.net != .req) && s.cores.all (fun x => x.2.undo.isEmpty) && s.dom.recovery.isEmpty &&
  s.socs.all (fun x => x.2.arriving.isEmpty)

/-- Whether a context that must be saved has no free save record (R371, R401). -/
def State.unsavable (s : State) : Bool :=
  s.liveTasks.any (fun x => x.2.firing.isNone && ((s.getRegion? x.2.rgn).bind Region.freeRecord).isNone)

/-- The least usable granule count of a core (R403). -/
def State.gmin (s : State) : Nat := s.cores.foldl (fun m x => min m x.2.usable) 32

/-- The least kiln value that a core of a running region holds for the region's society, 0 when none (R403); before its first publication that is 0 (R166). -/
def State.leastKiln (s : State) : Dword :=
  BitVec.ofNat 64 ((least (s.runningRegions.flatMap (fun x => x.2.cores.map (fun c => ((s.getCore c).kiln x.2.soc).toNat)))).getD 0)

/-- KSAVE of every running region's own block written (R404). -/
def State.writeKsave (s : State) : State :=
  s.runningRegions.foldl (fun (t : State) x =>
    let kiln := ((kget t.socs x.2.soc).map Society.kiln).getD 0
    (t.frontStore (t.ownerSpace x.2.owner) (BitVec.ofNat 64 (x.1 + 0x70)) 8 kiln.toNat false).2) s

/-- The package's M and O copies of other packages' lines written home, and what other packages hold newer of its own lines brought home (R401,
step 5). -/
def State.cleanCopies (s : State) : State :=
  let s1 := ((kgetD s.dom.copies s.pkgNum []).filter (fun x => x.2 == .m || x.2 == .o)).foldl (fun (t : State) x => t.getS x.1 (homePkg x.1)) s
  (s1.dom.homeStale.filter (fun l => homePkg l == s1.pkgNum)).foldl (fun (t : State) l => t.getS l t.pkgNum) s1

/-- Device memory as the single order leaves it. -/
def State.imageMemory (s : State) : Memory :=
  (s.behind.foldl (fun (m : Memory) x => if x.2.dirty then m else m.write (64 * x.1) 64 x.2.data.toNat) s.mem).filter
    (fun c => pkgOf c.1 == s.pkgNum && decide (c.1 % 2 ^ 44 < 2 ^ 40))

/-- The poisoned lines of device memory as the single order leaves it (R231). -/
def State.imagePoison (s : State) : List Nat :=
  (s.behind.foldl (fun (p : List Nat) x => if x.2.dirty then p else setPois p x.1 x.2.pois) s.poison).filter (fun l => homePkg l == s.pkgNum)

/-- The memory-key table wrapped under the domain's checkpoint key, and unwrapped: another key yields none of it (R402). -/
def State.wrapKeys (s : State) : WrappedKeys := { under := Config.checkpointKey s.pkgDom, table := s.keys }
def State.unwrapKeys (s : State) (w : WrappedKeys) : List (Nat × Nat) := if w.under = Config.checkpointKey s.pkgDom then w.table else []

/-- The image at the snapshot instant (R402, R403). -/
def State.image (s : State) : Image :=
  { mem := s.imageMemory, poison := s.imagePoison, keys := s.wrapKeys, regions := s.regions, socs := s.socs, queues := s.queues,
    npkg := s.dom.members.length, ndom := s.dom.ndoms, cores := Config.coresPerDie, gmin := s.gmin, kiln := s.leastKiln,
    enc := s.enc.filter (fun x => homePkg x.1 == s.pkgNum), digest := Config.digest s.imageMemory, valid := false }

/-- The dwords of an image's header in front of its digest (R403). -/
def Image.header (img : Image) : List Dword :=
  [0x4B49_4C4E_5658_3934, BitVec.ofNat 64 (2 ^ 32 + img.npkg % 2 ^ 16 * 2 ^ 16 + img.ndom % 2 ^ 16),
   BitVec.ofNat 64 (img.cores % 2 ^ 16 * 2 ^ 16 + img.gmin % 32), img.kiln]

/-- Every request to yield withdrawn. -/
def State.unask (s : State) : State := { s with ctxs := s.ctxs.map (fun (x : Nat × Context) => (x.1, { x.2 with yieldReq := none })) }

/-- CHECKPOINT_SNAPSHOT: once everything has drained the snapshot instant falls and the regions go on; a context that cannot be saved ends the
attempt. -/
def execCheckpointSnapshot (s : State) : Host.Outcome State Fault Refusal :=
  if s.ckpt.step ≠ .quiesce then .next s
  else
    let k := { s.ckpt with since := s.sysTicks, launches := 0 }
    if s.unsavable then .next { s.unask with ckpt := { k with step := .idle } }
    else if !s.drained then .next s
    else
      let s1 := (s.placeThose (fun _ => true)).cleanCopies.writeKsave
      .next { s1 with ckpt := { k with step := .stream 0, taken := [], pending := some s1.image } }

/-- Frames of a package's device memory (R402). -/
def frames : Nat := 2 ^ 24

/-- The frame that the store of a waiting context, or the next lane of its vector store, waits for. -/
def State.frameWanted (s : State) (c : Context) : Option Nat :=
  match c.wait with
  | none => none
  | some w => match w.kind with
    | .frame n => some n
    | .lanes p => if p.store then p.todo.head?.bind (fun x => s.frameDue x.2.2) else none
    | _ => none

/-- A frame that a store of a context waits for and that has not been streamed (R402). -/
def State.waitedFrame (s : State) (next : Nat) : Option Nat :=
  s.ctxs.findSome? (fun x => (s.frameWanted x.2).filter (fun n => decide (next ≤ n) && !s.ckpt.taken.contains n))

/-- The stream is over: its header has been written last, and the image takes the slot that did not hold the previous one (R402, R403). -/
def State.streamed (s : State) (img : Image) : State :=
  { s with
    outputs := s.outputs ++ [.imageHeader img.header img.digest]
    ckpt := { s.ckpt with step := .idle, taken := [], pending := none, images := { img with valid := true } :: s.ckpt.images.take 1 } }

/-- The next frame in ascending order streamed, unless it has been taken ahead of its turn; after the last the header. -/
def State.frameInTurn (s : State) (f : Nat) (img : Image) : State :=
  let s1 := if s.ckpt.taken.contains f then { s with ckpt := { s.ckpt with taken := ndel s.ckpt.taken f } }
    else { s with outputs := s.outputs ++ [.frame f (img.mem.filter (fun c => c.1 % 2 ^ 44 / 65536 == f))] }
  if f + 1 < frames then { s1 with ckpt := { s1.ckpt with step := .stream (f + 1) } } else s1.streamed img

/-- CHECKPOINT_FRAME (R402): a frame that a store waits for is taken next, else the next in order; a stream that fails leaves the previous image
valid. -/
def execCheckpointFrame (s : State) : Host.Outcome State Fault Refusal :=
  match s.ckpt.step, s.ckpt.pending with
  | .stream f, some img =>
    let s1 := { s with fresh := s.fresh + 1 }
    .next (if Config.sinkFails s.fresh then { s1 with ckpt := { s1.ckpt with step := .idle, taken := [], pending := none } }
      else match s.waitedFrame f with
        | some n => s1.takeFrame n
        | none => s1.frameInTurn f img)
  | _, _ => .next s

/-- Whether an image fits the system (R404). -/
def State.fits (s : State) (img : Image) : Bool :=
  img.valid && img.npkg == s.dom.members.length && img.ndom == s.dom.ndoms && img.cores == Config.coresPerDie && decide (img.gmin ≤ s.gmin)

/-- KSAVE of a region's own block. -/
def State.ksave (s : State) (rcb : Nat) (r : Region) : Dword :=
  match (s.frontLoad (s.ownerSpace r.owner) (BitVec.ofNat 64 (rcb + 0x70)) 8).1 with
  | .ok x => BitVec.ofNat 64 x.1
  | .error _ => 0

/-- A society of an image on the clocks of the system that it is restored to: its sweeps start afresh, and each publishes that would have before
(R404). -/
def Society.restart (so : Society) (s : State) : Society :=
  let p := sweepPeriod so.scope
  { so with pushed := so.pushed.map (fun _ => 0), sweep := none, next := (s.clock so.scope / p + 1) * p, other := none, arriving := [] }

/-- Memory and keys written back, every cache empty, and nothing in flight (R404). -/
def State.emptied (s : State) (img : Image) : State :=
  { s with
    mem := img.mem, poison := img.poison, keys := s.unwrapKeys img.keys, enc := img.enc, behind := [], leases := [], early := [], past := [], tlb := [],
    net := [], copies := [], attns := [], layouts := [], requests := [], regions := img.regions
    socs := img.socs.map (fun x => (x.1, x.2.restart s))
    ctxs := s.ctxs.map (fun (x : Nat × Context) =>
      if x.1 % 64 = 0 then x else (x.1, { Context.reset .user with inc := x.2.inc }))
    cores := s.cores.map (fun (x : Nat × Core) =>
      (x.1, { Core.reset with usable := x.2.usable, sealed := x.2.sealed, serial := x.2.serial, corrected := x.2.corrected,
                                retries := x.2.retries, retryLog := x.2.retryLog }))
    dom := { s.dom with dir := [], copies := [], exported := [], homeStale := [], known := [] }
    ckpt := { s.ckpt with step := .idle, taken := [], pending := none } }

/-- The kiln value of a region's society on its cores and in the society, from KSAVE (R404). -/
def State.restoreKiln (s : State) (rcb : Nat) (r : Region) : State :=
  let v := s.ksave rcb r
  let s1 := r.cores.foldl (fun (t : State) c => t.modCore c (fun co => { co with kilns := kset co.kilns r.soc v })) s
  s1.modSoc r.soc (fun so => { so with kiln := v, sweep := none })

/-- RESTORE: onto a system of the image's shape; any other refuses it with a shape mismatch and changes nothing. -/
def execRestore (s : State) : Host.Outcome State Fault Refusal :=
  match s.ckpt.images with
  | [] => .next s
  | img :: _ =>
    if !s.fits img then .next { s with outputs := s.outputs ++ [.shapeMismatch] }
    else
      let s1 := s.emptied img
      let s2 := s1.runningRegions.foldl (fun (t : State) x => t.restoreKiln x.1 x.2) s1
      .next { s2 with queues := img.queues.map (fun (x : Nat × Queue) =>
        (x.1, { x.2 with levels := [], waiting := none, head := (s2.dwordAt (x.2.desc + 0x10)).toNat })) }

end Sys2Proof.Machine
end

