-- ==== Sys2Proof/Machine/Copy.lean ====
section
/-! DEFINITION. Copies and tags (spec 13 R252 to R258; 15 R290 to R295). -/

namespace Sys2Proof.Machine

/-! ### The tensor layout record (R252, R253) -/

/-- Dword `i` of a record read as one number. -/
def recDword (x i : Nat) : Nat := x / 2 ^ (64 * i) % 2 ^ 64

/-- The product of extents. -/
def product (xs : List Nat) : Nat := xs.foldl (· * ·) 1

/-- Whether a record keeps R252 and R253, given its fields. -/
def layoutOk (x ndim esize : Nat) (ext : List Nat) (sstr dstr : List Int) : Bool :=
  let e := 2 ^ esize
  recDword x 0 / 2 ^ 12 % 2 ^ 20 == 0 && recDword x 0 / 8 % 32 == 0 &&
  (rangeFrom 0 5).all (fun k => recDword x (1 + k) / 2 ^ 32 == 0) && (rangeFrom 16 8).all (fun k => recDword x k == 0) &&
  decide (1 ≤ ndim) && decide (ndim ≤ 5) && decide (esize ≤ 6) &&
  (rangeFrom 0 5).all (fun k =>
    let used := decide (k < ndim)
    let n := ext.getD k 0
    let a := sstr.getD k 0
    let b := dstr.getD k 0
    if used then decide (1 ≤ n) && a % (e : Int) == 0 && b % (e : Int) == 0 else n == 0 && a == 0 && b == 0) &&
  decide (product (ext.take ndim) * e ≤ 2 ^ 36)

/-- A layout record out of its 192 bytes. -/
def Layout.of (x : Nat) : Layout :=
  let ndim := recDword x 0 / 2 ^ 8 % 16
  let esize := recDword x 0 % 8
  let ext := (rangeFrom 0 5).map (fun k => recDword x (1 + k) % 2 ^ 32)
  let sstr := (rangeFrom 0 5).map (fun k => signedOf 64 (recDword x (6 + k)))
  let dstr := (rangeFrom 0 5).map (fun k => signedOf 64 (recDword x (11 + k)))
  { handle := recDword x 0 / 2 ^ 32, ndim := ndim, esize := esize, ext := ext, sstr := sstr, dstr := dstr,
    ok := layoutOk x ndim esize ext sstr dstr }

/-- Bytes of an element, and the number of elements (R253). -/
def Layout.bytes (l : Layout) : Nat := 2 ^ l.esize
def Layout.count (l : Layout) : Nat := product (l.ext.take l.ndim)

/-- The offset of an element of linear index `i`: Σ ik × stride k (R253). -/
def offsetOf : List Nat → List Int → Nat → Int
  | n :: ns, d :: ds, i => ((i % n : Nat) : Int) * d + offsetOf ns ds (i / n)
  | _, _, _ => 0

/-- The address of an element, modulo 2^64 (R253). -/
def Layout.at_ (l : Layout) (strides : List Int) (base : Dword) (i : Nat) : Dword :=
  base + BitVec.ofInt 64 (offsetOf (l.ext.take l.ndim) strides i)

/-- The lowest and the highest byte of a destination, exactly (R291). -/
def Layout.span (l : Layout) (base : Dword) : Int × Int :=
  let ds := (l.ext.take l.ndim).zip l.dstr
  let lo := ds.foldl (fun (a : Int) x => a + min 0 (((x.1 : Int) - 1) * x.2)) (base.toNat : Int)
  let hi := ds.foldl (fun (a : Int) x => a + max 0 (((x.1 : Int) - 1) * x.2)) (base.toNat : Int)
  (lo, hi + l.bytes - 1)

/-- Whether both ends of a span lie in the scratchpad window (R208, R291). -/
def spanInScratch (x : Int × Int) : Bool :=
  let inside (i : Int) : Bool :=
    decide ((Config.scratchBase : Int) ≤ i) && decide (i < ((Config.scratchBase + Config.scratchWindow : Nat) : Int))
  inside x.1 && inside x.2

/-! ### The record caches (R255) -/

/-- A record kept in a quad's engine, newest first; the seventeenth is dropped. -/
def keepLayout (ls : List (Nat × (Nat × Nat × Layout))) (quad asid ra : Nat) (l : Layout) : List (Nat × (Nat × Nat × Layout)) :=
  let others := ls.filter (fun x => x.1 != quad)
  let mine := ls.filter (fun x => x.1 == quad && !(x.2.1 == asid && x.2.2.1 == ra))
  (quad, (asid, ra, l)) :: mine.take 15 ++ others

/-- The places of a record's three lines, at addresses that a register names: PAGE on any of them comes before ACCESS on any (R21), and either has the record as its value
(R291). -/
def recordPlaces (ra : Dword) : Exec (List Place) := do
  soundPlaces (← [ra, ra + 64, ra + 128].mapM (fun va => do return (ra, ← tryTranslate va .load 64)))

/-- A line of a record loaded. -/
def recordLoad (p : Place) : Exec (Nat × Bool) := do
  guardPlane p false
  waitSpWords p 64
  loadE p 64

/-- A record for a `dcopy`: from the quad's engine, or read from memory and kept where its handle is not 0; with its lines' poison. -/
def fetchLayout (ra : Dword) : Exec (Layout × Bool) := do
  let s ← get
  let quad := s.coreNum / 4
  let asid := s.cx.cr.asid.toNat
  match s.layouts.find? (fun x => x.1 == quad && x.2.1 == asid && x.2.2.1 == ra.toNat) with
  | some (_, (_, _, l)) =>
    modify (fun s => { s with layouts := keepLayout s.layouts quad asid ra.toNat l })
    return (l, false)
  | none =>
    let xs ← (← recordPlaces ra).mapM recordLoad
    let l := Layout.of (xs.foldr (fun x (n : Nat) => x.1 + 2 ^ 512 * n) 0)
    if l.handle ≠ 0 then modify (fun s => { s with layouts := keepLayout s.layouts quad asid ra.toNat l }) else pure ()
    return (l, xs.any (fun x => x.2))

/-- `dcopy` (R290, R291). -/
def execDcopy (r sr d : Reg) (t : BitVec 5) (q l : Bool) (c : Scope) (s : State) : Host.Outcome State Fault Refusal :=
  finish (do
    let x ← cx
    let ra := x.s r
    let sb := x.s sr
    let db := x.s d
    guardTrap (ra.toNat % 64 = 0) cALIGN ra
    let lay ← fetchLayout ra
    let e := lay.1.bytes
    guardTrap (decide (lay.1.esize = 7) || decide (sb.toNat % e = 0)) cALIGN sb
    guardTrap (decide (lay.1.esize = 7) || decide (db.toNat % e = 0)) cALIGN db
    guardTrap lay.1.ok cDESC ra
    guardTrap (!x.timed || spanInScratch (lay.1.span db)) cTIMEDWR db
    guardSteering (x.sp r || x.sp sr || x.sp d || lay.2)
    let n := lay.1.count * e
    engineRoom false (decide ((← get).quadCopies ((← get).coreNum / 4) < 32)) t.toNat n
    modCx (fun y => y.tagIssue t.toNat n)
    modify (fun s => { s with copies := s.copies ++ [(nextId s.copies,
      { core := s.coreNum, slot := s.slotNum, inc := x.inc, rcb := x.rgn, tag := t.toNat, lay := lay.1, src := sb, dst := db, next := 0, wrote := [],
        acq := q, rel := l, scope := c, lt := s.cx.commandTime q, space := x.space })] })
    retireE) s

/-! ### Tag instructions -/

/-- The lowest bit that is 1 in a word, 32 or above for none. -/
def lowestBit (m : Dword) : Nat := ((rangeFrom 0 32).find? (fun i => m.getLsbD i)).getD 32

/-- The mask operand of a tag instruction. -/
def tagMask (x : Dword) : Dword := x &&& 0xFFFF_FFFF

/-- What a wait on tags does once it has ended (R292). -/
def tagWaitEnd (m : Dword) (a : Reg) : Exec Unit := do
  let c ← cx
  guardTrap (c.tagErrBits &&& m == 0) cTAGERR (BitVec.ofNat 64 (lowestBit (c.tagErrBits &&& m)))
  guardPoison (c.sp a)

/-- `dwait.any` (R292). -/
def execDwaitAny (d a : Reg) (s : State) : Host.Outcome State Fault Refusal :=
  finish (do
    let c ← cx
    let m := tagMask (c.s a)
    if m ≠ 0 ∧ c.tagBits &&& m = 0 then throw (.wait (.tagsAny m)) else pure ()
    tagWaitEnd m a
    modCx (fun c => c.setS d (c.tagBits &&& m) false)
    retireE) s

/-- `dwait.all` (R292). -/
def execDwaitAll (a : Reg) (s : State) : Host.Outcome State Fault Refusal :=
  finish (do
    let c ← cx
    let m := tagMask (c.s a)
    if c.tagBits &&& m ≠ m then throw (.wait (.tagsAll m)) else pure ()
    tagWaitEnd m a
    retireE) s

/-- `dffr` (R293). -/
def execDffr (d a : Reg) (s : State) : Host.Outcome State Fault Refusal :=
  finish (do
    let c ← cx
    guardPoison (c.sp a)
    modCx (fun c => c.setS d (BitVec.ofNat 64 (lowestBit (tagMask (c.s a) &&& c.tagBits &&& ~~~c.tagErrBits))) false)
    retireE) s

/-- `rflush` (R255, R294). -/
def execRflush (a : Reg) (s : State) : Host.Outcome State Fault Refusal :=
  finish (do
    let c ← cx
    guardPoison (c.sp a)
    let h := (c.s a).toNat % 2 ^ 32
    modify (fun s => { s with layouts := s.layouts.filter (fun x =>
      h == 0 || !(x.2.1 == c.cr.asid.toNat && x.2.2.2.handle == h)) })
    retireE) s

/-- `dtagst` (R295). -/
def execDtagst (d a b : Reg) (s : State) : Host.Outcome State Fault Refusal :=
  finish (do
    let c ← cx
    guardPoison (c.sp a || (b != 0 && c.sp b))
    let t := (c.s a).toNat % 32
    let g := vget c.tags t Tag.reset
    let new := (c.s b).toNat % 2 ^ 40
    modCx (fun c => ({ c with tags := if b = 0 then c.tags else vset c.tags t { g with pending := new } }).setS d g.status false)
    retireE) s

/-! ### Pieces (R254, R256) -/

/-- The source and the destination address of an element of a command. -/
def CopyCmd.from_ (c : CopyCmd) (i : Nat) : Dword := c.lay.at_ c.lay.sstr c.src i
def CopyCmd.to_ (c : CopyCmd) (i : Nat) : Dword := c.lay.at_ c.lay.dstr c.dst i

/-- The elements of the next piece: consecutive ones in one source block and one destination block (R256). -/
def CopyCmd.piece (c : CopyCmd) : List Nat :=
  let sb := (c.from_ c.next).toNat / 64
  let db := (c.to_ c.next).toNat / 64
  (rangeFrom c.next (min 64 (c.lay.count - c.next))).takeWhile (fun i =>
    (c.from_ i).toNat / 64 == sb && (c.to_ i).toNat / 64 == db)

/-- The destination block after the elements of a piece have moved one at a time (R254). -/
def CopyCmd.moved (c : CopyCmd) (same : Bool) (src dst : VReg) : VReg :=
  c.piece.foldl (fun (buf : VReg) i =>
    let v := lineBytes (if same then buf else src) ((c.from_ i).toNat % 64) c.lay.bytes
    lineWith buf ((c.to_ i).toNat % 64) c.lay.bytes v) dst

/-- The bytes of its destination block that a piece writes. -/
def CopyCmd.mask (c : CopyCmd) : BitVec 64 :=
  BitVec.ofNat 64 ((rangeFrom 0 64).foldr (fun o (n : Nat) => 2 * n + if c.piece.any (fun i =>
    decide ((c.to_ i).toNat % 64 ≤ o) && decide (o < (c.to_ i).toNat % 64 + c.lay.bytes)) then 1 else 0) 0)

/-- The line of memory of a coherent place. -/
def Place.line? (p : Place) : Option Nat :=
  match p with
  | .coherent pa _ _ _ => some (lineOf pa)
  | _ => none

/-- Whether an earlier element of a command wrote into the line that a place lies in, which a later one reads as that left it (R254). -/
def CopyCmd.rereads (c : CopyCmd) (p : Place) : Bool := p.line?.any c.wrote.contains

/-- The lines that a command has written, with that of a place. -/
def CopyCmd.wroteAt (c : CopyCmd) (p : Place) : List Nat :=
  match p.line? with
  | none => c.wrote
  | some l => if c.wrote.contains l then c.wrote else l :: c.wrote

/-- How the accesses of a copy command are ordered (R227). -/
def CopyCmd.order (c : CopyCmd) (id : Nat) : CommandOrder :=
  { ctx := ctxKey c.core c.slot, inc := c.inc, rcb := c.rcb, cmd := 2 * id, acq := c.acq, rel := c.rel, scope := c.scope, lt := c.lt }

/-- Whether two places lie in one block of memory. -/
def Place.sameBlock (p q : Place) : Bool :=
  match p, q with
  | .coherent a _ _ _, .coherent b _ _ _ => a / 64 == b / 64
  | .uncached a _, .uncached b _ => a / 64 == b / 64
  | _, _ => false

/-- COPY_PIECE (R250, R251, R254, R256); a piece that a lost plane stalls is not moved yet (R396). A quad's engine starts its commands in the order of
arrival, and started ones go on in any order (R248): a start makes no access, so whichever command moves a piece, those before it have been
started by then, and the second of two may finish first (R291). -/
def execCopyPiece (cmd : Nat) (s : State) : Host.Outcome State Fault Refusal :=
  match kget s.copies cmd with
  | none => .next s
  | some c =>
    let e := c.lay.bytes
    let o := c.order cmd
    let fail (t : State) (reason : Byte) : State :=
      ({ t with copies := kdel t.copies cmd }.commandOver o.ctx o.cmd).tagAbandoned c.core c.slot c.tag ((c.lay.count - c.next) * e) reason
    let a := s.enginePlace o.lt c.core c.space ((c.from_ c.next) &&& ~~~63) .load
    match a.1 with
    | .error x => .next (fail a.2 x)
    | .ok pa =>
      let b := a.2.enginePlace o.lt c.core c.space ((c.to_ c.next) &&& ~~~63) .store
      match b.1 with
      | .error x => .next (fail b.2 x)
      | .ok pb =>
        if b.2.stalls pa false || b.2.stalls pb true then .next s else
        let x := b.2.blockAt c.core { o with acq := o.acq || c.rereads pa } pa
        let same := pa.sameBlock pb
        let s1 := x.2.putBlock c.core o pb c.mask (c.moved same x.1.1 (if same then x.1.1 else 0)) x.1.2
        let k := c.piece.length
        let s2 := if c.next + k < c.lay.count then { s1 with copies := kset s1.copies cmd { c with next := c.next + k, wrote := c.wroteAt pb } }
          else { s1 with copies := kdel s1.copies cmd }.commandOver o.ctx o.cmd
        .next (s2.tagPerformed c.core c.slot c.tag (k * e) (s1.writeTime pb))

end Sys2Proof.Machine
end

