-- ==== Sys2Proof/Machine/Faults.lean ====
section
/-! DEFINITION. Errors of the hardware, containment notices and the context window (spec 19 R334 to R341, R356, R357; 01 R415). -/

namespace Sys2Proof.Machine

/-- A line poisoned where the slice's copy is poisoned (R231, R335). -/
def State.poisonSlice (s : State) (line : Nat) : State := s.storeLine (64 * line) 0 0 true false

/-- A line poisoned as device memory returns it on a fill; a slice that holds the line is not filled (R231, R335). -/
def State.poisonMemory (s : State) (line : Nat) : State :=
  match kget s.behind line with
  | none => { s with poison := nadd s.poison line }
  | some b => { s with behind := kset s.behind line { b with pois := true } }

/-- A copy or attention command whose engine's buffers failed: REASON 0x11, and the rest abandoned (R251, R335). -/
def State.failCopy (s : State) (cmd : Nat) : State :=
  match kget s.copies cmd with
  | none => s
  | some c =>
    ({ s with copies := kdel s.copies cmd }.commandOver (ctxKey c.core c.slot) (2 * cmd)).tagAbandoned c.core c.slot c.tag ((c.lay.count - c.next) * c.lay.bytes) 0x11
def State.failAttn (s : State) (cmd : Nat) : State :=
  match kget s.attns cmd with
  | none => s
  | some a => ({ s with attns := kdel s.attns cmd }.commandOver (ctxKey a.core a.slot) (2 * cmd + 1)).tagAbandoned a.core a.slot a.tag a.bytes 0x11

/-- Ticks of the rated clock in an hour (R399, R409). -/
def hourTicks : Nat := 4_500_000_000_000

/-- A core's counts of correctable errors and of checker retries reported to the resident kernel (R409). -/
def State.reportCounts (s : State) (core : Nat) : State :=
  { s with outputs := s.outputs ++ [.corrected core (s.getCore core).corrected (s.getCore core).retries] }

/-- A checker retry of a core counted; with the sixteenth within an hour the core is marked in the flash service log (R334, R409). -/
def State.countRetry (s : State) (core : Nat) : State :=
  let s1 := s.modCore core (fun c => { c with
    retries := c.retries + 1
    retryLog := s.sysTicks :: c.retryLog.filter (fun t => decide (s.sysTicks < t + hourTicks)) })
  let s2 := if (s1.getCore core).retryLog.length < 16 then s1
    else { s1 with flash := { s1.flash with service := nadd s1.flash.service core } }
  s2.reportCounts core

/-- UNCORRECTABLE_ERROR (R334, R335): by the place where it occurs. -/
def execUncorrectableError (p : ErrPlace) (s : State) : Host.Outcome State Fault Refusal :=
  .next (match p with
    | .check core => (s.countRetry core).seal core
    | .l1 core line fetched => s.modCore core (fun c =>
        if fetched then { c with icache := kdel c.icache line } else { c with l1 := c.l1.filter (fun x => x.line != line) })
    | .tlb core n =>
      match (s.tlb.filter (fun e => e.holder == .core core || e.holder == .quad (core / 4))).drop n with
      | [] => s
      | e :: _ => { s with tlb := s.tlb.erase e }
    | .pool core => s.seal core
    | .slice line => s.poisonSlice line
    | .memory line => s.poisonMemory line
    | .copyEngine cmd => s.failCopy cmd
    | .attnUnit cmd => s.failAttn cmd
    | .wedging q => match kget s.requests q with
      | none => s
      | some r => { s with requests := kset s.requests q { r with broken := true } })

/-- CORRECTABLE_ERROR (R334, R335, R409): an error of an SRAM corrected, or a first mismatch whose retry leaves nothing else to be seen; each is
counted. -/
def execCorrectableError (e : Corrected) (s : State) : Host.Outcome State Fault Refusal :=
  .next (if e.retry then s.countRetry e.core
    else (s.modCore e.core (fun c => { c with corrected := c.corrected + 1 })).reportCounts e.core)

/-- Whether a containment notice may enter the S context of its die's supervisor (R338). -/
def State.noticeDue (s : State) (sealed_ : Nat) : Bool :=
  let c := s.getCtx (ctxKey (s.supervisor (dieOf sealed_)) 0)
  !c.cr.sstat.getLsbD 16 && !c.midway

/-- The entry of a containment notice into the S context of a core (R338): REGION, PTROOT and ASID stay as they were (R415), and so
does PFX, of which the spec says nothing here (DESIGN CHOICE, log 49). -/
def State.enterNotice (s : State) (sup sealed_ : Nat) : State :=
  s.modCtx (ctxKey sup 0) (fun c =>
    { c with
      pc := c.cr.stvec
      wait := none
      lt := max c.lt (s.cycle / 16)
      slot := (match c.slot with | .issuing => .issuing | .waking d => .waking d | _ => .parkedReady)
      cr := { c.cr with
        scause := 0x8000_0000_0000_0001
        spc := codeAddr c.pc
        sval := BitVec.ofNat 64 sealed_
        sstat := (c.cr.sstat &&& 0x100) ||| 0x1_0000 ||| 0x40 } })

/-- CONTAINMENT_NOTICE (R338, R414, R415): it waits while a trap is being handled. -/
def execContainmentNotice (p : Packet) (s : State) : Host.Outcome State Fault Refusal :=
  match p.body with
  | .sealNotice core =>
    if s.noticeDue core then
      let sup := s.supervisor (dieOf core)
      let s1 := (s.takeOff p).modCore core (fun c => { c with sealed := c.sealed.map (fun q => { q with taken := some sup }) })
      .next (s1.enterNotice sup core)
    else .next s
  | _ => .next s

/-- Whether an offset of a context window names a dword of a slot's image (R351, R356). -/
def windowOk (core slot off : Nat) : Bool :=
  decide (core < Config.cores) && decide (slot < 48) && off % 8 == 0 && decide (off < Config.imageBytes)

/-- WINDOW_READ (R356, R357): the debugger's read; the answer carries the gated flag. -/
def execWindowRead (core slot off : Nat) (s : State) : Host.Outcome State Fault Refusal :=
  if !windowOk core slot off then .next s
  else
    let r := s.windowDword core slot off
    .next { s with outputs := s.outputs ++ [.windowValue r.1 r.2] }

/-- WINDOW_WRITE (R357): it takes effect in a stopped context alone. -/
def execWindowWrite (core slot off : Nat) (v : Dword) (s : State) : Host.Outcome State Fault Refusal :=
  if !windowOk core slot off then .next s
  else
    let r := s.windowStore core slot off v
    .next { r.2 with outputs := r.2.outputs ++ [.windowValue 0 r.1] }

end Sys2Proof.Machine
end

