-- ==== Sys2Proof/Machine/Formats.lean ====
section
/-! DEFINITION. The other formats and the conversions (spec 03 R60, R62 to R65, R67, R71 to R73; 05 R106). -/

namespace Sys2Proof.Machine

/-! ### Conversions between IEEE formats and integers (R60, R106) -/

/-- Float to float: a same-type conversion only canonicalises NaNs and flushes. SAT governs the overflow of bf16 to f16 too (DESIGN CHOICE, log 49: R57
speaks of narrower results and R106 of narrowing, and neither names this pair of one width). -/
def cvtFF (src dst : FFmt) (env : FpEnv) (x : Nat) : Nat × FpFlags := dst.result env (src.decode env.flush x)

/-- The rounded integer value of a finite value and whether it is inexact. -/
def toInteger (rm : Rm) (neg : Bool) (m : Nat) (e : Int) : Int × Bool :=
  let r := roundAt rm neg m e 0 false
  (dyad neg r.1, r.2)

/-- The range of an integer type of width `w`. -/
def intLo (u : Bool) (w : Nat) : Int := if u then 0 else -((2 ^ (w - 1) : Nat) : Int)
def intHi (u : Bool) (w : Nat) : Int := if u then ((2 ^ w : Nat) : Int) - 1 else ((2 ^ (w - 1) : Nat) : Int) - 1

/-- Float to integer (R60). -/
def cvtFI (src : FFmt) (u : Bool) (w : Nat) (env : FpEnv) (x : Nat) : Nat × FpFlags :=
  match src.decode env.flush x with
  | .nan _ => (0, fNV)
  | .inf neg => (wrapTo w (if neg then intLo u w else intHi u w), fNV ||| fSV)
  | .fin neg m e =>
    let r := toInteger env.rm neg m e
    if r.1 < intLo u w then (wrapTo w (intLo u w), fNV ||| fSV)
    else if r.1 > intHi u w then (wrapTo w (intHi u w), fNV ||| fSV)
    else (wrapTo w r.1, flagIf r.2 fNX)

/-- The number that an integer lane holds. -/
def intOf (u : Bool) (w x : Nat) : Int := if u then ((x % 2 ^ w : Nat) : Int) else signedOf w x

/-- Integer to float (R60, R106). -/
def cvtIF (u : Bool) (w : Nat) (dst : FFmt) (env : FpEnv) (x : Nat) : Nat × FpFlags :=
  let i := intOf u w x
  if i = 0 then (0, 0) else dst.round env (decide (i < 0)) i.natAbs 0 false

/-- Integer to integer: extended, or narrowed to the low bits or, under saturation, clamped (R106). -/
def cvtII (u : Bool) (w w' : Nat) (env : FpEnv) (x : Nat) : Nat × FpFlags :=
  let i := intOf u w x
  if w' < w ∧ env.sat ∧ (i < intLo u w' ∨ i > intHi u w') then
    (wrapTo w' (if i < intLo u w' then intLo u w' else intHi u w'), fSV)
  else (wrapTo w' i, 0)

/-- A conversion of a lane from type `t` to type `e` (R106). -/
def cvtLane (u : Bool) (e t : ETy) (env : FpEnv) (x : Nat) : Nat × FpFlags :=
  if t.isFloat then
    if e.isFloat then cvtFF (fmtOf t) (fmtOf e) env x else cvtFI (fmtOf t) u e.width env x
  else if e.isFloat then cvtIF u t.width (fmtOf e) env x else cvtII u t.width e.width env x

/-! ### binary8 (R62 to R65) -/

/-- A binary8 format: extended, unsigned, precision (R62). -/
structure B8 where
  ext : Bool
  uns : Bool
  p   : Nat
  deriving DecidableEq, Repr

/-- The format that a byte names, if it is not reserved (R62). -/
def B8.of (b : Nat) : Option B8 :=
  if b / 32 % 8 ≠ 0 ∨ b % 8 ≥ 6 then none
  else some { ext := b / 16 % 2 = 1, uns := b / 8 % 2 = 1, p := b % 8 + 1 }

/-- The exponent bias (R63). -/
def B8.bias (f : B8) : Nat := 2 ^ ((if f.uns then 9 - f.p else 8 - f.p) - 1)
def B8.nanCode (f : B8) : Nat := if f.uns then 0xFF else 0x80
def B8.maxCode (f : B8) : Nat :=
  match f.uns, f.ext with | false, false => 0x7F | false, true => 0x7E | true, false => 0xFE | true, true => 0xFD
def B8.infCode (f : B8) : Nat := if f.uns then 0xFE else 0x7F

/-- The value of a code (R63). -/
def B8.decode (f : B8) (c : Nat) : FVal :=
  if c = f.nanCode then .nan false
  else if f.ext ∧ c = f.infCode then .inf false
  else if f.ext ∧ !f.uns ∧ c = 0xFF then .inf true
  else
    let neg := !f.uns && c / 128 % 2 == 1
    let body := if f.uns then c else c % 128
    let t := body % 2 ^ (f.p - 1)
    let ex := body / 2 ^ (f.p - 1)
    let lsb : Int := (1 : Int) - f.bias - (f.p - 1 : Nat)
    if ex = 0 then .fin neg t lsb else .fin neg (2 ^ (f.p - 1) + t) (lsb + ex - 1)

/-- Conversion from a binary8 code to an IEEE format (R64). -/
def cvtFromB8 (f : B8) (dst : FFmt) (env : FpEnv) (c : Nat) : Nat × FpFlags :=
  match f.decode c with
  | .fin neg m e =>
    if m = 0 then (dst.withSign neg 0, 0) else dst.round env.arith neg m e false
  | v => dst.result env v

/-- Conversion of a value to a binary8 code (R65). A tie of RNE between the codes of a format of P = 1, whose one-bit significands are both odd, goes to the larger magnitude
(DESIGN CHOICE, log 49: R65 names the even neighbour, and there is none). -/
def B8.encode (f : B8) (env : FpEnv) (v : FVal) : Nat × FpFlags :=
  let past (neg finite : Bool) : Nat × FpFlags :=
    if env.sat then ((if neg then 128 else 0) + f.maxCode, fSV)
    else if f.ext then (if neg then 0xFF else f.infCode, if finite then fOF ||| fNX else 0)
    else (f.nanCode, fNV)
  match v with
  | .nan s => (f.nanCode, flagIf s fNV)
  | .inf neg =>
    if neg ∧ f.uns then if env.sat then (0, fSV) else (f.nanCode, fNV) else past neg false
  | .fin neg m e =>
    if m = 0 then (0, 0)
    else if neg ∧ f.uns then if env.sat then (0, fSV) else (f.nanCode, fNV)
    else
      let emin : Int := 1 - (f.bias : Int)
      let mb := f.p - 1
      let top : Int := (bitLen m : Int) - 1 + e
      let q := max top emin - mb
      let r := roundAt env.rm neg m e q false
      let u := roundAt env.rm neg m e (top - mb) false
      let tiny := decide (top < emin) && !(u.1 == 2 ^ (mb + 1) && decide (top + 1 = emin))
      if tiny && env.flush then (0, fUF ||| fNX)
      else
        let code := if r.1 < 2 ^ mb then r.1 else ((q - (emin - mb)).toNat) * 2 ^ mb + r.1
        if code > f.maxCode then past neg true
        else
          let c := if neg ∧ code ≠ 0 then 128 + code else code
          (c, flagIf r.2 fNX ||| flagIf (tiny && r.2) fUF)

/-! ### The codebook (R67, R68) -/

/-- The signed 8-bit integer that a 4-bit code stands for. -/
def codeVal (cbtl cbth : Dword) (c : Nat) : Nat :=
  if c < 8 then (cbtl.extractLsb' (8 * c) 8).toNat else (cbth.extractLsb' (8 * (c - 8)) 8).toNat

/-! ### sp32 (R71 to R73) -/

/-- An sp32 value: a NaN, or `m × 2^e` exactly with m = 0 for zero. -/
inductive SpVal where
  | nan
  | num (m : Nat) (e : Int)
  deriving DecidableEq, Repr

def spNan : Nat := 0x8000_0001
def spZero : Nat := 0x8000_0000
def spMax : Nat := 0x8001_FFFF

/-- The value of an sp32 word (R71). -/
def spDecode (x : Nat) : SpVal :=
  let e := signedOf 16 (x / 65536)
  let f := x % 65536
  if e = -32768 then if f = 0 then .num 0 0 else .nan
  else .num (65536 + f) (-e - 16)

/-- An exact value rounded to an sp32 word (R72). -/
def spEncode (v : SpVal) : Nat × FpFlags :=
  match v with
  | .nan => (spNan, 0)
  | .num m e =>
    if m = 0 then (spZero, 0)
    else
      let top : Int := (bitLen m : Int) - 1 + e
      let r := roundAt .rne false m e (top - 16) false
      let carry := r.1 = 2 ^ 17
      let ex : Int := -(if carry then top + 1 else top)
      let f := if carry then 0 else r.1 - 65536
      if ex < -32767 then (spMax, fSO ||| fNX)
      else if ex > 32767 then (spZero, fSU ||| fNX)
      else (wrapTo 16 ex * 65536 + f, flagIf r.2 fNX)

/-- Exact sums and products of sp32 values (R72). -/
def spAddV (x y : SpVal) : SpVal :=
  match x, y with
  | .nan, _ => .nan
  | _, .nan => .nan
  | .num m1 e1, .num m2 e2 =>
    if m1 = 0 then .num m2 e2
    else if m2 = 0 then .num m1 e1
    else
      let e := min e1 e2
      .num (m1 * 2 ^ (e1 - e).toNat + m2 * 2 ^ (e2 - e).toNat) e

def spMulV (x y : SpVal) : SpVal :=
  match x, y with
  | .nan, _ => .nan
  | _, .nan => .nan
  | .num m1 e1, .num m2 e2 => .num (m1 * m2) (e1 + e2)

def spAdd (x y : Nat) : Nat × FpFlags := spEncode (spAddV (spDecode x) (spDecode y))
def spMul (x y : Nat) : Nat × FpFlags := spEncode (spMulV (spDecode x) (spDecode y))

/-- binary32 to sp32 (R73). -/
def cvtToSp (env : FpEnv) (x : Nat) : Nat × FpFlags :=
  match FFmt.f32.decode env.flush x with
  | .nan s => (spNan, flagIf s fNV)
  | .inf neg => if neg then (spNan, fNV) else (spMax, fSO)
  | .fin neg m e => if m = 0 then (spZero, 0) else if neg then (spNan, fNV) else spEncode (.num m e)

/-- sp32 to binary32 (R73). -/
def cvtFromSp (env : FpEnv) (x : Nat) : Nat × FpFlags :=
  match spDecode x with
  | .nan => (FFmt.f32.qnan, 0)
  | .num m e => if m = 0 then (0, 0) else FFmt.f32.round env.arith false m e false

end Sys2Proof.Machine
end

