-- ==== Sys2Proof/Machine/Matrix.lean ====
section
/-! DEFINITION. The matrix unit (spec 13 R259 to R264; 03 R66 to R70; 15 R289, R296 to R300, R413). -/

namespace Sys2Proof.Machine

/-! ### Operand formats (R66, R67) -/

/-- The elements along K of a format, none for a reserved byte (R66). -/
def matK (fmt : Nat) : Option Nat :=
  match fmt with
  | 0x20 => some 64 | 0x21 => some 128 | 0x22 => some 32 | 0x23 => some 32 | 0x24 => some 16
  | _ => if (B8.of fmt).isSome then some 64 else none

/-- Whether a format is bf16, f16 or f32, which take no scale record (R262). -/
def matWide (fmt : Nat) : Bool := fmt == 0x22 || fmt == 0x23 || fmt == 0x24

/-- Bytes of a format's scale tile (R261). -/
def scaleBytes (fmt : Nat) : Nat := if fmt = 0x21 then 32 else 16

/-- An integer as a value. -/
def intVal (i : Int) : FVal := .fin (decide (i < 0)) i.natAbs 0

/-- The elements of one 64-byte vector of a format (R66, R67, R260). -/
def matElems (fmt : Nat) (cb : BitVec 128) (v : Nat) : List FVal :=
  let at_ (w i : Nat) : Nat := v / 2 ^ (w * i) % 2 ^ w
  match fmt with
  | 0x20 => (rangeFrom 0 64).map (fun i => intVal (signedOf 8 (at_ 8 i)))
  | 0x21 => (rangeFrom 0 128).map (fun i => intVal (signedOf 8 (cb.toNat / 2 ^ (8 * at_ 4 i))))
  | 0x22 => (rangeFrom 0 32).map (fun i => FFmt.bf16.decode false (at_ 16 i))
  | 0x23 => (rangeFrom 0 32).map (fun i => FFmt.f16.decode false (at_ 16 i))
  | 0x24 => (rangeFrom 0 16).map (fun i => FFmt.f32.decode false (at_ 32 i))
  | _ => match B8.of fmt with
    | none => []
    | some f => (rangeFrom 0 64).map (fun i => f.decode (at_ 8 i))

/-! ### Arithmetic (R69, R70) -/

def FVal.isInf (neg : Bool) : FVal → Bool
  | .inf n => n == neg
  | _ => false

/-- The exact sum of the products of two vectors, with the flags of its products and of infinities that meet (R70). -/
def dot (xs ys : List FVal) : FVal × FpFlags :=
  let ps := (xs.zip ys).map (fun x => vMul x.1 x.2)
  let both := ps.any (fun p => p.1.isInf true) && ps.any (fun p => p.1.isInf false)
  let fl := ps.foldl (fun (a : FpFlags) p => a ||| p.2) (flagIf both fNV)
  match ps with
  | [] => (.fin false 0 0, 0)
  | p :: rest => (rest.foldl (fun a q => (vAdd .rne a q.1).1) p.1, fl)

/-- A value times the factor of two block scales; 255 makes it a quiet NaN (R69). -/
def scaled (x : FVal) (sa sb : Nat) : FVal :=
  if sa = 255 ∨ sb = 255 then .nan false
  else match x with
    | .fin n m e => .fin n m (e + sa + sb - 254)
    | v => v

/-- The scale of block `b` of a vector: 127 without a scale record (R69, R261). -/
def scaleOf (s : Option (BitVec 256)) (nblk i b : Nat) : Nat :=
  match s with
  | none => 127
  | some x => x.toNat / 2 ^ (8 * (i * nblk + b)) % 256

/-- One block of K added to one element: the exact sum, rounded, then accumulated (R70). -/
def accumulate (acc : Nat) (xs ys : List FVal) (sa sb : Nat) : Nat × FpFlags :=
  let d := dot xs ys
  let y := FFmt.f32.result FpEnv.plain (scaled d.1 sa sb)
  let z := FFmt.f32.add FpEnv.plain acc y.1
  (z.1, d.2 ||| y.2 ||| z.2)

/-- The sixteen lines of an operand, as their elements. -/
def operandElems (fmt : Nat) (cb : BitVec 128) (d : BitVec 8192) : List (List FVal) :=
  (rangeFrom 0 16).map (fun i => matElems fmt cb (d.toNat / 2 ^ (512 * i) % 2 ^ 512))

/-- The elements of a tile. -/
def Tile.elems (t : Tile) : List Nat := (rangeFrom 0 256).map (fun i => t.data.toNat / 2 ^ (32 * i) % 2 ^ 32)

/-- A tile of zeros (R297). -/
def Tile.zero : Tile := { data := 0, pois := false }

/-- A tile of a core; one that nothing has written reads zero (R207). -/
def Core.tile (c : Core) (m : Nat) : Tile := kgetD c.tiles m Tile.zero

/-- What an accepted member leaves in its tile, with its flags (R70, R264, R297, R298). -/
def MatOp.apply (op : MatOp) (t : Tile) : Tile × FpFlags :=
  match op with
  | .zero => (Tile.zero, 0)
  | .load d p => ({ data := d, pois := p }, 0)
  | .mma fa fb a b sa sb cb p =>
    let nblk := if fa.toNat = 0x21 then 2 else 1
    let xa := operandElems fa.toNat cb a
    let xb := operandElems fb.toNat cb b
    let span := if matWide fa.toNat then 32 else 64
    let one (blk : Nat) (acc : List (Nat × FpFlags)) : List (Nat × FpFlags) :=
      acc.zipIdx.map (fun x =>
        let i := x.2 / 16
        let j := x.2 % 16
        let cut (l : List FVal) : List FVal := (l.drop (span * blk)).take span
        let r := accumulate x.1.1 (cut (xa.getD i [])) (cut (xb.getD j [])) (scaleOf sa nblk i blk) (scaleOf sb nblk j blk)
        (r.1, x.1.2 ||| r.2))
    let out := (rangeFrom 0 nblk).foldl (fun acc blk => one blk acc) (t.elems.map (fun e => (e, 0)))
    ({ data := BitVec.ofNat 8192 (ofLanes 32 (out.map (fun x => x.1))), pois := t.pois || p }, orFlags out)

/-! ### Acceptance (R259, R413) -/

/-- The ILL of a tile that the core's accumulator granules do not hold (R33, R205). -/
def guardTile (m : BitVec 7) : Exec Unit := do guardIll (decide (m.toNat < 4 * partAcc (← get).co.part))

/-- A member accepted: it retires in its turn, 16 cycles after the unit takes it. -/
def accept (m : BitVec 7) (op : MatOp) : Exec Unit :=
  modify (fun s => s.modCo (fun c => { c with matq := c.matq ++ [
    { slot := s.slotNum, tile := m.toNat, op := op, due := (c.matq.getLast?.map (fun j => max j.due s.cycle)).getD s.cycle + 16 }] }))

/-- The wait of `mst` and `mstc` (R413). -/
def waitTile (m : BitVec 7) : Exec Unit := do
  if (← get).tileOwed m.toNat then throw (.wait (.tile m.toNat)) else pure ()

/-- A load whose place has been checked, within one block. -/
def loadWait (p : Place) (n : Nat) : Exec (Nat × Bool) := do
  waitSpWords p n
  loadE p n

/-- MATRIX_RETIRE (R58, R259, R413): the oldest member of a core, once its 16 cycles have passed. -/
def execMatrixRetire (core : Nat) (s : State) : Host.Outcome State Fault Refusal :=
  match (s.getCore core).matq with
  | [] => .next s
  | j :: js =>
    if s.cycle < j.due then .next s
    else
      let r := j.op.apply ((s.getCore core).tile j.tile)
      let s1 := s.modCore core (fun c => { c with matq := js, tiles := kset c.tiles j.tile r.1 })
      .next (s1.modCtx (ctxKey core j.slot) (fun c => c.addFlags r.2))

/-! ### mma -/

/-- A pointer record pair (R260, R261). -/
structure MatRecord where
  base   : Dword
  fmt    : Nat
  stride : Nat
  sbase  : Option Dword
  rsvd   : Bool
  pois   : Bool
  deriving DecidableEq, Repr

/-- The addresses of a pair: its data record, then the scale record where one is named (R261). -/
def pairAddrs (pa : Dword) (scale : Bool) : List Dword := if scale then [pa, pa + 16] else [pa]

/-- A pair out of the bytes of its records, each with its poison (R260, R261). -/
def MatRecord.of (xs : List (Nat × Bool)) : MatRecord :=
  let d := (xs.getD 0 (0, false)).1
  let hi := d / 2 ^ 64
  { base := BitVec.ofNat 64 d, fmt := hi / 2 ^ 56, stride := hi / 2 ^ 6 % 2 ^ 26, sbase := (xs.drop 1).head?.map (fun x => BitVec.ofNat 64 x.1),
    rsvd := hi / 2 ^ 32 % 2 ^ 24 != 0 || hi % 64 != 0 || (xs.drop 1).any (fun x => x.1 / 2 ^ 64 != 0), pois := xs.any (fun x => x.2) }

/-- A pair loaded from the places of its records. -/
def loadPair (ps : List Place) : Exec MatRecord := do return MatRecord.of (← ps.mapM (fun p => loadWait p 16))

/-- The alignment of a pair's addresses (R262, R296). -/
def MatRecord.aligned (r : MatRecord) : Exec Unit := do
  guardTrap (r.base.toNat % 64 = 0) cALIGN r.base
  match r.sbase with
  | none => pure ()
  | some x => guardTrap (x.toNat % scaleBytes r.fmt = 0) cALIGN x

/-- Where a pair's lines lead: the sixteen vectors in ascending order, then the scale tile (R296). Each line is checked for PAGE and then for ACCESS before the next one
(DESIGN CHOICE, log 29: R296 has PAGE, ACCESS in that order without saying whether over all lines; the lines are named by a record in memory, so that R21 does not
order them). -/
def MatRecord.places (r : MatRecord) : Exec (List Place × Option Place) := do
  let ps ← (rangeFrom 0 16).mapM (fun i => translateT (r.base + BitVec.ofNat 64 (64 * r.stride * i)) .load 64)
  match r.sbase with
  | none => return (ps, none)
  | some x => return (ps, some (← translateT x .load (scaleBytes r.fmt)))

/-- Whether a pair is at fault by itself (R262). -/
def MatRecord.bad (r : MatRecord) : Bool := r.rsvd || (matK r.fmt).isNone || (r.sbase.isSome && matWide r.fmt)

/-- Lines loaded in order: their bytes and whether any is poisoned. -/
def loadLines : List Place → Exec (Nat × Bool)
  | [] => return (0, false)
  | p :: ps => do
    let x ← loadWait p 64
    let r ← loadLines ps
    return (x.1 + 2 ^ 512 * r.1, x.2 || r.2)

/-- The operand of a pair loaded: its vectors, its scale tile, and whether a line is poisoned. -/
def MatRecord.load (r : MatRecord) (ps : List Place × Option Place) : Exec (BitVec 8192 × Option (BitVec 256) × Bool) := do
  let d ← loadLines ps.1
  match ps.2 with
  | none => return (BitVec.ofNat 8192 d.1, none, d.2)
  | some p =>
    let x ← loadWait p (scaleBytes r.fmt)
    return (BitVec.ofNat 8192 d.1, some (BitVec.ofNat 256 x.1), d.2 || x.2)

/-- `mma` (R260 to R264, R296); pinning changes no result (R263). The records of both pairs are at addresses that registers name, so they are checked together (R21). -/
def execMma (m : BitVec 7) (a b : Reg) (y x : Bool) (s : State) : Host.Outcome State Fault Refusal :=
  finish (do
    guardTile m
    let c ← cx
    let pa := c.s a
    let pb := c.s b
    guardTrap (pa.toNat % 32 = 0) cALIGN pa
    guardTrap (pb.toNat % 32 = 0) cALIGN pb
    let ps ← placesT (pairAddrs pa x ++ pairAddrs pb y) .load 16
    let ra ← loadPair (ps.take (pairAddrs pa x).length)
    let rb ← loadPair (ps.drop (pairAddrs pa x).length)
    ra.aligned
    rb.aligned
    let la ← ra.places
    let lb ← rb.places
    guardTrap (!ra.bad) cDESC pa
    guardTrap (!rb.bad && matK ra.fmt == matK rb.fmt) cDESC pb
    guardSteering (c.sp a || c.sp b || ra.pois || rb.pois)
    let oa ← ra.load la
    let ob ← rb.load lb
    accept m (.mma (BitVec.ofNat 8 ra.fmt) (BitVec.ofNat 8 rb.fmt) oa.1 ob.1 oa.2.1 ob.2.1 (c.cr.cbth ++ c.cr.cbtl) (oa.2.2 || ob.2.2))
    retireE) s

/-! ### mzero, mld, mst, mstc, cbld -/

/-- `mzero` (R297). -/
def execMzero (m : BitVec 7) (s : State) : Host.Outcome State Fault Refusal :=
  finish (do
    guardTile m
    accept m .zero
    retireE) s

/-- The row stride of `mld` and `mst`: 64 when b is 0 (R298). -/
def rowStride (c : Context) (b : Reg) : Dword := if b = 0 then 64 else c.s b

/-- The rows' addresses of `mld` and `mst`. -/
def rowAddr (c : Context) (a b : Reg) (i : Nat) : Dword := c.s a + BitVec.ofNat 64 i * rowStride c b

/-- The checks of the rows of `mld` and `mst`, in the order of R298; the answer is their places. -/
def rowPlaces (a b : Reg) (acc : Access) : Exec (List Place) := do
  let c ← cx
  guardTrap ((c.s a).toNat % 64 = 0) cALIGN (c.s a)
  guardTrap ((rowStride c b).toNat % 64 = 0) cALIGN (rowStride c b)
  placesT ((rangeFrom 0 16).map (rowAddr c a b)) acc 64

/-- `mld` (R298). -/
def execMld (m : BitVec 7) (a b : Reg) (s : State) : Host.Outcome State Fault Refusal :=
  finish (do
    guardTile m
    let ps ← rowPlaces a b .load
    let c ← cx
    guardSteering (c.sp a || (b != 0 && c.sp b))
    let d ← loadLines ps
    accept m (.load (BitVec.ofNat 8192 d.1) d.2)
    retireE) s

/-- The blocks that `mst` or `mstc` stores, with their addresses, their places and their bytes out of a number that begins with the lowest block, the tile's poison, and
the flags that are set with the last of them (R298, R299). -/
def blockPlan (x : Nat) (addr : Nat → Dword) (ps : List Place) (pois : Bool) (flags : FpFlags) : LanePlan :=
  { bytes := 64, todo := ps.zipIdx.map (fun y => (y.2, (addr y.2, y.1))), store := true, acc := BitVec.setWidth 512 flags, pois := false, cut := none, logged := [],
    vals := ps.zipIdx.map (fun y => (y.2, (x / 2 ^ (512 * y.2) % 2 ^ 512, pois))), back := false }

/-- A store of blocks made: as long as blocks are left other contexts' accesses may come between them (R298, R299, R413); with the last it completes. -/
def goOnBlocks (p : LanePlan) : Exec Unit := do
  if (← runLanes p).todo.isEmpty then
    modCx (fun c => c.addFlags (BitVec.setWidth 8 p.acc))
    retireE
  else pure ()

/-- `mst` (R298). -/
def execMst (m : BitVec 7) (a b : Reg) (s : State) : Host.Outcome State Fault Refusal :=
  finish (do
    match (← cx).plan with
    | some p => goOnBlocks p
    | none =>
      guardTile m
      waitTile m
      let ps ← rowPlaces a b .store
      let c ← cx
      let _ ← (rangeFrom 0 16).mapM (fun i => guardTimed (rowAddr c a b i) 64)
      guardSteering (c.sp a || (b != 0 && c.sp b))
      let t := (← get).co.tile m.toNat
      goOnBlocks (blockPlan t.data.toNat (rowAddr c a b) ps t.pois 0)) s

/-- Bytes of an element of a format of `mstc`, none where the format is not accepted (R299). -/
def storeBytes (f : Nat) : Option Nat :=
  match f with
  | 0x20 => some 1 | 0x22 => some 2 | 0x23 => some 2
  | _ => if (B8.of f).isSome then some 1 else none

/-- An FP32 element converted to a format of `mstc` (R299). -/
def storeCvt (f : Nat) (env : FpEnv) (x : Nat) : Nat × FpFlags :=
  match f with
  | 0x20 => cvtFI .f32 false 8 env x
  | 0x22 => cvtFF .f32 .bf16 env x
  | 0x23 => cvtFF .f32 .f16 env x
  | _ => match B8.of f with
    | none => (0, 0)
    | some q => q.encode env (FFmt.f32.decode env.flush x)

/-- `mstc` (R299): of a format that is not accepted the 256 bytes of the narrowest are checked before DESC. -/
def execMstc (m : BitVec 7) (a b : Reg) (s : State) : Host.Outcome State Fault Refusal :=
  finish (do
    match (← cx).plan with
    | some p => goOnBlocks p
    | none =>
      guardTile m
      waitTile m
      let c ← cx
      let f := (c.s b).toNat % 256
      let z := (storeBytes f).getD 1
      guardTrap ((c.s a).toNat % 64 = 0) cALIGN (c.s a)
      let addr (k : Nat) : Dword := c.s a + BitVec.ofNat 64 (64 * k)
      let ps ← placesT ((rangeFrom 0 (4 * z)).map addr) .store 64
      guardTrap (storeBytes f).isSome cDESC (BitVec.ofNat 64 f)
      let _ ← (rangeFrom 0 (4 * z)).mapM (fun k => guardTimed (addr k) 64)
      guardSteering (c.sp a || c.sp b)
      let s ← get
      let t := s.co.tile m.toNat
      let rs := t.elems.map (storeCvt f s.fpEnv)
      goOnBlocks (blockPlan (ofLanes (8 * z) (rs.map (fun x => x.1))) addr ps t.pois (orFlags rs))) s

/-- `cbld` (R300). Its 16 bytes are one access, so that device space, which is read in 8 bytes alone (R233), traps ACCESS (DESIGN CHOICE, log 29: R300 speaks of the 16
bytes at EA and writes two 8-byte values). -/
def execCbld (a : Reg) (s : State) : Host.Outcome State Fault Refusal :=
  finish (do
    let c ← cx
    let ea := c.s a
    guardTrap (ea.toNat % 16 = 0) cALIGN ea
    let p ← translateT ea .load 16
    guardSteering (c.sp a)
    let x ← loadWait p 16
    modCx (fun c => ({ c with cr := { c.cr with
      cbtl := BitVec.ofNat 64 x.1, cbth := BitVec.ofNat 64 (x.1 / 2 ^ 64) } }).poisonIf x.2)
    retireE) s

end Sys2Proof.Machine
end

