-- ==== Sys2Proof/Machine/Sampling.lean ====
section
/-! DEFINITION. Sampling (spec 17 R315, R317 to R327). -/

namespace Sys2Proof.Machine

/-! ### Random numbers (R315, R317) -/

/-- Mix (R315). -/
def mix (z : Dword) : Dword :=
  let a := (z ^^^ (z >>> 30)) * 0xBF58_476D_1CE4_E5B9
  let b := (a ^^^ (a >>> 27)) * 0x94D0_49BB_1331_11EB
  b ^^^ (b >>> 31)

/-- The draw with a key and a counter, as an exact value in [0, 1) (R317). -/
def drawOf (key ctr : Dword) : FVal := .fin false (mix (key + (ctr + 1) * 0x9E37_79B9_7F4A_7C15) >>> 11).toNat (-53)

/-! ### The sampler context (R319, R320) -/

/-- The header of a sampler context, as the number that its 64 bytes are. -/
abbrev SampHeader := Nat

def hdrWord (h : SampHeader) (i : Nat) : Nat := h / 2 ^ (32 * i) % 2 ^ 32
/-- V, PAD, TEMP, TOPK, TOPP, REP, PRES, FREQ and PIVOT of a header. -/
def hdrV (h : SampHeader) : Nat := hdrWord h 0
def hdrPad (h : SampHeader) : Nat := hdrWord h 1
def hdrTemp (h : SampHeader) : Nat := hdrWord h 2
def hdrTopk (h : SampHeader) : Nat := hdrWord h 3
def hdrTopp (h : SampHeader) : Nat := hdrWord h 4
def hdrRep (h : SampHeader) : Nat := hdrWord h 5
def hdrPres (h : SampHeader) : Nat := hdrWord h 6
def hdrFreq (h : SampHeader) : Nat := hdrWord h 7
def hdrPivot (h : SampHeader) : Nat := hdrWord h 12

/-- Whether a header is valid (R319). -/
def hdrOk (h : SampHeader) : Bool :=
  hdrWord h 13 == 0 && hdrV h % 16 == 0 && decide (16 ≤ hdrV h) && decide (hdrV h ≤ 2 ^ 24) && decide (1 ≤ hdrPad h) &&
  decide (hdrPad h ≤ hdrV h)

/-- The places of a token in the rows of the counting filter (R320). -/
def filter0 (t : Nat) : Nat := t % 2 ^ 32 * 0x9E37_79B1 % 2 ^ 32 / 2 ^ 20
def filter1 (t : Nat) : Nat := (t % 2 ^ 32 ^^^ 0x5BD1_E995) * 0x85EB_CA6B % 2 ^ 32 / 2 ^ 20

/-! ### Weights (R321) -/

/-- The value of a binary32 word. -/
def val32 (x : Nat) : FVal := FFmt.f32.decode false x

/-- Comparisons of exact values; with a NaN none holds. -/
def vLt (a b : FVal) : Bool := !a.isNan && !b.isNan && cmpVal a b == .lt
def vEq (a b : FVal) : Bool := !a.isNan && !b.isNan && cmpVal a b == .eq
def vGt (a b : FVal) : Bool := vLt b a
def vGe (a b : FVal) : Bool := vLt b a || vEq a b

/-- The image that preserves order (R325), and the value that has an image. -/
def image (x : Nat) : Nat := if x / 2 ^ 31 % 2 = 0 then x + 2 ^ 31 else 2 ^ 32 - 1 - x
def unimage (g : Nat) : Nat := if 2 ^ 31 ≤ g then g - 2 ^ 31 else 2 ^ 32 - 1 - g

/-- Minus infinity and one in binary32. -/
def negInf32 : Nat := 0xFF80_0000
def one32 : Nat := 0x3F80_0000

/-- A row with its weights: what R321 says of a row that is not empty. -/
structure Weights where
  /-- the valid indices, ascending, with their logits and weights -/
  valid  : List (Nat × Nat × Nat)
  top    : Nat
  greedy : Bool
  /-- the weight of every index of the row -/
  all    : List Nat
  deriving DecidableEq, Repr

/-- The weights of a row, none where the row is empty (R321). -/
def weightsOf (row : List Nat) (pad temp : Nat) : Option Weights :=
  let valid := (row.zipIdx.filter (fun x => decide (x.2 < pad) && !(val32 x.1).isNan)).map (fun x => (x.2, x.1))
  match valid with
  | [] => none
  | (_, l) :: rest =>
    let top := rest.foldl (fun m x => if vGt (val32 x.2) (val32 m) then x.2 else m) l
    if top = negInf32 then none
    else
      let greedy := !vGt (val32 temp) (.fin false 0 0)
      let w (x : Nat) : Nat :=
        if greedy || top = 0x7F80_0000 then if vEq (val32 x) (val32 top) then one32 else 0
        else aExp (aDiv (aSub x top) temp)
      let ws := valid.map (fun x => (x.1, x.2, w x.2))
      some { valid := ws, top := top, greedy := greedy,
             all := row.zipIdx.map (fun x => (ws.find? (fun y => y.1 == x.2)).elim 0 (fun y => y.2.2)) }

/-- Cumulative sums in ascending index, in FP32 (R321). -/
def cumulate : Nat → List Nat → List Nat
  | _, [] => []
  | acc, w :: ws => let a := aAdd acc w; a :: cumulate a ws

/-- A total: the last cumulative sum. -/
def total (ws : List Nat) : Nat := ws.foldl aAdd 0

/-- The least index whose cumulative sum exceeds a bound. -/
def leastAbove (cs : List Nat) (bound : FVal) : Nat := (cs.findIdx? (fun c => vGt (val32 c) bound)).getD (cs.length - 1)

/-- An exact product. -/
def exactMul (a b : FVal) : FVal := (vMul a b).1

/-! ### Checks and reads shared by the members (R322) -/

/-- The header's address. -/
def Context.samp (c : Context) : Dword := c.cr.sampctx

/-- The addresses of a row's lines. -/
def rowLines (v : Nat) (row : Dword) : List Nat := (rangeFrom 0 (v / 16)).map (fun j => (row + BitVec.ofNat 64 (64 * j)).toNat)

/-- Line addresses sorted, each once. -/
def sortedLines (ls : List Nat) : List Nat := ls.foldl nadd []

/-- Lines translated in ascending address. -/
def linePlaces (ls : List Nat) (acc : Access) : Exec (List (Nat × Place)) :=
  ls.mapM (fun a => do return (a, ← translateT (BitVec.ofNat 64 a) acc 64))

/-- The lines of some bytes with their places; a cause has the lowest such byte of its line as value (R20, R322, step 4). -/
def bytePlaces (bytes : List Nat) : Exec (List (Nat × Place)) :=
  (sortedLines (bytes.map (fun b => b / 64 * 64))).mapM (fun a => do
    match ← tryTranslate (BitVec.ofNat 64 a) .load 64 with
    | .ok p =>
      guardPlane p false
      return (a, p)
    | .error c => trapWith c (BitVec.ofNat 64 ((least (bytes.filter (fun b => b / 64 * 64 == a))).getD a)))

/-- Lines loaded in ascending address, by address, with whether any is poisoned. -/
def readLines : List (Nat × Place) → Exec (List (Nat × (Nat × Bool)))
  | [] => return []
  | (a, p) :: rest => do
    waitSpWords p 64
    let x ← loadE p 64
    let r ← readLines rest
    return (a, x) :: r

/-- The values of a row out of the lines read. -/
def rowValues (v : Nat) (row : Dword) (ls : List (Nat × (Nat × Bool))) : List Nat :=
  (rowLines v row).flatMap (fun a => (rangeFrom 0 16).map (fun k => (kgetD ls a (0, false)).1 / 2 ^ (32 * k) % 2 ^ 32))

/-- A member's checks up to the header: ALIGN of the rows, that of S[b] before that of the register after it where both fail (DESIGN CHOICE, log 31: R322 does not say
which), the header's translation, and where the member stores PIVOT the right to (R322,
steps 1 to 3). The answer is the header with its poison, and the place of PIVOT. -/
def sampHeader (rows : List Dword) (stores : Bool) : Exec (SampHeader × Bool × Option Place) := do
  let c ← cx
  let _ ← rows.mapM (fun r => guardTrap (r.toNat % 64 = 0) cALIGN r)
  let p ← translateT c.samp .load 64
  let q ← if stores then do pure (some (← translateT (c.samp + 0x30) .store 4)) else pure none
  waitSpWords p 64
  let h ← loadE p 64
  guardTrap (hdrOk h.1) cDESC c.samp
  return (h.1, h.2, q)

/-- The rows of a member that stores nothing in them: checked, then read once, every line of them, those at or beyond PAD and those of a row that the result does not need too,
so that their poison reaches the result (DESIGN CHOICE, log 31: R322 does not say); `bad` is the poison of its steering operands. -/
def sampRows (rows : List Dword) (stores bad : Bool) : Exec (SampHeader × List (Nat × (Nat × Bool)) × Option Place) := do
  let h ← sampHeader rows stores
  let ps ← linePlaces (sortedLines (rows.flatMap (rowLines (hdrV h.1)))) .load
  let c ← cx
  if stores then guardTimed (c.samp + 0x30) 4 else pure ()
  guardPoison (bad || h.2.1)
  let ls ← readLines ps
  return (h.1, ls, h.2.2)

/-- Whether any line read is poisoned. -/
def anyPois (ls : List (Nat × (Nat × Bool))) : Bool := ls.any (fun x => x.2.2)

/-! ### spivot (R325) -/

/-- The threshold of a row (R325). Where the total of the weights is a NaN, no comparison of the top-p search is stated: it ends at a free logit of the
row, as every such search ends at one. -/
def pivotOf (free : Nat) (h : SampHeader) (row : List Nat) : Nat :=
  match weightsOf row (hdrPad h) (hdrTemp h) with
  | none => negInf32
  | some w =>
    let z := val32 (total w.all)
    let topp := val32 (hdrTopp h)
    let on := vLt topp (.fin false 1 0)
    let keep (g : Nat) : List Nat := (w.valid.filter (fun x => decide (g ≤ image x.2.1))).map (fun x => x.2.2)
    let r := (rangeFrom 0 32).reverse.foldl (fun (a : Nat × Nat) b =>
      let tk := a.1 ||| 2 ^ b
      let tp := a.2 ||| 2 ^ b
      (if hdrTopk h ≠ 0 ∧ hdrTopk h ≤ (keep tk).length then tk else a.1,
       if on && !(keep tp).isEmpty && vGe (val32 (total (keep tp))) (exactMul topp z) then tp else a.2)) (0, 0)
    let gp := if on && z.isNan then image ((w.valid.getD (free % w.valid.length) (0, 0, 0)).2.1) else r.2
    let g := max r.1 gp
    if g = 0 then negInf32 else unimage g

/-- `spivot` (R322, R325). -/
def execSpivot (d a : Reg) (s : State) : Host.Outcome State Fault Refusal :=
  finish (do
    let c ← cx
    let r ← sampRows [c.s a] true (c.sp a)
    let pois := anyPois r.2.1
    let n ← draw
    let th := pivotOf (Config.nanDraw n 0) r.1 (rowValues (hdrV r.1) (c.s a) r.2.1)
    match r.2.2 with
    | none => pure ()
    | some p =>
      waitSpWords p 4
      logStore (c.samp + 0x30) 4
      storeE p 4 th pois
    modCx (fun c => c.setS d (BitVec.ofNat 64 th) pois)
    retireE) s

/-! ### sdraw (R326) -/

/-- The result word for no token. -/
def emptyResult : Nat := 2 ^ 41 + 0xFFFF_FFFF

/-- The index that a draw names among weights: the least whose cumulative sum exceeds u times their total. An infinite T makes a NaN of the weight of a
logit of −∞ (R321), and no comparison with a NaN total is stated: a free index. -/
def drawnIndex (free : Nat) (ws : List Nat) (u : FVal) : Nat :=
  let z := val32 (total ws)
  if z.isNan then free % ws.length else leastAbove (cumulate 0 ws) (exactMul u z)

/-- Draws until a token passes the threshold, at most so many; the answer is the token with the rejections before it, and the draws
made (R326). -/
def drawLoop (free : Nat → Nat) (key : Dword) (row ws : List Nat) (theta : FVal) : Nat → Nat → Dword → Option (Nat × Nat) × Dword
  | 0, _, ctr => (none, ctr)
  | k + 1, n, ctr =>
    let i := drawnIndex (free n) ws (drawOf key ctr)
    if vGe (val32 (row.getD i 0)) theta then (some (i, n), ctr + 1)
    else drawLoop free key row ws theta k (n + 1) (ctr + 1)

/-- The result of a draw and the counter after it (R326); `free` holds the values that are not stated. Where the filter set is empty after 64 rejected draws, REJ of the EMPTY
result is 0 (DESIGN CHOICE, log 31: R326 names the EMPTY result without its REJ). -/
def drawToken (free : Nat → Nat) (h : SampHeader) (row : List Nat) (key ctr : Dword) : Nat × Dword :=
  match weightsOf row (hdrPad h) (hdrTemp h) with
  | none => (emptyResult, ctr)
  | some w =>
    if w.greedy then
      (2 ^ 42 + ((w.valid.find? (fun x => vEq (val32 x.2.1) (val32 w.top))).elim 0 (fun x => x.1)), ctr)
    else
      let theta := val32 (hdrPivot h)
      let r := drawLoop free key row w.all theta 64 0 ctr
      match r.1 with
      | some (i, n) => (n * 2 ^ 32 + i, r.2)
      | none =>
        let keep := w.valid.filter (fun x => vGe (val32 x.2.1) theta)
        match keep with
        | [] => (emptyResult, r.2)
        | first :: _ =>
          let ws := keep.map (fun x => x.2.2)
          let j := if vEq (val32 (total ws)) (.fin false 0 0) then first.1
            else (keep.getD (drawnIndex (free 64) ws (drawOf key r.2)) first).1
          (2 ^ 40 + 64 * 2 ^ 32 + j, r.2 + 1)

/-- `sdraw` (R322, R326). -/
def execSdraw (d a : Reg) (s : State) : Host.Outcome State Fault Refusal :=
  finish (do
    let c ← cx
    let r ← sampRows [c.s a] false (c.sp a)
    let n ← draw
    let t := drawToken (Config.nanDraw n) r.1 (rowValues (hdrV r.1) (c.s a) r.2.1) c.cr.rngk c.cr.rngc
    modCx (fun c => ({ c with cr := { c.cr with rngc := t.2 } }).setS d (BitVec.ofNat 64 t.1) (anyPois r.2.1))
    retireE) s

/-! ### sverify (R327) -/

/-- The result of a check and the counter after it (R327); `free` holds the values that are not stated: an index where a total is a NaN, and whether a
comparison with a NaN accepts. -/
def verifyToken (free : Nat → Nat) (h : SampHeader) (x : Nat) (target drafter : List Nat) (key ctr : Dword) : Nat × Dword :=
  let pivot := val32 (hdrPivot h)
  match weightsOf target (hdrPad h) (hdrTemp h) with
  | none => (emptyResult, ctr)
  | some p =>
    let wp := (p.all.zip target).map (fun y => if vLt (val32 y.2) pivot then 0 else y.1)
    let zp := val32 (total wp)
    if vEq zp (.fin false 0 0) then (emptyResult, ctr)
    else
      let u := drawOf key ctr
      let again (flag : Nat) : Nat × Dword := (flag + drawnIndex (free 0) wp (drawOf key (ctr + 1)), ctr + 2)
      if hdrPad h ≤ x then again (2 ^ 33)
      else match weightsOf drafter (hdrPad h) (hdrTemp h) with
        | none => again 0
        | some q =>
          let zq := val32 (total q.all)
          let wpx := val32 (wp.getD x 0)
          let left := exactMul (exactMul u (val32 (q.all.getD x 0))) zp
          let right := exactMul wpx zq
          let accept := if wpx.isNan then free 1 % 2 == 1
            else vGt wpx (.fin false 0 0) && (if left.isNan || right.isNan then free 1 % 2 == 1 else !vGt left right)
          if accept then (2 ^ 32 + x, ctr + 1)
          else if zp.isNan || zq.isNan then (free 0 % wp.length, ctr + 2)
          else
            let r := (wp.zip q.all).map (fun y =>
              let v := (vAdd .rne (exactMul (val32 y.1) zq) (exactMul (val32 y.2) zp).neg).1
              if vGt v (.fin false 0 0) then (FFmt.f32.result FpEnv.plain v).1 else 0)
            if vEq (val32 (total r)) (.fin false 0 0) then again 0
            else (drawnIndex 0 r (drawOf key (ctr + 1)), ctr + 2)

/-- `sverify` (R322, R327): the poison of the drafted token passes into the result. -/
def execSverify (d a b : Reg) (s : State) : Host.Outcome State Fault Refusal :=
  finish (do
    let c ← cx
    let rp := c.s b
    let rq := c.s (b + 1)
    let r ← sampRows [rp, rq] false (c.sp b || c.sp (b + 1))
    let v := hdrV r.1
    let n ← draw
    let t := verifyToken (Config.nanDraw n) r.1 (c.s a).toNat (rowValues v rp r.2.1) (rowValues v rq r.2.1) c.cr.rngk c.cr.rngc
    modCx (fun c => ({ c with cr := { c.cr with rngc := t.2 } }).setS d (BitVec.ofNat 64 t.1) (anyPois r.2.1 || c.sp a))
    retireE) s

/-! ### cfinc and cfapply (R323, R324) -/

/-- One byte of the filter raised by one, at most to 255, as one atomic (R233, R323). -/
def bumpByte (va : Dword) (p : Place) : Exec Unit := do
  waitSpWords p 1
  logStore va 1
  let s ← get
  let r := s.atomicRead s.cur p 1
  set (r.2.atomicWrite s.cur p 1 (min 255 (r.1.1 + 1)) false)

/-- `cfinc` (R322, R323). -/
def execCfinc (a : Reg) (s : State) : Host.Outcome State Fault Refusal :=
  finish (do
    let c ← cx
    let t := (c.s a).toNat % 2 ^ 32
    let v0 := c.samp + BitVec.ofNat 64 (0x2000 + filter0 t)
    let v1 := c.samp + BitVec.ofNat 64 (0x3000 + filter1 t)
    let ps ← placesT [v0, v1] .atomic 1
    guardTimed v0 1
    guardTimed v1 1
    guardPoison (c.sp a)
    let _ ← ([v0, v1].zip ps).mapM (fun x => bumpByte x.1 x.2)
    retireE) s

/-- A byte of the lines read, with its line's poison. -/
def lineByte (ls : List (Nat × (Nat × Bool))) (va : Nat) : Nat × Bool :=
  let x := kgetD ls (va / 64 * 64) (0, false)
  (x.1 / 2 ^ (8 * (va % 64)) % 256, x.2)

/-- A logit after its penalty (R324). -/
def penalise (h : SampHeader) (l c : Nat) : Nat :=
  let x := if vGt (val32 l) (.fin false 0 0) then aDiv l (hdrRep h) else aMul l (hdrRep h)
  let fc := (FFmt.f32.result FpEnv.plain (vMul (val32 (hdrFreq h)) (.fin false c 0)).1).1
  aSub x (aAdd (hdrPres h) fc)

/-- The elements that `cfapply` stores: index, value and poison (R324). -/
def penalties (h : SampHeader) (samp row : Dword) (ls : List (Nat × (Nat × Bool))) : List (Nat × Nat × Bool) :=
  ((rowValues (hdrV h) row ls).take (hdrPad h)).zipIdx.filterMap (fun x =>
    let i := x.2
    let b0 := lineByte ls (samp.toNat + 0x2000 + filter0 i)
    let b1 := lineByte ls (samp.toNat + 0x3000 + filter1 i)
    let c := min b0.1 b1.1
    if 0 < c ∧ !(val32 x.1).isNan then
      some (i, penalise h x.1 c, (kgetD ls ((row + BitVec.ofNat 64 (4 * i)).toNat / 64 * 64) (0, false)).2 || b0.2 || b1.2)
    else none)

/-- The bytes of the filter that `cfapply` reads for a number of elements. -/
def filterBytes (samp : Dword) (n : Nat) : List Nat :=
  (rangeFrom 0 n).flatMap (fun i => [samp.toNat + 0x2000 + filter0 i, samp.toNat + 0x3000 + filter1 i])

/-- The checks and loads of `cfapply`, and the stores that it is then to make: which elements those are, and so which bytes must be writable, follows from what has been read
(R322, R324). -/
def cfapplyStores (a : Reg) : Exec LanePlan := do
  let c ← cx
  let row := c.s a
  let h ← sampHeader [row] false
  let ps ← linePlaces (sortedLines (rowLines (hdrV h.1) row)) .load
  let fs ← bytePlaces (filterBytes c.samp (hdrPad h.1))
  let ls ← readLines ((ps ++ fs).foldl (fun m x => kset m x.1 x.2) [])
  let out := penalties h.1 c.samp row ls
  let va (i : Nat) : Dword := row + BitVec.ofNat 64 (4 * i)
  let todo ← out.mapM (fun x => do return (x.1, (va x.1, ← translateT (va x.1) .store 4)))
  let _ ← out.mapM (fun x => guardTimed (va x.1) 4)
  guardPoison (c.sp a || h.2.1)
  return { bytes := 4, todo := todo, store := true, acc := 0, pois := false, cut := none, logged := [], vals := out, back := true }

/-- `cfapply` (R322, R324): its loads, and then its stores in ascending address, when it issues again; the stores of other contexts may fall between them, and are lost then.
Before the first of its stores a request from outside takes it back to the boundary before it (R322). -/
def execCfapply (a : Reg) (s : State) : Host.Outcome State Fault Refusal :=
  finish (do
    match (← cx).plan with
    | some p => goOnStoring [] p
    | none =>
      let p ← cfapplyStores a
      if p.todo.isEmpty then retireE else modify (fun s => s.beginWait (.lanes p))) s

end Sys2Proof.Machine
end

