-- ==== Sys2Proof/Machine/SumProduct.lean ====
section
/-! DEFINITION. The sum-product engine (spec 14 R270 to R288; 16 R302, R303; 03 R71, R72). -/

namespace Sys2Proof.Machine

/-! ### Shape words (R273, R274) -/

/-- Record `j` of a shape word, and its operation: true for a product. -/
def shapeRec (x : Dword) (j : Nat) : Nat := x.toNat / 2 ^ (8 * j) % 256
def shapeOp (x : Dword) (j : Nat) : Bool := x.getLsbD (56 + j)

/-- The number of valid records: those before the first 0xFF (R273). -/
def shapeCount (x : Dword) : Nat := ((rangeFrom 0 7).find? (fun j => shapeRec x j == 0xFF)).getD 7

/-- The children of a record, left then right. -/
def shapeKids (x : Dword) (j : Nat) : List Nat := [shapeRec x j % 16, shapeRec x j / 16]

/-- All children of the valid records. -/
def shapeAllKids (x : Dword) : List Nat := (rangeFrom 0 (shapeCount x)).flatMap (shapeKids x)

/-- Whether a shape word is a tree (R274). Every record from the first 0xFF on must have OPS 0, that one too (DEDUCED, log 49: R274 says `every such record` after naming those
that follow it). -/
def isTree (x : Dword) : Bool :=
  let k := shapeCount x
  let kids := shapeAllKids x
  let times (c : Nat) : Nat := (kids.filter (· == c)).length
  !x.getLsbD 63 && decide (1 ≤ k) &&
  (rangeFrom k (7 - k)).all (fun j => shapeRec x j == 0xFF && !shapeOp x j) &&
  kids.all (· != 15) &&
  (rangeFrom 0 k).all (fun j => (shapeKids x j).all (fun c => decide (c < 8 + j))) &&
  (rangeFrom 0 (k - 1)).all (fun j => times (8 + j) == 1) &&
  (rangeFrom 0 8).all (fun c => decide (times c ≤ 1))

/-- The used leaf positions, ascending (R274). -/
def shapeUsed (x : Dword) : List Nat := (rangeFrom 0 8).filter (fun c => (shapeAllKids x).contains c)

/-! ### Arithmetic (R276, R287) -/

/-- A value of the engine with the poison that it depends on. -/
structure SpWord where
  v : Nat
  p : Bool
  deriving DecidableEq, Repr

/-- An operation of the mode on two values, with the flags so far. -/
def spCalc (sp mul : Bool) (x y : SpWord × FpFlags) : SpWord × FpFlags :=
  let r := match sp, mul with
    | false, false => FFmt.f32.add FpEnv.plain x.1.v y.1.v
    | false, true => FFmt.f32.mul FpEnv.plain x.1.v y.1.v
    | true, false => spAdd x.1.v y.1.v
    | true, true => spMul x.1.v y.1.v
  ({ v := r.1, p := x.1.p || y.1.p }, x.2 ||| y.2 ||| r.2)

/-- What the engine holds during a pass: a word for each leaf position or internal node, each with the flags of its operations. -/
abbrev SpVals := List (Nat × (SpWord × FpFlags))

/-- The value of a child (R277). -/
def spGet (m : SpVals) (c : Nat) : SpWord × FpFlags := kgetD m c ({ v := 0, p := false }, 0)

/-- The upward pass: the values of leaves and records, by child number (R277). -/
def spUp (sp : Bool) (x : Dword) (leaves : SpVals) : SpVals :=
  (rangeFrom 0 (shapeCount x)).foldl (fun m j =>
    kset m (8 + j) (spCalc sp (shapeOp x j) (spGet m (shapeRec x j % 16)) (spGet m (shapeRec x j / 16)))) leaves

/-- The downward pass: the root's adjoint distributed to records and leaves, by child number (R278). -/
def spDown (sp : Bool) (x : Dword) (vals : SpVals) (root : SpWord × FpFlags) : SpVals :=
  let k := shapeCount x
  (rangeFrom 0 k).reverse.foldl (fun m j =>
    let g := spGet m (8 + j)
    let l := shapeRec x j % 16
    let r := shapeRec x j / 16
    let share (sib : Nat) : SpWord × FpFlags := if shapeOp x j then spCalc sp true g (spGet vals sib) else g
    kset (kset m l (share r)) r (share l)) [(8 + (k - 1), root)]

/-! ### Addresses, timing -/

/-- The scratchpad offset of `n` bytes at an address; a part outside traps ACCESS (R271, R288). -/
def spOff (va : Dword) (n : Nat) : Exec Nat := do
  let s ← get
  let off := va.toNat - Config.scratchBase
  guardTrap (decide (Config.scratchBase ≤ va.toNat) && decide (off + n ≤ scratchBytes s.co)) cACCESS va
  return off

/-- The words that a group reads from its busiest bank, less one (R280). -/
def bankStall (offs : List Nat) : Nat :=
  ((rangeFrom 0 16).foldl (fun (m : Nat) b => max m ((offs.filter (fun o => o / 4 % 16 == b)).length)) 1) - 1

/-- A scratchpad word and its line's poison. -/
def Core.spWord (c : Core) (off : Nat) : SpWord := { v := c.scratch.read off 4, p := c.scratchPoison (lineOf off) }

/-- The place in the list of a core's last acceptances that holds the first cycle of the next. -/
def spFree : Nat := 4

/-- Whether the engine of a core accepts an instruction of a tree unit now (R279, R280, R303). -/
def Core.spAccepts (c : Core) (cycle : Nat) : Bool :=
  decide (kgetD c.spLast spFree 0 ≤ cycle) &&
  (match kget c.spLast c.spTurn with | none => true | some t => decide (t + 4 ≤ cycle))

/-- Whether words, or the poison of their lines, are still to be written by an unretired instruction (R231, R279, R282). -/
def Core.spOwned (c : Core) (offs : List Nat) : Bool := offs.any (fun o => c.spWrites o 4)

/-! ### spshape -/

/-- Whether `spshape` is not accepted yet in this cycle: another instruction is, or it has waited for a scratchpad word that was written in the cycle (R303). -/
def State.shapeEarly (s : State) (p : Place) : Bool :=
  decide (s.cycle < kgetD s.co.spLast spFree 0) ||
  match p with
  | .scratch _ => s.cx.wait.map Wait.kind == some .spDone && decide (s.cycle ≤ s.co.spDone)
  | _ => false

/-- `spshape` (R284, R285); it counts against the acceptances of the engine (R303). -/
def execSpshape (a : Reg) (k : BitVec 6) (s : State) : Host.Outcome State Fault Refusal :=
  finish (do
    let c ← cx
    let ea := c.s a
    guardTrap (ea.toNat % 8 = 0) cALIGN ea
    let p ← translateT ea .load 8
    waitSpWords p 8
    if (← get).shapeEarly p then throw (.wait .spDone) else pure ()
    let x ← loadE p 8
    guardTrap (isTree (BitVec.ofNat 64 x.1)) cSHAPE ea
    guardPoison (c.sp a || x.2)
    modify (fun s => s.modCo (fun c => { c with
      shapes := kset c.shapes k.toNat (BitVec.ofNat 64 x.1), spLast := kset c.spLast spFree (s.cycle + 1) }))
    retireE) s

/-! ### spup and spdown -/

/-- What an instruction touches, once its checks have passed (R286, R288). -/
structure SpOperands where
  shape   : Dword
  list    : List Nat
  weights : List Nat
  nodes   : List (Nat × Nat)
  root    : Nat
  adjs    : List (Nat × Nat)
  deriving DecidableEq, Repr

/-- The checks of `spup` and `spdown`, in the order of R288. What the leaf list says is read once no unretired instruction is to write it (R279). -/
def spOperands (n : Byte) (l w : Reg) (k : BitVec 6) (sp down : Bool) : Exec SpOperands := do
  let c ← cx
  let la := c.s l
  let wa := c.s w
  guardTrap (la.toNat % 8 = 0) cALIGN la
  guardTrap (w == 0 || wa.toNat % 32 == 0) cALIGN wa
  let lo ← spOff la 8
  let ws ← if w = 0 then pure [] else do
    let o ← spOff wa 32
    pure ((rangeFrom 0 8).map (fun i => o + 4 * i))
  let co := (← get).co
  if co.spOwned [lo, lo + 4] then throw (.wait (.spDep n l w k sp down)) else pure ()
  let shape? := kget co.shapes k.toNat
  let used := (shape?.map shapeUsed).getD []
  let ix (i : Nat) : Nat := (co.scratch.byte (lo + i)).toNat
  let nodes ← used.mapM (fun i => do return (i, ← spOff (c.cr.spbase + BitVec.ofNat 64 (4 * ix i)) 4))
  let root ← spOff ((if down then c.cr.spadj else c.cr.spbase) + BitVec.ofNat 64 (4 * n.toNat)) 4
  let adjs ← if down then used.mapM (fun i => do return (i, ← spOff (c.cr.spadj + BitVec.ofNat 64 (4 * ix i)) 4)) else pure []
  match shape? with
  | none => trapWith cSHAPE 0
  | some x =>
    guardPoison (c.sp l || (w != 0 && c.sp w) || co.scratchPoison (lineOf lo))
    return { shape := x, list := [lo, lo + 4], weights := ws, nodes := nodes, root := root, adjs := adjs }

/-- Every word that an instruction touches. -/
def SpOperands.touched (o : SpOperands) : List Nat :=
  o.list ++ o.weights ++ o.nodes.map (fun x => x.2) ++ [o.root] ++ o.adjs.map (fun x => x.2)

/-- The stall of an instruction (R280). -/
def SpOperands.stall (o : SpOperands) (down : Bool) : Nat :=
  bankStall (o.list ++ o.weights) + bankStall (o.nodes.map (fun x => x.2)) +
    (if down then bankStall (o.root :: o.adjs.map (fun x => x.2)) else 0)

/-- A word written by the engine, with its poison (R231, R287). -/
def State.spPut (s : State) (core off : Nat) (v : SpWord) : State := s.scratchStore core off 4 v.v v.p 0

/-- A word that the engine is to write at retirement (R280). -/
def SpWord.write (off : Nat) (v : SpWord) : Nat × (Nat × Bool) := (off, (v.v, v.p))

/-- The leaves' values: each node word, times its weight where there are weights (R277). -/
def SpOperands.leaves (o : SpOperands) (co : Core) (sp : Bool) : SpVals :=
  o.nodes.foldl (fun m x =>
    let y := (co.spWord x.2, (0 : FpFlags))
    kset m x.1 (if o.weights.isEmpty then y else spCalc sp true y (co.spWord (o.weights.getD x.1 0), 0))) []

/-- The adjoints after the downward pass, position by position, and their writes with the flags (R278). -/
def SpOperands.addAdjoints (o : SpOperands) (core : Nat) (sp : Bool) (h : SpVals) (w : Nat → SpWord) (s : State) :
    State × List (Nat × (Nat × Bool)) × FpFlags :=
  o.adjs.foldl (fun (acc : State × List (Nat × (Nat × Bool)) × FpFlags) x =>
    let t := if o.weights.isEmpty then spGet h x.1 else spCalc sp true (spGet h x.1) (w x.1, 0)
    let r := spCalc sp false ((acc.1.getCore core).spWord x.2, 0) t
    (acc.1.spPut core x.2 r.1, acc.2.1 ++ [r.1.write x.2], acc.2.2 ||| r.2)) (s, [], 0)

/-- The OR of the flags of all operations of a pass. -/
def spFlags (m : SpVals) : FpFlags := m.foldl (fun (a : FpFlags) x => a ||| x.2.2) 0

/-- What an instruction computes when the engine accepts it, and the writes that it makes at retirement (R277, R278, R280). What it has still to
write nobody reads or writes before then, so that its accesses are one group (R282). -/
def State.spRun (s : State) (o : SpOperands) (sp down : Bool) : List (Nat × (Nat × Bool)) × FpFlags :=
  let core := s.coreNum
  let co := s.co
  let vals := spUp sp o.shape (o.leaves co sp)
  let rootVal := spGet vals (8 + (shapeCount o.shape - 1))
  if down then
    let h := spDown sp o.shape vals (co.spWord o.root, 0)
    let r := o.addAdjoints core sp h (fun i => co.spWord (o.weights.getD i 0)) s
    (r.2.1, spFlags vals ||| spFlags h ||| r.2.2)
  else ([rootVal.1.write o.root], spFlags vals)

/-- The group of an accepted instruction at its place in the single order: after the last writes of the lines that it reads, and after the last reads of those that it
writes (R222, R282). -/
def State.spGroup (s : State) (reads writes : List Nat) : State :=
  let core := s.coreNum
  let t := writes.foldl (fun (t : Nat) o => s.co.writeTime o t) (reads.foldl (fun (t : Nat) o => s.co.readTime o t) s.cx.lt)
  ((reads.map lineOf).eraseDups).foldl (fun (u : State) l => u.scratchRead core (64 * l) t) (s.modCx (fun c => { c with lt := t }))

/-- `spup` and `spdown` up to acceptance: an instruction that must wait is accepted later (R279), one that has waited
no earlier than the cycle after the last retirement (R303). -/
def spIssue (n : Byte) (l w : Reg) (k : BitVec 6) (sp down : Bool) : Exec Unit := do
  let o ← spOperands n l w k sp down
  let s ← get
  let co := s.co
  let waited := s.cx.wait.map Wait.kind == some (.spDep n l w k sp down)
  if co.spOwned o.touched || !co.spAccepts s.cycle || (waited && decide (s.cycle ≤ co.spDone)) then throw (.wait (.spDep n l w k sp down))
  else
    let r := s.spRun o sp down
    let st := o.stall down
    let job : SpJob :=
      { slot := s.slotNum, unit := co.spTurn, writes := r.1, flags := r.2, stall := st, due := s.cycle + 6 + st }
    set ((s.spGroup o.touched (r.1.map (fun x => x.1))).modCo (fun c => { c with
      spq := c.spq ++ [job]
      spLast := kset (kset c.spLast c.spTurn s.cycle) spFree (s.cycle + 1 + st)
      spTurn := (c.spTurn + 1) % 4 }))
    retireE

/-- `spup` (R286 to R288). -/
def execSpup (n : Byte) (l w : Reg) (k : BitVec 6) (sp : Bool) (s : State) : Host.Outcome State Fault Refusal :=
  finish (spIssue n l w k sp false) s

/-- `spdown` (R286 to R288). -/
def execSpdown (n : Byte) (l w : Reg) (k : BitVec 6) (sp : Bool) (s : State) : Host.Outcome State Fault Refusal :=
  finish (spIssue n l w k sp true) s

/-! ### Steps of the engine -/

/-- Whether a context waits for the engine to accept its instruction and the engine may (R303). -/
def State.spReady (s : State) (core slot : Nat) : Bool :=
  let c := s.getCtx (ctxKey core slot)
  match c.wait with
  | some w =>
    match w.kind with
    | .spDep .. => c.slot == .issuing && !(s.getCore core).shut && (s.getCore core).spAccepts s.cycle &&
        (s.getCore core).spq.all (fun j => j.slot != slot) && decide ((s.getCore core).spDone < s.cycle)
    | _ => false
  | none => false

/-- SP_ACCEPT (R303). -/
def execSpAccept (core slot : Nat) (s : State) : Host.Outcome State Fault Refusal :=
  let k := ctxKey core slot
  if !s.spReady core slot then .next s
  else match (s.getCtx k).wait with
    | some w =>
      match w.kind with
      | .spDep n l ws kk sp down => finish (spIssue n l ws kk sp down) { s with cur := k, grp := w.grp }
      | _ => .next s
    | none => .next s

/-- SP_RETIRE (R276, R279 to R281): the instruction's words are written and it is counted. -/
def execSpRetire (core : Nat) (s : State) : Host.Outcome State Fault Refusal :=
  match (s.getCore core).spq with
  | [] => .next s
  | j :: js =>
    if s.cycle < j.due then .next s
    else
      .next ((s.modCore core (fun c => { c with spq := js, spDone := s.cycle })).retireSp core j)

end Sys2Proof.Machine
end

