-- ==== Sys2Proof/Machine/Wedging.lean ====
section
/-! DEFINITION. The wedging engine (spec 17 R309 to R316): integrity tags, the block pool, the prefix index, promotion. -/

namespace Sys2Proof.Machine

/-- A computation of the wedging engine: an access that fails ends the request with a completion code. -/
abbrev Wedge := ExceptT Nat (StateM State)

/-- The completion codes (R312). -/
def wSealed : Nat := 1
def wShared : Nat := 2
def wNoSpace : Nat := 3
def wTagFail : Nat := 4
def wNotFull : Nat := 5
def wBadTable : Nat := 6

/-- Loads and stores of the engine in the poster's space. One that fails ends its request with BADTABLE (DESIGN CHOICE, log 32: R313 states no code for a
failure after step 1). -/
def wLoadP (sp : Space) (va n : Nat) : Wedge (Nat × Bool) := do
  let r := (← get).frontLoad sp (BitVec.ofNat 64 va) n
  set r.2
  match r.1 with
  | .ok x => return x
  | .error _ => throw wBadTable

/-- A load of the table, the pool, the tags, the index or the identifiers: its poison is dropped (DESIGN CHOICE, log 32: the spec does not say). -/
def wLoad (sp : Space) (va n : Nat) : Wedge Nat := do return (← wLoadP sp va n).1

def wStoreP (sp : Space) (va n v : Nat) (p : Bool) : Wedge Unit := do
  let r := (← get).frontStore sp (BitVec.ofNat 64 va) n v p
  set r.2
  match r.1 with
  | .ok _ => pure ()
  | .error _ => throw wBadTable

def wStore (sp : Space) (va n v : Nat) : Wedge Unit := wStoreP sp va n v false

/-! ### CRC-32C (R309) -/

/-- Eight steps of the reflected division. -/
def crcBits : Nat → Nat → Nat
  | 0, c => c
  | k + 1, c => crcBits k (if c % 2 = 1 then c / 2 ^^^ 0x82F6_3B78 else c / 2)

/-- The remainder after `n` bytes of a number, the least significant first. -/
def crcBytes : Nat → Nat → Nat → Nat
  | 0, _, c => c
  | n + 1, x, c => crcBytes n (x / 256) (crcBits 8 (c ^^^ (x % 256)))

/-- The CRC-32C of `n` bytes, going on from a remainder that starts at all ones. -/
def crcStart : Nat := 0xFFFF_FFFF
def crcEnd (c : Nat) : Nat := c ^^^ 0xFFFF_FFFF

/-! ### The block pool (R310, R311) -/

/-- The fields of a pool descriptor that the engine uses. -/
structure Pool where
  desc : Nat
  base : Nat
  maxo : Nat
  nblk : Nat
  map  : Nat
  size : Nat
  deriving DecidableEq, Repr

/-- No run. -/
def poolNone : Nat := 2 ^ 64 - 1

def loadPool (sp : Space) (desc : Nat) : Wedge Pool := do
  let b ← wLoad sp desc 8
  let w ← wLoad sp (desc + 0x08) 8
  let d ← wLoad sp (desc + 0x10) 8
  let m ← wLoad sp (desc + 0x18) 8
  return { desc := desc, base := b, maxo := w / 2 ^ 32 % 16, nblk := w % 2 ^ 32, map := m, size := 1024 * headDim (d % 4) }

/-- The address of FREE[k], and of a block. -/
def Pool.freeAt (p : Pool) (k : Nat) : Nat := p.desc + 0x30 + 8 * k
def Pool.addr (p : Pool) (i : Nat) : Nat := p.base + p.size * i

/-- A run put at the head of a list. -/
def Pool.push (p : Pool) (sp : Space) (k i : Nat) : Wedge Unit := do
  let h ← wLoad sp (p.freeAt k) 8
  wStore sp (p.addr i) 8 h
  wStore sp (p.freeAt k) 8 i

/-- The least order at or above one whose list is not empty. -/
def Pool.leastOrder (p : Pool) (sp : Space) : Nat → Nat → Wedge (Option Nat)
  | 0, _ => return none
  | n + 1, k => do
    let h ← wLoad sp (p.freeAt k) 8
    if h ≠ poolNone then return some k else p.leastOrder sp n (k + 1)

/-- The upper halves of a run returned to the lists, from an order down to 0 (R311). -/
def Pool.split (p : Pool) (sp : Space) (i : Nat) : Nat → Wedge Unit
  | 0 => pure ()
  | j + 1 => do
    wStore sp (p.map + i + 2 ^ j) 1 j
    p.push sp j (i + 2 ^ j)
    p.split sp i j

/-- Alloc(0) (R311). -/
def Pool.alloc (p : Pool) (sp : Space) : Wedge (Option Nat) := do
  match ← p.leastOrder sp 11 0 with
  | none => return none
  | some j =>
    let i ← wLoad sp (p.freeAt j) 8
    let next ← wLoad sp (p.addr i) 8
    wStore sp (p.freeAt j) 8 next
    p.split sp i j
    wStore sp (p.map + i) 1 0x80
    return some i

/-- A run taken out of its list by a walk from the head (R311); `at_` is where the link to the present run stands. -/
def Pool.unlink (p : Pool) (sp : Space) (i : Nat) : Nat → Nat → Wedge Unit
  | 0, _ => pure ()
  | n + 1, at_ => do
    let h ← wLoad sp at_ 8
    if h = poolNone then pure ()
    else if h = i then
      let next ← wLoad sp (p.addr i) 8
      wStore sp at_ 8 next
    else p.unlink sp i n (p.addr h)

/-- Free's merging with its buddies (R311). -/
def Pool.merge (p : Pool) (sp : Space) : Nat → Nat → Nat → Wedge Unit
  | 0, i, k => do
    wStore sp (p.map + i) 1 k
    p.push sp k i
  | n + 1, i, k => do
    let b := i ^^^ 2 ^ k
    let m ← if k < p.maxo then wLoad sp (p.map + b) 1 else pure 0xFF
    if m = k then
      p.unlink sp b (p.nblk + 1) (p.freeAt k)
      wStore sp (p.map + max i b) 1 0xFE
      p.merge sp n (min i b) (k + 1)
    else
      wStore sp (p.map + i) 1 k
      p.push sp k i

/-- Free (R311). -/
def Pool.free (p : Pool) (sp : Space) (i : Nat) : Wedge Unit := do
  let m ← wLoad sp (p.map + i) 1
  p.merge sp 11 i (m - 0x80)

/-! ### The prefix index (R315, R316) -/

/-- The prefix key of a block, from the parent's halves lo and hi and the identifiers (R315). -/
def prefixKey (lo hi : Dword) : List Nat → Dword × Dword
  | [] => (lo, hi)
  | t :: ts => prefixKey (mix (lo ^^^ BitVec.ofNat 64 t)) (mix (hi + BitVec.ofNat 64 t + 1)) ts

/-- Identifiers read from an address. -/
def loadIds (sp : Space) : Nat → Nat → Wedge (List Nat)
  | 0, _ => return []
  | n + 1, va => do
    let x ← wLoad sp va 4
    return x :: (← loadIds sp n (va + 4))

/-- The probing of buckets (R316): the shared block, if one is found; an empty bucket takes the new block. -/
def probe (sp : Space) (arr nb : Nat) (key : Dword × Dword) (ids : List Nat) (idsAt block tag : Nat) : Nat → Nat → Wedge (Option Nat)
  | 0, _ => return none
  | n + 1, q => do
    let b := arr + 64 * ((key.1.toNat + q) % nb)
    let blk ← wLoad sp (b + 0x10) 8
    if blk = 0 then
      wStore sp b 8 key.1.toNat
      wStore sp (b + 8) 8 key.2.toNat
      wStore sp (b + 0x18) 8 idsAt
      wStore sp (b + 0x20) 8 (tag % 2 ^ 32 * 2 ^ 32 + 1)
      wStore sp (b + 0x10) 8 block
      return none
    else
      let lo ← wLoad sp b 8
      let hi ← wLoad sp (b + 8) 8
      if lo = key.1.toNat ∧ hi = key.2.toNat then
        let at_ ← wLoad sp (b + 0x18) 8
        let theirs ← loadIds sp 256 at_
        if theirs = ids then
          let r ← wLoad sp (b + 0x20) 4
          wStore sp (b + 0x20) 4 ((r + 1) % 2 ^ 32)
          return some blk
        else probe sp arr nb key ids idsAt block tag n (q + 1)
      else probe sp arr nb key ids idsAt block tag n (q + 1)

/-! ### Promotion (R313) -/

/-- Lines copied with their poison; the answer goes on with a remainder of the CRC. -/
def copyLines (sp : Space) : Nat → Nat → Nat → Nat → Wedge Nat
  | 0, _, _, c => return c
  | n + 1, src, dst, c => do
    let x ← wLoadP sp src 64
    wStoreP sp dst 64 x.1 x.2
    copyLines sp n (src + 64) (dst + 64) (crcBytes 64 x.1 c)

/-- Poison written into lines (R313, step 3). -/
def poisonLines (sp : Space) : Nat → Nat → Wedge Unit
  | 0, _ => pure ()
  | n + 1, va => do
    let x ← wLoad sp va 64
    wStoreP sp va 64 x true
    poisonLines sp n (va + 64)

/-- The tail blocks copied into their places of the new block and checked against their tags, from block `j` on; the answer is the first
that fails (R313, step 3). -/
def copyTail (sp : Space) (dim tail new tagAt : Nat) (broken : Option Nat) : Nat → Nat → Wedge (Option Nat)
  | 0, _ => return none
  | n + 1, j => do
    let src := tail + 64 * dim * j
    let half := dim / 2
    let c ← copyLines sp half src (new + 32 * dim * j) crcStart
    let c ← copyLines sp half (src + 32 * dim) (new + 512 * dim + 32 * dim * j) c
    let t ← wLoad sp (tagAt + 4 * j) 4
    if crcEnd c ≠ t ∨ broken = some j then return some j
    else copyTail sp dim tail new tagAt broken n (j + 1)

/-- The extents of a table read by the engine. -/
def wExtents (sp : Space) : Nat → Nat → Wedge (List Extent)
  | 0, _ => return []
  | n + 1, va => do
    let x ← wLoad sp va 16
    return Extent.of x :: (← wExtents sp n (va + 16))

/-- The CRC of a sealed block that has just been written. -/
def crcLines (sp : Space) : Nat → Nat → Nat → Wedge Nat
  | 0, _, c => return c
  | n + 1, va, c => do
    let x ← wLoad sp va 64
    crcLines sp n (va + 64) (crcBytes 64 x c)

/-- The table of a request, with its last extent, a full tail (R313, step 1). A valid table of no extent ends with NOTFULL (DESIGN CHOICE, log 32: it has no last
extent). -/
def tailTable (sp : Space) (table : Nat) : Wedge (BlockTable × Extent) := do
  let hdr ← wLoad sp table 64
  let exts ← wExtents sp ({ hdr := hdr, exts := [] : BlockTable }).next (table + 64)
  let t : BlockTable := { hdr := hdr, exts := exts }
  if table % 64 ≠ 0 ∨ !t.ok then throw wBadTable else pure ()
  match exts.getLast? with
  | none => throw wNotFull
  | some e => if !e.tail || e.blocks != 16 || e.tokens != 256 then throw wNotFull else return (t, e)

/-! ### The stages of a promotion -/

/-- The header of a request's table. -/
def wHeader (table : Nat) (sp : Space) : Wedge BlockTable := do return { hdr := ← wLoad sp table 64, exts := [] }

/-- Where the LOCK of a table's pool stands, and that of its prefix index (R310, R316). -/
def BlockTable.poolLock (t : BlockTable) : Nat := t.dword 5 + 0x20
def BlockTable.indexLock (t : BlockTable) : Nat := t.dword 6 + 0x10

/-- The LOCK that a request is to take in its next step. -/
def Request.wants (r : Request) : Wedge (Option Nat) := do
  match r.stage with
  | .start => return some (← tailTable r.space r.table).1.poolLock
  | .bad false _ _ => return some (← wHeader r.table r.space).poolLock
  | .index false _ _ => return some (← wHeader r.table r.space).indexLock
  | .release false _ _ _ => return some (← wHeader r.table r.space).poolLock
  | _ => return none

/-- The LOCK that a request holds. -/
def Request.holds (r : Request) : Wedge (Option Nat) := do
  match r.stage with
  | .allocate => return some (← wHeader r.table r.space).poolLock
  | .bad true _ _ => return some (← wHeader r.table r.space).poolLock
  | .index true _ _ => return some (← wHeader r.table r.space).indexLock
  | .release true _ _ _ => return some (← wHeader r.table r.space).poolLock
  | _ => return none

/-- The identifier under which a slice's engine holds a LOCK (R311). -/
def wedgeHolder (slice : Nat) : Nat := 0x8000_0000_0000_0000 + slice

/-- The wanted LOCK taken for a slice (R311, R316). -/
def Request.take (r : Request) (slice : Nat) : Wedge Unit := do
  match ← r.wants with
  | none => pure ()
  | some va => wStore r.space va 8 (wedgeHolder slice)

/-- The held LOCK released. -/
def Request.drop (r : Request) : Wedge Unit := do
  match ← r.holds with
  | none => pure ()
  | some va => wStore r.space va 8 0

/-- Step 2 (R313), the pool's LOCK being held. -/
def wAllocate (r : Request) : Wedge WedgeStage := do
  let pool ← loadPool r.space ((← wHeader r.table r.space).dword 5)
  let got ← pool.alloc r.space
  r.drop
  return match got with
    | none => .finished wNoSpace
    | some i => .fill i

/-- Steps 3 and 4 (R313); a block whose tag differs is poisoned. `broken` is the tail block at which the engine's buffers failed (R335). -/
def wFill (r : Request) (broken : Option Nat) (i : Nat) : Wedge WedgeStage := do
  let sp := r.space
  let (t, e) ← tailTable sp r.table
  let dim := headDim t.dcode
  let pool ← loadPool sp (t.dword 5)
  let tagAt := t.dword 1 + 4 * e.tago
  match ← copyTail sp dim e.base (pool.addr i) tagAt broken 16 0 with
  | some j =>
    poisonLines sp dim (e.base + 64 * dim * j)
    return .bad false i j
  | none =>
    let tag := crcEnd (← crcLines sp (16 * dim) (pool.addr i) crcStart)
    wStore sp tagAt 4 tag
    return if t.dword 6 = 0 then .replace i none else .index false i tag

/-- The key of a request's sealed block, with the address of its identifiers and these (R315). -/
def wKey (sp : Space) (t : BlockTable) : Wedge ((Dword × Dword) × (Nat × List Nat)) := do
  let first := (t.exts.dropLast).foldl (fun (n : Nat) x => n + x.tokens) 0
  let at_ := t.dword 0 + 4 * first
  let ids ← loadIds sp 256 at_
  return (prefixKey (BitVec.ofNat 64 (t.dword 2)) (BitVec.ofNat 64 (t.dword 3)) ids, (at_, ids))

/-- Step 5 (R313, R316), the index's LOCK being held. An index of no buckets inserts and shares nothing (DESIGN CHOICE, log 32: R316 gives NB as a power of two). -/
def wIndex (r : Request) (i tag : Nat) : Wedge WedgeStage := do
  let sp := r.space
  let (t, _) ← tailTable sp r.table
  let pool ← loadPool sp (t.dword 5)
  let k ← wKey sp t
  let arr ← wLoad sp (t.dword 6) 8
  let nb ← wLoad sp (t.dword 6 + 8) 8
  let shared ← if nb % 2 ^ 32 = 0 then pure none else probe sp arr (nb % 2 ^ 32) k.1 k.2.2 k.2.1 (pool.addr i) tag 8 0
  r.drop
  return .replace i shared

/-- Steps 6 and 7 (R313). -/
def wReplace (r : Request) (i : Nat) (shared : Option Nat) : Wedge WedgeStage := do
  let sp := r.space
  let (t, e) ← tailTable sp r.table
  let pool ← loadPool sp (t.dword 5)
  let k ← wKey sp t
  wStore sp (r.table + 0x10) 16 (k.1.1.toNat + 2 ^ 64 * k.1.2.toNat)
  wStore sp (r.table + 64 + 16 * (t.exts.length - 1)) 16
    (shared.getD (pool.addr i) / 2 ^ 16 * 2 ^ 16 + 1 + 2 ^ 64 * 256 + 2 ^ 96 * e.tago)
  return .release false i ((e.base - pool.base) / pool.size) shared

/-- The completion code of a promotion that has sealed a block (R312). -/
def sealedCode (shared : Option Nat) : Nat := if shared.isSome then wShared else wSealed

/-- One stage of a promotion (R313), for a slice's engine. -/
def Request.advance (r : Request) (slice : Nat) (broken : Option Nat) : Wedge WedgeStage := do
  match r.stage with
  | .start => r.take slice; return .allocate
  | .allocate => wAllocate r
  | .fill i => wFill r broken i
  | .bad false i j => r.take slice; return .bad true i j
  | .bad true i j =>
    (← loadPool r.space ((← wHeader r.table r.space).dword 5)).free r.space i
    r.drop
    return .finished (wTagFail + 256 * j)
  | .index false i tag => r.take slice; return .index true i tag
  | .index true i tag => wIndex r i tag
  | .replace i shared => wReplace r i shared
  | .release false i run shared => r.take slice; return .release true i run shared
  | .release true i run shared =>
    let pool ← loadPool r.space ((← wHeader r.table r.space).dword 5)
    pool.free r.space run
    if shared.isSome then pool.free r.space i else pure ()
    r.drop
    return .finished (sealedCode shared)
  | .finished c => return .finished c

/-- How a request ends whose access fails: before its table is written with the failure's code, after that as a success (log 32). -/
def Request.failed (r : Request) (c : Nat) : WedgeStage :=
  match r.stage with
  | .release _ _ _ shared => .finished (sealedCode shared)
  | _ => .finished c

/-- Whether a lock that the engine takes is held (R311, R316). -/
def State.locked (s : State) (sp : Space) (va : Nat) : Bool :=
  match (s.frontLoad sp (BitVec.ofNat 64 va) 8).1 with
  | .ok x => x.1 != 0
  | .error _ => false

/-- Whether the LOCK that a request is to take next is free. -/
def State.wedgeFree (s : State) (r : Request) : Bool :=
  match (r.wants s).1 with
  | .ok (some va) => !s.locked r.space va
  | _ => true

/-- The slice whose engine serves a request: the one that homes the table's first byte (R376). -/
def State.requestSlice (s : State) (r : Request) : Option Nat := s.homeSlice r.space (BitVec.ofNat 64 r.table)

/-- Whether a request may go on: its engine starts requests in the order of arrival, and one that waits for a LOCK lets the next start (R248). -/
def State.promotionDue (s : State) (id : Nat) (r : Request) : Bool :=
  s.wedgeFree r && (r.stage != .start || s.requests.all (fun x =>
    decide (id ≤ x.1) || x.2.stage != .start || s.requestSlice x.2 != s.requestSlice r || !s.wedgeFree x.2))

/-- PROMOTION (R312, R313): one stage of a request, and at the end its completion word, which is dropped where it cannot be written (DESIGN CHOICE, log 32: the spec does not
say). A stage in which an access fails leaves everything as it was, but for its LOCK, which it releases. -/
def execPromotion (request : Nat) (s : State) : Host.Outcome State Fault Refusal :=
  match kget s.requests request with
  | none => .next s
  | some r =>
    if !s.promotionDue request r then .next s
    else match r.stage with
      | .finished c => .next (({ s with requests := kdel s.requests request }.frontStore r.space (BitVec.ofNat 64 r.done) 8 c false).2)
      | _ =>
        let s0 := { s with fresh := s.fresh + 1 }
        let broken := if r.broken then some (Config.choose s.fresh % 16) else none
        let goOn (t : State) (g : WedgeStage) : State := { t with requests := kset t.requests request { r with stage := g } }
        match r.advance ((s.requestSlice r).getD 0) broken s0 with
        | (.ok g, t) => .next (goOn t g)
        | (.error c, t) => .next (goOn (r.drop (s0.undone t)).2 (r.failed c))

end Sys2Proof.Machine
end

