-- ==== Sys2Proof/Machine/Tlb.lean ====
section
/-! DEFINITION. `tlbinv` (spec 11 R243, R244), which waits for the commands and vector accesses that have used what it drops. -/

namespace Sys2Proof.Machine

/-- Whether a holder of cached translations is covered by a scope of a core (R243). -/
def TlbHolder.covered (h : TlbHolder) (sc : Scope) (own : Nat) : Bool :=
  match h with
  | .core n => inScope sc own n
  | .quad q => if sc == .core then q == own / 4 else inScope sc own (4 * q)
  | .die d => if sc == .core then d == dieOf own else inScope sc own (2048 * d)

/-- Whether a cached translation is of a kind that `tlbinv` drops (R243). -/
def TlbEntry.hit (e : TlbEntry) (k : TlbKind) (va : Dword) (asid : Nat) : Bool :=
  let page := canonical va && decide (e.base ≤ va.toNat) && decide (va.toNat < e.base + e.size)
  match k with
  | .all => true
  | .asid => !e.glob && e.asid == asid
  | .page => page && (e.glob || e.asid == asid)
  | .pageAny => page

/-- Whether a cached translation translates some of `n` bytes at an address for a core (R219). -/
def TlbEntry.meets (e : TlbEntry) (core : Nat) (sp : Space) (va : Nat) (n : Nat) : Bool :=
  (e.holder == .core core || e.holder == .quad (core / 4) || e.holder == .die (dieOf core)) &&
  (e.glob || e.asid == sp.asid.toNat) && decide (e.base < va + n) && decide (va < e.base + e.size)

/-- Whether a copy command has translated an address of a piece through a cached translation. -/
def CopyCmd.usedEntry (c : CopyCmd) (e : TlbEntry) : Bool :=
  (rangeFrom 0 c.next).any (fun i =>
    e.meets c.core c.space (c.from_ i).toNat c.lay.bytes || e.meets c.core c.space (c.to_ i).toNat c.lay.bytes)

/-- Whether an attention command has translated an address of its query or of a block through a cached translation. -/
def AttnCmd.usedEntry (a : AttnCmd) (e : TlbEntry) : Bool :=
  (a.query.isSome && e.meets a.core a.space a.qaddr (2 * a.dim * a.nq)) ||
  (a.blocks.take a.done.length).any (fun b => a.touches b && e.meets a.core a.space b.base (4 * a.dim * b.room))

/-- Whether a promotion that has begun may have been translated through a cached translation: any of its own space that the engines use (DESIGN CHOICE, log 49: the addresses
that it has translated are not kept, so that `tlbinv` may wait for a promotion that R244 does not name). -/
def Request.usedEntry (r : Request) (e : TlbEntry) : Bool :=
  r.stage != .start && !r.space.physical && (e.holder == .core frontCore || e.holder == .quad (frontCore / 4) || e.holder == .die (dieOf frontCore)) &&
  (e.glob || e.asid == r.space.asid.toNat)

/-- Who may hold a translation that a core uses (R219). -/
def holdersOf (core : Nat) : List TlbHolder := [.core core, .quad (core / 4), .die (dieOf core)]

/-- A translation that a holder may have kept for an address, as far as `tlbinv` tells it from others: of the greatest page. -/
def laneEntry (h : TlbHolder) (sp : Space) (va : Nat) (glob : Bool) : TlbEntry :=
  { holder := h, asid := sp.asid.toNat, root := sp.ptroot.toNat, glob := glob, base := va / 2 ^ 30 * 2 ^ 30, size := 2 ^ 30, leaf := 0 }

/-- Whether accesses that their context stands in the middle of have lanes left whose translation, by whichever structure that the core uses, is of a kind: their places were
found before the first lane, and the translation need not be cached any longer (R112, R244). -/
def Context.openLane (c : Context) (core : Nat) (drops : TlbEntry → Bool) : Bool :=
  match c.plan with
  | none => false
  | some p => p.todo.any (fun x => (holdersOf core).any (fun h => [false, true].any (fun g => drops (laneEntry h c.space x.2.1.toNat g))))

/-- Whether a command under way has been translated through a cached translation, so that dropping it completes only with the command (R244). -/
def State.usedByCommand (s : State) (e : TlbEntry) : Bool :=
  s.copies.any (fun x => x.2.usedEntry e) || s.attns.any (fun x => x.2.usedEntry e) || s.requests.any (fun x => x.2.usedEntry e)

/-- Whether what `tlbinv` drops is still in use by a command or a vector access under way (R244). -/
def State.translationUsed (s : State) (drops : TlbEntry → Bool) : Bool :=
  s.tlb.any (fun e => drops e && s.usedByCommand e) || s.ctxs.any (fun x => x.2.openLane (x.1 / 64) drops)

/-- `tlbinv` (R243, R244). It stalls while a command or a vector access is under way that was translated through a translation that it drops. -/
def execTlbinv (k : TlbKind) (a b : Reg) (sc : Scope) (s : State) : Host.Outcome State Fault Refusal :=
  finish (do
    guardSuper
    let c ← cx
    guardPoison (match k with
      | .all => false
      | .asid => c.sp b
      | .page => c.sp a || c.sp b
      | .pageAny => c.sp a)
    let s ← get
    let drops (e : TlbEntry) : Bool := e.holder.covered sc s.coreNum && e.hit k (c.s a) ((c.s b).toNat % 65536)
    if s.translationUsed drops then throw (.wait .translated) else pure ()
    set { s with tlb := s.tlb.filter (fun e => !drops e) }
    retireE) s

end Sys2Proof.Machine
end

