-- ==== Sys2Proof/Machine/Vector.lean ====
section
/-! DEFINITION. The vector, predicate and conversion instructions but for vector memory (spec 05 R94 to R99, R103 to R111). -/

namespace Sys2Proof.Machine

/-! ### Lane arithmetic -/

/-- A binary lane operation of a type: an integer function of the width, or a floating-point one of the format (R97). -/
def valu2 (t : ETy) (fi : Nat → Nat → Nat → Nat) (ff : FFmt → FpEnv → Nat → Nat → Nat × FpFlags) (d a b : Reg) (g : PReg) : Exec Unit :=
  laneOpF t.width d [a, b] g (fun env xs =>
    let x := xs.getD 0 0
    let y := xs.getD 1 0
    if t.isFloat then ff (fmtOf t) env x y else (fi t.width x y, 0))

/-- A unary lane operation of a type (R97). -/
def valu1 (t : ETy) (fi : Nat → Nat → Nat) (ff : FFmt → FpEnv → Nat → Nat × FpFlags) (d a : Reg) (g : PReg) : Exec Unit :=
  laneOpF t.width d [a] g (fun env xs =>
    let x := xs.getD 0 0
    if t.isFloat then ff (fmtOf t) env x else (fi t.width x, 0))

/-- An operation on the lane bits whatever the type; no flags (R97). -/
def bits2 (t : ETy) (f : Nat → Nat → Nat → Nat) (d a b : Reg) (g : PReg) : Exec Unit :=
  laneOp t.width d [a, b] g (fun xs => f t.width (xs.getD 0 0) (xs.getD 1 0))

/-- A value clamped to a range (R54). -/
def clamp (lo hi i : Int) : Int := if i < lo then lo else if i > hi then hi else i

/-- Signed and unsigned saturation of an exact result (R54). -/
def satS (w : Nat) (i : Int) : Nat := wrapTo w (clamp (intLo false w) (intHi false w) i)
def satU (w : Nat) (i : Int) : Nat := wrapTo w (clamp (intLo true w) (intHi true w) i)

/-- Signed quotient of lanes (R53). -/
def laneDiv (w x y : Nat) : Nat :=
  if y = 0 then 2 ^ w - 1 else wrapTo w ((signedOf w x).tdiv (signedOf w y))

/-- `vadd` (R97). -/
def execVadd (d a b : Reg) (g : PReg) (t : ETy) (s : State) : Host.Outcome State Fault Refusal :=
  finish (valu2 t (fun w x y => (x + y) % 2 ^ w) FFmt.add d a b g) s

/-- `vsub` (R97). -/
def execVsub (d a b : Reg) (g : PReg) (t : ETy) (s : State) : Host.Outcome State Fault Refusal :=
  finish (valu2 t (fun w x y => wrapTo w ((x : Int) - y)) FFmt.sub d a b g) s

/-- `vmul` (R97). -/
def execVmul (d a b : Reg) (g : PReg) (t : ETy) (s : State) : Host.Outcome State Fault Refusal :=
  finish (valu2 t (fun w x y => x * y % 2 ^ w) FFmt.mul d a b g) s

/-- `vmin` (R97). -/
def execVmin (d a b : Reg) (g : PReg) (t : ETy) (s : State) : Host.Outcome State Fault Refusal :=
  finish (valu2 t (fun w x y => if signedOf w x < signedOf w y then x else y) (fun f => f.minMax false) d a b g) s

/-- `vmax` (R97). -/
def execVmax (d a b : Reg) (g : PReg) (t : ETy) (s : State) : Host.Outcome State Fault Refusal :=
  finish (valu2 t (fun w x y => if signedOf w x < signedOf w y then y else x) (fun f => f.minMax true) d a b g) s

/-- `vminn` (R97). -/
def execVminn (d a b : Reg) (g : PReg) (t : ETy) (s : State) : Host.Outcome State Fault Refusal :=
  finish (bits2 t (fun _ x y => min x y) d a b g) s

/-- `vmaxn` (R97). -/
def execVmaxn (d a b : Reg) (g : PReg) (t : ETy) (s : State) : Host.Outcome State Fault Refusal :=
  finish (bits2 t (fun _ x y => max x y) d a b g) s

/-- `vabs` (R97). -/
def execVabs (d a : Reg) (g : PReg) (t : ETy) (s : State) : Host.Outcome State Fault Refusal :=
  finish (valu1 t (fun w x => wrapTo w (signedOf w x).natAbs) (fun f _ => f.absV) d a g) s

/-- `vneg` (R97). -/
def execVneg (d a : Reg) (g : PReg) (t : ETy) (s : State) : Host.Outcome State Fault Refusal :=
  finish (valu1 t (fun w x => wrapTo w (-(x : Int))) (fun f _ => f.negV) d a g) s

/-- `vand` (R97). -/
def execVand (d a b : Reg) (g : PReg) (t : ETy) (s : State) : Host.Outcome State Fault Refusal :=
  finish (bits2 t (fun _ x y => x &&& y) d a b g) s

/-- `vor` (R97). -/
def execVor (d a b : Reg) (g : PReg) (t : ETy) (s : State) : Host.Outcome State Fault Refusal :=
  finish (bits2 t (fun _ x y => x ||| y) d a b g) s

/-- `vxor` (R97). -/
def execVxor (d a b : Reg) (g : PReg) (t : ETy) (s : State) : Host.Outcome State Fault Refusal :=
  finish (bits2 t (fun _ x y => x ^^^ y) d a b g) s

/-- `vandn` (R97). -/
def execVandn (d a b : Reg) (g : PReg) (t : ETy) (s : State) : Host.Outcome State Fault Refusal :=
  finish (bits2 t (fun w x y => x &&& (2 ^ w - 1 - y)) d a b g) s

/-- `vsll` (R97). -/
def execVsll (d a b : Reg) (g : PReg) (t : ETy) (s : State) : Host.Outcome State Fault Refusal :=
  finish (bits2 t (fun w x y => x * 2 ^ (y % w) % 2 ^ w) d a b g) s

/-- `vsrl` (R97). -/
def execVsrl (d a b : Reg) (g : PReg) (t : ETy) (s : State) : Host.Outcome State Fault Refusal :=
  finish (bits2 t (fun w x y => x / 2 ^ (y % w)) d a b g) s

/-- `vsra` (R97). -/
def execVsra (d a b : Reg) (g : PReg) (t : ETy) (s : State) : Host.Outcome State Fault Refusal :=
  finish (bits2 t (fun w x y => wrapTo w (signedOf w x / ((2 ^ (y % w) : Nat) : Int))) d a b g) s

/-- `vaddsat` (R97). -/
def execVaddsat (d a b : Reg) (g : PReg) (t : ETy) (s : State) : Host.Outcome State Fault Refusal :=
  finish (bits2 t (fun w x y => satS w (signedOf w x + signedOf w y)) d a b g) s

/-- `vsubsat` (R97). -/
def execVsubsat (d a b : Reg) (g : PReg) (t : ETy) (s : State) : Host.Outcome State Fault Refusal :=
  finish (bits2 t (fun w x y => satS w (signedOf w x - signedOf w y)) d a b g) s

/-- `vaddsatn` (R97). -/
def execVaddsatn (d a b : Reg) (g : PReg) (t : ETy) (s : State) : Host.Outcome State Fault Refusal :=
  finish (bits2 t (fun w x y => satU w ((x : Int) + y)) d a b g) s

/-- `vsubsatn` (R97). -/
def execVsubsatn (d a b : Reg) (g : PReg) (t : ETy) (s : State) : Host.Outcome State Fault Refusal :=
  finish (bits2 t (fun w x y => satU w ((x : Int) - y)) d a b g) s

/-- `vdiv` (R97). -/
def execVdiv (d a b : Reg) (g : PReg) (t : ETy) (s : State) : Host.Outcome State Fault Refusal :=
  finish (valu2 t laneDiv FFmt.div d a b g) s

/-- `vsqrt` (R97). -/
def execVsqrt (d a : Reg) (g : PReg) (t : ETy) (s : State) : Host.Outcome State Fault Refusal :=
  finish (valu1 t (fun _ x => x) FFmt.sqrt d a g) s

/-- `vmulh` (R97). -/
def execVmulh (d a b : Reg) (g : PReg) (t : ETy) (s : State) : Host.Outcome State Fault Refusal :=
  finish (bits2 t (fun w x y => wrapTo w (signedOf w x * signedOf w y / ((2 ^ w : Nat) : Int))) d a b g) s

/-- `vmulhn` (R97). -/
def execVmulhn (d a b : Reg) (g : PReg) (t : ETy) (s : State) : Host.Outcome State Fault Refusal :=
  finish (bits2 t (fun w x y => x * y / 2 ^ w) d a b g) s

/-- `vsel`: not masked; bit i of P[g] chooses between the sources (R97). -/
def execVsel (d a b : Reg) (g : PReg) (t : ETy) (s : State) : Host.Outcome State Fault Refusal :=
  finish (do
    let x ← srcV a
    let y ← srcV b
    let gv := (← cx).p g
    let v := ofLanesV t.width ((rangeFrom 0 (512 / t.width)).map (fun i => lane t.width (if active gv i then x.1 else y.1) i))
    modCx (fun c => (c.popPorts [a, b]).setV d v (x.2 || y.2))
    retireE) s

/-! ### Special functions -/

/-- `vrcp` (R61, R98). -/
def execVrcp (d a : Reg) (g : PReg) (s : State) : Host.Outcome State Fault Refusal :=
  finish (laneOpF 32 d [a] g (fun env xs => sfRcp env (xs.getD 0 0))) s

/-- `vrsqrt` (R61, R98). -/
def execVrsqrt (d a : Reg) (g : PReg) (s : State) : Host.Outcome State Fault Refusal :=
  finish (laneOpF 32 d [a] g (fun env xs => sfRsqrt env (xs.getD 0 0))) s

/-- `vexp2` (R61, R98). -/
def execVexp2 (d a : Reg) (g : PReg) (s : State) : Host.Outcome State Fault Refusal :=
  finish (laneOpF 32 d [a] g (fun env xs => sfExp2 env (xs.getD 0 0))) s

/-- `vlog2` (R61, R98). -/
def execVlog2 (d a : Reg) (g : PReg) (s : State) : Host.Outcome State Fault Refusal :=
  finish (laneOpF 32 d [a] g (fun env xs => sfLog2 env (xs.getD 0 0))) s

/-- `vtanh` (R61, R98). -/
def execVtanh (d a : Reg) (g : PReg) (s : State) : Host.Outcome State Fault Refusal :=
  finish (laneOpF 32 d [a] g (fun env xs => sfTanh env (xs.getD 0 0))) s

/-! ### Fused multiply-add -/

/-- `vfma` (R99). -/
def execVfma (d a b c : Reg) (g : PReg) (t : ETy) (s : State) : Host.Outcome State Fault Refusal :=
  finish (laneOpF t.width d [a, b, c] g (fun env xs =>
    (fmtOf t).fma false false env (xs.getD 0 0) (xs.getD 1 0) (xs.getD 2 0))) s

/-- `vfms` (R99). -/
def execVfms (d a b c : Reg) (g : PReg) (t : ETy) (s : State) : Host.Outcome State Fault Refusal :=
  finish (laneOpF t.width d [a, b, c] g (fun env xs =>
    (fmtOf t).fma false true env (xs.getD 0 0) (xs.getD 1 0) (xs.getD 2 0))) s

/-- `vfnma` (R99). -/
def execVfnma (d a b c : Reg) (g : PReg) (t : ETy) (s : State) : Host.Outcome State Fault Refusal :=
  finish (laneOpF t.width d [a, b, c] g (fun env xs =>
    (fmtOf t).fma true true env (xs.getD 0 0) (xs.getD 1 0) (xs.getD 2 0))) s

/-- `vfnms` (R99). -/
def execVfnms (d a b c : Reg) (g : PReg) (t : ETy) (s : State) : Host.Outcome State Fault Refusal :=
  finish (laneOpF t.width d [a, b, c] g (fun env xs =>
    (fmtOf t).fma true false env (xs.getD 0 0) (xs.getD 1 0) (xs.getD 2 0))) s

/-! ### Compares and predicates -/

/-- A compare: bits of active lanes set to the condition, others below n kept, those from n cleared; a poisoned source sets CHKINT[0]
(R95, R103). -/
def compare (t : ETy) (p : PReg) (a b : Reg) (g : PReg) (f : FpEnv → Nat → Nat → Bool × FpFlags) : Exec Unit := do
  let x ← srcV a
  let y ← srcV b
  let s ← get
  let c := s.cx
  let gv := c.p g
  let n := 512 / t.width
  let rs := (rangeFrom 0 n).map (fun i =>
    if active gv i then
      let r := f s.fpEnv (lane t.width x.1 i) (lane t.width y.1 i)
      ((if r.1 then 1 else 0), r.2)
    else ((if (c.p p).getLsbD i then 1 else 0), 0))
  modCx (fun c => (((c.popPorts [a, b]).setP p (BitVec.ofNat 64 (ofLanes 1 (rs.map (fun r => r.1))))).addFlags (orFlags rs)).poisonIf
    (x.2 || y.2))
  retireE

/-- A floating-point condition: `quiet` conditions set NV only on a signalling NaN (R103). -/
def fcond (t : ETy) (quiet onNan : Bool) (ok : Ordering → Bool) (env : FpEnv) (x y : Nat) : Bool × FpFlags :=
  let a := (fmtOf t).decode env.flush x
  let b := (fmtOf t).decode env.flush y
  if a.isNan || b.isNan then (onNan, flagIf (!quiet || a.sig || b.sig) fNV) else (ok (cmpVal a b), 0)

/-- `vcmp.eq` (R103). -/
def execVcmpEq (p : PReg) (a b : Reg) (g : PReg) (t : ETy) (s : State) : Host.Outcome State Fault Refusal :=
  finish (compare t p a b g (fun env x y => if t.isFloat then fcond t true false (fun o => o == .eq) env x y else (x == y, 0))) s

/-- `vcmp.ne` (R103). -/
def execVcmpNe (p : PReg) (a b : Reg) (g : PReg) (t : ETy) (s : State) : Host.Outcome State Fault Refusal :=
  finish (compare t p a b g (fun env x y => if t.isFloat then fcond t true true (fun o => o != .eq) env x y else (x != y, 0))) s

/-- `vcmp.lt` (R103). -/
def execVcmpLt (p : PReg) (a b : Reg) (g : PReg) (t : ETy) (s : State) : Host.Outcome State Fault Refusal :=
  finish (compare t p a b g (fun env x y => if t.isFloat then fcond t false false (fun o => o == .lt) env x y else (decide (signedOf t.width x < signedOf t.width y), 0))) s

/-- `vcmp.le` (R103). -/
def execVcmpLe (p : PReg) (a b : Reg) (g : PReg) (t : ETy) (s : State) : Host.Outcome State Fault Refusal :=
  finish (compare t p a b g (fun env x y => if t.isFloat then fcond t false false (fun o => o != .gt) env x y else (decide (signedOf t.width x ≤ signedOf t.width y), 0))) s

/-- `vcmp.ltn` (R103). -/
def execVcmpLtn (p : PReg) (a b : Reg) (g : PReg) (t : ETy) (s : State) : Host.Outcome State Fault Refusal :=
  finish (compare t p a b g (fun _ x y => (decide (x < y), 0))) s

/-- `vcmp.len` (R103). -/
def execVcmpLen (p : PReg) (a b : Reg) (g : PReg) (t : ETy) (s : State) : Host.Outcome State Fault Refusal :=
  finish (compare t p a b g (fun _ x y => (decide (x ≤ y), 0))) s

/-- `vcmp.unord` (R103). -/
def execVcmpUnord (p : PReg) (a b : Reg) (g : PReg) (t : ETy) (s : State) : Host.Outcome State Fault Refusal :=
  finish (compare t p a b g (fun env x y => fcond t true true (fun _ => false) env x y)) s

/-- `pand` (R104). -/
def execPand (d a b : PReg) (s : State) : Host.Outcome State Fault Refusal :=
  .next (s.modCx (fun c => c.setP d (c.p a &&& c.p b))).retire

/-- `por` (R104). -/
def execPor (d a b : PReg) (s : State) : Host.Outcome State Fault Refusal :=
  .next (s.modCx (fun c => c.setP d (c.p a ||| c.p b))).retire

/-- `pxor` (R104). -/
def execPxor (d a b : PReg) (s : State) : Host.Outcome State Fault Refusal :=
  .next (s.modCx (fun c => c.setP d (c.p a ^^^ c.p b))).retire

/-- `pnot` (R104). -/
def execPnot (d a : PReg) (s : State) : Host.Outcome State Fault Refusal :=
  .next (s.modCx (fun c => c.setP d (~~~c.p a))).retire

/-- `pcnt`: a poisoned count traps POISON (R95, R104). -/
def execPcnt (d : PReg) (a : Reg) (s : State) : Host.Outcome State Fault Refusal :=
  finish (do
    let c ← cx
    guardPoison (c.sp a)
    modCx (fun c => c.setP d (BitVec.ofNat 64 (2 ^ (min (c.s a).toNat 64) - 1)))
    retireE) s

/-- `ppop` (R104). -/
def execPpop (d : Reg) (a : PReg) (s : State) : Host.Outcome State Fault Refusal :=
  .next (s.modCx (fun c => c.setS d (BitVec.ofNat 64 (onesCount (c.p a))) false)).retire

/-- The lowest one bit of a predicate (R104). -/
def lowestOne (x : Dword) : Dword := if x = 0 then 0 else BitVec.ofNat 64 (2 ^ trailingZeros x)

/-- `pfirst` (R104). -/
def execPfirst (d a : PReg) (s : State) : Host.Outcome State Fault Refusal :=
  .next (s.modCx (fun c => c.setP d (lowestOne (c.p a)))).retire

/-- `pbrk` (R104). -/
def execPbrk (d a : PReg) (s : State) : Host.Outcome State Fault Refusal :=
  .next (s.modCx (fun c => c.setP d (lowestOne (c.p a) - 1))).retire

/-! ### Lane movement -/

/-- `vbcast` (R105). -/
def execVbcast (d a : Reg) (g : PReg) (t : ETy) (s : State) : Host.Outcome State Fault Refusal :=
  finish (do
    let c ← cx
    let gv := c.p g
    let v := maskLanes t.width gv (c.v d) (fun _ => (c.s a).toNat % 2 ^ t.width)
    modCx (fun c => c.setV d v (maskPois (512 / t.width) gv (c.sp a) (c.vp d)))
    retireE) s

/-- `vins`: the destination is read as a source (R95, R105). -/
def execVins (d a b : Reg) (g : PReg) (t : ETy) (s : State) : Host.Outcome State Fault Refusal :=
  finish (do
    let c ← cx
    guardPoison (c.sp b)
    let k := (c.s b).toNat
    let n := 512 / t.width
    let put := decide (k < n) && active (c.p g) k
    let v := ofLanesV t.width ((rangeFrom 0 n).map (fun i =>
      if put && i == k then (c.s a).toNat % 2 ^ t.width else lane t.width (c.v d) i))
    modCx (fun c => c.setV d v (c.sp a || c.vp d))
    retireE) s

/-- `vext` (R105). -/
def execVext (d a b : Reg) (t : ETy) (s : State) : Host.Outcome State Fault Refusal :=
  finish (do
    let x ← srcV a
    let c ← cx
    guardPoison (c.sp b)
    let k := (c.s b).toNat
    let v := if k < 512 / t.width then lane t.width x.1 k else 0
    modCx (fun c => (c.popPorts [a]).setS d (if t.isFloat then BitVec.ofNat 64 v else BitVec.ofInt 64 (signedOf t.width v)) x.2)
    retireE) s

/-- `vperm` (R105): the operand that supplies lane numbers traps POISON (R95). -/
def execVperm (d a b : Reg) (g : PReg) (t : ETy) (s : State) : Host.Outcome State Fault Refusal :=
  finish (do
    let x ← srcV a
    let y ← srcV b
    guardPoison y.2
    let c ← cx
    let gv := c.p g
    let n := 512 / t.width
    let v := maskLanes t.width gv (c.v d) (fun i => lane t.width x.1 (lane t.width y.1 i % n))
    modCx (fun c => (c.popPorts [a, b]).setV d v (maskPois n gv (x.2 || y.2) (c.vp d)))
    retireE) s

/-- `vslide` (R105). -/
def execVslide (d a b : Reg) (g : PReg) (t : ETy) (s : State) : Host.Outcome State Fault Refusal :=
  finish (do
    let x ← srcV a
    let c ← cx
    guardPoison (c.sp b)
    let gv := c.p g
    let n := 512 / t.width
    let k := (c.s b).toInt
    let v := maskLanes t.width gv (c.v d) (fun i =>
      let j : Int := i + k
      if 0 ≤ j ∧ j < n then lane t.width x.1 j.toNat else 0)
    modCx (fun c => (c.popPorts [a]).setV d v (maskPois n gv (x.2 || c.sp b) (c.vp d)))
    retireE) s

/-- `vcompress`: all lanes are written (R105). -/
def execVcompress (d a : Reg) (g : PReg) (t : ETy) (s : State) : Host.Outcome State Fault Refusal :=
  finish (do
    let x ← srcV a
    let gv := (← cx).p g
    let v := ofLanesV t.width (((rangeFrom 0 (512 / t.width)).filter (active gv)).map (lane t.width x.1))
    modCx (fun c => (c.popPorts [a]).setV d v x.2)
    retireE) s

/-! ### Conversions -/

/-- `vcvt` (R106). -/
def execVcvt (d a : Reg) (u : Bool) (e : ETy) (g : PReg) (t : ETy) (s : State) : Host.Outcome State Fault Refusal :=
  finish (laneOpF t.width d [a] g (fun env xs => cvtLane u e t env (xs.getD 0 0))) s

/-- The lanes of a destination of one or two registers, with flags and poison, masked by the lane that governs each (R95, R107). -/
def writeLanes (w : Nat) (d : Reg) (two : Bool) (srcs : List Reg) (srcP full : Bool) (f : Nat → Option (Nat × FpFlags)) : Exec Unit := do
  let n := 512 / w
  let c ← cx
  let half (r : Reg) (from_ : Nat) : List (Nat × FpFlags) :=
    (rangeFrom 0 n).map (fun i => (f (from_ + i)).getD (lane w (c.v r) i, 0))
  let lo := half d 0
  let hi := if two then half (d + 1) n else []
  modCx (fun c0 =>
    let c1 := c0.popPorts srcs
    let c2 := c1.setV d (ofLanesV w (lo.map (fun x => x.1))) (srcP || (!full && c.vp d))
    let c3 := if two then c2.setV (d + 1) (ofLanesV w (hi.map (fun x => x.1))) (srcP || (!full && c.vp (d + 1))) else c2
    c3.addFlags (orFlags (lo ++ hi)))
  retireE

/-- `vcvtw`: the lower half of the source goes to V[d], the upper to V[d+1] (R106, R107). -/
def execVcvtw (d a : Reg) (u : Bool) (e : ETy) (g : PReg) (t : ETy) (s : State) : Host.Outcome State Fault Refusal :=
  finish (do
    let x ← srcV a
    let s ← get
    let gv := s.cx.p g
    writeLanes e.width d true [a] x.2 (allActive (512 / t.width) gv) (fun i =>
      if active gv i then some (cvtLane u e t s.fpEnv (lane t.width x.1 i)) else none)) s

/-- `vcvtn`: the lower half of the destination comes from V[a], the upper from V[a+1] (R106, R107). -/
def execVcvtn (d a : Reg) (u : Bool) (e : ETy) (g : PReg) (t : ETy) (s : State) : Host.Outcome State Fault Refusal :=
  finish (do
    let x ← srcV a
    let y ← srcV (a + 1)
    let s ← get
    let gv := s.cx.p g
    let n := 512 / t.width
    writeLanes e.width d false [a, a + 1] (x.2 || y.2) (allActive (512 / e.width) gv) (fun i =>
      if active gv i then some (cvtLane u e t s.fpEnv (if i < n then lane t.width x.1 i else lane t.width y.1 (i - n))) else none)) s

/-- `vcvtq`: a quarter of binary8 codes to binary32 (R64, R108). -/
def execVcvtq (d a b : Reg) (g : PReg) (s : State) : Host.Outcome State Fault Refusal :=
  finish (do
    let x ← srcV a
    let s ← get
    let c := s.cx
    guardPoison (c.sp b)
    let q := ((c.s b).extractLsb' 8 2).toNat
    let gv := c.p g
    writeLanes 32 d false [a] x.2 (allActive 16 gv) (fun i =>
      if active gv i then
        match B8.of ((c.s b).extractLsb' 0 8).toNat with
        | none => some (FFmt.f32.qnan, fNV)
        | some f => some (cvtFromB8 f .f32 s.fpEnv (lane 8 x.1 (16 * q + i)))
      else none)) s

/-- `vcvte`: binary32 to a quarter of binary8 codes; the destination is read as a source (R65, R95, R108). -/
def execVcvte (d a b : Reg) (g : PReg) (s : State) : Host.Outcome State Fault Refusal :=
  finish (do
    let x ← srcV a
    let s ← get
    let c := s.cx
    guardPoison (c.sp b)
    let q := ((c.s b).extractLsb' 8 2).toNat
    let gv := c.p g
    writeLanes 8 d false [a] x.2 false (fun j =>
      if j / 16 = q ∧ active gv (j % 16) then
        match B8.of ((c.s b).extractLsb' 0 8).toNat with
        | none => some (0x80, fNV)
        | some f => some (f.encode s.fpEnv (FFmt.f32.decode s.fpEnv.flush (lane 32 x.1 (j % 16))))
      else none)) s

/-- `vcbx`: 4-bit codes expanded through the codebook (R67, R109). -/
def execVcbx (d a : Reg) (g : PReg) (s : State) : Host.Outcome State Fault Refusal :=
  finish (do
    let x ← srcV a
    let c ← cx
    let gv := c.p g
    writeLanes 8 d true [a] x.2 (allActive 64 gv) (fun i =>
      if active gv (i / 2) then some (codeVal c.cr.cbtl c.cr.cbth (lane 4 x.1 i), 0) else none)) s

/-- `vcvtsp` (R73, R110). -/
def execVcvtsp (d a : Reg) (g : PReg) (s : State) : Host.Outcome State Fault Refusal :=
  finish (laneOpF 32 d [a] g (fun env xs => cvtToSp env (xs.getD 0 0))) s

/-- `vcvtfs` (R73, R110). -/
def execVcvtfs (d a : Reg) (g : PReg) (s : State) : Host.Outcome State Fault Refusal :=
  finish (laneOpF 32 d [a] g (fun env xs => cvtFromSp env (xs.getD 0 0))) s

/-! ### Reductions -/

/-- One level of the tree: positions 2j and 2j + 1 combined, the lower as the left operand (R74). A value without a partner passes on as it is,
so that a reduction with one active lane returns that lane's bits, also those of a NaN that is not canonical or that signals, without a flag
(DESIGN CHOICE, log 49: R56 and R74 do not say which of them governs there). -/
def treeLevel (op : Nat → Nat → Nat × FpFlags) : List (Option Nat) → List (Option Nat) × FpFlags
  | x :: y :: r =>
    let t := treeLevel op r
    match x, y with
    | some a, some b => let c := op a b; (some c.1 :: t.1, c.2 ||| t.2)
    | some a, none => (some a :: t.1, t.2)
    | none, z => (z :: t.1, t.2)
  | _ => ([], 0)

/-- The tree of `k` levels (R74). -/
def treeOf (op : Nat → Nat → Nat × FpFlags) : Nat → List (Option Nat) → Option Nat × FpFlags
  | 0, xs => (xs.headD none, 0)
  | k + 1, xs =>
    let l := treeLevel op xs
    let r := treeOf op k l.1
    (r.1, l.2 ||| r.2)

/-- A reduction (R74, R111). -/
def reduce (t : ETy) (d a : Reg) (g : PReg) (op : FpEnv → Nat → Nat → Nat × FpFlags) (ident : Nat) : Exec Unit := do
  let x ← srcV a
  let s ← get
  let gv := s.cx.p g
  let n := 512 / t.width
  let r := treeOf (op s.fpEnv) (Nat.log2 n) ((rangeFrom 0 n).map (fun i => if active gv i then some (lane t.width x.1 i) else none))
  modCx (fun c => ((c.popPorts [a]).setV d (BitVec.ofNat 512 (r.1.getD ident)) x.2).addFlags r.2)
  retireE

/-- `vredsum` (R111). -/
def execVredsum (d a : Reg) (g : PReg) (t : ETy) (s : State) : Host.Outcome State Fault Refusal :=
  finish (reduce t d a g (fun env x y => if t.isFloat then (fmtOf t).add env x y else ((x + y) % 2 ^ t.width, 0)) 0) s

/-- `vredmin` (R111). -/
def execVredmin (d a : Reg) (g : PReg) (t : ETy) (s : State) : Host.Outcome State Fault Refusal :=
  finish (reduce t d a g (fun env x y => if t.isFloat then (fmtOf t).minMax false env x y else (if signedOf t.width x < signedOf t.width y then x else y, 0)) (if t.isFloat then (fmtOf t).infBits else 2 ^ (t.width - 1) - 1)) s

/-- `vredmax` (R111). -/
def execVredmax (d a : Reg) (g : PReg) (t : ETy) (s : State) : Host.Outcome State Fault Refusal :=
  finish (reduce t d a g (fun env x y => if t.isFloat then (fmtOf t).minMax true env x y else (if signedOf t.width x < signedOf t.width y then y else x, 0)) (if t.isFloat then (fmtOf t).withSign true (fmtOf t).infBits else 2 ^ (t.width - 1))) s

/-- `vredminn` (R111). -/
def execVredminn (d a : Reg) (g : PReg) (t : ETy) (s : State) : Host.Outcome State Fault Refusal :=
  finish (reduce t d a g (fun _ x y => (min x y, 0)) (2 ^ t.width - 1)) s

/-- `vredmaxn` (R111). -/
def execVredmaxn (d a : Reg) (g : PReg) (t : ETy) (s : State) : Host.Outcome State Fault Refusal :=
  finish (reduce t d a g (fun _ x y => (max x y, 0)) 0) s

/-- `vredand` (R111). -/
def execVredand (d a : Reg) (g : PReg) (t : ETy) (s : State) : Host.Outcome State Fault Refusal :=
  finish (reduce t d a g (fun _ x y => (x &&& y, 0)) (2 ^ t.width - 1)) s

/-- `vredor` (R111). -/
def execVredor (d a : Reg) (g : PReg) (t : ETy) (s : State) : Host.Outcome State Fault Refusal :=
  finish (reduce t d a g (fun _ x y => (x ||| y, 0)) 0) s

end Sys2Proof.Machine
end

