-- ==== Sys2Proof/Machine/Dispatch.lean ====
section
/-! DEFINITION. The dispatch of an instruction or step to its meaning, one arm per constructor of `Instr`. -/

namespace Sys2Proof.Machine

def exec (i : Instr) (s : State) : Host.Outcome State Fault Refusal :=
  match i with
  | .add d a b w => Sys2Proof.Machine.execAdd d a b w s
  | .sub d a b w => Sys2Proof.Machine.execSub d a b w s
  | .and d a b => Sys2Proof.Machine.execAnd d a b s
  | .or d a b => Sys2Proof.Machine.execOr d a b s
  | .xor d a b => Sys2Proof.Machine.execXor d a b s
  | .andn d a b => Sys2Proof.Machine.execAndn d a b s
  | .sll d a b w => Sys2Proof.Machine.execSll d a b w s
  | .srl d a b w => Sys2Proof.Machine.execSrl d a b w s
  | .sra d a b w => Sys2Proof.Machine.execSra d a b w s
  | .slt d a b => Sys2Proof.Machine.execSlt d a b s
  | .sltn d a b => Sys2Proof.Machine.execSltn d a b s
  | .min d a b => Sys2Proof.Machine.execMin d a b s
  | .max d a b => Sys2Proof.Machine.execMax d a b s
  | .minn d a b => Sys2Proof.Machine.execMinn d a b s
  | .maxn d a b => Sys2Proof.Machine.execMaxn d a b s
  | .mul d a b w => Sys2Proof.Machine.execMul d a b w s
  | .mulh d a b => Sys2Proof.Machine.execMulh d a b s
  | .mulhn d a b => Sys2Proof.Machine.execMulhn d a b s
  | .mulhsn d a b => Sys2Proof.Machine.execMulhsn d a b s
  | .div d a b w => Sys2Proof.Machine.execDiv d a b w s
  | .divn d a b w => Sys2Proof.Machine.execDivn d a b w s
  | .rem d a b w => Sys2Proof.Machine.execRem d a b w s
  | .remn d a b w => Sys2Proof.Machine.execRemn d a b w s
  | .clz d a => Sys2Proof.Machine.execClz d a s
  | .ctz d a => Sys2Proof.Machine.execCtz d a s
  | .popc d a => Sys2Proof.Machine.execPopc d a s
  | .bswap d a => Sys2Proof.Machine.execBswap d a s
  | .addi d a imm => Sys2Proof.Machine.execAddi d a imm s
  | .andi d a imm => Sys2Proof.Machine.execAndi d a imm s
  | .ori d a imm => Sys2Proof.Machine.execOri d a imm s
  | .xori d a imm => Sys2Proof.Machine.execXori d a imm s
  | .slti d a imm => Sys2Proof.Machine.execSlti d a imm s
  | .sltni d a imm => Sys2Proof.Machine.execSltni d a imm s
  | .slli d a c => Sys2Proof.Machine.execSlli d a c s
  | .srli d a c => Sys2Proof.Machine.execSrli d a c s
  | .srai d a c => Sys2Proof.Machine.execSrai d a c s
  | .bfx d a l p => Sys2Proof.Machine.execBfx d a l p s
  | .bfxs d a l p => Sys2Proof.Machine.execBfxs d a l p s
  | .bfi d a l p => Sys2Proof.Machine.execBfi d a l p s
  | .ld d a z off => Sys2Proof.Machine.execLd d a z off s
  | .ldn d a z off => Sys2Proof.Machine.execLdn d a z off s
  | .st b a z off => Sys2Proof.Machine.execSt b a z off s
  | .ldx d a b k z => Sys2Proof.Machine.execLdx d a b k z s
  | .ldnx d a b k z => Sys2Proof.Machine.execLdnx d a b k z s
  | .stx d a b k z => Sys2Proof.Machine.execStx d a b k z s
  | .beq b a xi => Sys2Proof.Machine.execBeq b a xi s
  | .bne b a xi => Sys2Proof.Machine.execBne b a xi s
  | .blt b a xi => Sys2Proof.Machine.execBlt b a xi s
  | .bge b a xi => Sys2Proof.Machine.execBge b a xi s
  | .bltn b a xi => Sys2Proof.Machine.execBltn b a xi s
  | .bgen b a xi => Sys2Proof.Machine.execBgen b a xi s
  | .jal d xi => Sys2Proof.Machine.execJal d xi s
  | .jalr d a off => Sys2Proof.Machine.execJalr d a off s
  | .loop a n => Sys2Proof.Machine.execLoop a n s
  | .crr d n => Sys2Proof.Machine.execCrr d n s
  | .crw a n => Sys2Proof.Machine.execCrw a n s
  | .crs a n => Sys2Proof.Machine.execCrs a n s
  | .crc a n => Sys2Proof.Machine.execCrc a n s
  | .nop => Sys2Proof.Machine.execNop s
  | .trap n => Sys2Proof.Machine.execTrap n s
  | .eret => Sys2Proof.Machine.execEret s
  | .brkpt n => Sys2Proof.Machine.execBrkpt n s
  | .wfe => Sys2Proof.Machine.execWfe s
  | .chkerr m => Sys2Proof.Machine.execChkerr m s
  | .amoAdd d a b z => Sys2Proof.Machine.execAmoAdd d a b z s
  | .amoAnd d a b z => Sys2Proof.Machine.execAmoAnd d a b z s
  | .amoOr d a b z => Sys2Proof.Machine.execAmoOr d a b z s
  | .amoXor d a b z => Sys2Proof.Machine.execAmoXor d a b z s
  | .amoMin d a b z => Sys2Proof.Machine.execAmoMin d a b z s
  | .amoMax d a b z => Sys2Proof.Machine.execAmoMax d a b z s
  | .amoMinn d a b z => Sys2Proof.Machine.execAmoMinn d a b z s
  | .amoMaxn d a b z => Sys2Proof.Machine.execAmoMaxn d a b z s
  | .amoSwap d a b z => Sys2Proof.Machine.execAmoSwap d a b z s
  | .amoFadd d a b z => Sys2Proof.Machine.execAmoFadd d a b z s
  | .cas d a b z => Sys2Proof.Machine.execCas d a b z s
  | .fence xs => Sys2Proof.Machine.execFence xs s
  | .fenceIo => Sys2Proof.Machine.execFenceIo s
  | .cflush a xs => Sys2Proof.Machine.execCflush a xs s
  | .cinval a xs => Sys2Proof.Machine.execCinval a xs s
  | .prefetch xi a => Sys2Proof.Machine.execPrefetch xi a s
  | .tlbinv k a b xs => Sys2Proof.Machine.execTlbinv k a b xs s
  | .vadd d a b g t => Sys2Proof.Machine.execVadd d a b g t s
  | .vsub d a b g t => Sys2Proof.Machine.execVsub d a b g t s
  | .vmul d a b g t => Sys2Proof.Machine.execVmul d a b g t s
  | .vmin d a b g t => Sys2Proof.Machine.execVmin d a b g t s
  | .vmax d a b g t => Sys2Proof.Machine.execVmax d a b g t s
  | .vminn d a b g t => Sys2Proof.Machine.execVminn d a b g t s
  | .vmaxn d a b g t => Sys2Proof.Machine.execVmaxn d a b g t s
  | .vabs d a g t => Sys2Proof.Machine.execVabs d a g t s
  | .vneg d a g t => Sys2Proof.Machine.execVneg d a g t s
  | .vand d a b g t => Sys2Proof.Machine.execVand d a b g t s
  | .vor d a b g t => Sys2Proof.Machine.execVor d a b g t s
  | .vxor d a b g t => Sys2Proof.Machine.execVxor d a b g t s
  | .vandn d a b g t => Sys2Proof.Machine.execVandn d a b g t s
  | .vsll d a b g t => Sys2Proof.Machine.execVsll d a b g t s
  | .vsrl d a b g t => Sys2Proof.Machine.execVsrl d a b g t s
  | .vsra d a b g t => Sys2Proof.Machine.execVsra d a b g t s
  | .vaddsat d a b g t => Sys2Proof.Machine.execVaddsat d a b g t s
  | .vsubsat d a b g t => Sys2Proof.Machine.execVsubsat d a b g t s
  | .vaddsatn d a b g t => Sys2Proof.Machine.execVaddsatn d a b g t s
  | .vsubsatn d a b g t => Sys2Proof.Machine.execVsubsatn d a b g t s
  | .vdiv d a b g t => Sys2Proof.Machine.execVdiv d a b g t s
  | .vsqrt d a g t => Sys2Proof.Machine.execVsqrt d a g t s
  | .vmulh d a b g t => Sys2Proof.Machine.execVmulh d a b g t s
  | .vmulhn d a b g t => Sys2Proof.Machine.execVmulhn d a b g t s
  | .vsel d a b g t => Sys2Proof.Machine.execVsel d a b g t s
  | .vrcp d a g => Sys2Proof.Machine.execVrcp d a g s
  | .vrsqrt d a g => Sys2Proof.Machine.execVrsqrt d a g s
  | .vexp2 d a g => Sys2Proof.Machine.execVexp2 d a g s
  | .vlog2 d a g => Sys2Proof.Machine.execVlog2 d a g s
  | .vtanh d a g => Sys2Proof.Machine.execVtanh d a g s
  | .vfma d a b c g t => Sys2Proof.Machine.execVfma d a b c g t s
  | .vfms d a b c g t => Sys2Proof.Machine.execVfms d a b c g t s
  | .vfnma d a b c g t => Sys2Proof.Machine.execVfnma d a b c g t s
  | .vfnms d a b c g t => Sys2Proof.Machine.execVfnms d a b c g t s
  | .vld d a g z off => Sys2Proof.Machine.execVld d a g z off s
  | .vldff d a g z off => Sys2Proof.Machine.execVldff d a g z off s
  | .vst b a g z off => Sys2Proof.Machine.execVst b a g z off s
  | .vgather d a b g t => Sys2Proof.Machine.execVgather d a b g t s
  | .vscatter d a b g t => Sys2Proof.Machine.execVscatter d a b g t s
  | .vcmpEq p a b g t => Sys2Proof.Machine.execVcmpEq p a b g t s
  | .vcmpNe p a b g t => Sys2Proof.Machine.execVcmpNe p a b g t s
  | .vcmpLt p a b g t => Sys2Proof.Machine.execVcmpLt p a b g t s
  | .vcmpLe p a b g t => Sys2Proof.Machine.execVcmpLe p a b g t s
  | .vcmpLtn p a b g t => Sys2Proof.Machine.execVcmpLtn p a b g t s
  | .vcmpLen p a b g t => Sys2Proof.Machine.execVcmpLen p a b g t s
  | .vcmpUnord p a b g t => Sys2Proof.Machine.execVcmpUnord p a b g t s
  | .pand d a b => Sys2Proof.Machine.execPand d a b s
  | .por d a b => Sys2Proof.Machine.execPor d a b s
  | .pxor d a b => Sys2Proof.Machine.execPxor d a b s
  | .pnot d a => Sys2Proof.Machine.execPnot d a s
  | .pcnt d a => Sys2Proof.Machine.execPcnt d a s
  | .ppop d a => Sys2Proof.Machine.execPpop d a s
  | .pfirst d a => Sys2Proof.Machine.execPfirst d a s
  | .pbrk d a => Sys2Proof.Machine.execPbrk d a s
  | .vbcast d a g t => Sys2Proof.Machine.execVbcast d a g t s
  | .vins d a b g t => Sys2Proof.Machine.execVins d a b g t s
  | .vext d a b t => Sys2Proof.Machine.execVext d a b t s
  | .vperm d a b g t => Sys2Proof.Machine.execVperm d a b g t s
  | .vslide d a b g t => Sys2Proof.Machine.execVslide d a b g t s
  | .vcompress d a g t => Sys2Proof.Machine.execVcompress d a g t s
  | .vcvt d a u e g t => Sys2Proof.Machine.execVcvt d a u e g t s
  | .vcvtw d a u e g t => Sys2Proof.Machine.execVcvtw d a u e g t s
  | .vcvtn d a u e g t => Sys2Proof.Machine.execVcvtn d a u e g t s
  | .vcvtq d a b g => Sys2Proof.Machine.execVcvtq d a b g s
  | .vcvte d a b g => Sys2Proof.Machine.execVcvte d a b g s
  | .vcbx d a g => Sys2Proof.Machine.execVcbx d a g s
  | .vcvtsp d a g => Sys2Proof.Machine.execVcvtsp d a g s
  | .vcvtfs d a g => Sys2Proof.Machine.execVcvtfs d a g s
  | .vredsum d a g t => Sys2Proof.Machine.execVredsum d a g t s
  | .vredmin d a g t => Sys2Proof.Machine.execVredmin d a g t s
  | .vredmax d a g t => Sys2Proof.Machine.execVredmax d a g t s
  | .vredminn d a g t => Sys2Proof.Machine.execVredminn d a g t s
  | .vredmaxn d a g t => Sys2Proof.Machine.execVredmaxn d a g t s
  | .vredand d a g t => Sys2Proof.Machine.execVredand d a g t s
  | .vredor d a g t => Sys2Proof.Machine.execVredor d a g t s
  | .spawn a b => Sys2Proof.Machine.execSpawn a b s
  | .callat d a b => Sys2Proof.Machine.execCallat d a b s
  | .halt => Sys2Proof.Machine.execHalt s
  | .haltR a => Sys2Proof.Machine.execHaltR a s
  | .yield => Sys2Proof.Machine.execYield s
  | .tret a => Sys2Proof.Machine.execTret a s
  | .send a b => Sys2Proof.Machine.execSend a b s
  | .sendv a b => Sys2Proof.Machine.execSendv a b s
  | .reply a b => Sys2Proof.Machine.execReply a b s
  | .bind p a => Sys2Proof.Machine.execBind p a s
  | .unbind p => Sys2Proof.Machine.execUnbind p s
  | .wait d a b => Sys2Proof.Machine.execWait d a b s
  | .poll d => Sys2Proof.Machine.execPoll d s
  | .recv d b => Sys2Proof.Machine.execRecv d b s
  | .esend d a b => Sys2Proof.Machine.execEsend d a b s
  | .fend => Sys2Proof.Machine.execFend s
  | .defer k a b => Sys2Proof.Machine.execDefer k a b s
  | .deferN a => Sys2Proof.Machine.execDeferN a s
  | .kwait a => Sys2Proof.Machine.execKwait a s
  | .acre d a b => Sys2Proof.Machine.execAcre d a b s
  | .arehome a b => Sys2Proof.Machine.execArehome a b s
  | .barArr d a => Sys2Proof.Machine.execBarArr d a s
  | .barWait a => Sys2Proof.Machine.execBarWait a s
  | .barCfg d a b => Sys2Proof.Machine.execBarCfg d a b s
  | .chred d a b => Sys2Proof.Machine.execChred d a b s
  | .dcopy r xs d t q l c => Sys2Proof.Machine.execDcopy r xs d t q l c s
  | .dwaitAny d a => Sys2Proof.Machine.execDwaitAny d a s
  | .dwaitAll a => Sys2Proof.Machine.execDwaitAll a s
  | .dffr d a => Sys2Proof.Machine.execDffr d a s
  | .rflush a => Sys2Proof.Machine.execRflush a s
  | .dtagst d a b => Sys2Proof.Machine.execDtagst d a b s
  | .mma m a b y x => Sys2Proof.Machine.execMma m a b y x s
  | .mzero m => Sys2Proof.Machine.execMzero m s
  | .mld m a b => Sys2Proof.Machine.execMld m a b s
  | .mst m a b => Sys2Proof.Machine.execMst m a b s
  | .mstc m a b => Sys2Proof.Machine.execMstc m a b s
  | .cbld a => Sys2Proof.Machine.execCbld a s
  | .spup n l w k sp => Sys2Proof.Machine.execSpup n l w k sp s
  | .spdown n l w k sp => Sys2Proof.Machine.execSpdown n l w k sp s
  | .attn q t d g acq rel c => Sys2Proof.Machine.execAttn q t d g acq rel c s
  | .spivot d a => Sys2Proof.Machine.execSpivot d a s
  | .sdraw d a => Sys2Proof.Machine.execSdraw d a s
  | .sverify d a b => Sys2Proof.Machine.execSverify d a b s
  | .cfinc a => Sys2Proof.Machine.execCfinc a s
  | .cfapply a => Sys2Proof.Machine.execCfapply a s
  | .spshape a k => Sys2Proof.Machine.execSpshape a k s
  | .safe xi => Sys2Proof.Machine.execSafe xi s
  | .queuedTrapEntry core => Sys2Proof.Machine.execQueuedTrapEntry core s
  | .wfeTimeout core slot => Sys2Proof.Machine.execWfeTimeout core slot s
  | .dealerPark core slot => Sys2Proof.Machine.execDealerPark core slot s
  | .dealerWake core slot => Sys2Proof.Machine.execDealerWake core slot s
  | .wakeDone core slot => Sys2Proof.Machine.execWakeDone core slot s
  | .taskStart core => Sys2Proof.Machine.execTaskStart core s
  | .stealProbe core => Sys2Proof.Machine.execStealProbe core s
  | .stealProbeReceive p => Sys2Proof.Machine.execStealProbeReceive p s
  | .stealProbeAnswer p => Sys2Proof.Machine.execStealProbeAnswer p s
  | .stealPauseExpiry core => Sys2Proof.Machine.execStealPauseExpiry core s
  | .timeSliceEnd core => Sys2Proof.Machine.execTimeSliceEnd core s
  | .priorityYield core => Sys2Proof.Machine.execPriorityYield core s
  | .yieldRequest core slot => Sys2Proof.Machine.execYieldRequest core slot s
  | .preemptTimeout core slot => Sys2Proof.Machine.execPreemptTimeout core slot s
  | .savedContextResume core => Sys2Proof.Machine.execSavedContextResume core s
  | .firingStart core => Sys2Proof.Machine.execFiringStart core s
  | .firingSquash core slot => Sys2Proof.Machine.execFiringSquash core slot s
  | .tagHoldRelease core slot => Sys2Proof.Machine.execTagHoldRelease core slot s
  | .eventArrival p => Sys2Proof.Machine.execEventArrival p s
  | .cancelArrival p => Sys2Proof.Machine.execCancelArrival p s
  | .inFlightAck p => Sys2Proof.Machine.execInFlightAck p s
  | .sweepStart soc => Sys2Proof.Machine.execSweepStart soc s
  | .sweepSample soc core => Sys2Proof.Machine.execSweepSample soc core s
  | .kilnPublish soc => Sys2Proof.Machine.execKilnPublish soc s
  | .homeCacheInvalidate p => Sys2Proof.Machine.execHomeCacheInvalidate p s
  | .messageArrival p => Sys2Proof.Machine.execMessageArrival p s
  | .portPacketArrival p => Sys2Proof.Machine.execPortPacketArrival p s
  | .callatTaskArrival p => Sys2Proof.Machine.execCallatTaskArrival p s
  | .replyArrival p => Sys2Proof.Machine.execReplyArrival p s
  | .errorReply p => Sys2Proof.Machine.execErrorReply p s
  | .ackArrival p => Sys2Proof.Machine.execAckArrival p s
  | .sendQueueDrain core slot => Sys2Proof.Machine.execSendQueueDrain core slot s
  | .sendStallTimeout core slot => Sys2Proof.Machine.execSendStallTimeout core slot s
  | .chredPartialArrival core slot => Sys2Proof.Machine.execChredPartialArrival core slot s
  | .regionDoneReport rcb => Sys2Proof.Machine.execRegionDoneReport rcb s
  | .ltTick => Sys2Proof.Machine.execLtTick s
  | .copyPiece cmd => Sys2Proof.Machine.execCopyPiece cmd s
  | .attnBlock cmd => Sys2Proof.Machine.execAttnBlock cmd s
  | .attnResult cmd => Sys2Proof.Machine.execAttnResult cmd s
  | .matrixRetire core => Sys2Proof.Machine.execMatrixRetire core s
  | .spRetire core => Sys2Proof.Machine.execSpRetire core s
  | .spAccept core slot => Sys2Proof.Machine.execSpAccept core slot s
  | .promotion request => Sys2Proof.Machine.execPromotion request s
  | .uncorrectableError p => Sys2Proof.Machine.execUncorrectableError p s
  | .containmentNotice p => Sys2Proof.Machine.execContainmentNotice p s
  | .sealedEventResend core flight => Sys2Proof.Machine.execSealedEventResend core flight s
  | .windowRead core slot off => Sys2Proof.Machine.execWindowRead core slot off s
  | .windowWrite core slot off v => Sys2Proof.Machine.execWindowWrite core slot off v s
  | .doorbellTail q v => Sys2Proof.Machine.execDoorbellTail q v s
  | .doorbellReset q v => Sys2Proof.Machine.execDoorbellReset q v s
  | .nopPacket q => Sys2Proof.Machine.execNopPacket q s
  | .launch q => Sys2Proof.Machine.execLaunch q s
  | .ib q => Sys2Proof.Machine.execIb q s
  | .pred q => Sys2Proof.Machine.execPred q s
  | .loopPacket q => Sys2Proof.Machine.execLoopPacket q s
  | .write q => Sys2Proof.Machine.execWrite q s
  | .signal q => Sys2Proof.Machine.execSignal q s
  | .waitPacket q => Sys2Proof.Machine.execWaitPacket q s
  | .waitPacketTest q => Sys2Proof.Machine.execWaitPacketTest q s
  | .fencePacket q => Sys2Proof.Machine.execFencePacket q s
  | .ffence q => Sys2Proof.Machine.execFfence q s
  | .promote q => Sys2Proof.Machine.execPromote q s
  | .qcmdRegister => Sys2Proof.Machine.execQcmdRegister s
  | .qcmdUnregister => Sys2Proof.Machine.execQcmdUnregister s
  | .commit => Sys2Proof.Machine.execCommit s
  | .registerWrite r v => Sys2Proof.Machine.execRegisterWrite r v s
  | .liveUpdate version security signed => Sys2Proof.Machine.execLiveUpdate version security signed s
  | .packageReset verified => Sys2Proof.Machine.execPackageReset verified s
  | .attestation nonce => Sys2Proof.Machine.execAttestation nonce s
  | .monitorSample m => Sys2Proof.Machine.execMonitorSample m s
  | .linkReplay link => Sys2Proof.Machine.execLinkReplay link s
  | .gets line pkg => Sys2Proof.Machine.execGets line pkg s
  | .getm line pkg => Sys2Proof.Machine.execGetm line pkg s
  | .puts line pkg => Sys2Proof.Machine.execPuts line pkg s
  | .pute line pkg => Sys2Proof.Machine.execPute line pkg s
  | .putm line pkg data pois => Sys2Proof.Machine.execPutm line pkg data pois s
  | .puto line pkg data pois => Sys2Proof.Machine.execPuto line pkg data pois s
  | .forward line pkg k => Sys2Proof.Machine.execForward line pkg k s
  | .recall line => Sys2Proof.Machine.execRecall line s
  | .heartbeat plane arrived => Sys2Proof.Machine.execHeartbeat plane arrived s
  | .planeLost plane => Sys2Proof.Machine.execPlaneLost plane s
  | .recoveryReport pkg => Sys2Proof.Machine.execRecoveryReport pkg s
  | .packageLost pkg => Sys2Proof.Machine.execPackageLost pkg s
  | .checkpointStart => Sys2Proof.Machine.execCheckpointStart s
  | .checkpointSnapshot => Sys2Proof.Machine.execCheckpointSnapshot s
  | .checkpointFrame => Sys2Proof.Machine.execCheckpointFrame s
  | .restore => Sys2Proof.Machine.execRestore s
  | .unpublishedSweepInstant soc => Sys2Proof.Machine.execUnpublishedSweepInstant soc s
  | .correctableError e => Sys2Proof.Machine.execCorrectableError e s
  | .endpointReset => Sys2Proof.Machine.execEndpointReset s
  | .hostDeviceAccess isWrite pa data => Sys2Proof.Machine.execHostDeviceAccess isWrite pa data s
  | .applicationCoreAccess isWrite pa data => Sys2Proof.Machine.execApplicationCoreAccess isWrite pa data s
  | .regionStop rcb => Sys2Proof.Machine.execRegionStop rcb s

end Sys2Proof.Machine
end

