-- ==== Sys2Proof/Machine/Kernel.lean ====
section
/-! DEFINITION. The supervisor code of the resident kernel (spec 19 R340, R414), where an S context enters it at the trap vector that the
kernel keeps (log 19). -/

namespace Sys2Proof.Machine

/-- Whether an S context is about to run the kernel's handler: it has entered its trap vector, which is as the kernel left it, for a trap of a U
context or for a notice. -/
def State.kernelStands (s : State) (k : Nat) : Bool :=
  let c := s.getCtx k
  k % 64 == 0 && c.mode == .super && c.cr.stvec == 0 && c.pc == 0 && c.cr.sstat.getLsbD 16 && c.wait.isNone &&
  (!c.cr.sstat.getLsbD 6 || c.cr.scause.getLsbD 63)

/-- The actors of a region's table that a dealer finds homed on a core of this package: actor and descriptor. -/
def State.actorsAt (s : State) (rcb core dealer : Nat) : List (Nat × Nat) :=
  match s.getRegion? rcb with
  | none => []
  | some r =>
    let n := (s.dealerLoad rcb dealer r.actt 8).1.1 % 2 ^ 48
    (rangeFrom 0 n).filterMap (fun a =>
      let d := (s.actorDesc rcb dealer a).1
      if d ≠ 0 ∧ homeOfWord (s.dealerLoad rcb dealer (d + 0x18) 8).1.1 = (s.pkgNum, core) then some (a, d) else none)

/-- The actors of a sealed core re-homed by the core whose supervisor takes the notice, each to a qualifying core that a free value names (R340). -/
def State.rehomeAll (s : State) (core issuer : Nat) : State :=
  let one (r : Nat × Region) (t : State) (a : Nat × Nat) : State :=
    let cs := (t.qualifying r.2).filter (fun c => c != core)
    match cs with
    | [] => t
    | c :: rest =>
      { t with fresh := t.fresh + 1 }.rehome r.1 (BitVec.ofNat 48 a.1) a.2 core
        (t.pkgNum, (c :: rest).getD (Config.choose t.fresh % (rest.length + 1)) c) issuer
  (s.runningRegions.filter (fun x => x.2.cores.contains core)).foldl (fun (t : State) r => (t.actorsAt r.1 core issuer).foldl (one r) t) s

/-- The address of the table entry whose V bit a walk finds 0 (R217); `left` counts the levels still to read. -/
def State.missingEntry (s : State) (va : Dword) : Nat → Nat → Option Nat
  | 0, _ => none
  | left + 1, table =>
    let a := table + 8 * walkIndex (3 - left) va
    let e := (s.walkLoad (.since 0) a).1
    if e.getLsbD 0 = false then some a
    else if e.extractLsb' 6 2 = 0 then s.missingEntry va left ((e.extractLsb' 15 44).toNat * 256) else none

/-- The kernel maps a page on demand: it writes a free entry where the walk of the trapping context found none. Where tables of several levels are
missing, the group traps again for the next (log 19). -/
def State.mapPage (s : State) (k : Nat) : State :=
  let c := s.getCtx k
  match s.missingEntry c.cr.sval 4 ((c.cr.ptroot.extractLsb' 16 41).toNat * 65536) with
  | none => s
  | some a => { s with fresh := s.fresh + 1 }.hwStore (k / 64) a 8 (Config.mappedEntry s.fresh).toNat false

/-- The cause's handling before the kernel's `eret` (R414): a service goes on past its group, and a notice re-homes; PAGE maps the page and the group, or
the firing from its event, runs again, where the process has reserved the address for that, as a free value says; else PAGE, SQFULL and the others
end the region. -/
def State.kernelHandles (s : State) (k : Nat) : State :=
  let c := s.getCtx k
  let cause := c.cr.scause.extractLsb' 0 8
  if c.cr.scause.getLsbD 63 then s.rehomeAll c.cr.sval.toNat (k / 64)
  else if cause = cSYSCALL then
    s.modCtx k (fun c => { c with cr := { c.cr with spc := codeAddr (c.cr.spc + BitVec.ofNat 64 (4 * (c.cr.pfx.extractLsb' 4 4).toNat)) } })
  else if cause = cPAGE ∧ Config.onDemand s.fresh = true then { s with fresh := s.fresh + 1 }.mapPage k
  else { s with fresh := s.fresh + 1 }.endRegion c.rgn cause

/-- The kernel's handling as one step, with the `eret` that ends it. -/
def State.kernelStep (s : State) (k : Nat) : State :=
  let c := s.getCtx k
  { s.kernelHandles k with cur := k, grp := { Group.reset with first := c.pc } }.eretS

end Sys2Proof.Machine
end

