-- ==== Sys2Proof/Machine/Moves.lean ====
section
/-! DEFINITION. What may happen next: which contexts may issue (spec 06 R114, R117), which steps of the hardware are due, which packets
may land (R132), what the outside has in store, which of all that comes next, and the passing of time. -/

namespace Sys2Proof.Machine

/-- A move offered under a condition. -/
def offer (b : Bool) (m : Move) : List Move := if b then [m] else []

/-- Whether a region that stops holds a context back (R344, R348). -/
def State.stoppingRegion (s : State) (rcb : Nat) : Bool := ((s.getRegion? rcb).map Region.stopping).getD false

/-- Whether a context may issue (R22, R114, R337, R357). A waiting one looks at its condition again, but not one that a yield is to take at this boundary
(R292, R348) or that the dealer is to park there (R115); the S context goes on only when no trap waits for it (R23, R92). One that stands within an
instruction completes it before it stops, also where its core is to be sealed or its region ends (R25, R112). -/
def State.mayIssue (s : State) (k : Nat) (c : Context) : Bool :=
  c.slot == .issuing && (s.getCore (k / 64)).sealed.isNone && !c.inTrap && c.trapped.isNone &&
  (c.midway || (!(s.getCore (k / 64)).sealing && !c.halted && !(c.mode == .user && s.stoppingRegion c.rgn) && !s.heldToYield c &&
    !s.mayPark (k / 64) (k % 64) && !(k % 64 == 0 && (s.queuedTrap (k / 64)).isSome)))

/-- The contexts that may issue. -/
def State.issues (s : State) : List Move := (s.ctxs.filter (fun x => s.mayIssue x.1 x.2)).map (fun x => .issue x.1)

/-- What is due for a context. -/
def State.ctxMoves (s : State) (k : Nat) (c : Context) : List Move :=
  let n := k / 64
  let t := k % 64
  let user := c.live && c.mode == .user
  offer (s.wfeDue c) (.act (.wfeTimeout n t)) ++
  offer (s.mayPark n t) (.act (.dealerPark n t)) ++
  offer (s.awake c) (.act (.wakeDone n t)) ++
  offer ((match c.slot with | .draining _ => true | _ => false) && c.tags.toList.all (fun g => g.pending == 0)) (.act (.tagHoldRelease n t)) ++
  offer (user && c.firing.isSome && c.yieldReq.isSome && !c.midway) (.act (.firingSquash n t)) ++
  offer (user && s.yielding c && s.settled n t) (.act (.yieldRequest n t)) ++
  offer (user && s.overdue c && s.savable c && s.settled n t) (.act (.preemptTimeout n t)) ++
  offer (!c.sendq.isEmpty) (.act (.sendQueueDrain n t)) ++
  offer (c.live && !c.inTrap && c.trapped.isNone && !s.unitsOwed n t && (s.stallOver c n).isSome) (.act (.sendStallTimeout n t)) ++
  offer (match c.wait with
    | some w => (match w.kind with | .chain .. => s.waitReady k w | _ => false)
    | none => false) (.act (.chredPartialArrival n t)) ++
  offer (s.spReady n t) (.spAccept n t)

/-- The cores on which something may be due. -/
def State.activeCores (s : State) : List Nat :=
  (s.cores.map (fun (x : Nat × Core) => x.1) ++ s.ctxs.map (fun (x : Nat × Context) => x.1 / 64) ++
    s.regions.flatMap (fun (x : Nat × Region) => x.2.cores)).eraseDups

/-- Whether a task may start on a core (R127, items 3 to 5). -/
def State.taskDue (s : State) (core : Nat) : Bool :=
  match s.startPlace core with
  | none => false
  | some (q, r, _) => (s.candidates q core).isEmpty && (s.resumable q r core).isNone && (s.getWork q core).nextTask.isSome

/-- Whether a saved context may resume on a core, or its region end (R354). -/
def State.resumeDue (s : State) (core : Nat) : Bool :=
  s.regions.any (fun x => x.2.cores.contains core && (s.resumeFails x.2).isSome) ||
  match s.startPlace core with
  | none => false
  | some (q, r, _) => (s.candidates q core).isEmpty && (s.resumable q r core).isSome

/-- Whether a firing may start on a core (R127, R174). -/
def State.firingDue (s : State) (core : Nat) : Bool :=
  !(s.getCore core).shut && !(s.ckpt.step == .quiesce) &&
  match s.pick core with
  | none => false
  | some q => (s.choose q core).isSome

/-- Whether the oldest job of a unit is due. -/
def State.matDue (s : State) (core : Nat) : Bool :=
  match (s.getCore core).matq with | [] => false | j :: _ => decide (j.due ≤ s.cycle)
def State.spDue (s : State) (core : Nat) : Bool :=
  match (s.getCore core).spq with | [] => false | j :: _ => decide (j.due ≤ s.cycle)

/-- What is due on a core. -/
def State.coreMoves (s : State) (n : Nat) : List Move :=
  offer (s.queuedTrap n).isSome (.act (.queuedTrapEntry n)) ++
  (match s.lowestReady n with | some t => offer (decide (s.held n < 4)) (.act (.dealerWake n t)) | none => []) ++
  offer (s.taskDue n) (.act (.taskStart n)) ++
  offer (s.resumeDue n) (.act (.savedContextResume n)) ++
  offer (s.firingDue n) (.act (.firingStart n)) ++
  offer (s.mayProbe n).isSome (.act (.stealProbe n)) ++
  offer (s.pauseOver n) (.act (.stealPauseExpiry n)) ++
  offer (s.yieldDue n) (.act (.priorityYield n)) ++
  offer (s.sliceOver n) (.act (.timeSliceEnd n)) ++
  offer (s.matDue n) (.act (.matrixRetire n)) ++
  offer (s.spDue n) (.act (.spRetire n)) ++
  offer (s.undoDue n) (.undo n) ++
  offer (s.sealDue n) (.seal n) ++
  ((s.getCore n).flight.filter (fun f => s.resendDue f)).map (fun f => .resend n f.id)

/-- What is due for a society. -/
def State.socMoves (s : State) (soc : Nat) (so : Society) : List Move :=
  offer (s.sweepDue so) (.act (.sweepStart soc)) ++
  (so.arriving.map (fun x => x.1)).eraseDups.map (fun c => .kiln soc c) ++
  (match so.sweep with
    | none => []
    | some w =>
      ((s.sampleCores soc).filter (fun c => s.sampleDue so c)).map (fun c => .act (.sweepSample soc c)) ++
      offer (s.publishDue soc so) (.act (.kilnPublish soc)) ++
      offer (s.unpublishedDue w) (.unpublished soc))

/-- The landing of a packet; one whose core's REQ input is stopped has none (R132). -/
def State.landing (s : State) (p : Packet) : List Move :=
  if p.net == .req && epPkg p.dst == s.pkgNum && s.reqBlocked p then []
  else match p.body with
  | .message _ => [.act (.messageArrival p)]
  | .vector .. => [.act (.portPacketArrival p)]
  | .task .. => [.act (.callatTaskArrival p)]
  | .event e .. => [.act (if e.cancel then .cancelArrival p else .eventArrival p)]
  | .probe => [.act (.stealProbeReceive p)]
  | .reply _ => [.act (.replyArrival p)]
  | .error .. => [.act (.errorReply p)]
  | .ack _ => [.act (.ackArrival p)]
  | .eventAck .. => [.act (.inFlightAck p)]
  | .probeAnswer _ => [.act (.stealProbeAnswer p)]
  | .homeInvalidate _ => [.act (.homeCacheInvalidate p)]
  | .sealNotice core => offer (s.noticeDue core) (.notice p)

/-- The core that an endpoint names, with its package (R134). -/
def endCore (ep : BitVec 40) : BitVec 22 := ep.extractLsb' 18 22

/-- The packets that may land: of each pair of cores on a network the oldest (R132). -/
def deliverable : List Packet → List Packet
  | [] => []
  | p :: ps => p :: (deliverable ps).filter (fun q => q.net != p.net || endCore q.src != endCore p.src || endCore q.dst != endCore p.dst)

/-- What a front core does next for a queue (R373). A packet that cannot be read or has no opcode is taken up as a NOP is. -/
def State.queueMoves (s : State) (n : Nat) (q : Queue) : List Move :=
  if s.testDue q then [.waitTest n]
  else if !s.queueRuns q then []
  else match s.beginPacket q with
    | .absent => []
    | .bad o _ _ => [.packet n (o.getD 0)]
    | .ok p _ _ => [.packet n p.opc]

/-- The writes of engines that may take their place in the single order: those that follow no other to their line that a context has seen beside them (R227). -/
def State.earlyMoves (s : State) : List Move :=
  (s.early.zipIdx.filter (fun x => !s.heldUp x.1.line true && !(s.early.take x.2).any (fun e => e.ordered x.1))).map (fun x => .early x.2)

/-- One of those writes at its place. -/
def State.placeEarly (s : State) (n : Nat) : State :=
  match s.early.drop n with
  | [] => s
  | e :: _ => { s with early := s.early.take n ++ s.early.drop (n + 1) }.placeWrite e

/-- What is due in the engines, at regions, in firmware and in the domain. -/
def State.packageMoves (s : State) : List Move :=
  offer (decide (s.ltCycle + 16 ≤ s.cycle)) (.act .ltTick) ++
  s.copies.map (fun x => .act (.copyPiece x.1)) ++
  (s.attns.filter (fun x => x.2.ready || s.attnStarts x.1 x.2)).map (fun x => .act (if x.2.ready then .attnResult x.1 else .attnBlock x.1)) ++
  (s.requests.filter (fun x => s.promotionDue x.1 x.2)).map (fun x => .promotion x.1) ++
  s.earlyMoves ++
  (s.regions.filter (fun x => s.endDue x.1 x.2)).map (fun x => .act (.regionDoneReport x.1)) ++
  s.queues.flatMap (fun x => s.queueMoves x.1 x.2) ++
  offer (s.queueCommand 1) (.act .qcmdRegister) ++
  offer (s.queueCommand 2) (.act .qcmdUnregister) ++
  offer (s.dom.recovery.any (fun r => !r.reported.contains s.pkgNum)) (.report s.pkgNum) ++
  (match s.silent with | none => [] | some p => [.silent p]) ++
  offer s.ckptDue (.act .checkpointStart) ++
  offer (s.ckpt.step == .quiesce && (s.unsavable || s.drained)) (.act .checkpointSnapshot) ++
  offer (match s.ckpt.step with | .stream _ => true | _ => false) (.act .checkpointFrame)

/-- What the outside does next. -/
def State.outside (s : State) : List Move := (s.inputs.take 1).map .act

/-- Everything that may happen next. -/
def State.moves (s : State) : List Move :=
  s.issues ++ s.ctxs.flatMap (fun x => s.ctxMoves x.1 x.2) ++ s.activeCores.flatMap s.coreMoves ++
  s.socs.flatMap (fun x => s.socMoves x.1 x.2) ++ (deliverable s.net).flatMap s.landing ++ s.packageMoves ++ s.outside

/-- What may happen to a package that its monitors have stopped: a reset alone (R406, R409). -/
def State.allowed (s : State) : List Move :=
  if s.stopped then s.outside.filter (fun m => match m with | .act (.packageReset ..) => true | _ => false) else s.moves

/-! ### Which comes next (R141) -/

/-- How often in a row a happening has been possible and another has come. -/
def State.passedOver (s : State) (m : Move) : Nat := ((s.passed.find? (fun x => x.1 == m)).map (fun x => x.2)).getD 0

/-- The happenings that were possible beside the one that comes counted once more. -/
def State.passing (s : State) (l : List Move) (m : Move) : State :=
  { s with passed := (l.filter (fun x => x != m)).map (fun x => (x, s.passedOver x + 1)) }

/-- Of some happenings the one that has been passed over most often, the first of equals, where that is as often as any may be. -/
def State.longestPut (s : State) : List Move → Option Move
  | [] => none
  | m :: ms =>
    match s.longestPut ms with
    | some x => if s.passedOver x ≤ s.passedOver m then some m else some x
    | none => if Config.patience ≤ s.passedOver m then some m else none

/-- The happening that comes next, of a list of those that are possible: the one that has been passed over most often, where that is as often as any may be, so
that nothing that stays possible is put off for ever (R141); else the only one, or a free choice (log 1). -/
def State.nextMove (s : State) (m : Move) (ms : List Move) : Move × State :=
  if ms.isEmpty then (m, { s with passed := [] })
  else match s.longestPut (m :: ms) with
    | some x => (x, s.passing (m :: ms) x)
    | none =>
      let x := (m :: ms).getD (Config.choose s.fresh % (ms.length + 1)) m
      (x, { s with fresh := s.fresh + 1 }.passing (m :: ms) x)

/-- A step in which a lost plane holds up an access of the hardware has no effect yet (R396). -/
def State.heldBack (s t : State) : State := if t.stalled then { s with fresh := t.fresh } else t

/-- Whether a happening that came from outside is not over after its step: a live update that boots its image (R379), a key whose assignment cannot be withdrawn yet (R407). It stays in store. -/
def State.unfinished (t : State) (i : Instr) : Bool :=
  match i with
  | .liveUpdate .. => t.endpoint.upst == 1
  | .registerWrite (.memoryKey k) v => v.getLsbD 63 && t.keyHeld k
  | _ => false

/-! ### Time (R2, R399, R409) -/

/-- The writes of engines whose time for a place is up take it (R227). -/
def State.placeAllOverdue (s : State) : State :=
  if s.early.isEmpty then s
  else s.placeThose (fun e => match e.done with | none => false | some c => decide (c + s.placeBound e.line ≤ s.cycle))

/-- Time passes at a step: a free number of ticks of the rated clock, which is not 0 for ever (R141, log 4). The domain and system counts count those; CYCLE counts the cycles of the
arithmetic clock, which is throttled to k/16 of it (R2, R399, R409). -/
def State.tick (s : State) : State :=
  let r := if Config.stillness ≤ s.still then max 1 (Config.elapsed s.fresh) else Config.elapsed s.fresh
  let n := s.phase + r * s.throttle
  let t : State := { s with
    cycle := s.cycle + n / 16
    still := if r = 0 then s.still + 1 else 0
    phase := n % 16
    domTicks := s.domTicks + r
    sysTicks := s.sysTicks + r
    fresh := s.fresh + 1 }
  t.idleQueues.placeAllOverdue

end Sys2Proof.Machine
end

