-- ==== Sys2Proof/Machine/Step.lean ====
section
/-! DEFINITION. One step of the machine: a context's group, or a step of the hardware, and the passing of time; and the placing of an
instruction where the next step fetches it. -/

namespace Sys2Proof.Machine

/-- The state after an instruction or step from a state, with time passed. -/
def ticked (s : State) (o : Host.Outcome State Fault Refusal) : Host.Outcome State Fault Refusal :=
  match o with
  | .next t => .next (s.heldBack t).tick
  | .fault f => .fault f
  | .refused r => .refused r

/-- The group that starts at a context's pc, before any word of it is fetched. -/
def groupAt (c : Context) : Group := { first := c.pc, len := 1, hint := false, mod := none, nimm := 0, word := 0 }

/-- The instruction that a context stands within: the consumer of its group as the context has fetched it (R112, R196, R201). -/
def heldInstr (g : Group) : Option Instr :=
  match feed { hint := g.hint, mod := g.mod, imms := [] } false g.word with
  | .done i => some i
  | _ => none

/-- A context fetches, decodes and executes one group; a fetch fault or an ILL traps at its first word (R19, R27, R35), and a stalled fetch waits (R396). One that stands
within an instruction goes on with it, and fetches nothing (R112). An S context that enters the resident kernel runs the kernel's handling (R414). -/
def issueStep (s : State) (k : Nat) : Host.Outcome State Fault Refusal :=
  let c := s.getCtx k
  match (if c.midway || c.plan.isSome then c.wait else none) with
  | some w =>
    match heldInstr w.grp with
    | some i => exec i { s with cur := k, grp := w.grp }
    | none => .next s
  | none =>
  if s.kernelStands k then .next (s.kernelStep k)
  else
    let r := s.fetchGroup k 5 Prefixes.empty (groupAt (s.getCtx k))
    let s1 := { r.2.2 with cur := k, grp := r.2.1 }
    match r.1 with
    | .error e => .next (s1.stop e)
    | .ok i => exec i s1

/-- A step of the hardware or of the outside; what came from outside leaves the store once it is over. -/
def actStep (s : State) (i : Instr) : Host.Outcome State Fault Refusal :=
  if s.inputs.head? = some i then
    match exec i { s with inputs := s.inputs.drop 1 } with
    | .next t => .next (if t.unfinished i then { t with inputs := t.inputs ++ [i] } else t)
    | o => o
  else exec i s

/-- A packet of a command queue by its opcode (R368). -/
def packetMove (s : State) (q opc : Nat) : Host.Outcome State Fault Refusal :=
  match opc with
  | 0 => execNopPacket q s
  | 1 => execLaunch q s
  | 2 => execIb q s
  | 3 => execPred q s
  | 4 => execLoopPacket q s
  | 5 => execWrite q s
  | 6 => execSignal q s
  | 7 => execWaitPacket q s
  | 8 => execFencePacket q s
  | 9 => execFfence q s
  | 10 => execPromote q s
  | _ => .next s

/-- One happening. -/
def moveStep (s : State) (m : Move) : Host.Outcome State Fault Refusal :=
  match m with
  | .issue k => issueStep s k
  | .act i => actStep s i
  | .packet q opc => packetMove s q opc
  | .waitTest q => execWaitPacketTest q s
  | .spAccept c t => execSpAccept c t s
  | .promotion r => execPromotion r s
  | .notice p => execContainmentNotice p s
  | .resend c f => execSealedEventResend c f s
  | .unpublished c => execUnpublishedSweepInstant c s
  | .report p => execRecoveryReport p s
  | .silent p => execPackageLost p s
  | .undo c => .next (s.undoStep c)
  | .early n => .next (s.placeEarly n)
  | .seal c => .next (s.sealNow c)
  | .kiln soc c => .next (s.kilnArrives soc c)

/-- One step: nothing more of a stopped package but a reset; else one of the happenings that are possible (R141); else time alone. -/
def step (s : State) : Host.Outcome State Fault Refusal :=
  match s.allowed with
  | [] => if s.stopped then .fault .packageStopped else .next s.tick
  | m :: ms =>
    let x := s.nextMove m ms
    ticked x.2 (moveStep x.2 x.1)

/-! ### Placing an instruction -/

/-- A table entry or leaf stored at a physical address. -/
def putDword (m : Memory) (pa : Nat) (v : Nat) : Memory := m.write pa 8 v

/-- Page tables at 16 MiB that map the 64 KiB page of the instruction onto itself, with every right and the user's (R216). -/
def placeTables (m : Memory) : Memory :=
  putDword (putDword (putDword (putDword m
    0x100_0000 (0x120_0000 * 2 ^ 7 + 1))
    0x120_0000 (0x120_1000 * 2 ^ 7 + 1))
    0x120_1010 (0x120_2000 * 2 ^ 7 + 1))
    0x120_2000 (0x40 * 2 ^ 23 + 0x5F)

/-- The words of an instruction of `nbits` bits at an address; the instruction is one word of 32 bits. -/
def placeWord (m : Memory) (pa nbits w : Nat) : Memory := m.write pa 4 (w % 2 ^ nbits)

/-- The state with an instruction where the next step fetches it. Where one context alone may issue and nothing else may happen, the
word goes to the memory behind its pc, if that is mapped; else a launch's root context is put into slot 1 of core 0 with a page
mapped for its code (log 8). -/
def State.withFetchWord (s : State) (nbits w : Nat) : State :=
  let fresh_ : State :=
    let c := s.getCtx 1
    let s1 := s.setCtx 1 { c with
      slot := .issuing, mode := .user, inc := c.inc + 1, pc := 0x40_0000, wait := none, trapped := none, inTrap := false,
      halted := false, cr := { c.cr with ptroot := 0x100_0000, asid := 0 } }
    { s1 with mem := placeWord (placeTables s1.mem) 0x40_0000 nbits w, inputs := [], stopped := false, behind := [], tlb := [], enc := [],
              early := [], passed := [], stalled := false }
  match s.moves with
  | [.issue k] =>
    let t := s.translate (.ctx k) (k / 64) (s.getCtx k).space (s.getCtx k).pc .fetch 4
    match t.1 with
    | .ok (.coherent pa _ _ key) =>
      { s with mem := placeWord s.mem pa nbits w, behind := kdel s.behind (lineOf pa),
               enc := if key = 0 then kdel s.enc (lineOf pa) else kset s.enc (lineOf pa) key,
               cores := s.cores.map (fun x => (x.1, { x.2 with icache := [] })) }
    | _ => fresh_
  | _ => fresh_

end Sys2Proof.Machine
end

