-- ==== Sys2Proof/Safety.lean ====
section
/-! DEFINITION. What claims call a safe state, a completed instruction and an instruction's frame. -/

namespace Sys2Proof

/-- An instruction or step completes with a next state. -/
def Completes (i : Instr) (s t : Machine.State) : Prop := Machine.exec i s = .next t

end Sys2Proof

namespace Sys2Proof.Machine

/-! ### Canonical memory -/

/-- The memories of a core in canonical form: its scratchpad. -/
def Core.Canon (c : Core) : Prop := c.scratch.wf = true

/-- The state's memories in canonical form: the package's, every listed core's, and those of the checkpoint images. -/
def State.Canon (s : State) : Prop :=
  s.mem.wf = true ∧ (∀ x ∈ s.cores, x.2.Canon) ∧ (∀ i ∈ s.ckpt.images, i.mem.wf = true) ∧
  (∀ i, s.ckpt.pending = some i → i.mem.wf = true)

/-! ### Frames -/

/-- What a context holds besides its registers, its pc, its wait and LCNT, which every completed instruction may change. -/
def Context.rest (c : Context) : Context :=
  { c with
    pc := 0, wait := none, sregs := Vector.replicate 32 0, vregs := Vector.replicate 32 0, pregs := Vector.replicate 8 0,
    spois := 0, vpois := 0, cr := { c.cr with lcnt := 0 } }

/-- A context as before but for the scalar registers, the vector registers and the predicates listed, with their poison bits, and the pc,
the wait and LCNT; a vector register that is a bound port keeps its own value in any case (R136). Every control register, tag, landing
slot, port and flag is among what is kept. -/
def Context.Keeps (c d : Context) (ss vs : List Reg) (ps : List PReg) : Prop :=
  (∀ r, r ∉ ss → d.s r = c.s r ∧ d.sp r = c.sp r) ∧ (∀ r, (r ∈ vs → c.portOf r ≠ none) → d.v r = c.v r ∧ d.vp r = c.vp r) ∧
  (∀ p, p ∉ ps → d.p p = c.p p) ∧ d.rest = c.rest

/-- Every byte of memory and of every scratchpad reads as before. -/
def State.SameMemory (s t : State) : Prop :=
  (∀ a, t.mem.byte a = s.mem.byte a) ∧ ∀ core a, (t.getCore core).scratch.byte a = (s.getCore core).scratch.byte a

/-- Nothing but one context differs: no other context, no core, no byte of memory, and nothing else of the state. -/
def State.OnlyContext (s t : State) (k : Nat) : Prop :=
  (∀ j, j ≠ k → t.getCtx j = s.getCtx j) ∧ s.SameMemory t ∧ { t with ctxs := s.ctxs } = s

/-- The pc and LCNT after an instruction that ends at `a` without a transfer of control (R87). -/
def Context.after (c : Context) (a : Dword) : Dword × Dword :=
  if c.cr.lend = canon a ∧ c.cr.lcnt ≠ 0 then
    if 1 < c.cr.lcnt.toNat then (c.cr.lstart, c.cr.lcnt - 1) else (canon (a + 4), 0)
  else (canon (a + 4), c.cr.lcnt)

/-- The running context `c`, as it was after the instruction's own effects, has gone on to the next instruction in `t`. -/
def State.Retired (s : State) (c : Context) (t : State) : Prop :=
  t.cx.pc = (c.after s.lastWord).1 ∧ t.cx.cr.lcnt = (c.after s.lastWord).2 ∧ t.cx.wait = none

/-- The instruction completes, and of the whole state only the running context changes: it keeps all but the registers listed, and goes on to
the next instruction. -/
def Plain (i : Instr) (s t : State) (ss vs : List Reg) (ps : List PReg) : Prop :=
  exec i s = .next t ∧ s.OnlyContext t s.cur ∧ s.cx.Keeps t.cx ss vs ps ∧ s.Retired s.cx t

/-- `t` differs from `u` in the running context alone, which keeps all but the registers listed and goes on. -/
def From (u t : State) (ss vs : List Reg) (ps : List PReg) : Prop :=
  u.OnlyContext t u.cur ∧ u.cx.Keeps t.cx ss vs ps ∧ u.Retired u.cx t

/-- An instruction completes; it changes the running context alone, from `c` on, and there the registers listed. -/
def PlainFrom (i : Instr) (s : State) (c : Context) (t : State) (ss vs : List Reg) (ps : List PReg) : Prop :=
  exec i s = .next t ∧ s.OnlyContext t s.cur ∧ c.Keeps t.cx ss vs ps ∧ s.Retired c t

/-! ### Accesses -/

/-- An access of the running context leads to a place, with the translation's caches as in `u`; it stalls neither for a lost plane nor, if it
stores, for a checkpoint's copy of its frame (R82, R217, R396, R402). -/
def Reaches (s : State) (va : Dword) (acc : Access) (n : Nat) (p : Place) (u : State) : Prop :=
  s.translate (.ctx s.cur) s.coreNum s.cx.space va acc n = (.ok p, u) ∧ u.stalls p (Access.writes acc) = false ∧
  (Access.writes acc = true → u.frameDue p = none)

/-- No unretired sum-product instruction of the core writes the scratchpad words (R279). -/
def wordsFree (s : State) (p : Place) (n : Nat) : Bool :=
  match p with
  | .scratch off =>
    !s.co.spWrites off n
  | _ => true

/-- A store is inside the permitted areas of a firing, if one runs (R82, R152). -/
def timedOk (c : Context) (va : Dword) (n : Nat) : Bool :=
  match c.firing with
  | none => true
  | some f => inScratch va || inWindow f va.toNat n

/-! ### What else an instruction may do -/

/-- An instruction that stops at `v` with a trap answers the trap once every instruction of its context that the units have accepted has retired, and until
then waits, with nothing else done (R19). -/
def StopsWith (i : Instr) (s v trapped : State) : Prop :=
  (v.owesUnits = false → exec i s = .next trapped) ∧
  (v.owesUnits = true → v.cx.wait = none → exec i s = .next (v.beginWait .matrix))

/-- The running context takes a trap of a cause with a value at its group's first word (R19, R20). -/
def Traps (i : Instr) (s : State) (cause : Byte) (value : Dword) : Prop :=
  StopsWith i s s (s.takeTrap s.cur cause value s.grp.first (pfxOf s.grp))

/-- The running context takes the trap POISON (R76, R342): CHKINT bit 0 is set, and the value is CHKINT. -/
def TrapsPoison (i : Instr) (s : State) : Prop :=
  StopsWith i s s ((s.modCx (fun c => c.chk 1)).takeTrap s.cur cPOISON (s.cx.cr.chkint ||| 1) s.grp.first (pfxOf s.grp))

/-- The running instruction does not complete but waits, with nothing else done: it runs again from its group's first word (R115). -/
def Waits (i : Instr) (s : State) (k : WaitKind) : Prop := exec i s = .next (s.beginWait k)

end Sys2Proof.Machine
end

