-- ==== Sys2Proof/Certificates/Slice0/Obligations.lean ====
section
/-! DEFINITION. The statements for the provers: each formalises rules of the spec, named in its docstring. -/

namespace Sys2Proof.Claims
open Sys2Proof.Machine

/-! ### Integer results as the spec's tables give them -/

/-- An operand read as two's complement: all of it, or in the 32-bit form its low half (R77). -/
def signedIn (w : Bool) (x : Dword) : Int := if w then (x.toNat : Int).bmod (2 ^ 32) else x.toInt
/-- An operand read as unsigned. -/
def unsignedIn (w : Bool) (x : Dword) : Nat := if w then x.toNat % 2 ^ 32 else x.toNat
/-- A result kept modulo 2^64, or in the 32-bit form modulo 2^32 and sign-extended (R52, R77). -/
def keep (w : Bool) (r : Int) : Dword := if w then BitVec.ofInt 64 (r.bmod (2 ^ 32)) else BitVec.ofInt 64 r
/-- A shift count: y[5:0], or y[4:0] in the 32-bit form (R77). -/
def countIn (w : Bool) (y : Dword) : Nat := y.toNat % (if w then 32 else 64)
/-- Bits [127:64] of a product. -/
def upper (p : Int) : Dword := (BitVec.ofInt 128 p).extractLsb' 64 64
/-- 1 or 0. -/
def truth (p : Prop) [Decidable p] : Dword := if p then 1 else 0
/-- How many leading members of a list of bits are 0. -/
def zeros (l : List Bool) : Nat := (l.takeWhile (fun b => !b)).length
/-- The bits of a dword, bit 0 first. -/
def bits (x : Dword) : List Bool := (List.range 64).map x.getLsbD
/-- A field of `n` bits from a position. -/
def field (x : Dword) (p n : Nat) : Nat := x.toNat / 2 ^ p % 2 ^ n

/-- The instructions on two scalar sources: destination, sources and result (R53, R77, R80). -/
def binary : Instr → Option (Reg × Reg × Reg × (Dword → Dword → Dword))
  | .add d a b w => some (d, a, b, fun x y => keep w (signedIn w x + signedIn w y))
  | .sub d a b w => some (d, a, b, fun x y => keep w (signedIn w x - signedIn w y))
  | .and d a b => some (d, a, b, fun x y => x &&& y)
  | .or d a b => some (d, a, b, fun x y => x ||| y)
  | .xor d a b => some (d, a, b, fun x y => x ^^^ y)
  | .andn d a b => some (d, a, b, fun x y => x &&& ~~~y)
  | .sll d a b w => some (d, a, b, fun x y => keep w (unsignedIn w x * 2 ^ countIn w y : Nat))
  | .srl d a b w => some (d, a, b, fun x y => keep w (unsignedIn w x / 2 ^ countIn w y : Nat))
  | .sra d a b w => some (d, a, b, fun x y => keep w (signedIn w x / (2 ^ countIn w y : Nat)))
  | .slt d a b => some (d, a, b, fun x y => truth (x.toInt < y.toInt))
  | .sltn d a b => some (d, a, b, fun x y => truth (x.toNat < y.toNat))
  | .min d a b => some (d, a, b, fun x y => if x.toInt ≤ y.toInt then x else y)
  | .max d a b => some (d, a, b, fun x y => if x.toInt ≤ y.toInt then y else x)
  | .minn d a b => some (d, a, b, fun x y => if x.toNat ≤ y.toNat then x else y)
  | .maxn d a b => some (d, a, b, fun x y => if x.toNat ≤ y.toNat then y else x)
  | .mul d a b w => some (d, a, b, fun x y => keep w (signedIn w x * signedIn w y))
  | .mulh d a b => some (d, a, b, fun x y => upper (x.toInt * y.toInt))
  | .mulhn d a b => some (d, a, b, fun x y => upper ((x.toNat : Int) * y.toNat))
  | .mulhsn d a b => some (d, a, b, fun x y => upper (x.toInt * y.toNat))
  | .div d a b w => some (d, a, b, fun x y => if signedIn w y = 0 then -1 else keep w ((signedIn w x).tdiv (signedIn w y)))
  | .divn d a b w => some (d, a, b, fun x y => if unsignedIn w y = 0 then -1 else keep w (unsignedIn w x / unsignedIn w y : Nat))
  | .rem d a b w => some (d, a, b, fun x y =>
      keep w (if signedIn w y = 0 then signedIn w x else (signedIn w x).tmod (signedIn w y)))
  | .remn d a b w => some (d, a, b, fun x y =>
      keep w (if unsignedIn w y = 0 then unsignedIn w x else unsignedIn w x % unsignedIn w y : Nat))
  | .bfi d a l p => some (d, d, a, fun v x =>
      BitVec.ofNat 64 (v.toNat - field v p.toNat (l.toNat + 1) * 2 ^ p.toNat + x.toNat % 2 ^ (l.toNat + 1) * 2 ^ p.toNat))
  | _ => none

/-- The instructions on one scalar source: destination, source and result (R77 to R80). -/
def unary : Instr → Option (Reg × Reg × (Dword → Dword))
  | .clz d a => some (d, a, fun x => BitVec.ofNat 64 (zeros (bits x).reverse))
  | .ctz d a => some (d, a, fun x => BitVec.ofNat 64 (zeros (bits x)))
  | .popc d a => some (d, a, fun x => BitVec.ofNat 64 ((bits x).count true))
  | .bswap d a => some (d, a, fun x => BitVec.ofNat 64 ((List.range 8).foldl (fun n i => n * 256 + field x (8 * i) 8) 0))
  | .addi d a i => some (d, a, fun x => BitVec.ofInt 64 (x.toInt + i.toInt))
  | .andi d a i => some (d, a, fun x => x &&& i)
  | .ori d a i => some (d, a, fun x => x ||| i)
  | .xori d a i => some (d, a, fun x => x ^^^ i)
  | .slti d a i => some (d, a, fun x => truth (x.toInt < i.toInt))
  | .sltni d a i => some (d, a, fun x => truth (x.toNat < i.toNat))
  | .slli d a c => some (d, a, fun x => BitVec.ofNat 64 (x.toNat * 2 ^ c.toNat))
  | .srli d a c => some (d, a, fun x => BitVec.ofNat 64 (x.toNat / 2 ^ c.toNat))
  | .srai d a c => some (d, a, fun x => BitVec.ofInt 64 (x.toInt / (2 ^ c.toNat : Nat)))
  | .bfx d a l p => some (d, a, fun x => BitVec.ofNat 64 (field x p.toNat (l.toNat + 1)))
  | .bfxs d a l p => some (d, a, fun x => BitVec.ofInt 64 ((field x p.toNat (l.toNat + 1) : Int).bmod (2 ^ (l.toNat + 1))))
  | _ => none

/-- A scalar register as a destination: it holds the value and the poison, but s0 reads zero and holds neither (R8, R9). -/
def Holds (c : Context) (d : Reg) (v : Dword) (p : Bool) : Prop :=
  c.s d = (if d = 0 then 0 else v) ∧ c.sp d = (d != 0 && p)

/-- The branches: sources and condition on x = S[a] and y = S[b] (R84). -/
def conditional : Instr → Option (Reg × Reg × BitVec 16 × (Dword → Dword → Prop))
  | .beq b a i => some (a, b, i, fun x y => x = y)
  | .bne b a i => some (a, b, i, fun x y => x ≠ y)
  | .blt b a i => some (a, b, i, fun x y => x.toInt < y.toInt)
  | .bge b a i => some (a, b, i, fun x y => y.toInt ≤ x.toInt)
  | .bltn b a i => some (a, b, i, fun x y => x.toNat < y.toNat)
  | .bgen b a i => some (a, b, i, fun x y => y.toNat ≤ x.toNat)
  | _ => none

/-- The address that a word offset of a transfer at the group's last word names (R84, R85). -/
def relative (s : State) {n : Nat} (i : BitVec n) : Dword := s.lastWord + BitVec.ofInt 64 (4 * i.toInt)

/-- Only the pc, and at a transfer to `pc` nothing else, has changed but the registers listed. -/
def Transfers (i : Instr) (s t : State) (ss : List Reg) (pc : Dword) : Prop :=
  exec i s = .next t ∧ s.OnlyContext t s.cur ∧ s.cx.Keeps t.cx ss [] [] ∧
  t.cx.pc = pc ∧ t.cx.cr.lcnt = s.cx.cr.lcnt ∧ t.cx.wait = none

end Sys2Proof.Claims

open Sys2Proof Sys2Proof.Machine Sys2Proof.Claims

/-! ### Integer instructions, branches and jumps -/

/-- R77, R80 (bfi), R9: each completes with its result, whatever the state; nothing but the destination and the pc changes. -/
def Obligations.BinaryScalarResults : Prop :=
  ∀ i d a b f, binary i = some (d, a, b, f) → ∀ s : State, ∃ t,
    Plain i s t [d] [] [] ∧ Holds t.cx d (f (s.cx.s a) (s.cx.s b)) (s.cx.sp a || s.cx.sp b)

/-- R77 to R80, R9: each completes with its result, whatever the state; nothing but the destination and the pc changes. -/
def Obligations.UnaryScalarResults : Prop :=
  ∀ i d a f, unary i = some (d, a, f) → ∀ s : State, ∃ t,
    Plain i s t [d] [] [] ∧ Holds t.cx d (f (s.cx.s a)) (s.cx.sp a)

/-- R84, R86, R76: a branch whose condition holds goes to A + 4 × SX(imm) and keeps LCNT; another goes on; a target that is not canonical
traps ACCESS with the target, and only then a poisoned source POISON. An imm prefix
before a branch is ILL. -/
def Obligations.BranchesGoWhereTheirConditionSays : Prop :=
  ∀ i a b imm p, conditional i = some (a, b, imm, p) → ∀ s : State,
    (p (s.cx.s a) (s.cx.s b) → canonical (relative s imm) = true → s.cx.sp a = false → s.cx.sp b = false →
      ∃ t, Transfers i s t [] (relative s imm)) ∧
    (¬ p (s.cx.s a) (s.cx.s b) → s.cx.sp a = false → s.cx.sp b = false → ∃ t, Plain i s t [] [] []) ∧
    (p (s.cx.s a) (s.cx.s b) → canonical (relative s imm) = false → Traps i s cACCESS (relative s imm)) ∧
    ((p (s.cx.s a) (s.cx.s b) → canonical (relative s imm) = true) → (s.cx.sp a || s.cx.sp b) = true → TrapsPoison i s) ∧
    ∀ q : Word, q.extractLsb' 22 10 = 0x3F0 → decode [q, i.word] = none

/-- R85, R86, R76: `jal` and `jalr` write the link, A + 4, and go to their target; `jalr` reads S[a] before it writes the link. The checks come in the
order ALIGN, ACCESS, POISON, and a trap writes no link. R87: `loop` sets LCNT, LSTART and LEND and goes to the body's first word, or past the
body if the count is 0. -/
def Obligations.JumpsAndLoopTransfer : Prop :=
  (∀ d imm (s : State),
    (canonical (relative s imm) = true → ∃ t, Transfers (.jal d imm) s t [d] (relative s imm) ∧ Holds t.cx d (s.lastWord + 4) false) ∧
    (canonical (relative s imm) = false → Traps (.jal d imm) s cACCESS (relative s imm))) ∧
  (∀ d a off (s : State),
    let x := s.cx.s a + off
    (x &&& 3 = 0 → canonical x = true → s.cx.sp a = false →
      ∃ t, Transfers (.jalr d a off) s t [d] x ∧ Holds t.cx d (s.lastWord + 4) false) ∧
    (x &&& 3 ≠ 0 → Traps (.jalr d a off) s cALIGN x) ∧
    (x &&& 3 = 0 → canonical x = false → Traps (.jalr d a off) s cACCESS x) ∧
    (x &&& 3 = 0 → canonical x = true → s.cx.sp a = true → TrapsPoison (.jalr d a off) s)) ∧
  (∀ a n (s : State), (s.cx.sp a = true → TrapsPoison (.loop a n) s) ∧ (s.cx.sp a = false → ∃ t,
    exec (.loop a n) s = .next t ∧ s.OnlyContext t s.cur ∧
    t.cx.cr.lcnt = s.cx.s a ∧ t.cx.cr.lstart = codeAddr (s.lastWord + 4) ∧
    t.cx.cr.lend = codeAddr (s.lastWord + BitVec.ofNat 64 (4 * n.toNat)) ∧
    t.cx.pc = canon (if s.cx.s a = 0 then s.lastWord + BitVec.ofNat 64 (4 * n.toNat) + 4 else s.lastWord + 4) ∧
    (s.cx.Keeps { t.cx with cr := { t.cx.cr with lstart := s.cx.cr.lstart, lend := s.cx.cr.lend } } [] [] [])))

namespace Sys2Proof.Claims
open Sys2Proof.Machine

/-! ### Control registers and traps -/

/-- The value that a control-register write forms before it goes into the fields (R89). -/
def written (k : CrKind) (old x : Dword) : Dword :=
  match k with
  | .w => x
  | .s => old ||| x
  | .c => old &&& ~~~x

/-- The instruction that writes a control register in each of the three ways. -/
def crWrite (k : CrKind) (a : Reg) (n : CReg) : Instr :=
  match k with
  | .w => .crw a n
  | .s => .crs a n
  | .c => .crc a n

/-- No unretired instruction of a unit stands before an access to FPM or SPSTAT (R302, R413). -/
def unitsQuiet (s : State) (n : CReg) : Bool :=
  match n with
  | .fpm => s.co.matq.all (fun j => j.slot != s.slotNum) && s.co.spq.all (fun j => j.slot != s.slotNum)
  | .spstat => s.co.spq.all (fun j => j.slot != s.slotNum)
  | _ => true

/-- Whether the running context may access a control register (R13). -/
def mayAccess (s : State) (n : CReg) : Bool := !n.isS || s.cx.mode == .super

/-- Whether the S context of a core takes a U context's trap at once (R22, R23): it handles none, it is at an instruction boundary, and no other trap waits for it. -/
def SFree (s : State) (core : Nat) : Prop :=
  let o := s.getCtx (ctxKey core 0)
  o.cr.sstat.getLsbD 16 = false ∧ o.midway = false ∧ ∀ x ∈ s.ctxs, x.1 / 64 = core → x.2.trapped = none

/-- The S context of a core after the entry of a trap (R22, R42, R415): what it is told, and where it goes. -/
def EnteredS (s t : State) (k : Nat) (cause : Byte) (value addr pfx : Dword) : Prop :=
  let c := s.getCtx k
  let x := t.getCtx (ctxKey (k / 64) 0)
  let o := s.getCtx (ctxKey (k / 64) 0)
  x.pc = o.cr.stvec ∧ x.cr.scause = BitVec.ofNat 64 cause.toNat ∧ x.cr.spc = codeAddr addr ∧ x.cr.sval = value ∧ x.cr.pfx = pfx ∧
  x.cr.sstat.extractLsb' 0 6 = BitVec.ofNat 6 (k % 64) ∧ x.cr.sstat.getLsbD 6 = (c.mode == .super) ∧ x.cr.sstat.getLsbD 16 = true ∧
  x.cr.sstat.getLsbD 8 = o.cr.sstat.getLsbD 8 ∧
  x.cr.region = c.cr.region ∧ x.cr.ptroot = c.cr.ptroot ∧ x.cr.asid = c.cr.asid ∧ x.wait = none ∧
  x.lt = max o.lt (s.cycle / 16) ∧
  { x with
    pc := o.pc, wait := o.wait, slot := o.slot, twin := o.twin, lt := o.lt
    cr := { x.cr with
      scause := o.cr.scause, spc := o.cr.spc, sval := o.cr.sval, sstat := o.cr.sstat, region := o.cr.region, ptroot := o.cr.ptroot,
      asid := o.cr.asid, pfx := o.cr.pfx } } = o

end Sys2Proof.Claims

/-! ### Control registers -/

/-- R13, R89, R302, R413: `crr` reads the register into S[d] and changes nothing else, but that what follows a read of KILN follows the deferred
writes of the core's dealer (R169: the logical time); an S register in user mode traps PRIV with the word; a
read of FPM or SPSTAT waits for the units. R15, R205, R249: and what the registers answer that are views of other state, POOL with
the partition that gives the scratchpad its size. That POOL shows the usable granules modulo 32, so that 32 of them read 0, is the model's reading (log 41);
what KILN answers to an S context whose REGION names no running region is the model's (log 49). -/
def Obligations.ControlRegisterReads : Prop :=
  ∀ d n (s : State),
    (mayAccess s n = true → unitsQuiet s n = true → ∃ t,
      PlainFrom (.crr d n) s (s.cx.lifted (s.readTime n)) t [d] [] [] ∧ (n ≠ .kiln → Plain (.crr d n) s t [d] [] []) ∧ Holds t.cx d (s.crRead s.cur n) false) ∧
    (mayAccess s n = false → Traps (.crr d n) s cPRIV s.wordValue) ∧
    (mayAccess s n = true → unitsQuiet s n = false → ∃ k, Waits (.crr d n) s k) ∧
    (let k := s.cur
     s.crRead k .core = BitVec.ofNat 64 (k / 64) ∧ s.crRead k .die = BitVec.ofNat 64 (k / 64 / 2048) ∧
     s.crRead k .cycle = BitVec.ofNat 64 s.cycle ∧
     (s.crRead k .slot).toNat = s.cx.inc.toNat * 2 ^ 16 + k % 64 ∧
     (∀ i, i < 32 → (s.crRead k .tags).getLsbD i = ((vget s.cx.tags i Tag.reset).pending == 0)) ∧
     (∀ i, i < 32 → (s.crRead k .tagerrs).getLsbD i = (vget s.cx.tags i Tag.reset).err) ∧
     (let pool := (s.crRead k .pool).toNat
      pool / 2 ^ 32 = s.co.part.toNat ∧ pool % 2 ^ 32 = s.co.usable % 32 ∧
      scratchBytes s.co = 4096 * (s.co.usable - pool / 2 ^ 32 % 32 - pool / 2 ^ 37 % 32)))

/-- R13, R76, R89: a write of a control register replaces its RW fields, clears the RW1C bits that are 1 in S[a] unless it is `crc`, keeps
every other bit, and leaves every other register; a write of FPM or SPSTAT waits for the units (R302, R413); an address keeps its bits [56:0] and none below its alignment; U mode traps PRIV at an S
register, and a poisoned source POISON. That a write of LCNT at LEND completes before the loop-back check, which uses the new value, is the model's (log 18). -/
def Obligations.ControlRegisterWrites : Prop :=
  ∀ k a n (s : State),
    (mayAccess s n = true → s.cx.sp a = false → unitsQuiet s n = true → ∃ c t,
      exec (crWrite k a n) s = .next t ∧ s.OnlyContext t s.cur ∧ c.Keeps t.cx [] [] [] ∧ s.Retired c t ∧
      { c with cr := s.cx.cr, tags := s.cx.tags } = s.cx ∧
      (∀ m, m ≠ n → (s.setCx c).crRead s.cur m = s.crRead s.cur m) ∧
      (match n.addrMask with
        | some m => (s.setCx c).crRead s.cur n = canon (written k (s.crRead s.cur n) (s.cx.s a)) &&& m
        | none => ∀ j, j < 64 → ((s.setCx c).crRead s.cur n).getLsbD j =
            (if n.rwMask.getLsbD j then (written k (s.crRead s.cur n) (s.cx.s a)).getLsbD j
             else if n.w1cMask.getLsbD j && k != .c then (s.crRead s.cur n).getLsbD j && !(s.cx.s a).getLsbD j
             else (s.crRead s.cur n).getLsbD j))) ∧
    (mayAccess s n = false → Traps (crWrite k a n) s cPRIV s.wordValue) ∧
    (mayAccess s n = true → s.cx.sp a = true → TrapsPoison (crWrite k a n) s) ∧
    (mayAccess s n = true → s.cx.sp a = false → unitsQuiet s n = false → ∃ w, Waits (crWrite k a n) s w)

/-! ### Traps, and the return from them -/

/-- R22, R23, R42, R415: a trap that is not delegated enters the S context of the core if SSTAT[16] is 0 and, of a U context, if no trap waits for it, and the trapping context stops with its
registers and pc unchanged; of the S context nothing changes but what it is told, its pc and that it is to issue, and nothing else of the state. -/
def Obligations.TrapEntersTheSContext : Prop :=
  ∀ (s : State) k cause value addr pfx, (s.getCtx k).delegates cause = false →
    (s.getCtx (ctxKey (k / 64) 0)).cr.sstat.getLsbD 16 = false → (k % 64 ≠ 0 → SFree s (k / 64)) →
    let t := s.takeTrap k cause value addr pfx
    EnteredS s t k cause value addr pfx ∧ s.SameMemory t ∧ { t with ctxs := s.ctxs } = s ∧
    (∀ j, j ≠ k → j ≠ ctxKey (k / 64) 0 → t.getCtx j = s.getCtx j) ∧
    (k % 64 ≠ 0 → t.getCtx k = { s.getCtx k with inTrap := true, wait := none })

/-- R22, R23: while SSTAT[16] is 1 or another trap waits for the S context, the trap of a U context waits with what the S context will be told. A trap of the S context
while SSTAT[16] is 1 seals the core: at once, or when what the core's units have accepted has retired and no instruction of it is still to be completed
(R25, R337, R413). -/
def Obligations.TrapWaitsOrSealsWhileAnotherIsHandled : Prop :=
  ∀ (s : State) k cause value addr pfx, (s.getCtx k).delegates cause = false →
    let t := s.takeTrap k cause value addr pfx
    (k % 64 ≠ 0 → ¬ SFree s (k / 64) → s.OnlyContext t k ∧
      t.getCtx k = { s.getCtx k with trapped := some ((s.getCtx k).trapEntry cause value addr pfx), wait := none }) ∧
    (k % 64 = 0 → (s.getCtx k).cr.sstat.getLsbD 16 = true → let co := s.getCore (k / 64)
      co.sealed = none →
      (co.matq = [] → co.spq = [] → s.completesOn (k / 64) = false → (t.getCore (k / 64)).sealed.isSome = true) ∧
      ((t.getCore (k / 64)).sealed.isSome = true ∨ (t.getCore (k / 64)).sealing = true))

/-- R18, R22, R346: a trap whose cause DELEG delegates, in a U context with a handler and none active, stays in the context: UCAUSE, UPC, UVAL
and the pc; SYSCALL and POISON are never delegated. -/
def Obligations.DelegatedTrapStaysInTheContext : Prop :=
  (∀ (s : State) k cause value addr pfx, (s.getCtx k).delegates cause = true →
    let t := s.takeTrap k cause value addr pfx
    let c := s.getCtx k
    let d := t.getCtx k
    s.OnlyContext t k ∧ d.pc = c.cr.utvec ∧ d.cr.ucause = 0x8000_0000_0000_0000 ||| BitVec.ofNat 64 cause.toNat ∧
    d.cr.upc = codeAddr addr ∧ d.cr.uval = value ∧ d.cr.pfx = pfx ∧ d.mode = c.mode ∧
    (∀ r, d.s r = c.s r ∧ d.v r = c.v r ∧ d.sp r = c.sp r ∧ d.vp r = c.vp r) ∧ (∀ q, d.p q = c.p q)) ∧
  (∀ c : Context, c.delegates cSYSCALL = false ∧ c.delegates cPOISON = false ∧ c.delegates cPAGE = false ∧ c.delegates cILL = false)

/-- R91, R19, R20: `trap` raises SYSCALL and `brkpt` raises BRK, each with its word as the value and its group's first address. -/
def Obligations.TrapAndBrkptRaise : Prop :=
  ∀ n (s : State), Traps (.trap n) s cSYSCALL s.wordValue ∧ Traps (.brkpt n) s cBRK s.wordValue

/-- R24, R92, R173: `eret` in the S context clears SSTAT[16]; the trapping context resumes at SPC, unless it has been squashed, and the S
context goes on; its own trap it ends by going to SPC. R347: in a delegated handler it clears UCAUSE[63] and goes to UPC. With the
bit 0 it traps ILL. -/
def Obligations.EretReturns : Prop :=
  ∀ s : State,
    (s.cx.mode = .super → s.slotNum = 0 →
      (s.cx.cr.sstat.getLsbD 16 = true → ∃ t,
        exec .eret s = .next t ∧ s.SameMemory t ∧
        (∀ j, j ≠ s.cur → j ≠ ctxKey s.coreNum (s.cx.cr.sstat.extractLsb' 0 6).toNat → t.getCtx j = s.getCtx j) ∧
        t.cx.cr.sstat = s.cx.cr.sstat &&& ~~~0x1_0000 ∧ (∀ r, t.cx.s r = s.cx.s r ∧ t.cx.v r = s.cx.v r) ∧
        (s.cx.cr.sstat.extractLsb' 0 6 = 0 → t.cx.pc = canon s.cx.cr.spc) ∧
        (s.cx.cr.sstat.extractLsb' 0 6 ≠ 0 →
          t.cx.pc = (s.cx.after s.lastWord).1 ∧
          let k := ctxKey s.coreNum (s.cx.cr.sstat.extractLsb' 0 6).toNat
          t.getCtx k = { s.getCtx k with
            inTrap := false, pc := if (s.getCtx k).live then s.cx.cr.spc else (s.getCtx k).pc })) ∧
      (s.cx.cr.sstat.getLsbD 16 = false → Traps .eret s cILL s.wordValue)) ∧
    (s.cx.mode = .user →
      (s.cx.cr.ucause.getLsbD 63 = true → ∃ t,
        exec .eret s = .next t ∧ s.OnlyContext t s.cur ∧ t.cx.pc = canon s.cx.cr.upc ∧
        t.cx.cr.ucause = s.cx.cr.ucause &&& 0x7FFF_FFFF_FFFF_FFFF ∧ t.cx.cr.lcnt = s.cx.cr.lcnt ∧
        s.cx.Keeps { t.cx with cr := { t.cx.cr with ucause := s.cx.cr.ucause } } [] [] []) ∧
      (s.cx.cr.ucause.getLsbD 63 = false → Traps .eret s cILL s.wordValue))

/-- R91, R93, R345: `nop` changes the pc alone; `wfe` completes and clears the latch when it is set, and waits else; `chkerr` completes once the
units are quiet and no masked bit of CHKINT is 1, traps POISON if one is, and waits while the units are not. -/
def Obligations.NopWfeChkerr : Prop :=
  ∀ s : State,
    (∃ t, Plain .nop s t [] [] []) ∧
    (s.cx.latch = true → ∃ t, exec .wfe s = .next t ∧ s.OnlyContext t s.cur ∧ t.cx.latch = false ∧
      Context.Keeps { s.cx with latch := false } t.cx [] [] [] ∧ s.Retired s.cx t) ∧
    (s.cx.latch = false → Waits .wfe s .latch) ∧
    (∀ m, unitsQuiet s .fpm = false → ∃ k, Waits (.chkerr m) s k) ∧
    (∀ m, unitsQuiet s .fpm = true → s.cx.cr.chkint.extractLsb' 0 3 &&& m = 0 → ∃ t, Plain (.chkerr m) s t [] [] []) ∧
    (∀ m, unitsQuiet s .fpm = true → s.cx.cr.chkint.extractLsb' 0 3 &&& m ≠ 0 → TrapsPoison (.chkerr m) s)

namespace Sys2Proof.Claims
open Sys2Proof.Machine

/-! ### Memory -/

/-- A value of `n` bytes extended to 64 bits, with zeros or with its sign (R81). -/
def widened (zx : Bool) (n v : Nat) : Dword :=
  if zx then BitVec.ofNat 64 v else BitVec.ofInt 64 ((v : Int).bmod (2 ^ (8 * n)))

/-- The scalar loads: destination, size, whether zero-extending, effective address, whether a register of it is poisoned (R81). -/
def scalarLoad : Instr → Option (Reg × Size × Bool × (Context → Dword) × (Context → Bool))
  | .ld d a z off => some (d, z, false, fun c => c.s a + off, fun c => c.sp a)
  | .ldn d a z off => some (d, z, true, fun c => c.s a + off, fun c => c.sp a)
  | .ldx d a b k z => some (d, z, false, fun c => c.s a + (c.s b <<< k.toNat), fun c => c.sp a || c.sp b)
  | .ldnx d a b k z => some (d, z, true, fun c => c.s a + (c.s b <<< k.toNat), fun c => c.sp a || c.sp b)
  | _ => none

/-- The scalar stores: source, size, effective address, whether a register of it is poisoned (R81). -/
def scalarStore : Instr → Option (Reg × Size × (Context → Dword) × (Context → Bool))
  | .st b a z off => some (b, z, fun c => c.s a + off, fun c => c.sp a)
  | .stx d a b k z => some (d, z, fun c => c.s a + (c.s b <<< k.toNat), fun c => c.sp a || c.sp b)
  | _ => none

/-- A context with the logical times of another, its own and that of its commands' writes. -/
def timesOf (c d : Context) : Context := { d with lt := c.lt, cmdLt := c.cmdLt }

/-- Two contexts have the same registers, mode and control registers: what an access in between may have changed are the logical times. -/
def SameRegisters (c d : Context) : Prop := timesOf c d = c

/-- A store, with what it leaves in `x` from `w`, the state after its undo copies, changes no register of the running context. -/
def StoreKeeps (s w x : State) : Prop := SameRegisters w.cx x.cx ∧ (s.cx.firing = none → SameRegisters s.cx x.cx)

/-- The line of a place is at home in this package, nothing older or newer of it is elsewhere, no write of an engine to it is without its place, and
the key of the mapping is the one that it is stored under: an access leaves it in place. -/
def Settled (u : State) (pa key : Nat) (write : Bool) : Prop :=
  u.fill (lineOf pa) write = u ∧ kget u.behind (lineOf pa) = none ∧ u.keyOf (lineOf pa) = key ∧ ∀ e ∈ u.early, e.line ≠ lineOf pa

/-- The running context takes a trap at its group's first word, once its attempt has used translations as in `u` (R19, R219). -/
def TrapsAfter (i : Instr) (s u : State) (cause : Byte) (value : Dword) : Prop :=
  let v := s.undone u
  StopsWith i s v (v.takeTrap v.cur cause value v.grp.first (pfxOf v.grp))

/-- It takes the trap POISON likewise (R76, R342). -/
def PoisonTrapAfter (i : Instr) (s u : State) : Prop :=
  let v := s.undone u
  StopsWith i s v ((v.modCx (fun c => c.chk 1)).takeTrap v.cur cPOISON (v.cx.cr.chkint ||| 1) v.grp.first (pfxOf v.grp))

/-- The trap of a cause that a translation has met: a PAGE in a firing squashes it before the S context is told, or waits for that (R22, R172). -/
def TranslationTrap (i : Instr) (s u : State) (c : Byte) (va : Dword) : Prop :=
  let v := s.undone u
  (c ≠ cPAGE ∨ v.cx.firing = none ∨ v.cx.mode = .super → TrapsAfter i s u c va) ∧
  (c = cPAGE → v.cx.firing.isSome = true → v.cx.mode = .user →
    let w := v.squash v.coreNum v.slotNum
    let e := v.cx.trapEntry c va v.grp.first (pfxOf v.grp)
    (SFree w v.coreNum → exec i s = .next ((w.modCtx v.cur (fun x => { x with inTrap := true, wait := none })).enterS v.coreNum v.slotNum e)) ∧
    (¬ SFree w v.coreNum → exec i s = .next (w.modCtx v.cur (fun x => { x with trapped := some e, wait := none }))))

/-- The atomics: destination, address register, operand register, 8-byte form, and the new value from the width in bits, the old value and the
operand (R234). -/
def integerAtomic : Instr → Option (Reg × Reg × Reg × Bool × (Nat → Nat → Nat → Nat))
  | .amoAdd d a b z => some (d, a, b, z, fun w x y => (x + y) % 2 ^ w)
  | .amoAnd d a b z => some (d, a, b, z, fun _ x y => x &&& y)
  | .amoOr d a b z => some (d, a, b, z, fun _ x y => x ||| y)
  | .amoXor d a b z => some (d, a, b, z, fun _ x y => x ^^^ y)
  | .amoMin d a b z => some (d, a, b, z, fun w x y => if (x : Int).bmod (2 ^ w) ≤ (y : Int).bmod (2 ^ w) then x else y)
  | .amoMax d a b z => some (d, a, b, z, fun w x y => if (x : Int).bmod (2 ^ w) ≤ (y : Int).bmod (2 ^ w) then y else x)
  | .amoMinn d a b z => some (d, a, b, z, fun _ x y => if x ≤ y then x else y)
  | .amoMaxn d a b z => some (d, a, b, z, fun _ x y => if x ≤ y then y else x)
  | .amoSwap d a b z => some (d, a, b, z, fun _ _ y => y)
  | _ => none

/-- An atomic's checks pass and its undo copy, if it needs one, is made, with the state `w` before its read (R234). -/
def AtomicReady (s : State) (a : Reg) (n : Nat) (p : Place) (w : State) : Prop :=
  (s.cx.s a).toNat % n = 0 ∧ timedOk s.cx (s.cx.s a) n = true ∧ s.cx.sp a = false ∧
  ∃ u, Reaches s (s.cx.s a) .atomic n p u ∧ wordsFree u p n = true ∧ logStore (s.cx.s a) n u = (.ok (), w)

end Sys2Proof.Claims

/-! ### Loads, stores and atomics -/

/-- R81, R83, R9: a load that passes its checks reads its bytes once and completes with them, extended, and with the line's poison; s0 discards
them; no other register changes, where the access is not one of device space, and memory is as the access left it. -/
def Obligations.LoadsComplete : Prop :=
  ∀ i d z zx ea bad, scalarLoad i = some (d, z, zx, ea, bad) → ∀ (s u : State) p,
    (ea s.cx).toNat % z.bytes = 0 → Reaches s (ea s.cx) .load z.bytes p u → bad s.cx = false → wordsFree u p z.bytes = true →
    let r := u.loadAt u.cur p z.bytes
    ∃ t, exec i s = .next t ∧ From r.2 t [d] [] [] ∧ Holds t.cx d (widened zx z.bytes r.1.1) r.1.2 ∧
      ((∀ pa, p ≠ .device pa) → SameRegisters s.cx r.2.cx)

/-- R81, R208, R221: what a load's access reads: of the scratchpad its bytes; of a settled line that no copy in the L1 stands before, the bytes of
memory, lowest address least significant; and no byte of memory changes. -/
def Obligations.LoadAccessReadsMemory : Prop :=
  ∀ (s : State) k n,
    (∀ off, let r := s.loadAt k (.scratch off) n
      r.1 = ((s.getCore (k / 64)).scratch.read off n, (s.getCore (k / 64)).scratchPoison (off / 64)) ∧ s.SameMemory r.2) ∧
    (∀ pa l1 wt key, Settled s pa key false → pa % 64 + n ≤ 64 → (∀ c ∈ (s.getCore (k / 64)).l1, c.line ≠ lineOf pa) →
      let r := s.loadAt k (.coherent pa l1 wt key) n
      r.1 = (s.mem.read pa n, s.poison.contains (lineOf pa)) ∧ s.SameMemory r.2)

/-- R19, R76, R82, R172, R81: a scalar load or store traps ALIGN first, then what its translation gives, with the effective address, then, of a store,
TIMEDWR outside the permitted areas of a firing, and a poisoned base or index register last, POISON; a PAGE of a firing squashes it, and then is told to
the S context. -/
def Obligations.LoadAndStoreTrapsInOrder : Prop :=
  (∀ i d z zx ea bad, scalarLoad i = some (d, z, zx, ea, bad) → ∀ s : State,
    ((ea s.cx).toNat % z.bytes ≠ 0 → Traps i s cALIGN (ea s.cx)) ∧
    (∀ c u, (ea s.cx).toNat % z.bytes = 0 → s.translate (.ctx s.cur) s.coreNum s.cx.space (ea s.cx) .load z.bytes = (.error c, u) → c ≠ cPOISON →
      TranslationTrap i s u c (ea s.cx)) ∧
    (∀ p u, (ea s.cx).toNat % z.bytes = 0 → Reaches s (ea s.cx) .load z.bytes p u → bad s.cx = true → PoisonTrapAfter i s u)) ∧
  (∀ i b z ea bad, scalarStore i = some (b, z, ea, bad) → ∀ s : State,
    ((ea s.cx).toNat % z.bytes ≠ 0 → Traps i s cALIGN (ea s.cx)) ∧
    (∀ c u, (ea s.cx).toNat % z.bytes = 0 → s.translate (.ctx s.cur) s.coreNum s.cx.space (ea s.cx) .store z.bytes = (.error c, u) → c ≠ cPOISON →
      TranslationTrap i s u c (ea s.cx)) ∧
    (∀ p u, (ea s.cx).toNat % z.bytes = 0 → Reaches s (ea s.cx) .store z.bytes p u →
      (timedOk s.cx (ea s.cx) z.bytes = false → TrapsAfter i s u cTIMEDWR (ea s.cx)) ∧
      (timedOk s.cx (ea s.cx) z.bytes = true → bad s.cx = true → PoisonTrapAfter i s u)))

/-- R82, R208, R217: an address that is not canonical has no place, whatever the tables hold, and no access of it is a PAGE; in the scratchpad window an
offset below the scratchpad's size is that byte of the scratchpad, and one at or beyond it is ACCESS. -/
def Obligations.CanonicalAndScratchpadAddresses : Prop :=
  ∀ (s : State) ag core (sp : Space) va acc n, sp.physical = false →
    (canonical va = false → s.translate ag core sp va acc n = (.error cACCESS, s)) ∧
    (canonical va = true → 0xFF00_0000_0000_0000 ≤ va.toNat → va.toNat < 0xFF00_0000_0002_0000 → acc ≠ .fetch →
      s.translate ag core sp va acc n =
        (if va.toNat - 0xFF00_0000_0000_0000 < scratchBytes (s.getCore core) then .ok (.scratch (va.toNat - 0xFF00_0000_0000_0000))
         else .error cACCESS, s))

/-- R81, R83, R154: a store that passes its checks, with its undo copies made in a firing, puts the low bytes of its source, with the source's
poison, where its address leads, once; where that is no register of device space, the store changes no register. -/
def Obligations.StoresComplete : Prop :=
  ∀ i b z ea bad, scalarStore i = some (b, z, ea, bad) → ∀ (s u w : State) p,
    (ea s.cx).toNat % z.bytes = 0 → Reaches s (ea s.cx) .store z.bytes p u → timedOk s.cx (ea s.cx) z.bytes = true →
    bad s.cx = false → wordsFree u p z.bytes = true → logStore (ea s.cx) z.bytes u = (.ok (), w) →
    let x := w.storeAt w.cur p z.bytes ((w.cx.s b).toNat % 2 ^ (8 * z.bytes)) (w.cx.sp b)
    ∃ t, exec i s = .next t ∧ From x t [] [] [] ∧ ((∀ pa, p ≠ .device pa) → StoreKeeps s w x)

/-- R81, R100, R112, R208, R221, R231: what a store, and a vector store to a block at once, changes: of the scratchpad, and of a settled line of
memory while no slice holds a copy older than device memory (such a copy may have to leave its slice for the line), the bytes of its range take the
value's, lowest address least significant, and EVERY other byte of memory and of every scratchpad reads as before. -/
def Obligations.StoreAccessChangesItsBytesAlone : Prop :=
  ∀ (s : State) k n v pois,
    (∀ off, let t := s.storeAt k (.scratch off) n v pois
      (∀ a, t.mem.byte a = s.mem.byte a) ∧
      (∀ core a, core ≠ k / 64 ∨ a < off ∨ off + n ≤ a → (t.getCore core).scratch.byte a = (s.getCore core).scratch.byte a) ∧
      (∀ j, j < n → (t.getCore (k / 64)).scratch.byte (off + j) = BitVec.ofNat 8 (v / 256 ^ j))) ∧
    (∀ pa l1 wt key, Settled s pa key true → (∀ x ∈ s.behind, x.2.dirty = true) → pa % 64 + n ≤ 64 →
      let t := s.storeAt k (.coherent pa l1 wt key) n v pois
      (∀ a, a < pa ∨ pa + n ≤ a → t.mem.byte a = s.mem.byte a) ∧
      (∀ core a, (t.getCore core).scratch.byte a = (s.getCore core).scratch.byte a) ∧
      (∀ j, j < n → t.mem.byte (pa + j) = BitVec.ofNat 8 (v / 256 ^ j)) ∧
      (pois = true → lineOf pa ∈ t.poison) ∧ (∀ j, j ≠ k → t.getCtx j = s.getCtx j) ∧
      SameRegisters (s.getCtx k) (t.getCtx k)) ∧
    (∀ off x mask, let t := s.storeMasked k (.scratch off) x mask pois
      (∀ a, t.mem.byte a = s.mem.byte a) ∧
      (∀ core a, core ≠ k / 64 ∨ a / 64 ≠ off / 64 ∨ mask.getLsbD (a % 64) = false →
        (t.getCore core).scratch.byte a = (s.getCore core).scratch.byte a) ∧
      (∀ j, j < 64 → mask.getLsbD j = true → (t.getCore (k / 64)).scratch.byte (off / 64 * 64 + j) = x.extractLsb' (8 * j) 8)) ∧
    (∀ pa l1 wt key x mask, Settled s pa key true → (∀ y ∈ s.behind, y.2.dirty = true) →
      let t := s.storeMasked k (.coherent pa l1 wt key) x mask pois
      (∀ a, a / 64 ≠ lineOf pa ∨ mask.getLsbD (a % 64) = false → t.mem.byte a = s.mem.byte a) ∧
      (∀ core a, (t.getCore core).scratch.byte a = (s.getCore core).scratch.byte a) ∧
      (∀ j, j < 64 → mask.getLsbD j = true → t.mem.byte (64 * lineOf pa + j) = x.extractLsb' (8 * j) 8) ∧
      (pois = true → lineOf pa ∈ t.poison) ∧ SameRegisters (s.getCtx k) (t.getCtx k))

/-- R233, R234: an integer atomic that passes its checks reads the old value, writes the new one of its function at the same place, and completes with
the old value in S[d], sign-extended in the 4-byte form. -/
def Obligations.IntegerAtomicsComplete : Prop :=
  ∀ i d a b z f, integerAtomic i = some (d, a, b, z, f) → ∀ (s w : State) p,
    let n := if z then 8 else 4
    AtomicReady s a n p w →
    let r := w.atomicRead w.cur p n
    let x := r.2.atomicWrite w.cur p n (f (8 * n) r.1.1 ((w.cx.s b).toNat % 2 ^ (8 * n))) (w.cx.sp b)
    r.1.1 < 2 ^ (8 * n) → ∃ t, exec i s = .next t ∧ From x t [d] [] [] ∧ Holds t.cx d (widened z n r.1.1) r.1.2

/-- R235, R236: `amo.fadd` adds with one rounding to nearest even, keeping subnormals, and sets its flags; `cas` stores the new value if the old
one equals S[d], and else the old value again; both complete with the old value in S[d]. -/
def Obligations.FaddAndCasComplete : Prop :=
  ∀ d a b z (s w : State) p,
    let n := if z then 8 else 4
    AtomicReady s a n p w →
    let r := w.atomicRead w.cur p n
    let y := (w.cx.s b).toNat % 2 ^ (8 * n)
    (let q := (if z then FFmt.f64 else FFmt.f32).add { rm := .rne, flush := false, sat := false } r.1.1 y
     let x := r.2.atomicWrite w.cur p n q.1 (w.cx.sp b)
     ∃ t, exec (.amoFadd d a b z) s = .next t ∧ From (x.modCx (fun c => c.addFlags q.2)) t [d] [] [] ∧
       Holds t.cx d (widened z n r.1.1) r.1.2) ∧
    (let hit := decide (r.1.1 = (w.cx.s d).toNat % 2 ^ (8 * n))
     let x := r.2.atomicWrite w.cur p n (if hit then y else r.1.1) (hit && w.cx.sp b)
     ∃ t, exec (.cas d a b z) s = .next t ∧ From x t [d] [] [] ∧ Holds t.cx d (widened z n r.1.1) r.1.2)

/-! ### Fences, caches and translations -/

/-- R227, R238, R239, R242: a fence completes once the context's copy and attention commands are done, and waits until then, or while a lost plane keeps one of their
writes from its place (R396); what the context accesses afterwards follows those writes and all that it has accessed before; it changes no register,
and of memory nothing but what earlier writes of those commands leave that have no place yet: after a fence at dom or sys, and after `fence.io`, none
is left, and after one at a narrower scope every one is seen within it. `prefetch` always completes, and changes no register, no other context and no
pc but its own. R240: `cflush` completes with the line's newest value in device memory and no instruction copy of it on a core within scope; it
changes no register and, of a line that no engine and no other package has newer data of, no byte of memory. -/
def Obligations.FencesPrefetchAndFlushComplete : Prop :=
  ∀ s : State,
    (s.commandsOpen = false → ∀ i sc, i = Instr.fence sc ∨ i = .fenceIo ∧ sc = .sys → s.fenceHeld sc = false → ∃ t,
      exec i s = .next t ∧ From (s.fenced sc) t [] [] [] ∧
      s.cx.lt ≤ t.cx.lt ∧ t.cx.cmdLt ≤ t.cx.lt ∧ t.cx.fenceLt = t.cx.lt ∧
      (∀ e ∈ t.early, e.ctx = s.cur → e.inc = s.cx.inc →
        sc ≠ .dom ∧ sc ≠ .sys ∧ ∃ x, e.scope = some x ∧ Scope.rank sc ≤ Scope.rank x) ∧
      ((∀ e ∈ s.early, e.ctx ≠ s.cur ∨ e.inc ≠ s.cx.inc) → s.SameMemory t) ∧
      s.cx.Keeps { timesOf s.cx t.cx with fenceLt := s.cx.fenceLt } [] [] []) ∧
    (s.commandsOpen = false → ∀ sc, s.fenceHeld sc = true → Waits (.fence sc) s .plane) ∧
    (s.commandsOpen = true → (∀ sc, Waits (.fence sc) s .commands) ∧ Waits .fenceIo s .commands) ∧
    (∀ i a, ∃ t, exec (.prefetch i a) s = .next t ∧ s.cx.Keeps (timesOf s.cx t.cx) [] [] [] ∧ s.Retired s.cx t ∧
      ∀ j, j ≠ s.cur → SameRegisters (s.getCtx j) (t.getCtx j)) ∧
    (∀ a sc (u : State) pa l1 wt key, Reaches s (s.cx.s a) .flush 1 (.coherent pa l1 wt key) u → s.cx.sp a = false →
      let v := u.placeSeen u.cur (lineOf pa)
      (sc = .dom ∨ sc = .sys → v.recovering (lineOf pa) = false ∨ v.dirtyElsewhere (lineOf pa) = false) → ∃ t,
      exec (.cflush a sc) s = .next t ∧ s.cx.Keeps (timesOf s.cx t.cx) [] [] [] ∧ s.Retired s.cx t ∧
      (∀ b, kget t.behind (lineOf pa) = some b → b.dirty = false) ∧
      (∀ core, inScope sc s.coreNum core = true → kget (t.getCore core).icache (lineOf pa) = none) ∧
      (u.early = [] → u.dirtyElsewhere (lineOf pa) = false → u.SameMemory t))

/-- R13, R241, R243, R244: in supervisor mode `cinval` gives the line device memory's content, and `tlbinv` drops exactly the cached translations of its
kind within scope, and waits while a command or a vector access under way may have been translated through one of them; in user mode both trap PRIV. That it
waits for any promotion under way of the space, and for a vector access of which a dropped translation may have translated the lanes left (`openLane`), also where it was
another that did, goes beyond R244 and is the model's choice (log 49, 'Dropped translation'). -/
def Obligations.SupervisorCacheInstructions : Prop :=
  (∀ a sc (s : State),
    (s.cx.mode = .user → Traps (.cinval a sc) s cPRIV s.wordValue) ∧
    (∀ u pa l1 wt key, s.cx.mode = .super → Reaches s (s.cx.s a) .inval 1 (.coherent pa l1 wt key) u → s.cx.firing = none →
      s.cx.sp a = false → ∃ t, exec (.cinval a sc) s = .next t ∧
        t.lineData (lineOf pa) = (((u.placeSeen u.cur (lineOf pa)).maybeWriteBack (lineOf pa)).deviceLine (lineOf pa)).1 ∧
        s.cx.Keeps (timesOf s.cx t.cx) [] [] [] ∧ s.Retired s.cx t)) ∧
  (∀ k a b sc (s : State),
    (s.cx.mode = .user → Traps (.tlbinv k a b sc) s cPRIV s.wordValue) ∧
    (s.cx.mode = .super → (k = .page ∨ k = .pageAny → s.cx.sp a = false) → (k = .asid ∨ k = .page → s.cx.sp b = false) →
      let drops (e : TlbEntry) : Bool := e.holder.covered sc s.coreNum && e.hit k (s.cx.s a) ((s.cx.s b).toNat % 65536)
      let used := (∃ e ∈ s.tlb, drops e = true ∧ s.usedByCommand e = true) ∨ ∃ x ∈ s.ctxs, x.2.openLane (x.1 / 64) drops = true
      (used → Waits (.tlbinv k a b sc) s .translated) ∧
      (¬ used → ∃ t, exec (.tlbinv k a b sc) s = .next t ∧
        (∀ e, e ∈ t.tlb ↔ e ∈ s.tlb ∧ drops e = false) ∧ From { s with tlb := t.tlb } t [] [] [])))

namespace Sys2Proof.Claims
open Sys2Proof.Machine

/-! ### Vectors -/

/-- What a vector register gives as a source: its own value and poison, or the head packet of the port that it is; nothing if that port is
empty (R136). -/
def sourceOf (c : Context) (r : Reg) : Option (VReg × Bool) :=
  match c.portOf r with
  | none => some (c.v r, c.vp r)
  | some p => p.fifo.head?.map (fun x => (x.1, x.2.1))

/-- The sources of an instruction, all ready. -/
def sourcesOf (c : Context) (rs : List Reg) : Option (List (VReg × Bool)) := rs.mapM (sourceOf c)

/-- An integer modulo 2^w, as bits. -/
def wrapped (w : Nat) (i : Int) : Nat := (i % (2 ^ w : Nat)).toNat
/-- The bits of a lane as two's complement. -/
def signedLane (w x : Nat) : Int := (x : Int).bmod (2 ^ w)
/-- An integer saturated to a range, as bits (R54). -/
def saturated (w : Nat) (lo hi i : Int) : Nat := wrapped w (max lo (min hi i))

/-- The lane operations without flags: destination, sources, mask, type, and the result from a lane's width and operands (R53, R54, R97); of
the members with a floating-point form, the integer one. -/
def integerLanes : Instr → Option (Reg × List Reg × PReg × ETy × (Nat → List Nat → Nat))
  | .vadd d a b g t => if t.isFloat then none else some (d, [a, b], g, t, fun w l => (l[0]! + l[1]!) % 2 ^ w)
  | .vsub d a b g t => if t.isFloat then none else some (d, [a, b], g, t, fun w l => wrapped w ((l[0]! : Int) - l[1]!))
  | .vmul d a b g t => if t.isFloat then none else some (d, [a, b], g, t, fun w l => l[0]! * l[1]! % 2 ^ w)
  | .vmin d a b g t => if t.isFloat then none else
      some (d, [a, b], g, t, fun w l => if signedLane w l[0]! < signedLane w l[1]! then l[0]! else l[1]!)
  | .vmax d a b g t => if t.isFloat then none else
      some (d, [a, b], g, t, fun w l => if signedLane w l[0]! < signedLane w l[1]! then l[1]! else l[0]!)
  | .vminn d a b g t => some (d, [a, b], g, t, fun _ l => if l[0]! ≤ l[1]! then l[0]! else l[1]!)
  | .vmaxn d a b g t => some (d, [a, b], g, t, fun _ l => if l[0]! ≤ l[1]! then l[1]! else l[0]!)
  | .vabs d a g t => if t.isFloat then none else some (d, [a], g, t, fun w l => (signedLane w l[0]!).natAbs % 2 ^ w)
  | .vneg d a g t => if t.isFloat then none else some (d, [a], g, t, fun w l => wrapped w (-signedLane w l[0]!))
  | .vand d a b g t => some (d, [a, b], g, t, fun _ l => l[0]! &&& l[1]!)
  | .vor d a b g t => some (d, [a, b], g, t, fun _ l => l[0]! ||| l[1]!)
  | .vxor d a b g t => some (d, [a, b], g, t, fun _ l => l[0]! ^^^ l[1]!)
  | .vandn d a b g t => some (d, [a, b], g, t, fun _ l => l[0]! - (l[0]! &&& l[1]!))
  | .vsll d a b g t => some (d, [a, b], g, t, fun w l => l[0]! * 2 ^ (l[1]! % w) % 2 ^ w)
  | .vsrl d a b g t => some (d, [a, b], g, t, fun w l => l[0]! / 2 ^ (l[1]! % w))
  | .vsra d a b g t => some (d, [a, b], g, t, fun w l => wrapped w (signedLane w l[0]! / (2 ^ (l[1]! % w) : Nat)))
  | .vaddsat d a b g t => some (d, [a, b], g, t, fun w l =>
      saturated w (-(2 ^ (w - 1) : Nat)) ((2 ^ (w - 1) : Nat) - 1) (signedLane w l[0]! + signedLane w l[1]!))
  | .vsubsat d a b g t => some (d, [a, b], g, t, fun w l =>
      saturated w (-(2 ^ (w - 1) : Nat)) ((2 ^ (w - 1) : Nat) - 1) (signedLane w l[0]! - signedLane w l[1]!))
  | .vaddsatn d a b g t => some (d, [a, b], g, t, fun w l => saturated w 0 ((2 ^ w : Nat) - 1) ((l[0]! : Int) + l[1]!))
  | .vsubsatn d a b g t => some (d, [a, b], g, t, fun w l => saturated w 0 ((2 ^ w : Nat) - 1) ((l[0]! : Int) - l[1]!))
  | .vdiv d a b g t => if t.isFloat then none else
      some (d, [a, b], g, t, fun w l => if l[1]! = 0 then 2 ^ w - 1 else wrapped w ((signedLane w l[0]!).tdiv (signedLane w l[1]!)))
  | .vmulh d a b g t => some (d, [a, b], g, t, fun w l => wrapped w (signedLane w l[0]! * signedLane w l[1]! / (2 ^ w : Nat)))
  | .vmulhn d a b g t => some (d, [a, b], g, t, fun w l => l[0]! * l[1]! / 2 ^ w)
  | _ => none

/-- The lane operations with flags, by the model's arithmetic of the formats (R56 to R61, R73, R97 to R99, R106, R110): destination, sources, mask,
width and the result with its flags. -/
def floatLanes : Instr → Option (Reg × List Reg × PReg × Nat × (FpEnv → List Nat → Nat × FpFlags))
  | .vadd d a b g t => if t.isFloat then some (d, [a, b], g, t.width, fun e l => (fmtOf t).add e l[0]! l[1]!) else none
  | .vsub d a b g t => if t.isFloat then some (d, [a, b], g, t.width, fun e l => (fmtOf t).sub e l[0]! l[1]!) else none
  | .vmul d a b g t => if t.isFloat then some (d, [a, b], g, t.width, fun e l => (fmtOf t).mul e l[0]! l[1]!) else none
  | .vdiv d a b g t => if t.isFloat then some (d, [a, b], g, t.width, fun e l => (fmtOf t).div e l[0]! l[1]!) else none
  | .vmin d a b g t => if t.isFloat then some (d, [a, b], g, t.width, fun e l => (fmtOf t).minMax false e l[0]! l[1]!) else none
  | .vmax d a b g t => if t.isFloat then some (d, [a, b], g, t.width, fun e l => (fmtOf t).minMax true e l[0]! l[1]!) else none
  | .vabs d a g t => if t.isFloat then some (d, [a], g, t.width, fun _ l => (fmtOf t).absV l[0]!) else none
  | .vneg d a g t => if t.isFloat then some (d, [a], g, t.width, fun _ l => (fmtOf t).negV l[0]!) else none
  | .vsqrt d a g t => if t.isFloat then some (d, [a], g, t.width, fun e l => (fmtOf t).sqrt e l[0]!) else none
  | .vrcp d a g => some (d, [a], g, 32, fun e l => sfRcp e l[0]!)
  | .vrsqrt d a g => some (d, [a], g, 32, fun e l => sfRsqrt e l[0]!)
  | .vexp2 d a g => some (d, [a], g, 32, fun e l => sfExp2 e l[0]!)
  | .vlog2 d a g => some (d, [a], g, 32, fun e l => sfLog2 e l[0]!)
  | .vtanh d a g => some (d, [a], g, 32, fun e l => sfTanh e l[0]!)
  | .vfma d a b c g t => some (d, [a, b, c], g, t.width, fun e l => (fmtOf t).fma false false e l[0]! l[1]! l[2]!)
  | .vfms d a b c g t => some (d, [a, b, c], g, t.width, fun e l => (fmtOf t).fma false true e l[0]! l[1]! l[2]!)
  | .vfnma d a b c g t => some (d, [a, b, c], g, t.width, fun e l => (fmtOf t).fma true true e l[0]! l[1]! l[2]!)
  | .vfnms d a b c g t => some (d, [a, b, c], g, t.width, fun e l => (fmtOf t).fma true false e l[0]! l[1]! l[2]!)
  | .vcvt d a u e g t => some (d, [a], g, t.width, fun v l => cvtLane u e t v l[0]!)
  | .vcvtsp d a g => some (d, [a], g, 32, fun e l => cvtToSp e l[0]!)
  | .vcvtfs d a g => some (d, [a], g, 32, fun e l => cvtFromSp e l[0]!)
  | _ => none

/-- The flags that active lanes raise (R58). -/
def raised (n : Nat) (m : Dword) (f : Nat → FpFlags) : FpFlags :=
  (List.range n).foldl (fun x i => if m.getLsbD i then x ||| f i else x) 0

/-- A vector destination that is not a bound port: its lanes of width `w`, its poison. -/
def HoldsV (c : Context) (d : Reg) (w : Nat) (f : Nat → Nat) (p : Bool) : Prop :=
  c.portOf d = none → (∀ i, i < 512 / w → lane w (c.v d) i = f i) ∧ c.vp d = p

/-- The compares: destination, sources, mask, type, condition with its flags (R103). -/
def compares : Instr → Option (PReg × Reg × Reg × PReg × ETy × (FpEnv → Nat → Nat → Bool × FpFlags))
  | .vcmpEq p a b g t => some (p, a, b, g, t, fun e x y =>
      if t.isFloat then fcond t true false (fun o => o == .eq) e x y else (decide (x = y), 0))
  | .vcmpNe p a b g t => some (p, a, b, g, t, fun e x y =>
      if t.isFloat then fcond t true true (fun o => o != .eq) e x y else (decide (x ≠ y), 0))
  | .vcmpLt p a b g t => some (p, a, b, g, t, fun e x y =>
      if t.isFloat then fcond t false false (fun o => o == .lt) e x y else (decide (signedLane t.width x < signedLane t.width y), 0))
  | .vcmpLe p a b g t => some (p, a, b, g, t, fun e x y =>
      if t.isFloat then fcond t false false (fun o => o != .gt) e x y else (decide (signedLane t.width x ≤ signedLane t.width y), 0))
  | .vcmpLtn p a b g t => some (p, a, b, g, t, fun _ x y => (decide (x < y), 0))
  | .vcmpLen p a b g t => some (p, a, b, g, t, fun _ x y => (decide (x ≤ y), 0))
  | .vcmpUnord p a b g t => some (p, a, b, g, t, fun e x y => fcond t true true (fun _ => false) e x y)
  | _ => none

/-- The reductions of integer lanes: destination, source, mask, type, operation and the value of none (R74, R111). -/
def integerReductions : Instr → Option (Reg × Reg × PReg × ETy × (Nat → Nat → Nat) × Nat)
  | .vredsum d a g t => if t.isFloat then none else some (d, a, g, t, fun x y => (x + y) % 2 ^ t.width, 0)
  | .vredmin d a g t => if t.isFloat then none else
      some (d, a, g, t, fun x y => if signedLane t.width x < signedLane t.width y then x else y, 2 ^ (t.width - 1) - 1)
  | .vredmax d a g t => if t.isFloat then none else
      some (d, a, g, t, fun x y => if signedLane t.width x < signedLane t.width y then y else x, 2 ^ (t.width - 1))
  | .vredminn d a g t => some (d, a, g, t, fun x y => if x ≤ y then x else y, 2 ^ t.width - 1)
  | .vredmaxn d a g t => some (d, a, g, t, fun x y => if x ≤ y then y else x, 0)
  | .vredand d a g t => some (d, a, g, t, fun x y => x &&& y, 2 ^ t.width - 1)
  | .vredor d a g t => some (d, a, g, t, fun x y => x ||| y, 0)
  | _ => none

/-- The reductions of floating-point lanes, by the model's arithmetic of the formats: destination, source, mask, type, operation, identity. -/
def floatReductions : Instr → Option (Reg × Reg × PReg × ETy × (FpEnv → Nat → Nat → Nat × FpFlags) × Nat)
  | .vredsum d a g t => if t.isFloat then some (d, a, g, t, (fmtOf t).add, 0) else none
  | .vredmin d a g t => if t.isFloat then some (d, a, g, t, (fmtOf t).minMax false, (fmtOf t).infBits) else none
  | .vredmax d a g t => if t.isFloat then some (d, a, g, t, (fmtOf t).minMax true, (fmtOf t).withSign true (fmtOf t).infBits) else none
  | _ => none

/-- The value at a position of a level of the tree, with the flags of the nodes below it: two values are combined, one passes unchanged (R74). -/
def treeNode (f : Nat → Nat → Nat × FpFlags) (leaf : Nat → Option Nat) : Nat → Nat → Option (Nat × FpFlags)
  | 0, j => (leaf j).map (fun x => (x, 0))
  | k + 1, j =>
    match treeNode f leaf k (2 * j), treeNode f leaf k (2 * j + 1) with
    | some x, some y => some ((f x.1 y.1).1, x.2 ||| y.2 ||| (f x.1 y.1).2)
    | some x, none => some x
    | none, y => y

/-- Bit i of a predicate that is the lowest one bit. -/
def isLowest (x : Dword) (i : Nat) : Bool := x.getLsbD i && (List.range i).all (fun j => !x.getLsbD j)

/-- Which register of a pair holds lane `i` of `2n`, and where in it. -/
def half (d : Reg) (n i : Nat) : Reg := if i < n then d else d + 1

/-- No lane's place is a register of device space. -/
def NoDevice (ls : List (Nat × Dword × Place)) : Prop := ∀ x ∈ ls, ∀ pa, x.2.2 ≠ .device pa

/-- The loads of lanes change no register of the running context, where no lane lies in device space. -/
def LanesKeep (ls : List (Nat × Dword × Place)) (s w : State) : Prop := NoDevice ls → SameRegisters s.cx w.cx

/-- Lanes of `n` bytes loaded in order into a vector, with the poison that they bring. -/
def loadedLanes (u : State) (n : Nat) (a : VReg × Bool) (ls : List (Nat × Dword × Place)) : (VReg × Bool) × State :=
  ls.foldl (fun (x : (VReg × Bool) × State) (y : Nat × Dword × Place) =>
    let r := x.2.loadAt x.2.cur y.2.2 n
    ((lineWith x.1.1 (n * y.1) n r.1.1, x.1.2 || r.1.2), r.2)) (a, u)

/-- A vector access that has passed its checks, before its first lane. -/
def begun (n : Nat) (ls : List (Nat × Dword × Place)) (store : Bool) (v : VReg × Bool) (cut : Option Nat) : LanePlan :=
  { bytes := n, todo := ls, store := store, acc := v.1, pois := v.2, cut := cut, logged := [], vals := [], back := false }

/-- How many lanes of an access a step makes: some of those left, and at least one where nothing holds the first of them back (R112). -/
def Takes (u : State) (p : LanePlan) (m : Nat) : Prop :=
  m ≤ p.todo.length ∧ ∀ y rest, p.todo = y :: rest → u.laneHeld u.coreNum p.bytes p.store y.2.2 = false → 0 < m

/-- Lanes of a load made one by one in ascending order from `u` on: all that are left, and then `done` says what follows from what it has loaded; or some, with other
contexts coming between two lanes, and then the instruction has stopped midway and goes on when it issues again (R112). -/
def LoadsOn (u t : State) (p : LanePlan) (done : VReg × Bool → State → Prop) : Prop :=
  ∃ m f, Takes u p m ∧
    let x := loadedLanes { u with fresh := f } p.bytes (p.acc, p.pois) (p.todo.take m)
    (m = p.todo.length → done x.1 x.2) ∧
    ∀ y rest, p.todo.drop m = y :: rest → t = x.2.beginWait (.lanes { p with todo := y :: rest, acc := x.1.1, pois := x.1.2 })

/-- The undo copy of a lane's block: made once, right before the first lane that stores to it, and of a row or an element with a value of its own before each, in a firing
and outside the scratchpad (R100, R154, R230, R298, R324). -/
def UndoCopied (u : State) (p : LanePlan) (va : Dword) (w : State) (q : LanePlan) : Prop :=
  if u.cx.firing = none ∨ inScratch va = true ∨ p.vals = [] ∧ va.toNat / 64 ∈ p.logged then w = u ∧ q = p
  else logBlock (va.toNat / 64) u = (.ok (), w) ∧ q = { p with logged := nadd p.logged (va.toNat / 64) }

/-- Stores made in order, each with its block's undo copy first, its value and its poison: of a lane those of the source, of an element those that it brings. -/
def LanesStored : List (Nat × Dword × Place) → LanePlan → State → LanePlan → State → Prop
  | [], p, u, q, x => q = p ∧ x = u
  | y :: ys, p, u, q, x => ∃ w p', UndoCopied u p y.2.1 w p' ∧
      LanesStored ys { p' with back := false } (w.storeAt w.cur y.2.2 p.bytes (p.value y.1).1 (p.value y.1).2) q x

/-- Lanes of a store made likewise. -/
def StoresOn (u t : State) (p : LanePlan) (done : State → Prop) : Prop :=
  ∃ m f, Takes u p m ∧ ∀ q x, LanesStored (p.todo.take m) p { u with fresh := f } q x →
    (m = p.todo.length → done x) ∧ ∀ y rest, p.todo.drop m = y :: rest → t = x.beginWait (.lanes { q with todo := y :: rest })

/-- The place of the block that an access at a block's address is made to at once (R112). -/
def wholeBlock (ea : Dword) (ls : List (Nat × Dword × Place)) : Option Place :=
  match ls with
  | (_, _, p) :: _ => if ea.toNat % 64 = 0 ∧ p.oneBlock = true then some p else none
  | [] => none

/-- Loads by the running context of the active lanes `ls`, from `u` on (R112): at a block's address as one access, where nothing holds a lane back, else lane by
lane. It completes as `done` says of what it has loaded. -/
def LoadsLanes (i : Instr) (s u : State) (ea : Dword) (n : Nat) (cut : Option Nat) (ls : List (Nat × Dword × Place))
    (done : VReg × Bool → State → State → Prop) : Prop :=
  ∃ t, exec i s = .next t ∧
    match wholeBlock ea ls with
    | some p => (∀ x ∈ ls, u.laneHeld u.coreNum n false x.2.2 = false) →
        let r := u.loadAt u.cur p.block 64
        done (BitVec.ofNat 512 r.1.1, r.1.2) r.2 t
    | none => LoadsOn u t (begun n ls false (0, false) cut) (fun r w => done r w t)

/-- Stores of the active lanes likewise; `done` is said of the state after the last of them. A block is written as one access, in the bytes of the active
lanes, after its undo copy. -/
def StoresLanes (i : Instr) (s u : State) (ea : Dword) (g : Dword) (n : Nat) (v : VReg × Bool) (ls : List (Nat × Dword × Place))
    (done : State → State → Prop) : Prop :=
  ∃ t, exec i s = .next t ∧
    match wholeBlock ea ls with
    | some p => (∀ x ∈ ls, u.laneHeld u.coreNum n true x.2.2 = false) → ∀ w, logStore ea 64 u = (.ok (), w) →
        ∃ mask, (∀ j, j < 64 → mask.getLsbD j = g.getLsbD (j / n)) ∧ done (w.storeMasked w.cur p v.1 mask v.2) t
    | none => StoresOn u t (begun n ls true v none) (fun x => done x t)

/-- The lanes of a `vldff` that have a place, with it. -/
def placesFound (l : List LaneFound) : List (Nat × Dword × Place) :=
  l.filterMap (fun x => match x.2.2.1 with | .ok p => some (x.1, x.2.1, p) | .error _ => none)

/-- The cause that a `vldff` with an uncached lane traps with: a PAGE of some lane before an ACCESS, at the lowest lane that meets it (R21, R100). -/
def TrapsFirst (l : List LaneFound) (c : Byte) (va : Dword) : Prop :=
  (c = cPAGE ∨ ∀ x ∈ l, x.2.2.1 ≠ .error cPAGE) ∧ ∃ x, l.find? (fun x => decide (x.2.2.1 = .error c)) = some x ∧ x.2.1 = va

/-- The lanes that a load has used: the active ones, of `vldff` cut short those below its cut (R101). -/
def lanesUsed (g : Dword) (cut : Option Nat) (j : Nat) : Bool := g.getLsbD j && cut.all (fun k => decide (j < k))

/-- The vector loads: destination, mask, width of a lane, ports that they read. -/
def vectorLoad : Instr → Option (Reg × PReg × Nat × List Reg)
  | .vld d _ g z _ => some (d, g, 8 * z.bytes, [])
  | .vldff d _ g z _ => some (d, g, 8 * z.bytes, [])
  | .vgather d _ b g t => some (d, g, t.width, [b])
  | _ => none

/-- The vector stores: source, ports that they read. -/
def vectorStore : Instr → Option (Reg × List Reg)
  | .vst b _ _ _ _ => some (b, [b])
  | .vscatter d _ b _ _ => some (d, [d, b])
  | _ => none

end Sys2Proof.Claims

/-! ### Vector arithmetic -/

/-- R51 to R54, R94, R95, R97, R136: an integer lane operation whose sources are ready completes: each active lane takes its result, every other
keeps its value, a poisoned source poisons the destination and an old poison stays while a lane is inactive; ports named as sources give up
their head packet, once; no flag changes. On an empty port it does not complete: the
context waits for it, with nothing else done. -/
def Obligations.IntegerLaneOperations : Prop :=
  ∀ i d rs g ty f, integerLanes i = some (d, rs, g, ty, f) → ∀ s : State,
    (∀ r rest p, rs = r :: rest → s.cx.portOf r = some p → p.fifo = [] → Waits i s (.port (r.toNat - 28))) ∧
    (∀ r x p, rs = [x, r] → (sourceOf s.cx x).isSome = true → s.cx.portOf r = some p → p.fifo = [] → Waits i s (.port (r.toNat - 28))) ∧
    ∀ l, sourcesOf s.cx rs = some l → ∃ t, PlainFrom i s (s.cx.popPorts rs) t [] [d] [] ∧
    HoldsV t.cx d ty.width (fun j => if (s.cx.p g).getLsbD j then f ty.width (l.map (fun x => lane ty.width x.1 j)) else lane ty.width (s.cx.v d) j)
      (l.any (fun x => x.2) || (s.cx.vp d && !(List.range (512 / ty.width)).all (s.cx.p g).getLsbD))

/-- R51, R57, R58, R95, R97 to R99, R106, R110: a floating-point lane operation completes likewise, under the settings in force, and the flags of its
active lanes are ORed into FPM. The arithmetic of each format is the model's. -/
def Obligations.FloatLaneOperations : Prop :=
  ∀ i d rs g w f, floatLanes i = some (d, rs, g, w, f) → ∀ (s : State) l, sourcesOf s.cx rs = some l → ∃ t,
    let r (j : Nat) := f s.fpEnv (l.map (fun x => lane w x.1 j))
    PlainFrom i s ((s.cx.popPorts rs).addFlags (raised (512 / w) (s.cx.p g) (fun j => (r j).2))) t [] [d] [] ∧
    HoldsV t.cx d w (fun j => if (s.cx.p g).getLsbD j then (r j).1 % 2 ^ w else lane w (s.cx.v d) j)
      (l.any (fun x => x.2) || (s.cx.vp d && !(List.range (512 / w)).all (s.cx.p g).getLsbD))

/-- R58, R95, R103: a compare whose sources are ready completes: the bits of active lanes take the condition, those of others stay, those from the
number of lanes on are 0; flags are ORed into FPM, and a poisoned source sets CHKINT[0]. -/
def Obligations.CompareResults : Prop :=
  ∀ i p a b g ty f, compares i = some (p, a, b, g, ty, f) → p ≠ 0 → ∀ (s : State) x y,
    sourceOf s.cx a = some x → sourceOf s.cx b = some y → ∃ t,
    let r (j : Nat) := f s.fpEnv (lane ty.width x.1 j) (lane ty.width y.1 j)
    PlainFrom i s (((s.cx.popPorts [a, b]).addFlags (raised (512 / ty.width) (s.cx.p g) (fun j => (r j).2))).poisonIf (x.2 || y.2))
      t [] [] [p] ∧
    ∀ j, j < 64 → (t.cx.p p).getLsbD j =
      (decide (j < 512 / ty.width) && if (s.cx.p g).getLsbD j then (r j).1 else (s.cx.p p).getLsbD j)

/-- R74, R95, R111: a reduction of integer lanes completes with the operation over the active lanes in V[d], zero-extended, or its identity if
no lane is active; no flag changes. One of floating-point lanes combines them by the tree over lane positions, and ORs the flags of its nodes. -/
def Obligations.ReductionResults : Prop :=
  (∀ i d a g ty f e, integerReductions i = some (d, a, g, ty, f, e) → ∀ (s : State) x, sourceOf s.cx a = some x → ∃ t,
    PlainFrom i s (s.cx.popPorts [a]) t [] [d] [] ∧
    (t.cx.portOf d = none →
      t.cx.v d = BitVec.ofNat 512 ((((List.range (512 / ty.width)).filter (s.cx.p g).getLsbD).map (lane ty.width x.1)).foldl f e) ∧
      t.cx.vp d = x.2)) ∧
  (∀ i d a g ty f e, floatReductions i = some (d, a, g, ty, f, e) → ∀ (s : State) x, sourceOf s.cx a = some x → ∃ t,
    let root := treeNode (f s.fpEnv) (fun j => if (s.cx.p g).getLsbD j then some (lane ty.width x.1 j) else none)
      (Nat.log2 (512 / ty.width)) 0
    PlainFrom i s ((s.cx.popPorts [a]).addFlags (root.elim 0 (fun r => r.2))) t [] [d] [] ∧
    (t.cx.portOf d = none → t.cx.v d = BitVec.ofNat 512 (root.elim e (fun r => r.1)) ∧ t.cx.vp d = x.2))

/-- R95, R104: the predicate instructions complete: pand, por, pxor and pnot bit by bit; pfirst leaves the lowest one bit and pbrk those below it;
pcnt sets the S[a] lowest bits, at most 64, and traps POISON on a poisoned count; ppop counts. No word of one decodes that names p0 as its destination. -/
def Obligations.PredicateResults : Prop :=
  ∀ s : State,
    (∀ d a b, d ≠ 0 → (∃ t, Plain (.pand d a b) s t [] [] [d] ∧ t.cx.p d = s.cx.p a &&& s.cx.p b) ∧
      (∃ t, Plain (.por d a b) s t [] [] [d] ∧ t.cx.p d = s.cx.p a ||| s.cx.p b) ∧
      (∃ t, Plain (.pxor d a b) s t [] [] [d] ∧ t.cx.p d = s.cx.p a ^^^ s.cx.p b)) ∧
    (∀ d a, d ≠ 0 → (∃ t, Plain (.pnot d a) s t [] [] [d] ∧ t.cx.p d = ~~~s.cx.p a) ∧
      (∃ t, Plain (.pfirst d a) s t [] [] [d] ∧ ∀ j, j < 64 → (t.cx.p d).getLsbD j = isLowest (s.cx.p a) j) ∧
      (∃ t, Plain (.pbrk d a) s t [] [] [d] ∧
        ∀ j, j < 64 → (t.cx.p d).getLsbD j = (List.range (j + 1)).all (fun k => !(s.cx.p a).getLsbD k))) ∧
    (∀ d a, d ≠ 0 → s.cx.sp a = false → ∃ t, Plain (.pcnt d a) s t [] [] [d] ∧
      ∀ j, j < 64 → (t.cx.p d).getLsbD j = decide (j < (s.cx.s a).toNat)) ∧
    (∀ d a, s.cx.sp a = true → TrapsPoison (.pcnt d a) s) ∧
    (∀ d a, ∃ t, Plain (.ppop d a) s t [d] [] [] ∧ Holds t.cx d (BitVec.ofNat 64 ((bits (s.cx.p a)).count true)) false) ∧
    (∀ a b, ∀ i ∈ [Instr.pand 0 a b, .por 0 a b, .pxor 0 a b, .pnot 0 a, .pfirst 0 a, .pbrk 0 a], decode (encode i) = none) ∧
    ∀ r, decode (encode (.pcnt 0 r)) = none

/-- R95, R97, R105: the instructions that move lanes complete with each lane where the spec puts it; a poisoned index, amount or operand of lane numbers traps POISON.
That `vins` takes the poison of S[a] where it writes no lane is the model's (log 26). -/
def Obligations.LaneMovementResults : Prop :=
  ∀ (s : State) d a b g (ty : ETy),
    let n := 512 / ty.width
    let m := s.cx.p g
    let keepP (p : Bool) := p || (s.cx.vp d && !(List.range n).all m.getLsbD)
    (∃ t, Plain (.vbcast d a g ty) s t [] [d] [] ∧
      HoldsV t.cx d ty.width (fun j => if m.getLsbD j then (s.cx.s a).toNat % 2 ^ ty.width else lane ty.width (s.cx.v d) j) (keepP (s.cx.sp a))) ∧
    (s.cx.sp b = false → ∃ t, Plain (.vins d a b g ty) s t [] [d] [] ∧
      HoldsV t.cx d ty.width (fun j => if j = (s.cx.s b).toNat ∧ m.getLsbD j = true then (s.cx.s a).toNat % 2 ^ ty.width
        else lane ty.width (s.cx.v d) j) (s.cx.sp a || s.cx.vp d)) ∧
    (∀ x y, sourceOf s.cx a = some x → sourceOf s.cx b = some y →
      (∃ t, PlainFrom (.vsel d a b g ty) s (s.cx.popPorts [a, b]) t [] [d] [] ∧
        HoldsV t.cx d ty.width (fun j => lane ty.width (if m.getLsbD j then x.1 else y.1) j) (x.2 || y.2)) ∧
      (y.2 = false → ∃ t, PlainFrom (.vperm d a b g ty) s (s.cx.popPorts [a, b]) t [] [d] [] ∧
        HoldsV t.cx d ty.width (fun j => if m.getLsbD j then lane ty.width x.1 (lane ty.width y.1 j % n) else lane ty.width (s.cx.v d) j)
          (keepP x.2))) ∧
    (∀ x, sourceOf s.cx a = some x →
      (s.cx.sp b = false → ∃ t, PlainFrom (.vext d a b ty) s (s.cx.popPorts [a]) t [d] [] [] ∧
        Holds t.cx d (let v := if (s.cx.s b).toNat < n then lane ty.width x.1 (s.cx.s b).toNat else 0
          if ty.isFloat then BitVec.ofNat 64 v else BitVec.ofInt 64 (signedLane ty.width v)) x.2) ∧
      (s.cx.sp b = false → ∃ t, PlainFrom (.vslide d a b g ty) s (s.cx.popPorts [a]) t [] [d] [] ∧
        HoldsV t.cx d ty.width (fun j => if m.getLsbD j then
            (let q : Int := j + (s.cx.s b).toInt
             if 0 ≤ q ∧ q < n then lane ty.width x.1 q.toNat else 0) else lane ty.width (s.cx.v d) j) (keepP x.2)) ∧
      (∃ t, PlainFrom (.vcompress d a g ty) s (s.cx.popPorts [a]) t [] [d] [] ∧
        HoldsV t.cx d ty.width (fun j => (((List.range n).filter m.getLsbD)[j]?.map (lane ty.width x.1)).getD 0) x.2)) ∧
    (s.cx.sp b = true → TrapsPoison (.vins d a b g ty) s) ∧
    (∀ x, sourceOf s.cx a = some x → s.cx.sp b = true → TrapsPoison (.vext d a b ty) s ∧ TrapsPoison (.vslide d a b g ty) s) ∧
    (∀ x y, sourceOf s.cx a = some x → sourceOf s.cx b = some y → y.2 = true → TrapsPoison (.vperm d a b g ty) s)

/-- R64, R65, R67, R106 to R109: the conversions that change the number of lanes complete with each converted lane in its place, in a pair of registers
where the spec says so; flags are ORed into FPM; of a reserved format each active lane takes the NaN of its destination, and NV is set; a poisoned S[b] traps POISON.
The conversion of one lane is the model's, and so is that the old poison of each register of a pair stays if any lane of the instruction is
inactive (log 26). -/
def Obligations.WideningAndNarrowingConversions : Prop :=
  ∀ (s : State) d a b g,
    let m := s.cx.p g
    (∀ u (e t : ETy) x, e.width = 2 * t.width → pairOk d a = true → sourceOf s.cx a = some x →
      let n := 512 / e.width
      let r (j : Nat) := cvtLane u e t s.fpEnv (lane t.width x.1 j)
      ∃ q, PlainFrom (.vcvtw d a u e g t) s ((s.cx.popPorts [a]).addFlags (raised (2 * n) m (fun j => (r j).2))) q [] [d, d + 1] [] ∧
        ∀ j, j < 2 * n → let h := half d n j
          s.cx.portOf h = none → q.cx.vp h = (x.2 || (s.cx.vp h && !(List.range (2 * n)).all m.getLsbD)) ∧
            lane e.width (q.cx.v h) (j % n) = if m.getLsbD j then (r j).1 % 2 ^ e.width else lane e.width (s.cx.v h) (j % n)) ∧
    (∀ u (e t : ETy) x y, t.width = 2 * e.width → sourceOf s.cx a = some x → sourceOf s.cx (a + 1) = some y →
      let n := 512 / t.width
      let r (j : Nat) := cvtLane u e t s.fpEnv (if j < n then lane t.width x.1 j else lane t.width y.1 (j - n))
      ∃ q, PlainFrom (.vcvtn d a u e g t) s ((s.cx.popPorts [a, a + 1]).addFlags (raised (2 * n) m (fun j => (r j).2))) q [] [d] [] ∧
        HoldsV q.cx d e.width (fun j => if m.getLsbD j then (r j).1 % 2 ^ e.width else lane e.width (s.cx.v d) j)
          (x.2 || y.2 || (s.cx.vp d && !(List.range (2 * n)).all m.getLsbD))) ∧
    (∀ x f, sourceOf s.cx a = some x → s.cx.sp b = false → B8.of ((s.cx.s b).extractLsb' 0 8).toNat = some f →
      let k := ((s.cx.s b).extractLsb' 8 2).toNat
      (let r (j : Nat) := cvtFromB8 f .f32 s.fpEnv (lane 8 x.1 (16 * k + j))
       ∃ q, PlainFrom (.vcvtq d a b g) s ((s.cx.popPorts [a]).addFlags (raised 16 m (fun j => (r j).2))) q [] [d] [] ∧
         HoldsV q.cx d 32 (fun j => if m.getLsbD j then (r j).1 % 2 ^ 32 else lane 32 (s.cx.v d) j)
           (x.2 || (s.cx.vp d && !(List.range 16).all m.getLsbD))) ∧
      (let r (j : Nat) := f.encode s.fpEnv (FFmt.f32.decode s.fpEnv.flush (lane 32 x.1 j))
       ∃ q, PlainFrom (.vcvte d a b g) s ((s.cx.popPorts [a]).addFlags (raised 16 m (fun j => (r j).2))) q [] [d] [] ∧
         HoldsV q.cx d 8 (fun j => if j / 16 = k ∧ m.getLsbD (j % 16) = true then (r (j % 16)).1 % 2 ^ 8 else lane 8 (s.cx.v d) j)
           (x.2 || s.cx.vp d))) ∧
    (∀ x, sourceOf s.cx a = some x → s.cx.sp b = false → B8.of ((s.cx.s b).extractLsb' 0 8).toNat = none →
      let k := ((s.cx.s b).extractLsb' 8 2).toNat
      let nv (n : Nat) (f : Nat → Bool) : FpFlags := if (List.range n).any f then fNV else 0
      (∃ q, PlainFrom (.vcvtq d a b g) s ((s.cx.popPorts [a]).addFlags (nv 16 m.getLsbD)) q [] [d] [] ∧
         HoldsV q.cx d 32 (fun j => if m.getLsbD j then 0x7FC0_0000 else lane 32 (s.cx.v d) j)
           (x.2 || (s.cx.vp d && !(List.range 16).all m.getLsbD))) ∧
      (∃ q, PlainFrom (.vcvte d a b g) s ((s.cx.popPorts [a]).addFlags (nv 16 m.getLsbD)) q [] [d] [] ∧
         HoldsV q.cx d 8 (fun j => if j / 16 = k ∧ m.getLsbD (j % 16) = true then 0x80 else lane 8 (s.cx.v d) j) (x.2 || s.cx.vp d))) ∧
    (∀ x, sourceOf s.cx a = some x → s.cx.sp b = true → TrapsPoison (.vcvtq d a b g) s ∧ TrapsPoison (.vcvte d a b g) s) ∧
    (∀ x, pairOk d a = true → sourceOf s.cx a = some x →
      ∃ q, PlainFrom (.vcbx d a g) s (s.cx.popPorts [a]) q [] [d, d + 1] [] ∧
        ∀ j, j < 128 → let h := half d 64 j
          s.cx.portOf h = none → q.cx.vp h = (x.2 || (s.cx.vp h && !(List.range 64).all m.getLsbD)) ∧
            lane 8 (q.cx.v h) (j % 64) =
              if m.getLsbD (j / 2) then codeVal s.cx.cr.cbtl s.cx.cr.cbth (lane 4 x.1 j) % 2 ^ 8 else lane 8 (s.cx.v h) (j % 64))

/-! ### Vector memory -/

/-- R95, R100 to R102, R112: a vector load or gather whose lanes pass their checks loads them; once the last has been loaded it completes: each active lane takes
what its access read, every other keeps its value; no other register changes, and memory is as the accesses left it. One that has stopped between two lanes
goes on with those that are left, without a check made again, and completes so, of `vldff` with the bits of P[g] from its cut on cleared. -/
def Obligations.VectorLoadsComplete : Prop :=
  ∀ (s : State),
    (s.cx.plan = none →
      (∀ d a g (z : Size) off ls u, (vectorEA s.cx a off).toNat % z.bytes = 0 →
        laneChecks (laneAddrs (64 / z.bytes) (s.cx.p g) (fun j => vectorEA s.cx a off + BitVec.ofNat 64 (j * z.bytes))) .load z.bytes s = (.ok ls, u) →
        s.cx.sp a = false →
        LoadsLanes (.vld d a g z off) s u (vectorEA s.cx a off) z.bytes none ls (fun r w t => From w t [] [d] [] ∧ LanesKeep ls s w ∧
          HoldsV t.cx d (8 * z.bytes) (fun j => if (s.cx.p g).getLsbD j then lane (8 * z.bytes) r.1 j else lane (8 * z.bytes) (s.cx.v d) j)
            (r.2 || (s.cx.vp d && !(List.range (64 / z.bytes)).all (s.cx.p g).getLsbD)))) ∧
      (∀ d a b g (ty : ETy) y ls u, sourceOf s.cx b = some y → (s.cx.s a).toNat % (ty.width / 8) = 0 →
        laneChecks (laneAddrs (64 / (ty.width / 8)) (s.cx.p g) (gatherAddr ty.width (s.cx.s a) y.1)) .load (ty.width / 8) s = (.ok ls, u) →
        s.cx.sp a = false → y.2 = false →
        LoadsLanes (.vgather d a b g ty) s u 1 (ty.width / 8) none ls (fun r w t => From (w.modCx (fun c => c.popPorts [b])) t [] [d] [] ∧
          LanesKeep ls s w ∧
          HoldsV t.cx d ty.width (fun j => if (s.cx.p g).getLsbD j then lane ty.width r.1 j else lane ty.width (s.cx.v d) j)
            (r.2 || (s.cx.vp d && !(List.range (512 / ty.width)).all (s.cx.p g).getLsbD))))) ∧
    (∀ i d g w pops p, vectorLoad i = some (d, g, w, pops) → s.cx.plan = some p → p.store = false → (∀ r ∈ pops, (sourceOf s.cx r).isSome = true) →
      ∃ t, exec i s = .next t ∧ LoadsOn s t p (fun r x => From (x.modCx (fun c => c.popPorts pops)) t [] [d] (if p.cut.isSome then [g] else []) ∧
        LanesKeep p.todo s x ∧
        HoldsV t.cx d w (fun j => if lanesUsed (s.cx.p g) p.cut j then lane w r.1 j else lane w (s.cx.v d) j)
          (r.2 || (s.cx.vp d && !(List.range (512 / w)).all (lanesUsed (s.cx.p g) p.cut))) ∧
        (g ≠ 0 → ∀ k, p.cut = some k →
          ∀ j, j < 64 → (t.cx.p g).getLsbD j = ((s.cx.p g).getLsbD j && (decide (j < k) || decide (512 / w ≤ j))))))

/-- R21, R100, R101: `vldff` translates the address of every active lane. With a lane of an uncached page it loads as `vld` and traps as `vld`; with none it
loads so if every lane passes; if lane k is the lowest that fails and some active lane stands below it, it loads the lanes below k and clears the bits
of P[g] from k to the number of lanes; a failing lowest active lane traps. That a lane whose leaf is uncached but forbids the load counts as uncached is the
model's (log 49). -/
def Obligations.FirstFaultLoads : Prop :=
  ∀ (s u : State) d a g (z : Size) off l,
    let ea := vectorEA s.cx a off
    let n := 64 / z.bytes
    let loaded (r : VReg × Bool) (w t : State) := From w t [] [d] [] ∧ LanesKeep (placesFound l) s w ∧ HoldsV t.cx d (8 * z.bytes)
      (fun j => if (s.cx.p g).getLsbD j then lane (8 * z.bytes) r.1 j else lane (8 * z.bytes) (s.cx.v d) j)
      (r.2 || (s.cx.vp d && !(List.range n).all (s.cx.p g).getLsbD))
    s.cx.plan = none → ea.toNat % z.bytes = 0 → g ≠ 0 →
    laneTranslations (laneAddrs n (s.cx.p g) (fun j => ea + BitVec.ofNat 64 (j * z.bytes))) z.bytes s = (.ok l, u) →
    ((∀ x ∈ l, ∃ p, x.2.2.1 = .ok p) → s.cx.sp a = false → LoadsLanes (.vldff d a g z off) s u ea z.bytes none (placesFound l) loaded) ∧
    ((∃ x ∈ l, x.2.2.2 = true) → ∀ c va, TrapsFirst l c va → TranslationTrap (.vldff d a g z off) s u c va) ∧
    ((∀ x ∈ l, x.2.2.2 = false) →
      (∀ x rest k va c q, l = x :: rest → (∃ p, x.2.2.1 = .ok p) →
        l.find? (fun x => match x.2.2.1 with | .error _ => true | .ok _ => false) = some (k, va, .error c, q) → s.cx.sp a = false →
        LoadsLanes (.vldff d a g z off) s u ea z.bytes (some k) ((placesFound l).filter (fun x => decide (x.1 < k))) (fun r w t => From w t [] [d] [g] ∧
          (∀ j, j < 64 → (t.cx.p g).getLsbD j = ((s.cx.p g).getLsbD j && (decide (j < k) || decide (n ≤ j)))) ∧
          (t.cx.portOf d = none → ∀ j, j < n → lane (8 * z.bytes) (t.cx.v d) j =
            if (s.cx.p g).getLsbD j ∧ j < k then lane (8 * z.bytes) r.1 j else lane (8 * z.bytes) (s.cx.v d) j))) ∧
      (∀ k va c q rest, l = (k, va, .error c, q) :: rest → TranslationTrap (.vldff d a g z off) s u c va))

/-- R95, R100, R102, R112, R154, R230: a vector store or scatter whose lanes pass their checks stores them: at a block's address as one
access, else each active lane in ascending order, with its lane's value and the source's poison, and in a firing with the undo copy of its block right before; once
the last is stored it completes; it changes no register where no lane lies in device space and no firing runs. One that has stopped between two lanes
goes on with those that are left, without a check made again. -/
def Obligations.VectorStoresComplete : Prop :=
  ∀ (s : State),
    (s.cx.plan = none →
      (∀ b a g (z : Size) off v ls u, sourceOf s.cx b = some v → (vectorEA s.cx a off).toNat % z.bytes = 0 →
        let addrs := laneAddrs (64 / z.bytes) (s.cx.p g) (fun j => vectorEA s.cx a off + BitVec.ofNat 64 (j * z.bytes))
        laneChecks addrs .store z.bytes s = (.ok ls, u) → (∀ x ∈ addrs, timedOk s.cx x.2 z.bytes = true) → s.cx.sp a = false →
        StoresLanes (.vst b a g z off) s u (vectorEA s.cx a off) (s.cx.p g) z.bytes v ls
          (fun x t => From (x.modCx (fun c => c.popPorts [b])) t [] [] [] ∧ (NoDevice ls → s.cx.firing = none → SameRegisters s.cx x.cx))) ∧
      (∀ d a b g (ty : ETy) v y ls u, sourceOf s.cx d = some v → sourceOf s.cx b = some y → (s.cx.s a).toNat % (ty.width / 8) = 0 →
        let n := ty.width / 8
        let addrs := laneAddrs (64 / n) (s.cx.p g) (gatherAddr ty.width (s.cx.s a) y.1)
        laneChecks addrs .store n s = (.ok ls, u) → (∀ x ∈ addrs, timedOk s.cx x.2 n = true) → s.cx.sp a = false → y.2 = false →
        StoresLanes (.vscatter d a b g ty) s u 1 0 n v ls (fun x t => From (x.modCx (fun c => c.popPorts [d, b])) t [] [] [] ∧
          (NoDevice ls → s.cx.firing = none → SameRegisters s.cx x.cx)))) ∧
    (∀ i b pops v p, vectorStore i = some (b, pops) → s.cx.plan = some p → p.store = true → sourceOf s.cx b = some v →
      (∀ r ∈ pops, (sourceOf s.cx r).isSome = true) →
      ∃ t, exec i s = .next t ∧ StoresOn s t p (fun x => From (x.modCx (fun c => c.popPorts pops)) t [] [] [] ∧
        (NoDevice p.todo → s.cx.firing = none → SameRegisters s.cx x.cx)))

namespace Sys2Proof.Claims
open Sys2Proof.Machine

/-! ### Tasks, messages, events -/

/-- The running context as it is with a packet in its send queue and the landing slot that it holds (R133, R177). -/
def queued (c : Context) (l : Nat) (tag : Byte) (reply : Bool) (p : Packet) : Context :=
  { c with sendq := c.sendq ++ [p], landing := vset c.landing l (some { tag := tag, reply := reply, answer := none }) }

/-- SendREQ has room: the send queue has fewer than 16 packets, for an event the in-flight table fewer than 64 entries, and `l` is the lowest
landing slot that is free (R133, R164, R177). -/
def Room (s : State) (event : Bool) (l : Nat) : Prop :=
  s.cx.sendq.length < 16 ∧ (event = true → s.co.flight.length < 64) ∧ l < 16 ∧ vget s.cx.landing l none = none ∧
  ∀ j, j < l → vget s.cx.landing j none ≠ none

/-- SendREQ has no room in `u`: the instruction waits, or traps SQFULL with the endpoint once it has stalled SQLIM cycles, this one counted (R177). -/
def StallsFull (i : Instr) (s u : State) (event : Bool) (ep : BitVec 40) : Prop :=
  (16 ≤ u.cx.sendq.length ∨ (event = true ∧ 64 ≤ u.co.flight.length) ∨ ∀ j, j < 16 → vget u.cx.landing j none ≠ none) →
  let cycles := match u.cx.wait with
    | none => 1
    | some w => if w.kind = .send event ep then u.cycle - w.since + 1 else 1
  (cycles < u.cx.cr.sqlim.toNat → exec i s = .next ((s.undone u).beginWait (.send event ep))) ∧
  (u.cx.cr.sqlim.toNat ≤ cycles → TrapsAfter i s u cSQFULL (BitVec.setWidth 64 ep))

/-- A packet of the running context on REQ, with the logical time that its taker's accesses follow (R136). -/
def reqPacket (s : State) (dst : BitVec 40) (b : Body) : Packet :=
  { net := .req, src := s.ownEp, dst := dst, rcb := s.cx.rgn, lt := s.cx.lt, body := b }

/-- A packet of the running context noted at its region, which is not done before it is answered: its endpoint, its landing slot and where it goes (R140). -/
def owing (s : State) (l : Nat) (dst : BitVec 40) : State :=
  s.modRegion s.cx.rgn (fun r => { r with unacked := r.unacked ++ [(s.ownEp, BitVec.ofNat 4 l, dst)] })

/-- A packet sent: it is noted, and `c` says what the context holds then. -/
def Sends (i : Instr) (s : State) (l : Nat) (dst : BitVec 40) (c : Context) : Prop :=
  ∃ t, exec i s = .next t ∧ From ((owing s l dst).modCx (fun _ => c)) t [] [] []

/-- Whether every copy tag of a context has no byte pending. -/
def tagsDone (c : Context) : Bool := c.tags.toList.all (fun t => t.pending == 0)

/-- What the end of a U context leaves (R126, R129, R153, R180, R182, R343): the slot free, or with a successor whose four arguments are in
s4 to s7, issuing where a position is free, or held for the copies that are pending; the end status collected; the send queue and the answers in the mesh. -/
def Ended (s t : State) (value : Dword) (pois : Bool) (succ : Option Task) : Prop :=
  let c := s.cx
  let d := t.getCtx s.cur
  let rcb := c.rgn
  (∀ a, t.mem.byte a = s.mem.byte a) ∧ (∀ j, j ≠ s.cur → t.getCtx j = s.getCtx j) ∧
  t.net = s.net ++ c.sendq ++ (s.callerReply s.cur value pois ++ s.staleReplies s.cur) ∧
  (tagsDone c = false → d.slot = .draining succ ∧ d.inc = c.inc ∧ d.firing = none) ∧
  (tagsDone c = true → succ = none → d.slot = .free ∧ d.inc = c.inc ∧ d.cr.region = 0 ∧ d.firing = none) ∧
  (tagsDone c = true → ∀ τ, succ = some τ → (s.getRegion? rcb).isSome = true →
    d.slot = (if ((s.collect s.cur).endCtx s.cur).held s.coreNum < 4 then .issuing else .parkedReady) ∧ d.inc = c.inc + 1 ∧ d.mode = .user ∧ d.pc = codeAddr τ.pc ∧ d.block 4 = τ.args ∧
    (∀ r, r ∉ [4, 5, 6, 7] → d.s r = 0) ∧ (∀ r, d.v r = 0 ∧ d.vp r = false ∧ d.sp r = false) ∧ d.cr.region = BitVec.ofNat 64 rcb) ∧
  (∀ r, s.getRegion? rcb = some r → (t.getRegion? rcb).map Region.status = some (r.status ||| c.cr.chkint.extractLsb' 0 2))

/-- A register block of four and a single register as destinations of a message (R175, R187, R189). -/
def HoldsMessage (c : Context) (d b : Reg) (m : Message) : Prop := c.block d = m.data ∧ c.blockP d = m.pois ∧ Holds c b m.hdr false

/-- The message a `reply` sends: the header's operation tag, the answer bit, its landing slot, and the source (R136). -/
def answerTo (s : State) (a b : Reg) : Message :=
  { hdr := header 0 ((s.cx.s a).extractLsb' 48 8) 1 false ((s.cx.s a).extractLsb' 40 4) s.ownEp,
    data := s.cx.block b, pois := s.cx.blockP b }

/-- The event that `esend` sends from a source, with the sender's logical time (R136, R146, R190). -/
def eventOf (s w : State) (d a b : Reg) (src : BitVec 48 × BitVec 32) : Event :=
  { time := s.cx.s a, hix := (s.cx.s d).extractLsb' 48 16, dst := (s.cx.s d).extractLsb' 0 48, cancel := false, src := src.1, serial := src.2,
    payload := s.cx.block b, poison := s.cx.blockP b != 0, lt := w.cx.lt }

/-- An event in the in-flight table and in the send queue for the core of its home; the society's first push is noted (R164, R177, R202). -/
def eventQueued (w : State) (h : Nat × Nat) (l : Nat) (e : Event) : State :=
  let soc := w.socOf w.cx.rgn
  let u := w.modCo (fun c => { c with
    nextFlight := w.co.nextFlight + 1
    flight := c.flight ++ [{ id := w.co.nextFlight, event := e, rcb := w.cx.rgn, soc := soc, src := w.ownEp, dst := corePt h.1 h.2,
                             rslot := some (BitVec.ofNat 4 l), acked := none, refused := none }] })
  let v : State := match kget u.socs soc with
    | none => u
    | some so => { u with socs := kset u.socs soc { so with pushed := some (so.pushed.getD (u.clock so.scope)) } }
  v.modCx (fun c => queued c l 0 false (reqPacket w (corePt h.1 h.2) (.event e (some (BitVec.ofNat 4 l)) w.co.nextFlight)))

/-- The registers of a block. -/
def blockRegs (d : Reg) : List Reg := [d, d + 1, d + 2, d + 3]

end Sys2Proof.Claims

/-! ### Tasks -/

/-- R124, R134, R152, R177 to R179: `spawn` puts a task at the young end of the core's deque; `callat` sends one to a core, asking for a reply, and without
room waits, or traps SQFULL once SQLIM is reached; each traps ALIGN at a pc that is no word address, TIMEDWR in a firing, `spawn` RESOURCE with a full deque,
and `callat` RESOURCE to a core that takes no work of the region. -/
def Obligations.SpawnAndCallatHandOverTasks : Prop :=
  ∀ (s : State) d a b,
    let rcb := s.cx.rgn
    let task : Task := { pc := s.cx.s a, args := s.cx.block b, lt := s.cx.lt }
    ((s.cx.s a).extractLsb' 0 2 = 0 → s.cx.firing = none → (s.getWork rcb s.coreNum).deque.length < 256 → s.cx.sp a = false → ∃ t,
      exec (.spawn a b) s = .next t ∧
      From ((s.modCx (fun c => c.poisonIf (c.blockP b != 0))).modWork rcb s.coreNum (fun w => { w with deque := task :: w.deque })) t [] [] [] ∧
      ((s.getRegion? rcb).isSome = true → (t.getWork rcb s.coreNum).deque = task :: (s.getWork rcb s.coreNum).deque)) ∧
    ((s.cx.s a).extractLsb' 0 2 ≠ 0 → Traps (.spawn a b) s cALIGN (s.cx.s a) ∧ Traps (.callat d a b) s cALIGN (s.cx.s a)) ∧
    ((s.cx.s a).extractLsb' 0 2 = 0 → s.cx.firing.isSome = true → Traps (.spawn a b) s cTIMEDWR 0 ∧ Traps (.callat d a b) s cTIMEDWR 0) ∧
    ((s.cx.s a).extractLsb' 0 2 = 0 → s.cx.firing = none → 256 ≤ (s.getWork rcb s.coreNum).deque.length → Traps (.spawn a b) s cRESOURCE 256) ∧
    (∀ l, let ep := (s.cx.s d).extractLsb' 0 40
      let tag := (s.cx.s d).extractLsb' 40 8
      (s.cx.s a).extractLsb' 0 2 = 0 → s.cx.firing = none → epPkg ep = s.pkgNum → s.takesWork rcb (epCore ep) = true →
      s.cx.sp d = false → s.cx.sp a = false → Room s false l →
      Sends (.callat d a b) s l (ep.extractLsb' 18 22 ++ 0#18) (queued (s.cx.poisonIf (s.cx.blockP b != 0)) l tag true
        (reqPacket s (ep.extractLsb' 18 22 ++ 0#18) (.task { pc := s.cx.s a, args := s.cx.block b } tag (BitVec.ofNat 4 l))))) ∧
    (let ep := (s.cx.s d).extractLsb' 0 40;
      (s.cx.s a).extractLsb' 0 2 = 0 → s.cx.firing = none → epPkg ep = s.pkgNum → s.takesWork rcb (epCore ep) = true →
      s.cx.sp d = false → s.cx.sp a = false → StallsFull (.callat d a b) s s false (ep.extractLsb' 18 22 ++ 0#18)) ∧
    (let ep := (s.cx.s d).extractLsb' 0 40;
      (s.cx.s a).extractLsb' 0 2 = 0 → s.cx.firing = none → (epPkg ep = s.pkgNum → s.takesWork rcb (epCore ep) = false) →
      Traps (.callat d a b) s cRESOURCE (BitVec.setWidth 64 ep))

/-- R126, R129, R153, R180, R182, R192, R343: `halt`, `halt.r`, `tret` and `fend` end a U context once its matrix and sum-product instructions have
retired; `fend` also marks its record DONE and puts its SUIT and KWIN in force. In a firing the first three trap ILL, outside one `fend` does; `halt.r`
traps ILL in the S context, then ALIGN at a pc that is no word address, then POISON. That the packets which an ending context still has in its send queue are
in the mesh at once is the model's (log 21). -/
def Obligations.TasksAndFiringsEnd : Prop :=
  (∀ (s : State) a, s.cx.firing = none →
    (s.cx.mode = .super → Traps (.haltR a) s cILL s.wordValue) ∧
    (s.cx.mode = .user → (s.cx.s a).extractLsb' 0 2 ≠ 0 → Traps (.haltR a) s cALIGN (s.cx.s a)) ∧
    (s.cx.mode = .user → (s.cx.s a).extractLsb' 0 2 = 0 → s.cx.sp a = true → TrapsPoison (.haltR a) s)) ∧
  ∀ s : State, s.cx.mode = .user → unitsQuiet s .fpm = true →
    (s.cx.firing = none → (∃ t, exec .halt s = .next t ∧ Ended s t 0 false none) ∧
      (∀ a, ∃ t, exec (.tret a) s = .next t ∧ Ended s t (s.cx.s a) (s.cx.sp a) none) ∧
      (∀ a, (s.cx.s a).extractLsb' 0 2 = 0 → s.cx.sp a = false → ∃ t,
        exec (.haltR a) s = .next t ∧ Ended s t 0 false (some { pc := s.cx.s a, args := s.cx.block 4 })) ∧
      Traps .fend s cILL s.wordValue) ∧
    (∀ f, s.cx.firing = some f → Traps .halt s cILL s.wordValue ∧ (∀ a, Traps (.haltR a) s cILL s.wordValue ∧ Traps (.tret a) s cILL s.wordValue) ∧
      ∃ t, exec .fend s = .next t ∧ Ended (s.endFiring f) t 0 false none ∧
        ((s.getRegion? s.cx.rgn).isSome = true →
          let w := (s.endFiring f).getWork s.cx.rgn s.coreNum
          w.suit = s.cx.cr.suit ∧ w.kwin = s.cx.cr.kwin ∧ w.lastHandler = some s.cx.start.pc ∧
          ∀ r ∈ w.records, r.addr = f.record → r.done = true))

/-- R180, R181: `halt` in the S context empties its inbox, unbinds its ports and parks it; `yield` gives way where four
contexts hold issuing positions and the dealer has work, and else only goes on; in a firing `yield` traps ILL. That the parked S context goes on behind
its halt once it is woken, and keeps the landing slots that it holds, is the model's (log 21). -/
def Obligations.YieldAndSupervisorHalt : Prop :=
  ∀ s : State,
    (s.cx.mode = .super → s.cx.firing = none → unitsQuiet s .fpm = true → ∃ t, exec .halt s = .next t ∧
      t.cx.slot = .parkedWaiting ∧ t.cx.inbox = [] ∧ t.cx.landing = s.cx.landing ∧ (∀ j, j < 4 → vget t.cx.ports j none = none) ∧ t.cx.pc = (s.cx.after s.lastWord).1 ∧ (∀ r, t.cx.s r = s.cx.s r ∧ t.cx.v r = s.cx.v r) ∧
      (∀ a, t.mem.byte a = s.mem.byte a) ∧ ∀ j, j ≠ s.cur → t.getCtx j = s.getCtx j) ∧
    (s.cx.firing = none → s.cx.mode = .super → ∃ t, Plain .yield s t [] [] []) ∧
    (s.cx.firing = none → s.cx.mode = .user → s.cx.slot = .issuing → ∃ t, exec .yield s = .next t ∧ s.OnlyContext t s.cur ∧ s.Retired s.cx t ∧
      s.cx.Keeps { t.cx with slot := s.cx.slot } [] [] [] ∧
      t.cx.slot = (if 4 ≤ s.held s.coreNum ∧ s.yieldWork s.cx.rgn s.coreNum = true then .parkedReady else .issuing)) ∧
    (s.cx.firing.isSome = true → Traps .yield s cILL s.wordValue)

/-! ### Messages -/

/-- R133 to R136, R140, R152, R177, R183, R185: `send` and `sendv` queue a packet on REQ and hold the lowest free landing slot, `reply` puts one on RPL for a
header that asks for it and else does nothing; in a firing each traps TIMEDWR. Without room `send` and `sendv` wait, and trap SQFULL once SQLIM is
reached. -/
def Obligations.MessagesAreSent : Prop :=
  ∀ (s : State) a b,
    (∀ l, s.cx.firing = none → s.cx.sp a = false → Room s false l →
      let tag := (s.cx.s a).extractLsb' 40 8
      let ep := (s.cx.s a).extractLsb' 0 40
      Sends (.send a b) s l ep (queued s.cx l tag ((s.cx.s a).getLsbD 48) (reqPacket s ep (.message
        { hdr := header 0 tag 0 ((s.cx.s a).getLsbD 48) (BitVec.ofNat 4 l) s.ownEp, data := s.cx.block b, pois := s.cx.blockP b }))) ∧
      (∀ v, sourceOf s.cx b = some v → Sends (.sendv a b) s l ep
        ((queued s.cx l tag false (reqPacket s ep (.vector tag (BitVec.ofNat 4 l) v.1 v.2))).popPort b))) ∧
    (s.cx.firing = none →
      ((s.cx.s a).extractLsb' 46 2 ≠ 0 ∨ (s.cx.s a).getLsbD 45 = false → ∃ t, Plain (.reply a b) s t [] [] []) ∧
      ((s.cx.s a).extractLsb' 46 2 = 0 → (s.cx.s a).getLsbD 45 = true → s.cx.sp a = false → ∃ t, exec (.reply a b) s = .next t ∧
        From (s.push [{ net := .rpl, src := s.ownEp, dst := (s.cx.s a).extractLsb' 0 40, rcb := s.cx.rgn, lt := s.cx.lt, body := .reply (answerTo s a b) }]) t [] [] [])) ∧
    (s.cx.firing.isSome = true → Traps (.send a b) s cTIMEDWR 0 ∧ Traps (.sendv a b) s cTIMEDWR 0 ∧ Traps (.reply a b) s cTIMEDWR 0) ∧
    (s.cx.firing = none → s.cx.sp a = false → let ep := (s.cx.s a).extractLsb' 0 40;
      StallsFull (.send a b) s s false ep ∧ (sourceOf s.cx b ≠ none → StallsFull (.sendv a b) s s false ep))

/-- R136, R175, R186 to R189: `bind` binds the port and unbinds another of the same tag, `unbind` gives the register back; `recv` takes the oldest message of
the inbox or waits for one; `wait` takes the answer that arrived first among those that its selector matches, completes with zeros when it
matches none held, and waits else; `poll` only counts. -/
def Obligations.MessagesAreReceived : Prop :=
  ∀ s : State,
    (∀ p a, s.cx.sp a = false → ∃ t c, PlainFrom (.bind p a) s c t [] [] [] ∧ { c with ports := s.cx.ports } = s.cx ∧
      ∀ j, j < 4 → vget c.ports j none =
        if j = p.toNat then some { tag := (s.cx.s a).extractLsb' 0 8, fifo := [] }
        else (vget s.cx.ports j none).bind (fun x => if x.tag = (s.cx.s a).extractLsb' 0 8 then none else some x)) ∧
    (∀ p, ∃ t, PlainFrom (.unbind p) s { s.cx with ports := vset s.cx.ports p.toNat none } t [] [] []) ∧
    (∀ d, ∃ t, Plain (.poll d) s t [d] [] [] ∧ Holds t.cx d (BitVec.ofNat 64
      (s.cx.portBits * 2 ^ 24 + s.cx.landingsHeld * 2 ^ 16 + s.cx.landingsReady * 2 ^ 8 + s.cx.inbox.length)) false) ∧
    (∀ d b, destBlockOk d b = true →
      (s.cx.inbox = [] → Waits (.recv d b) s .inbox) ∧
      (∀ m ms, s.cx.inbox = m :: ms → ∃ t,
        PlainFrom (.recv d b) s ({ s.cx with inbox := ms }.lifted m.lt) t (b :: blockRegs d) [] [] ∧ HoldsMessage t.cx d b m) ∧
      (∀ a, s.cx.sp a = false →
        (∀ i o m, firstAnswer (s.cx.matching (s.cx.s a)) = some (i, o, m) → ∃ t,
          PlainFrom (.wait d a b) s ({ s.cx with landing := vset s.cx.landing i none }.lifted m.lt) t (b :: blockRegs d) [] [] ∧ HoldsMessage t.cx d b m) ∧
        (s.cx.matching (s.cx.s a) = [] → ∃ t, Plain (.wait d a b) s t (b :: blockRegs d) [] [] ∧
          HoldsMessage t.cx d b { hdr := 0, data := 0, pois := 0 }) ∧
        (s.cx.matching (s.cx.s a) ≠ [] → (∀ x ∈ s.cx.matching (s.cx.s a), x.2.answer = none) →
          Waits (.wait d a b) s (.reply ((s.cx.s a).getLsbD 8) ((s.cx.s a).extractLsb' 0 8)))))

/-! ### Actors -/

/-- R136, R143, R144, R146, R154, R164, R167, R177, R190, R193, R194, R152: `esend` whose destination and source resolve queues one event for the
actor's home and enters it into the in-flight table, and without room waits or traps SQFULL. Outside a firing the event comes from the core, and its SERIAL
advances; in a firing it comes
from the firing's actor, a unit of it goes into the record first, and the actor's SERIAL advances. A time before KILN, in a firing one before LVT or
of the firing's own actor and no later than it, traps CAUSAL. That an event's landing slot has tag 0 is the model's (log 21). In a firing `defer` and `defer.n` append their unit and outside trap ILL; `kwait`
completes once KILN has passed, waits until then, and in a firing traps CAUSAL for a time that is not before LVT. -/
def Obligations.EventsAndDeferredActions : Prop :=
  ∀ s : State,
    (∀ d a b h u, let dst := (s.cx.s d).extractLsb' 0 48
      let time := s.cx.s a
      let i : Instr := .esend d a b
      resolveHome dst s = (.ok h, u) →
      (u.cx.firing = none → u.floorHolds time = false →
        let kiln := u.crRead u.cur .kiln
        let late := time.ult kiln || kiln == BitVec.allOnes 64
        (late = true → TrapsAfter i s u cCAUSAL time) ∧
        (late = false → s.cx.sp d = false → s.cx.sp a = false → ∀ l, Room u true l →
          ∃ t, exec i s = .next t ∧ From ((eventQueued u h l (eventOf s u d a b (u.taskSource, u.co.serial))).modCo
            (fun c => { c with serial := u.co.serial + 1 })) t [] [] []) ∧
        (late = false → s.cx.sp d = false → s.cx.sp a = false → StallsFull i s u true (corePt h.1 h.2))) ∧
      (∀ f, u.cx.firing = some f → (time.ult u.cx.cr.lvt = true → TrapsAfter i s u cCAUSAL time) ∧
        (time.ult u.cx.cr.lvt = false →
        let y := u.dealerLoad u.cx.rgn u.coreNum (f.desc + 0x1C) 4
        let serial := BitVec.ofNat 32 y.1.1
        let late := dst == f.event.dst && decide (eventKey time dst serial ≤ evKey f.event)
        y.2.faulted u.cx.rgn = u.faulted u.cx.rgn →
        (late = true → TrapsAfter i s y.2 cCAUSAL time) ∧
        (late = false → s.cx.sp d = false → s.cx.sp a = false → ∀ w, appendUnit (.sent time dst serial) y.2 = (.ok (), w) →
          StallsFull i s w true (corePt h.1 h.2) ∧ ∀ l, w.cx.firing = some f → Room w true l →
          let q := eventQueued w h l (eventOf s w d a b (f.event.dst, serial))
          let z := q.dealerStore q.cx.rgn q.coreNum (f.desc + 0x1C) 4 (serial + 1).toNat false
          z.faulted q.cx.rgn = q.faulted q.cx.rgn → ∃ t, exec i s = .next t ∧ From z t [] [] [])))) ∧
    (s.cx.firing.isSome = true →
      (∀ k a b w, (s.cx.s a).toNat % k.bytes = 0 → canonical (s.cx.s a) = true → s.cx.sp a = false →
        appendUnit (.write k (s.cx.s a) (BitVec.ofNat 64 ((s.cx.s b).toNat % 2 ^ (8 * k.bytes))) (s.cx.sp b)) s = (.ok (), w) → ∃ t,
        exec (.defer k a b) s = .next t ∧ From w t [] [] []) ∧
      (∀ a w, appendUnit (.notice (s.cx.s a)) s = (.ok (), w) → ∃ t,
        exec (.deferN a) s = .next t ∧ From (w.modCx (fun c => c.poisonIf (s.cx.sp a))) t [] [] [])) ∧
    (s.cx.firing = none → (∀ k a b, Traps (.defer k a b) s cILL s.wordValue) ∧ ∀ a, Traps (.deferN a) s cILL s.wordValue) ∧
    (∀ a, s.cx.firing.isSome = true → (s.cx.s a).ult s.cx.cr.lvt = false → Traps (.kwait a) s cCAUSAL (s.cx.s a)) ∧
    (∀ a, (s.cx.firing = none ∨ (s.cx.s a).ult s.cx.cr.lvt = true) → s.cx.sp a = false →
      let passed := (s.cx.s a).ult (s.crRead s.cur .kiln) || s.crRead s.cur .kiln == BitVec.allOnes 64
      (passed = true → ∃ t, PlainFrom (.kwait a) s (s.cx.lifted (s.readTime .kiln)) t [] [] []) ∧
      (passed = false → Waits (.kwait a) s (.kiln (s.cx.s a))))

/-- R144, R195, R196: `acre` whose checks pass writes the home and an empty NEWEST into the descriptor and the descriptor's address into a table
entry that was 0; `arehome` to the home that an actor already has, which it reads by its own loads, only goes on; one that moves it writes HCORE and tells
every core of the society, and completes once all have been told; in a firing it traps TIMEDWR after those loads, and an actor that the table does not name
traps DESC. What passes between packages for a move is the model's (log 44): a request to the package of the old home, and the word of the other packages that all is told. -/
def Obligations.ActorsAreCreatedAndMoved : Prop :=
  ∀ s : State,
    (∀ d a b p q w, acreChecks d a b s = (.ok (p, q), w) →
      let home := ((s.cx.s b).extractLsb' 0 14).toNat
      let x := (w.storeAt w.cur (p.plus 0x18) 8 (s.pkgNum % 256 * 2 ^ 24 + home) false).storeAt w.cur (p.plus 0x30) 8 0 false
      (x.entryNow q).1 = 0 → ∃ t, exec (.acre d a b) s = .next t ∧
        From ((x.entryNow q).2.storeAt w.cur q 8 (s.cx.s a).toNat false) t [] [] []) ∧
    (∀ a b desc u, let actor := (s.cx.s a).extractLsb' 0 48
      let new := ((s.cx.s b).extractLsb' 0 14).toNat
      s.cx.firing = none → s.cx.wait = none → descriptorOf actor s = (.ok desc, u) → s.qualifiesFor s.cx.rgn new = true →
      s.cx.sp a = false → s.cx.sp b = false → ∀ word w, loadAddr (BitVec.ofNat 64 (desc + 0x18)) 8 u = (.ok word, w) →
      (homeOfWord word.1 = (s.pkgNum, new) → ∃ t, exec (.arehome a b) s = .next t ∧ From w t [] [] []) ∧
      (homeOfWord word.1 ≠ (s.pkgNum, new) →
        let x := w.moveTo s.cx.rgn actor desc (homeOfWord word.1) new s.coreNum
        exec (.arehome a b) s = .next (if x.moveOpen (s.socOf s.cx.rgn) actor then x.beginWait (.rehome actor) else x.retire))) ∧
    (∀ a b f u, s.cx.wait = none → findDescriptor ((s.cx.s a).extractLsb' 0 48) s = (.ok f, u) →
      (∀ v, f = .error v → (s.cx.firing.isSome = true → TrapsAfter (.arehome a b) s u cTIMEDWR 0) ∧
        (s.cx.firing = none → TrapsAfter (.arehome a b) s u cDESC v)) ∧
      (∀ desc word w, f = .ok desc → s.cx.firing.isSome = true → loadAddr (BitVec.ofNat 64 (desc + 0x18)) 8 u = (.ok word, w) →
        TrapsAfter (.arehome a b) s w cTIMEDWR 0)) ∧
    (∀ a b x, s.cx.wait = some x → x.kind = .rehome ((s.cx.s a).extractLsb' 0 48) →
      s.moveOpen (s.socOf s.cx.rgn) ((s.cx.s a).extractLsb' 0 48) = false → ∃ t, Plain (.arehome a b) s t [] [] [])

/-! ### Barriers -/

/-- R137 to R139, R152, R197 to R201: an arrival with room counts for its core, ends the phase when all have come, and answers its phase; `bar.wait` completes
once the phase of the last arrival is over, and waits until then; `bar.cfg` answers 1 for a barrier in use, 2 for a record that is not valid, and
else installs it and answers 0; the first member of a chain forwards its own value, a later one the combination with its
predecessor's, and waits until that is there. That the first member of an f32 chain forwards and answers the low word, zero-extended, is the model's (log 46). -/
def Obligations.BarriersAndChains : Prop :=
  ∀ s : State, s.cx.firing = none →
    let rcb := s.cx.rgn
    (∀ d a, s.cx.sp a = false →
      let n := barrierOf (s.cx.s a)
      let br := s.barrier rcb n
      s.coreNum ∈ br.members →
      (kgetD br.arrived s.coreNum 0 < br.perCore → ∃ t, exec (.barArr d a) s = .next t ∧
        From ((s.modBarrier rcb n (fun b => b.arrive s.coreNum s.cx.lt)).modCx (fun c => { c with arrivals := kset c.arrivals n br.phase })) t [d] [] [] ∧
        Holds t.cx d (BitVec.setWidth 64 br.phase) false) ∧
      (br.perCore ≤ kgetD br.arrived s.coreNum 0 → Waits (.barArr d a) s (.room n))) ∧
    (∀ a, s.cx.sp a = false → let n := barrierOf (s.cx.s a)
      (kget s.cx.arrivals n = none → ∃ t, Plain (.barWait a) s t [] [] []) ∧
      (∀ ph, kget s.cx.arrivals n = some ph → (s.barrier rcb n).phase ≠ ph → ∃ t,
        PlainFrom (.barWait a) s (s.cx.lifted (s.barrier rcb n).phaseLt) t [] [] []) ∧
      (kget s.cx.arrivals n = some (s.barrier rcb n).phase → Waits (.barWait a) s (.phase n))) ∧
    (∀ d a b h ws bad w r, (s.cx.s b).extractLsb' 0 3 = 0 → loadBarRecord (s.cx.s b) s = (.ok (h, ws, bad), w) →
      s.cx.sp a = false → s.cx.sp b = false → s.getRegion? rcb = some r →
      let n := barrierOf (s.cx.s a)
      ((s.barrier rcb n).arrived ≠ [] → ∃ t, exec (.barCfg d a b) s = .next t ∧
        From (w.modCx (fun c => c.poisonIf bad)) t [d] [] [] ∧ Holds t.cx d 1 false) ∧
      ((s.barrier rcb n).arrived = [] → (bad || !s.barOk r h (h.members ws)) = true → ∃ t, exec (.barCfg d a b) s = .next t ∧
        From (w.modCx (fun c => c.poisonIf bad)) t [d] [] [] ∧ Holds t.cx d 2 false) ∧
      ((s.barrier rcb n).arrived = [] → (bad || !s.barOk r h (h.members ws)) = false → ∃ t, exec (.barCfg d a b) s = .next t ∧
        From (w.modBarrier rcb n (fun x => { x with members := h.members ws, perCore := h.c, op := h.op, ty := h.ty })) t [d] [] [] ∧
        Holds t.cx d 0 false)) ∧
    (∀ d a b, s.cx.sp b = false → s.cx.wait = none →
      let n := barrierOf (s.cx.s b)
      let br := s.barrier rcb n
      s.coreNum ∈ br.members → br.perCore = 1 → kgetD br.arrived s.coreNum 0 = 0 →
      let u := (s.modBarrier rcb n (fun b => b.arrive s.coreNum s.cx.lt)).modCx (fun c => { c with arrivals := kset c.arrivals n br.phase })
      let forward (u : State) (v : Dword) (p : Bool) (lt : Nat) := u.modBarrier rcb n (fun b =>
        match b.next s.coreNum with
        | none => b
        | some m => { b with partials := kset b.partials (partialKey m br.phase) (br.phase, v, p, lt) })
      ((∀ m ∈ br.members, s.coreNum ≤ m) → let v := if br.ty = 2 then (s.cx.s a) &&& 0xFFFF_FFFF else s.cx.s a
        ∃ t, exec (.chred d a b) s = .next t ∧ From (forward u v (s.cx.sp a) s.cx.lt) t [d] [] [] ∧ Holds t.cx d v (s.cx.sp a)) ∧
      ((∃ m ∈ br.members, m < s.coreNum) →
        (∀ ph x p lt, kget br.partials (partialKey s.coreNum br.phase) = some (ph, x, p, lt) →
          let v := chainOp br.ty br.op x (s.cx.s a)
          ∃ t, exec (.chred d a b) s = .next t ∧
            From ((forward (u.modBarrier rcb n (fun b => { b with partials := kdel b.partials (partialKey s.coreNum br.phase) })) v.1
              (p || s.cx.sp a) (max s.cx.lt lt)).modCx (fun c => (c.lifted lt).addFlags v.2)) t [d] [] [] ∧ Holds t.cx d v.1 (p || s.cx.sp a)) ∧
        (kget br.partials (partialKey s.coreNum br.phase) = none →
          exec (.chred d a b) s = .next (u.beginWait (.chain n d (s.cx.s a) (s.cx.sp a) br.phase (br.chainOf s.coreNum))))))

namespace Sys2Proof.Claims
open Sys2Proof.Machine

/-! ### Engines -/

/-- The tag of a command can count its bytes (R290). -/
def TagHas (c : Context) (t n : Nat) : Prop := (vget c.tags t Tag.reset).pending + n ≤ 2 ^ 40 - 1

/-- The scale tile of a pair, where it has one, is aligned (R262, R296). -/
def ScaleAligned (r : MatRecord) : Prop := ∀ p, r.sbase = some p → p.toNat % (if r.fmt = 0x21 then 32 else 16) = 0

/-- What `mma` reads once its checks have passed: the pairs, then their lines (R260 to R262, R296). -/
def MmaReads (s : State) (a b : Reg) (y x : Bool) (ra rb : MatRecord) (oa ob : BitVec 8192 × Option (BitVec 256) × Bool) (w : State) : Prop :=
  (s.cx.s a).toNat % 32 = 0 ∧ (s.cx.s b).toNat % 32 = 0 ∧ ra.base.toNat % 64 = 0 ∧ rb.base.toNat % 64 = 0 ∧
  ScaleAligned ra ∧ ScaleAligned rb ∧ ra.bad = false ∧ rb.bad = false ∧ matK ra.fmt = matK rb.fmt ∧
  (s.cx.sp a || s.cx.sp b || ra.pois || rb.pois) = false ∧
  let n := (pairAddrs (s.cx.s a) x).length
  ∃ ps u₀ u₁ u₂ u₃ u₄ u₅ la lb, placesT (pairAddrs (s.cx.s a) x ++ pairAddrs (s.cx.s b) y) .load 16 s = (.ok ps, u₀) ∧
    loadPair (ps.take n) u₀ = (.ok ra, u₁) ∧ loadPair (ps.drop n) u₁ = (.ok rb, u₂) ∧
    ra.places u₂ = (.ok la, u₃) ∧ rb.places u₃ = (.ok lb, u₄) ∧ ra.load la u₄ = (.ok oa, u₅) ∧ rb.load lb u₅ = (.ok ob, w)

/-- A member accepted by the matrix unit of the running core: it retires after those before it, 16 cycles after the unit takes it (R259, R413). -/
def accepted (s : State) (m : BitVec 7) (op : MatOp) : State :=
  s.modCo (fun c => { c with matq := c.matq ++ [
    { slot := s.slotNum, tile := m.toNat, op := op, due := (c.matq.getLast?.map (fun j => max j.due s.cycle)).getD s.cycle + 16 }] })

/-- An instruction accepted by the sum-product engine of the running core, its reads at one place in the single order (R282): what it computes is written when it
retires, 6 cycles later and as many more as its busiest banks cost, and the next tree unit takes the next (R279, R280, R303). -/
def spAccepted (s : State) (o : SpOperands) (sp down : Bool) : State :=
  let r := s.spRun o sp down
  let st := o.stall down
  (s.spGroup o.touched (r.1.map (fun x => x.1))).modCo (fun c => { c with
    spq := c.spq ++ [{
      slot := s.slotNum, unit := s.co.spTurn, writes := r.1, flags := r.2, stall := st, due := s.cycle + 6 + st }]
    spLast := kset (kset c.spLast c.spTurn s.cycle) spFree (s.cycle + 1 + st)
    spTurn := (c.spTurn + 1) % 4 })

/-- Bytes that lie wholly in the scratchpad of the running core (R208). -/
def InScratch (s : State) (va : Dword) (n : Nat) : Prop :=
  0xFF00_0000_0000_0000 ≤ va.toNat ∧ va.toNat - 0xFF00_0000_0000_0000 + n ≤ scratchBytes s.co

/-- One byte of the counting filter raised by one, at most to 255, by one atomic (R233, R323). -/
def Bumped (s : State) (va : Dword) (p : Place) (t : State) : Prop :=
  wordsFree s p 1 = true ∧ ∃ w, logStore va 1 s = (.ok (), w) ∧
    (let r := w.atomicRead w.cur p 1
     t = r.2.atomicWrite w.cur p 1 (min 255 (r.1.1 + 1)) false)

/-- The blocks that `mst` and `mstc` have to store once their checks have passed: 64 bytes each of a number that begins with the lowest, each with the tile's poison; and the
flags to come with the last of them (R298, R299). -/
def blocksLeft (x : Nat) (addr : Nat → Dword) (ps : List Place) (pois : Bool) (flags : FpFlags) : LanePlan :=
  { begun 64 (ps.zipIdx.map (fun y => (y.2, addr y.2, y.1))) true (BitVec.setWidth 512 flags, false) none with
    vals := ps.zipIdx.map (fun y => (y.2, x / 2 ^ (512 * y.2) % 2 ^ 512, pois)) }

/-- The elements that `cfapply` stores, each with its address and its place, which is writable (R322, R324). -/
def penaltyPlaces (va : Nat → Dword) (out : List (Nat × Nat × Bool)) : Exec (List (Nat × Dword × Place)) :=
  out.mapM (fun x => do return (x.1, (va x.1, ← translateT (va x.1) .store 4)))

/-- The stores that `cfapply` has still to make once it has made its loads. -/
def penaltyPlan (out : List (Nat × Nat × Bool)) (todo : List (Nat × Dword × Place)) : LanePlan :=
  { begun 4 todo true (0, false) none with vals := out, back := true }

end Sys2Proof.Claims

/-! ### `safe` -/

/-- R40, R348: `safe` only goes on where no yield is pending, where no record is free to save in, in supervisor mode and in a firing; with a
pending yield and a free record it saves the context behind it, once its commands are done, and waits for them until then. -/
def Obligations.SafePointsGoOnOrSave : Prop :=
  ∀ (xi : BitVec 16) (s : State), let rec_ := (s.getRegion? s.cx.rgn).bind Region.freeRecord
    (s.cx.yieldReq = none ∨ rec_ = none ∨ s.cx.mode = .super ∨ s.cx.timed = true → ∃ t, Plain (.safe xi) s t [] [] []) ∧
    (∀ y i, s.cx.yieldReq = some y → rec_ = some i → s.cx.mode = .user → s.cx.timed = false →
      (s.settled s.coreNum s.slotNum = false → Waits (.safe xi) s .commands) ∧
      (s.settled s.coreNum s.slotNum = true →
        let m := s.liveMap s.coreNum s.cx xi.toNat
        let t := m.2.retire
        exec (.safe xi) s = .next (t.saveCtx t.coreNum t.slotNum i (m.1.map (fun l => (xi.toNat, l))))))

/-! ### Copies, attention and tags -/

/-- R227, R248, R250, R252, R290, R291, R301: `dcopy` and `attn` whose records keep their rules put one command into the engine's queue, with the logical time
that its reads follow (one with acquire follows all that its issuer has accessed, another the issuer's last fence), count its bytes on the tag and go on; a `dcopy` record that is not on a 64-byte boundary, and an `attn` query, table or destination that is not, traps ALIGN. -/
def Obligations.CopiesAndAttentionAreIssued : Prop :=
  ∀ s : State,
    (∀ r a d t q l c lay u, let n := lay.1.count * lay.1.bytes
      (s.cx.s r).toNat % 64 = 0 → fetchLayout (s.cx.s r) s = (.ok lay, u) → lay.1.ok = true →
      (s.cx.s a).toNat % lay.1.bytes = 0 → (s.cx.s d).toNat % lay.1.bytes = 0 →
      (s.cx.timed = true → spanInScratch (lay.1.span (s.cx.s d)) = true) →
      (s.cx.sp r || s.cx.sp a || s.cx.sp d || lay.2) = false → u.quadCopies (u.coreNum / 4) < 32 → TagHas u.cx t.toNat n →
      ∃ v, exec (.dcopy r a d t q l c) s = .next v ∧
        From { u.modCx (fun y => y.tagIssue t.toNat n) with copies := u.copies ++ [(nextId u.copies, {
          core := u.coreNum, slot := u.slotNum, inc := s.cx.inc, rcb := s.cx.rgn, tag := t.toNat, lay := lay.1, src := s.cx.s a, dst := s.cx.s d, next := 0,
          wrote := [], acq := q, rel := l, scope := c, lt := u.cx.commandTime q, space := s.cx.space })] } v [] [] []) ∧
    (∀ r a d t q l c, (s.cx.s r).toNat % 64 ≠ 0 → Traps (.dcopy r a d t q l c) s cALIGN (s.cx.s r)) ∧
    (∀ q t d g acq rel c p₁ p₂ qd hd ex u₀ u₁ u₂ u, let tab : BlockTable := { hdr := hd.1, exts := ex.1 }
      let nq := qd.1 / 2 ^ 96 % 64 + 1
      let dim := headDim tab.dcode
      let bs := tab.attnBlocks (u.homeSlice s.cx.space)
      (s.cx.s q).toNat % 64 = 0 → (s.cx.s t).toNat % 64 = 0 → (s.cx.s d).toNat % 64 = 0 →
      placesT [s.cx.s q, s.cx.s t] .load 64 s = (.ok [p₁, p₂], u₀) → issueLoad p₁ 64 u₀ = (.ok qd, u₁) → issueLoad p₂ 64 u₁ = (.ok hd, u₂) →
      loadExtents (hd.1 / 2 ^ 256 % 128) (s.cx.s t + 64) u₂ = (.ok ex, u) → queryOk qd.1 = true → tab.ok = true → s.cx.timed = false →
      (s.cx.sp q || s.cx.sp t || s.cx.sp d || qd.2 || hd.2 || ex.2) = false → u.attnRoom bs = true → TagHas u.cx g.toNat (4 * dim * nq) →
      ∃ v, exec (.attn q t d g acq rel c) s = .next v ∧
        From { u.modCx (fun y => y.tagIssue g.toNat (4 * dim * nq)) with attns := u.attns ++ [(nextId u.attns, {
          core := u.coreNum, slot := u.slotNum, inc := s.cx.inc, rcb := s.cx.rgn, tag := g.toNat, qaddr := qd.1 % 2 ^ 64, nq := nq, dim := dim,
          fmt := BitVec.ofNat 8 tab.fmt, scale := qd.1 / 2 ^ 64 % 2 ^ 32, qpos := qd.1 / 2 ^ 128 % 2 ^ 64, win := qd.1 / 2 ^ 192 % 2 ^ 64,
          blocks := bs, query := none, dst := s.cx.s d, done := [], failed := none, pois := false, acq := acq, rel := rel, scope := c,
          lt := u.cx.commandTime acq, space := s.cx.space })] } v [] [] []) ∧
    (∀ q t d g acq rel c, ((s.cx.s q).toNat % 64 ≠ 0 → Traps (.attn q t d g acq rel c) s cALIGN (s.cx.s q)) ∧
      ((s.cx.s q).toNat % 64 = 0 → (s.cx.s t).toNat % 64 ≠ 0 → Traps (.attn q t d g acq rel c) s cALIGN (s.cx.s t)) ∧
      ((s.cx.s q).toNat % 64 = 0 → (s.cx.s t).toNat % 64 = 0 → (s.cx.s d).toNat % 64 ≠ 0 →
        Traps (.attn q t d g acq rel c) s cALIGN (s.cx.s d)))

/-- R249, R251, R255, R292 to R295: the waits complete once one, or every, tag of the mask has no byte pending, and wait until then; an error of
the mask traps TAGERR with the lowest such tag, a poisoned mask after that POISON; `dffr` names the lowest complete tag without an error;
`dtagst` answers the status word and, unless b is 0, sets the pending bytes; `rflush` drops the records of
a handle other than 0. -/
def Obligations.TagInstructionsComplete : Prop :=
  ∀ (s : State) (a : Reg),
    let m := (s.cx.s a) &&& 0xFFFF_FFFF
    let idle (i : Nat) : Bool := i < 32 && (vget s.cx.tags i Tag.reset).pending == 0
    let bad (i : Nat) : Bool := i < 32 && (vget s.cx.tags i Tag.reset).err
    let oneDone := m = 0 ∨ ∃ i, m.getLsbD i = true ∧ idle i = true
    let allDone := ∀ i, m.getLsbD i = true → idle i = true
    let clean := ∀ i, m.getLsbD i = true → bad i = false
    (oneDone → clean → s.cx.sp a = false → ∀ d, ∃ t v, Plain (.dwaitAny d a) s t [d] [] [] ∧ Holds t.cx d v false ∧
      ∀ i, v.getLsbD i = (m.getLsbD i && idle i)) ∧
    (¬ oneDone → ∀ d, Waits (.dwaitAny d a) s (.tagsAny m)) ∧
    (allDone → clean → s.cx.sp a = false → ∃ t, Plain (.dwaitAll a) s t [] [] []) ∧
    (¬ allDone → Waits (.dwaitAll a) s (.tagsAll m)) ∧
    (∀ i, m.getLsbD i = true → bad i = true → (∀ j, j < i → m.getLsbD j = true → bad j = false) →
      (oneDone → ∀ d, Traps (.dwaitAny d a) s cTAGERR (BitVec.ofNat 64 i)) ∧ (allDone → Traps (.dwaitAll a) s cTAGERR (BitVec.ofNat 64 i))) ∧
    (clean → s.cx.sp a = true → (oneDone → ∀ d, TrapsPoison (.dwaitAny d a) s) ∧ (allDone → TrapsPoison (.dwaitAll a) s)) ∧
    (s.cx.sp a = false → ∀ d, ∃ t v, Plain (.dffr d a) s t [d] [] [] ∧ Holds t.cx d v false ∧
      let free (i : Nat) : Bool := m.getLsbD i && idle i && !bad i
      (∀ i, free i = true → (∀ j, j < i → free j = false) → v.toNat = i) ∧ ((∀ i, free i = false) → v = 32)) ∧
    (s.cx.sp a = false → ∃ t, exec (.rflush a) s = .next t ∧ From { s with layouts := t.layouts } t [] [] [] ∧
      ∀ x, x ∈ t.layouts ↔ x ∈ s.layouts ∧ ((s.cx.s a).toNat % 2 ^ 32 = 0 ∨
        ¬ (x.2.1 = s.cx.cr.asid.toNat ∧ x.2.2.2.handle = (s.cx.s a).toNat % 2 ^ 32))) ∧
    (∀ d b, s.cx.sp a = false → (b ≠ 0 → s.cx.sp b = false) →
      let k := (s.cx.s a).toNat % 32
      let g := vget s.cx.tags k Tag.reset
      g.pending < 2 ^ 40 → ∃ t c, PlainFrom (.dtagst d a b) s c t [d] [] [] ∧ { c with tags := s.cx.tags } = s.cx ∧
        Holds t.cx d (BitVec.ofNat 64 (g.reason.toNat * 2 ^ 56 + (if g.err then 2 ^ 40 else 0) + g.pending)) false ∧
        (∀ j, j < 32 → vget c.tags j Tag.reset =
          if j = k ∧ b ≠ 0 then { g with pending := (s.cx.s b).toNat % 2 ^ 40 } else vget s.cx.tags j Tag.reset))

/-! ### Matrix unit -/

/-- R33, R205, R259 to R264, R296 to R300, R413: with its tile among the core's, `mzero`, `mld` and `mma` whose checks pass are accepted with what they read and go on;
`mst` and `mstc` wait while a member that writes the tile, or an earlier one of their context, has not retired, and then store its rows, or its elements converted, block by
block, with other contexts' accesses between them where they come, and complete with the last; `cbld`
loads the codebook; a tile that the partition does not give is ILL. -/
def Obligations.MatrixInstructionsComplete : Prop :=
  ∀ (s : State) (m : BitVec 7),
    (4 * partAcc s.co.part ≤ m.toNat → Traps (.mzero m) s cILL s.wordValue ∧ ∀ a b, Traps (.mld m a b) s cILL s.wordValue ∧
      (s.cx.plan = none → Traps (.mst m a b) s cILL s.wordValue ∧ Traps (.mstc m a b) s cILL s.wordValue) ∧
      ∀ y x, Traps (.mma m a b y x) s cILL s.wordValue) ∧
    (∀ a b p, s.cx.plan = some p → p.store = true → ∀ i, i = .mst m a b ∨ i = .mstc m a b → ∃ t, exec i s = .next t ∧
      StoresOn s t p (fun x => From (x.modCx (fun c => c.addFlags (BitVec.setWidth 8 p.acc))) t [] [] [])) ∧
    (m.toNat < 4 * partAcc s.co.part →
      (∃ t, exec (.mzero m) s = .next t ∧ From (accepted s m .zero) t [] [] []) ∧
      (∀ a b y x ra rb oa ob w, MmaReads s a b y x ra rb oa ob w → ∃ t, exec (.mma m a b y x) s = .next t ∧
        From (accepted w m (.mma (BitVec.ofNat 8 ra.fmt) (BitVec.ofNat 8 rb.fmt) oa.1 ob.1 oa.2.1 ob.2.1
          (s.cx.cr.cbth ++ s.cx.cr.cbtl) (oa.2.2 || ob.2.2))) t [] [] []) ∧
      (∀ a b ps u d w, rowPlaces a b .load s = (.ok ps, u) → loadLines ps u = (.ok d, w) →
        u.cx.sp a = false → (b ≠ 0 → u.cx.sp b = false) → ∃ t, exec (.mld m a b) s = .next t ∧
        From (accepted w m (.load (BitVec.ofNat 8192 d.1) d.2)) t [] [] []) ∧
      (s.cx.plan = none → ∀ a b, (∃ j ∈ s.co.matq, j.tile = m.toNat ∨ j.slot = s.slotNum) → Waits (.mst m a b) s (.tile m.toNat) ∧ Waits (.mstc m a b) s (.tile m.toNat)) ∧
      (s.cx.plan = none → (∀ j ∈ s.co.matq, j.tile ≠ m.toNat ∧ j.slot ≠ s.slotNum) →
        (∀ a b ps u, rowPlaces a b .store s = (.ok ps, u) → (∀ i, i < 16 → timedOk u.cx (rowAddr u.cx a b i) 64 = true) →
          u.cx.sp a = false → (b ≠ 0 → u.cx.sp b = false) →
          let g := u.co.tile m.toNat
          ∃ t, exec (.mst m a b) s = .next t ∧
            StoresOn u t (blocksLeft g.data.toNat (rowAddr u.cx a b) ps g.pois 0) (fun x => From x t [] [] [])) ∧
        (∀ a b ps u z, let f := (s.cx.s b).toNat % 256
          let addr (k : Nat) : Dword := s.cx.s a + BitVec.ofNat 64 (64 * k)
          storeBytes f = some z → (s.cx.s a).toNat % 64 = 0 →
          placesT ((rangeFrom 0 (4 * z)).map addr) .store 64 s = (.ok ps, u) →
          (∀ k, k < 4 * z → timedOk u.cx (addr k) 64 = true) → s.cx.sp a = false → s.cx.sp b = false →
          let g := u.co.tile m.toNat
          let rs := g.elems.map (storeCvt f u.fpEnv)
          ∃ t, exec (.mstc m a b) s = .next t ∧ StoresOn u t (blocksLeft (ofLanes (8 * z) (rs.map (fun x => x.1))) addr ps g.pois (orFlags rs))
            (fun x => From (x.modCx (fun c => c.addFlags (orFlags rs))) t [] [] [])))) ∧
    (∀ a p u, (s.cx.s a).toNat % 16 = 0 → Reaches s (s.cx.s a) .load 16 p u → s.cx.sp a = false → wordsFree u p 16 = true →
      let r := u.loadAt u.cur p 16
      ∃ t, exec (.cbld a) s = .next t ∧ From (r.2.modCx (fun c => ({ c with cr := { c.cr with
        cbtl := BitVec.ofNat 64 r.1.1, cbth := BitVec.ofNat 64 (r.1.1 / 2 ^ 64) } }).poisonIf r.1.2)) t [] [] [])

/-! ### Sum-product engine -/

/-- R270, R271, R276 to R280, R282, R284 to R288, R303: `spshape` puts a shape word that is a tree into the core's table and traps SHAPE for one that is not; `spup` and
`spdown` whose checks pass are accepted by the next tree unit when it may take one, no word they touch is one that an unretired instruction has still to write,
and, after a wait, the last retirement was in an earlier cycle; else they wait, at a leaf list that is still to be written before what it says is checked. -/
def Obligations.SumProductInstructionsComplete : Prop :=
  ∀ s : State,
    (∀ a k p u, (s.cx.s a).toNat % 8 = 0 → Reaches s (s.cx.s a) .load 8 p u → wordsFree u p 8 = true → kgetD u.co.spLast spFree 0 ≤ u.cycle →
      (∀ off, p = .scratch off → u.cx.wait.map Wait.kind = some .spDone → u.co.spDone < u.cycle) →
      let r := u.loadAt u.cur p 8
      (isTree (BitVec.ofNat 64 r.1.1) = true → s.cx.sp a = false → r.1.2 = false → ∃ t, exec (.spshape a k) s = .next t ∧
        From (r.2.modCo (fun c => { c with
          shapes := kset c.shapes k.toNat (BitVec.ofNat 64 r.1.1), spLast := kset c.spLast spFree (u.cycle + 1) })) t [] [] []) ∧
      (isTree (BitVec.ofNat 64 r.1.1) = false → TrapsAfter (.spshape a k) s r.2 cSHAPE (s.cx.s a))) ∧
    (∀ n l w k sp (down : Bool), (s.cx.s l).toNat % 8 = 0 → InScratch s (s.cx.s l) 8 → (w ≠ 0 → (s.cx.s w).toNat % 32 = 0 ∧ InScratch s (s.cx.s w) 32) →
      (let lo := (s.cx.s l).toNat - 0xFF00_0000_0000_0000; s.co.spOwned [lo, lo + 4] = true) →
      Waits (if down then .spdown n l w k sp else .spup n l w k sp) s (.spDep n l w k sp down)) ∧
    (∀ n l w k sp down o, spOperands n l w k sp down s = (.ok o, s) →
      let i : Instr := if down then .spdown n l w k sp else .spup n l w k sp
      let again := s.cx.wait.map Wait.kind = some (.spDep n l w k sp down)
      (s.co.spOwned o.touched = false → s.co.spAccepts s.cycle = true → (again → s.co.spDone < s.cycle) → ∃ t, exec i s = .next t ∧
        From (spAccepted s o sp down) t [] [] []) ∧
      (s.co.spOwned o.touched = true ∨ s.co.spAccepts s.cycle = false ∨ again ∧ s.cycle ≤ s.co.spDone → Waits i s (.spDep n l w k sp down)))

/-! ### Sampling -/

/-- R315 to R327: each member whose checks pass completes: `spivot` stores its threshold into the header and S[d], `sdraw` and `sverify` write
their result word and the counter after their draws, `cfinc` raises the token's two bytes of the filter, `cfapply` makes its loads, and then, going on when it issues
again, stores the penalised logits of the tokens that the filter counts in ascending address; it completes with the last of them. That the poison of a row goes with `spivot`'s PIVOT and with what `cfapply` stores, that of a filter line with the
latter, and that what a draw, an acceptance or the pivot finds with a NaN among the weights is a free value (Config.nanDraw), is the model's (log 31). -/
def Obligations.SamplingInstructionsComplete : Prop :=
  ∀ s : State,
    (∀ d a r u p w, sampRows [s.cx.s a] true (s.cx.sp a) s = (.ok r, u) → r.2.2 = some p → wordsFree u p 4 = true →
      logStore (s.cx.cr.sampctx + 0x30) 4 { u with fresh := u.fresh + 1 } = (.ok (), w) →
      let th := pivotOf (Config.nanDraw u.fresh 0) r.1 (rowValues (hdrV r.1) (s.cx.s a) r.2.1)
      ∃ t, exec (.spivot d a) s = .next t ∧ From (w.storeAt w.cur p 4 th (anyPois r.2.1)) t [d] [] [] ∧
        Holds t.cx d (BitVec.ofNat 64 th) (anyPois r.2.1)) ∧
    (∀ d a r u, sampRows [s.cx.s a] false (s.cx.sp a) s = (.ok r, u) →
      let x := drawToken (Config.nanDraw u.fresh) r.1 (rowValues (hdrV r.1) (s.cx.s a) r.2.1) s.cx.cr.rngk s.cx.cr.rngc
      ∃ t, exec (.sdraw d a) s = .next t ∧ From ({ u with fresh := u.fresh + 1 }.modCx (fun c => { c with cr := { c.cr with rngc := x.2 } })) t [d] [] [] ∧
        Holds t.cx d (BitVec.ofNat 64 x.1) (anyPois r.2.1)) ∧
    (∀ d a b r u, sampRows [s.cx.s b, s.cx.s (b + 1)] false (s.cx.sp b || s.cx.sp (b + 1)) s = (.ok r, u) →
      let x := verifyToken (Config.nanDraw u.fresh) r.1 (s.cx.s a).toNat (rowValues (hdrV r.1) (s.cx.s b) r.2.1) (rowValues (hdrV r.1) (s.cx.s (b + 1)) r.2.1)
        s.cx.cr.rngk s.cx.cr.rngc
      ∃ t, exec (.sverify d a b) s = .next t ∧ From ({ u with fresh := u.fresh + 1 }.modCx (fun c => { c with cr := { c.cr with rngc := x.2 } })) t [d] [] [] ∧
        Holds t.cx d (BitVec.ofNat 64 x.1) (anyPois r.2.1 || s.cx.sp a)) ∧
    (∀ a p₀ p₁ u₁ w₀ w₁, let token := (s.cx.s a).toNat % 2 ^ 32
      let v₀ := s.cx.cr.sampctx + BitVec.ofNat 64 (0x2000 + filter0 token)
      let v₁ := s.cx.cr.sampctx + BitVec.ofNat 64 (0x3000 + filter1 token)
      placesT [v₀, v₁] .atomic 1 s = (.ok [p₀, p₁], u₁) → timedOk u₁.cx v₀ 1 = true → timedOk u₁.cx v₁ 1 = true →
      s.cx.sp a = false → Bumped u₁ v₀ p₀ w₀ → Bumped w₀ v₁ p₁ w₁ → ∃ t, exec (.cfinc a) s = .next t ∧ From w₁ t [] [] []) ∧
    (s.cx.plan = none → ∀ a h ps fs ls todo u₁ u₂ u₃ u₄ u₅, let row := s.cx.s a
      let va (i : Nat) : Dword := row + BitVec.ofNat 64 (4 * i)
      sampHeader [row] false s = (.ok h, u₁) → linePlaces (sortedLines (rowLines (hdrV h.1) row)) .load u₁ = (.ok ps, u₂) →
      bytePlaces ((rangeFrom 0 (hdrPad h.1)).flatMap (fun i =>
        [s.cx.cr.sampctx.toNat + 0x2000 + filter0 i, s.cx.cr.sampctx.toNat + 0x3000 + filter1 i])) u₂ = (.ok fs, u₃) →
      readLines ((ps ++ fs).foldl (fun m x => kset m x.1 x.2) []) u₃ = (.ok ls, u₄) →
      let out := penalties h.1 s.cx.cr.sampctx row ls
      penaltyPlaces va out u₄ = (.ok todo, u₅) →
      (∀ x ∈ out, timedOk u₅.cx (va x.1) 4 = true) → s.cx.sp a = false → h.2.1 = false →
      (out = [] → ∃ t, exec (.cfapply a) s = .next t ∧ From u₅ t [] [] []) ∧
      (out ≠ [] → exec (.cfapply a) s = .next (u₅.beginWait (.lanes (penaltyPlan out todo))))) ∧
    (∀ a p, s.cx.plan = some p → p.store = true → ∃ t, exec (.cfapply a) s = .next t ∧ StoresOn s t p (fun x => From x t [] [] []))

namespace Sys2Proof.Claims
open Sys2Proof.Machine

/-! ### Steps of the hardware -/

/-- A step of the hardware takes `s` to `t`. -/
def Steps (i : Instr) (s t : State) : Prop := exec i s = .next t

/-- A packet is for this package and a core that is not sealed. -/
def ToOpenCore (s : State) (p : Packet) : Prop := epPkg p.dst = s.pkgNum ∧ (s.getCore (epCore p.dst)).sealed = none

/-- No full sink of the core that a REQ packet is for holds another one in the network (R132). -/
def Unblocked (s : State) (p : Packet) : Prop :=
  ∀ q, (s.getCore (epCore p.dst)).reqHeld = some q → q = p ∨ s.net.contains q = false

/-- A full sink holds a packet: its core's REQ input stops (R131, R132). -/
def holding (s : State) (p : Packet) : State := s.modCore (epCore p.dst) (fun c => { c with reqHeld := some p })

/-- A core's pause of stealing is over: local work has turned up, or its time has come (R130). -/
def unpausedCore (c : Core) : Core := { c with steal := { c.steal with paused := none } }

/-- The front core takes up packet `p` of queue `n`: it runs, the packet keeps its rules and is not skipped; `q` is the queue with what the front
core has read, in `u` (R365, R369, R374). -/
def TakesUp (s : State) (n : Nat) (p : Pkt) (q : Queue) (u : State) : Prop :=
  ∃ x l v, kget s.queues n = some x ∧ s.queueRuns x = true ∧ s.beginPacket x = .ok p l v ∧ l.skip = 0 ∧
    q = x.withLevel (v.fetchAhead x l).1 ∧ u = (v.fetchAhead x l).2.putQueue n q

/-- The queue packets by opcode (R368). -/
def IsPacket (n opc : Nat) (i : Instr) : Prop :=
  opc = 0 ∧ i = .nopPacket n ∨ opc = 1 ∧ i = .launch n ∨ opc = 2 ∧ i = .ib n ∨ opc = 3 ∧ i = .pred n ∨ opc = 4 ∧ i = .loopPacket n ∨
  opc = 5 ∧ i = .write n ∨ opc = 6 ∧ i = .signal n ∨ opc = 7 ∧ i = .waitPacket n ∨ opc = 8 ∧ i = .fencePacket n ∨
  opc = 9 ∧ i = .ffence n ∨ opc = 10 ∧ i = .promote n

/-- A line's entry in the directory of its plane. -/
def Entry (s : State) (line : Nat) (e : DirEntry) : Prop := s.recovering line = false ∧ kget s.dom.dir line = some e

end Sys2Proof.Claims

/-- R23, R93, R114 to R116, R121, R122, R160, R172, R348: the dealer's steps for contexts that run: after 4,096 cycles a `wfe` ends; a context that holds a
position too long is parked, and so is an S context with neither a trap nor work; a ready one is woken within 64 cycles; a waiting trap enters the S context once
it is free; a yield request reaches a context and stays pending; a firing is then squashed, and a task that waits as R115 has it or for the S context saved;
after 20,000 cycles it is saved anyhow; a region of higher priority has the core's contexts asked to yield, and co-resident regions stopped as a whole. -/
def Obligations.DealerStepsForRunningContexts : Prop :=
  ∀ (s : State) core slot, let k := ctxKey core slot
    let c := s.getCtx k
    (∀ w, c.wait = some w → w.kind = .latch → c.latch = false → w.since + 4096 ≤ s.cycle →
      Steps (.wfeTimeout core slot) s (s.modCtx k (fun c => { c with latch := true }))) ∧
    (s.mayPark core slot = true → Steps (.dealerPark core slot) s
      (s.modCtx k (fun c => { c with slot := if slot = 0 || c.wait.isSome || c.stoppedOut then .parkedWaiting else .parkedReady }))) ∧
    (slot = 0 → c.slot = .issuing → c.midway = false → c.plan = none → c.cr.sstat.getLsbD 16 = false → (s.getCore core).supWork = false → s.mayPark core slot = true) ∧
    (s.held core < 4 → s.lowestReady core = some slot → Steps (.dealerWake core slot) s
      ((s.modCore core unpausedCore).modCtx k (fun c => { c with slot := .waking (s.cycle + 64) }))) ∧
    (∀ d, c.slot = .waking d → d ≤ s.cycle → Steps (.wakeDone core slot) s
      (s.modCtx k (fun c => { c with slot := .issuing, held := s.cycle }))) ∧
    (∀ e, s.queuedTrap core = some slot → c.trapped = some e → Steps (.queuedTrapEntry core) s
      ((s.modCtx k (fun c => { c with trapped := none, inTrap := true })).enterS core slot e)) ∧
    (c.live = true → c.mode = .user → c.yieldReq = none → let t := s.modCtx k (fun c => { c with yieldReq := some s.cycle })
      (c.firing = none → c.wait = none → c.trapped = none → Steps (.yieldRequest core slot) s t) ∧
      (c.firing.isSome = true → Steps (.yieldRequest core slot) s (t.squash core slot))) ∧
    (c.live = true → c.mode = .user → c.yieldReq.isSome = true →
      (c.firing.isSome = true → (c.midway = false → Steps (.firingSquash core slot) s (s.squash core slot)) ∧
        Steps (.yieldRequest core slot) s (s.squash core slot)) ∧
      (c.firing = none → (∃ w, c.wait = some w ∧ w.kind.yields = true) ∨ c.trapped.isSome = true →
        Steps (.yieldRequest core slot) s (s.saveFull core slot)) ∧
      (∀ t, c.yieldReq = some t → t + 20000 ≤ s.cycle → Steps (.preemptTimeout core slot) s (s.saveFull core slot))) ∧
    Steps (.priorityYield core) s ((s.stopsWhole core).foldl (fun (t : State) x => x.2.cores.foldl (fun (t : State) n => t.requestYield x.1 n)
        (t.modRegion x.1 (fun r => { r with stoppedAll := true })))
      (if s.higherWork core then s.requestYield ((s.getCore core).serving.getD 0) core else s)) ∧
    (∀ q, s.sliceOver core = true → (s.getCore core).serving = some q → Steps (.timeSliceEnd core) s ((s.requestYield q core).modCore core (fun c =>
      { c with rr := q + 1, slice := s.cycle })))

/-- R121, R127, R128, R130, R150, R153, R174, R180, R354: what the dealer starts: a firing whose slot is free, else a saved context, of a co-resident region all of them
at once, else a task, oldest source first; a held slot is released when its tags are done; an idle core probes a victim, whose oldest task answers, and a pass without
a task ends in a pause of 1,024 cycles. The model's choices are: which region a core takes first that has none in force (log 49); that a pass without a task leaves the next
pass to the region with the next higher block address (`steal.rcb` one above the pass's, log 43); that a co-resident region is resumed in one step (log 49, 'Whole
resume'). -/
def Obligations.DealerStartsWork : Prop :=
  ∀ (s : State) core,
    (∀ q r k, s.startPlace core = some (q, r, k) → s.candidates q core = [] →
      (∀ t w, s.resumable q r core = none → (s.getWork q core).nextTask = some (t, w) → Steps (.taskStart core) s
        (((((s.modCore core unpausedCore).modWork q core (fun _ => w)).comeBack q).serve q core).startCtx q core k t.task t.caller)) ∧
      (∀ x, s.resumable q r core = some x → (∀ y ∈ s.regions, s.resumeFails y.2 = none) →
        let u := (s.modCore core unpausedCore).comeBack q
        Steps (.savedContextResume core) s (if r.colive = 0 then (u.serve q core).resumeIn q core k r x else u.resumeAll q r))) ∧
    (∀ y v, s.regions.find? (fun x => x.2.cores.contains core && (s.resumeFails x.2).isSome) = some y → s.resumeFails y.2 = some v →
      Steps (.savedContextResume core) s (s.endRegion y.1 v)) ∧
    (∀ q r e moved, (s.getCore core).shut = false → s.pick core = some q → let u := s.modCore core unpausedCore
      u.getRegion? q = some r → u.choose q core = some (e, moved) →
      ((u.handlerOf q core e).1.2 ≤ e.hix.toNat → Steps (.firingStart core) s (u.fire q core none e false)) ∧
      (∀ k, e.hix.toNat < (u.handlerOf q core e).1.2 → u.held core < 4 → u.lowestReady core = none →
        u.freeSlot q r core = some k → Steps (.firingStart core) s (u.fire q core (some k) e moved))) ∧
    (∀ slot succ, (s.getCtx (ctxKey core slot)).slot = .draining succ → tagsDone (s.getCtx (ctxKey core slot)) = true →
      Steps (.tagHoldRelease core slot) s (match succ with
        | some t =>
          let u := s.startCtx ((s.getCore core).serving.getD 0) core slot t none
          if s.held core < 4 then u else u.modCtx (ctxKey core slot) (fun c => { c with slot := .parkedReady })
        | none => ((s.modCtx (ctxKey core slot) (fun c => { c with slot := .free, cr := { c.cr with region := 0 } })).emptyShapes core).afterEnd core)) ∧
    (∀ q r, s.mayProbe core = some (q, r) → let co := s.getCore core
      let i := if co.steal.rcb = q then co.steal.index else 0
      let o := (i + r.seed % (r.cores.length - 1)) % (r.cores.length - 1) + 1
      let v := r.cores.getD ((r.cores.findIdx (· == core) + o) % r.cores.length) 0
      Steps (.stealProbe core) s ((s.setCore core { co with steal := { rcb := q, index := i, asked := true, paused := none } }).push
        [{ net := .req, src := s.coreEp core, dst := s.coreEp v, rcb := q, body := .probe }])) ∧
    (∀ p, Unblocked s p → let d := (s.getWork p.rcb (epCore p.dst)).deque
      Steps (.stealProbeReceive p) s (({ s with net := s.net.erase p }.modWork p.rcb (epCore p.dst) (fun w =>
        { w with deque := w.deque.dropLast })).push
          [{ net := .rpl, src := p.dst, dst := p.src, rcb := p.rcb, body := .probeAnswer d.getLast? }])) ∧
    (∀ p, epCore p.dst = core → (s.getCore core).sealed = none → let u : State := { s with net := s.net.erase p }
      let co := s.getCore core
      (∀ t, p.body = .probeAnswer (some t) → Steps (.stealProbeAnswer p) s ((u.setCore core { co with
        steal := { rcb := p.rcb, index := 0, asked := false, paused := none } }).modWork p.rcb core (fun w =>
          { w with stolen := w.stolen ++ [t] }))) ∧
      (∀ r, p.body = .probeAnswer none → s.getRegion? p.rcb = some r → r.cores.length ≤ co.steal.index + 2 →
        Steps (.stealProbeAnswer p) s (u.setCore core { co with
          steal := { rcb := p.rcb + 1, index := 0, asked := false, paused := some (s.cycle + 1024) } }))) ∧
    (∀ t, (s.getCore core).steal.paused = some t → t ≤ s.cycle ∨ s.pick core ≠ none → Steps (.stealPauseExpiry core) s (s.modCore core unpausedCore))

/-- R125, R132 to R136, R177, R179, R184, R185, R201, R221, R337: a packet lands where there is room, with its acknowledgement; where there is none it
stays in the network and stops its core's REQ input, so that other REQ packets for the core wait; one for a context that has gone is answered STALE,
one for a sealed core SEALED; answers fill the landing slot that waits; a stalled send traps SQFULL at SQLIM; logical time advances once every 16
cycles. -/
def Obligations.PacketsLand : Prop :=
  ∀ (s : State) (p : Packet), let k := ctxKey (epCore p.dst) (epSlot p.dst)
    let c := s.getCtx k
    (∀ m, p.body = .message m → epPkg p.dst = s.pkgNum → ¬ Unblocked s p → Steps (.messageArrival p) s s) ∧
    (∀ m, p.body = .message m → ToOpenCore s p → Unblocked s p → (c.live && c.inc == epInc p.dst) = true →
      (16 ≤ c.inbox.length → Steps (.messageArrival p) s (holding s p)) ∧
      (c.inbox.length < 16 → let t := (s.takeOff p).modCtx k (fun c => { c with inbox := c.inbox ++ [{ m with lt := p.lt }], latch := true })
        Steps (.messageArrival p) s (if m.hdr.getLsbD 45 then t else t.push [ackOf p (m.hdr.extractLsb' 40 4)]))) ∧
    (∀ m, p.body = .message m → ToOpenCore s p → Unblocked s p → (c.live && c.inc == epInc p.dst) = false →
      Steps (.messageArrival p) s ((s.takeOff p).push (errorFor 1 p))) ∧
    (∀ m, p.body = .message m → epPkg p.dst = s.pkgNum → Unblocked s p → (s.getCore (epCore p.dst)).sealed.isSome = true →
      Steps (.messageArrival p) s ((s.takeOff p).push ((errorFor 2 p).map (fun q => { q with lt := s.agentTime (epCore p.dst) })))) ∧
    (∀ tag rs v b i q, p.body = .vector tag rs v b → ToOpenCore s p → Unblocked s p → (c.live && c.inc == epInc p.dst) = true →
      c.portWith tag = some (i, q) → (4 ≤ q.fifo.length → Steps (.portPacketArrival p) s (holding s p)) ∧ (q.fifo.length < 4 → Steps (.portPacketArrival p) s
        (((s.takeOff p).modCtx k (fun c => { c with
          ports := vset c.ports i (some { q with fifo := q.fifo ++ [(v, b, p.lt)] }), latch := true })).push [ackOf p rs]))) ∧
    (∀ t tag rs, p.body = .task t tag rs → ToOpenCore s p → Unblocked s p →
      (64 ≤ s.taskQueue (epCore p.dst) → Steps (.callatTaskArrival p) s (holding s p)) ∧
      (s.taskQueue (epCore p.dst) < 64 → Steps (.callatTaskArrival p) s ((s.takeOff p).modWork p.rcb (epCore p.dst) (fun w => { w with
        taskq := w.taskq ++ [{ task := { t with lt := p.lt }, caller := some { ep := p.src, tag := tag, rslot := rs } }] })))) ∧
    (ToOpenCore s p → (c.live && c.inc == epInc p.dst) = true →
      (∀ m b i, p.body = (if b then .reply m else .error m none) → i = (if b then Instr.replyArrival p else .errorReply p) →
        let t := (s.takeOff p).modCtx k (fun c => c.answer { m with lt := p.lt } b)
        Steps i s (if (t.getCtx k).awaits (answerSlot m) then t else t.answered p.dst (answerSlot m))) ∧
      (∀ rs, p.body = .ack rs → Steps (.ackArrival p) s
        (((s.takeOff p).modCtx k (fun c => { c with landing := vset c.landing rs.toNat none })).answered p.dst rs))) ∧
    (∀ core slot, let k := ctxKey core slot
      let c := s.getCtx k
      (∀ q qs, c.sendq = q :: qs → Steps (.sendQueueDrain core slot) s ((s.modCtx k (fun c => { c with sendq := qs })).push [q])) ∧
      (∀ w ep, c.live = true → c.inTrap = false → c.trapped = none → s.unitsOwed core slot = false → s.stallOver c core = some (w, ep) →
        Steps (.sendStallTimeout core slot) s (s.takeTrap k cSQFULL (BitVec.setWidth 64 ep) w.grp.first (pfxOf w.grp))) ∧
      (∀ w n d own b ph ch t, c.wait = some w → w.kind = .chain n d own b ph ch → s.waitReady k w = true →
        chainTake n d own b ph ch { s with cur := k, grp := w.grp } = (.ok (), t) → Steps (.chredPartialArrival core slot) s t)) ∧
    (let n := (s.cycle - s.ltCycle) / 16
     Steps .ltTick s { s with ltCycle := s.ltCycle + 16 * n, ctxs := s.ctxs.map (fun x => (x.1, if x.2.live then { x.2 with lt := x.2.lt + n } else x.2)) })

/-- R140, R149, R159, R161, R164 to R168, R191, R196, R202, R337, R339, R343, R344, R372: events are filed at their actor's home, a sweep starts,
samples every core's floor, and publishes the least of the samples, which reaches each core in a step of its own; a region whose work is done is reported with what its contexts' CHKINT bits say,
and one that is stopped is asked to yield. That a region which ends with a fault is cleared before it is reported is the model's (log 22); so are, for a scope
wider than the package, the least floor that the rest of it delivers, which a sweep awaits, and when another package's first push was (log 35). -/
def Obligations.EventsSweepsAndRegions : Prop :=
  ∀ s : State,
    (∀ (p : Packet) e rs id u, p.body = .event e rs id → ToOpenCore s p → Unblocked s p →
      let core := epCore p.dst
      let q := s.hostRegion p.rcb core
      (s.takeOff p).homeNow q core e.dst.toNat = ((s.pkgNum, core), u) →
        let v := if epPkg p.src = s.pkgNum then u else u.pushedElsewhere (s.socOf q)
        (e.cancel = false → Steps (.eventArrival p) s ((v.arriveEvent q core e).push [eventAckOf p rs id])) ∧
        (e.cancel = true → Steps (.cancelArrival p) s ((v.arriveCancel q core e).push [eventAckOf p rs id]))) ∧
    (∀ (p : Packet) e rs id u pkg home, p.body = .event e rs id → ToOpenCore s p → Unblocked s p →
      (s.takeOff p).homeNow (s.hostRegion p.rcb (epCore p.dst)) (epCore p.dst) e.dst.toNat = ((pkg, home), u) →
      (pkg, home) ≠ (s.pkgNum, epCore p.dst) →
      Steps (if e.cancel then .cancelArrival p else .eventArrival p) s (u.push [{ p with dst := corePt pkg home }])) ∧
    (∀ (p : Packet) id, p.body = .eventAck none id → epPkg p.dst = s.pkgNum → Steps (.inFlightAck p) s
      ((s.takeOff p).modCore (epCore p.dst) (fun co => co.modFlight id (fun f =>
        { f with acked := some (s.clock (((kget s.socs f.soc).map Society.scope).getD .package)), refused := none })))) ∧
    (∀ (p : Packet) a, p.body = .homeInvalidate a → (∀ f ∈ (s.getCore (epCore p.dst)).flight, f.event.dst = a → f.refused = none) →
      Steps (.homeCacheInvalidate p) s ((s.takeOff p).modCore (epCore p.dst) (fun c =>
        { c with homes := kdel c.homes (homeKey (s.socOf p.rcb) a.toNat) }))) ∧
    (∀ core id f t, (s.getCore core).flight.find? (fun f => f.id == id) = some f → f.refused = some t → t + 4096 ≤ s.cycle →
      let h := s.homeNow (s.hostRegion f.rcb core) core f.event.dst.toNat
      Steps (.sealedEventResend core id) s ((h.2.modCore core (fun co => co.modFlight f.id (fun x => { x with
          src := s.coreEp core, dst := corePt h.1.1 h.1.2, rslot := none, refused := none }))).push
        [{ net := .req, src := s.coreEp core, dst := corePt h.1.1 h.1.2, rcb := f.rcb, lt := f.event.lt, body := .event f.event none f.id }])) ∧
    (∀ soc so, kget s.socs soc = some so →
      (so.sweep = none → so.next ≤ s.clock so.scope → let open_ := match so.pushed with | none => false | some t => decide (t < so.next)
        Steps (.sweepStart soc) s { s with socs := kset s.socs soc { so with
        sweep := some { scope := so.scope, start := so.next, publishes := open_, holds := open_, lost := false, samples := [] }
        next := (s.clock so.scope / sweepPeriod so.scope + 1) * sweepPeriod so.scope, other := none } }) ∧
      (∀ w core, so.sweep = some w → core ∈ s.sampleCores soc → kget w.samples core = none →
        w.start + sweepDelay w.scope ≤ s.clock w.scope → Steps (.sweepSample soc core) s
        ({ s with socs := kset s.socs soc { so with
            sweep := some { w with samples := kset w.samples core (s.localFloor soc core w.start) } } }.modCore core (fun c =>
          { c with flight := c.flight.filter (fun f =>
              !(f.soc == soc && (match f.acked with | none => false | some t => decide (t < w.start)))) }))) ∧
      (∀ w, so.sweep = some w → w.start + sweepPublish w.scope ≤ s.clock w.scope →
        (w.publishes = true → (∀ c ∈ s.sampleCores soc, (kget w.samples c).isSome = true) → s.awaitsOthers so = false →
          let m := leastTime (w.samples.map (fun x => x.2.toNat) ++ (so.other.map BitVec.toNat).toList)
          let kiln := if so.kiln.ult m then m else so.kiln
          Steps (.kilnPublish soc) s { s with socs := kset s.socs soc { so with
            sweep := none, kiln := kiln, arriving := so.arriving ++ (s.coresOf soc).map (fun c => (c, kiln)) } }) ∧
        (w.publishes = false → Steps (.unpublishedSweepInstant soc) s
          { s with socs := kset s.socs soc { so with sweep := none } })) ∧
      (∀ core kiln, so.arriving.find? (fun x => x.1 == core) = some (core, kiln) → s.kilnArrives soc core =
        { s with socs := kset s.socs soc { so with arriving := so.arriving.erase (core, kiln) } }.kilnAt soc kiln core)) ∧
    (∀ rcb r, s.getRegion? rcb = some r → r.running = true → (∀ e ∈ s.early, e.rcb = rcb → s.heldUp e.line true = false) →
      (r.fault = none → s.quietRegion rcb r = true → Steps (.regionDoneReport rcb) s (s.finishRegion rcb r
        (if r.status = 0 then none else if r.status.getLsbD 0 then some 0x0F else some 0x11))) ∧
      (∀ f, r.fault = some f → r.stopping = true → s.tasksSettled rcb = true → let t := s.clearRegion rcb
        Steps (.regionDoneReport rcb) s (if t.drainingIn rcb then t else t.finishRegion rcb r (some f))) ∧
      Steps (.regionStop rcb) s (r.cores.foldl (fun (t : State) c => t.requestYield rcb c)
        (s.modRegion rcb (fun r => { r with fault := some (r.fault.getD 0x12) }))))

/-- R69, R70, R227, R231, R248 to R254, R256, R259, R265 to R269, R276, R279 to R281, R301, R303, R312, R334, R335, R338, R356, R357, R409, R413:
the engines' steps: a copy moves its next piece and counts its bytes off its tag, or fails with its reason; a computed block joins its command and a
ready result is written line by line; the oldest matrix member leaves its tile with every element rounded after the exact sum of its products; the
sum-product engine writes its words at retirement and accepts later; the wedging engine takes a request from stage to stage and answers it; errors go where
they occur; the debugger reads and writes a context's image. The model's are: when a write without release takes its place (a free choice, log 11); that a
copy's source is translated before its destination (log 27); that the blocks of an attention command are read one after another and all its result lines checked
before one is written (log 28); the stages of a promotion, and that a stage in which an access fails leaves everything as it was but its LOCK and ends the request
with BADTABLE (log 32); that a second mismatch of the checker counts a retry and seals (log 42). -/
def Obligations.EnginesGoOn : Prop :=
  ∀ s : State,
    (∀ id (c : CopyCmd), kget s.copies id = some c →
      let from_ := s.enginePlace c.lt c.core c.space ((c.from_ c.next) &&& ~~~63) .load
      let fail (t : State) (x : Byte) : State := ({ t with copies := kdel t.copies id }.commandOver (ctxKey c.core c.slot) (2 * id)).tagAbandoned
        c.core c.slot c.tag ((c.lay.count - c.next) * c.lay.bytes) x
      (∀ x, from_.1 = .error x → Steps (.copyPiece id) s (fail from_.2 x)) ∧
      (∀ a, from_.1 = .ok a →
        let to_ := from_.2.enginePlace c.lt c.core c.space ((c.to_ c.next) &&& ~~~63) .store
        (∀ x, to_.1 = .error x → Steps (.copyPiece id) s (fail to_.2 x)) ∧
        (∀ b, to_.1 = .ok b → to_.2.stalls a false = false → to_.2.stalls b true = false →
          let x := to_.2.blockAt c.core { c.order id with acq := c.acq || c.rereads a } a
          let w := x.2.putBlock c.core (c.order id) b c.mask (c.moved (a.sameBlock b) x.1.1 (if a.sameBlock b then x.1.1 else 0)) x.1.2
          let k := c.piece.length
          Steps (.copyPiece id) s ((if c.next + k < c.lay.count then { w with copies := kset w.copies id { c with next := c.next + k, wrote := c.wroteAt b } }
            else { w with copies := kdel w.copies id }.commandOver (ctxKey c.core c.slot) (2 * id)).tagPerformed c.core c.slot
              c.tag (k * c.lay.bytes) (w.writeTime b))))) ∧
    (∀ id (a : AttnCmd) b bs u, kget s.attns id = some a → a.failed = none → a.blocks.drop a.done.length = b :: bs →
      s.attnStalls a b = false → s.attnStarts id a = true →
      (∀ r, s.attnCompute (a.order id) a b = (.ok r, u) → Steps (.attnBlock id) s { u with attns := kset u.attns id r }) ∧
      (∀ x, s.attnCompute (a.order id) a b = (.error x, u) →
        Steps (.attnBlock id) s { u with attns := kset u.attns id { a with failed := some x } })) ∧
    (∀ id (a : AttnCmd), kget s.attns id = some a →
      (∀ x, a.failed = some x → Steps (.attnResult id) s ({ s with attns := kdel s.attns id }.tagAbandoned a.core a.slot a.tag
        (4 * a.dim * a.nq) x)) ∧
      (∀ ps u, a.failed = none → a.blocks.length ≤ a.done.length →
        s.resultPlaces a.lt a.core a.space a.result = (.ok ps, u) → (∀ p ∈ ps, u.stalls p.1 true = false) →
        let w := ps.foldl (fun (t : State) p => t.putBlock a.core (a.order id) p.1 (BitVec.allOnes 64) (BitVec.ofNat 512 p.2) a.pois)
          { u with attns := kdel u.attns id }
        let v := (w.commandOver (ctxKey a.core a.slot) (2 * id + 1)).tagPerformed a.core a.slot a.tag (4 * a.dim * a.nq)
          (ps.foldl (fun (m : Nat) p => max m (w.writeTime p.1)) 0)
        Steps (.attnResult id) s (if a.pois then v.modCtx (ctxKey a.core a.slot) (fun c => c.chk 1) else v))) ∧
    (∀ core j js, (s.getCore core).matq = j :: js → j.due ≤ s.cycle → let r := j.op.apply ((s.getCore core).tile j.tile)
      Steps (.matrixRetire core) s ((s.modCore core (fun c => { c with matq := js, tiles := kset c.tiles j.tile r.1 })).modCtx
        (ctxKey core j.slot) (fun c => c.addFlags r.2)) ∧
      ∀ fa fb a b cb p, j.op = .mma fa fb a b none none cb p → fa.toNat ≠ 0x21 → ∀ m n, m < 16 → n < 16 →
        let old := ((s.getCore core).tile j.tile).data.toNat / 2 ^ (32 * (16 * m + n)) % 2 ^ 32
        let row (f : Byte) (x : BitVec 8192) (i : Nat) := matElems f.toNat cb (x.toNat / 2 ^ (512 * i) % 2 ^ 512)
        r.1.data.toNat / 2 ^ (32 * (16 * m + n)) % 2 ^ 32 =
          (FFmt.f32.add FpEnv.plain old (FFmt.f32.result FpEnv.plain (scaled (dot (row fa a m) (row fb b n)).1 127 127)).1).1 % 2 ^ 32) ∧
    (∀ core j js, (s.getCore core).spq = j :: js → j.due ≤ s.cycle → Steps (.spRetire core) s
      ((j.writes.foldl (fun (t : State) x => t.scratchStoreBy (ctxKey core j.slot) x.1 4 x.2.1 x.2.2)
        (s.modCore core (fun c => { c with spq := js, spDone := s.cycle }))).modCtx (ctxKey core j.slot) (fun c =>
        { c with cr := { c.cr with spstat := spCounted c.cr.spstat j.stall } }.addFlags j.flags))) ∧
    (∀ core slot w n l x kk sp down o, let k := ctxKey core slot
      let u : State := { s with cur := k, grp := w.grp }
      s.spReady core slot = true → (s.getCtx k).wait = some w → w.kind = .spDep n l x kk sp down →
      spOperands n l x kk sp down u = (.ok o, u) → u.co.spOwned o.touched = false → u.co.spAccepts u.cycle = true → u.co.spDone < u.cycle →
      Steps (.spAccept core slot) s (spAccepted u o sp down).retire) ∧
    (∀ id r, kget s.requests id = some r → s.promotionDue id r = true →
      (∀ c, r.stage = .finished c →
        Steps (.promotion id) s ({ s with requests := kdel s.requests id }.frontStore r.space (BitVec.ofNat 64 r.done) 8 c false).2) ∧
      (r.broken = false → let u : State := { s with fresh := s.fresh + 1 }
        let slice := (s.requestSlice r).getD 0
        let goOn (t : State) (g : WedgeStage) : State := { t with requests := kset t.requests id { r with stage := g } }
        (∀ tab e t w, r.stage = .start → tailTable r.space r.table u = (.ok (tab, e), t) →
          wStore r.space (tab.dword 5 + 0x20) 8 (0x8000_0000_0000_0000 + slice) t = (.ok (), w) → Steps (.promotion id) s (goOn w .allocate)) ∧
        ((∀ c, r.stage ≠ .finished c) → (∀ g t, r.advance slice none u = (.ok g, t) → Steps (.promotion id) s (goOn t g)) ∧
          ∀ c t, r.advance slice none u = (.error c, t) → Steps (.promotion id) s (goOn (r.drop (u.undone t)).2 (r.failed c))))) ∧
    (∀ core line, Steps (.uncorrectableError (.pool core)) s (s.seal core) ∧
      Steps (.uncorrectableError (.check core)) s ((s.countRetry core).seal core) ∧
      Steps (.uncorrectableError (.l1 core line false)) s (s.modCore core (fun c => { c with l1 := c.l1.filter (fun x => x.line != line) })) ∧
      Steps (.uncorrectableError (.slice line)) s (s.storeLine (64 * line) 0 0 true false) ∧
      Steps (.correctableError { core := core, retry := true }) s (s.countRetry core) ∧
      (let t := s.modCore core (fun c => { c with corrected := c.corrected + 1 })
       Steps (.correctableError { core := core, retry := false }) s { t with outputs := t.outputs ++ [.corrected core (t.getCore core).corrected
        (t.getCore core).retries] }) ∧
      ((s.countRetry core).getCore core).retries = (s.getCore core).retries + 1) ∧
    (∀ (p : Packet) core, p.body = .sealNotice core → let sup := s.supervisor (dieOf core)
      (s.getCtx (ctxKey sup 0)).cr.sstat.getLsbD 16 = false → (s.getCtx (ctxKey sup 0)).midway = false → Steps (.containmentNotice p) s
        (((s.takeOff p).modCore core (fun c => { c with sealed := c.sealed.map (fun q => { q with taken := some sup }) })).enterNotice
          sup core)) ∧
    (∀ core slot off v, windowOk core slot off = true →
      Steps (.windowRead core slot off) s { s with outputs := s.outputs ++ [.windowValue (s.windowDword core slot off).1
        (s.windowDword core slot off).2] } ∧
      (let r := s.windowStore core slot off v
       Steps (.windowWrite core slot off v) s { r.2 with outputs := r.2.outputs ++ [.windowValue 0 r.1] }))

/-- R6, R116, R312, R328, R348, R357, R364 to R366, R368 to R375, R378 to R382, R385, R400, R405 to R409: a packet that a front core takes up does what its
opcode says, a malformed one stops its queue with its FCODE; doorbells, registration, negotiation and the other writes of registers; a live update goes
through booting to taking over or staying; a boot, an attestation report, the monitors' three reactions, and what the host reads and writes. The model's are: that
an image which fails its verification sets UPST 3 and leaves the version as it is, that a boot whose image is rejected leaves the package booted and stopped, and
that the version kept with an image judges the next (log 38); that the host reads and writes all of the package's own device memory (log 45); that
an unregistration is judged by OWNER of the descriptor at QADDR (log 33); the names halt, supWork, gateway, memoryKey, ckper and ckstep
under which REGISTER_WRITE sets what kernel, firmware or a debugger sets (log 39); appCore, raise, claim, complete, irqPriority, irqEnable and irqThreshold for what the application cores do to themselves
and their interrupt controller (log 52), and loopStart, loopCommit, loopEnd and tcm for what the loop cores keep (log 39). -/
def Obligations.QueuesAndFirmware : Prop :=
  ∀ s : State,
    (∀ n p q u, TakesUp s n p q u →
      (p.opc = 0 → Steps (.nopPacket n) s (u.packetDone n q p)) ∧
      (p.opc = 1 → ∀ rec_ v, u.frontBlock q.space p.d1 = (.ok rec_, v) →
        v.blockInUse q.owner (rec_ % 2 ^ 64) = false → rec_ % 64 = 0 → ∀ own w, v.clearBlock q.space (rec_ % 2 ^ 64) = (some own, w) →
        let x : State := { w with ckpt := { w.ckpt with launches := w.ckpt.launches + 1 } }
        Steps (.launch n) s ((x.launchFrom n q (x.newKey (rec_ % 2 ^ 64)) rec_ own).packetDone n q p)) ∧
      (p.opc = 2 → Steps (.ib n) s (u.putQueue n { q with
        levels := { base := p.d1.toNat, size := p.arg, pos := 0, loop := none, skip := 0, held := [] } :: q.open_ })) ∧
      (p.opc = 3 → ∀ b v, u.testCond q p.sub p.d1 p.d2 p.d3 = (.ok b, v) → Steps (.pred n) s
        (v.packetDone n (if b then q else q.withLevel { q.level with skip := 2 }) p)) ∧
      (p.opc = 4 → let at_ := if q.below.isEmpty then (q.level.pos + 16) % q.level.size else q.level.pos + 16
        Steps (.loopPacket n) s (u.putLevels n ({ q.level with
          pos := at_, loop := some { first := at_, n := p.sub, done := 0, left := p.arg } } :: q.below))) ∧
      (p.opc = 5 → ∀ v, u.frontStore q.space p.d1 (2 ^ p.sub) (p.d2.toNat % 2 ^ (8 * 2 ^ p.sub)) false = (.ok (), v) →
        Steps (.write n) s (v.packetDone n q p)) ∧
      (p.opc = 6 → q.launched = [] → ∀ v, u.frontStore q.space p.d1 8 p.d2.toNat false = (.ok (), v) → let w := v.packetDone n q p
        Steps (.signal n) s (if p.arg = 0 then w else let x : State := { w with outputs := w.outputs ++ [.interrupt n p.arg] }
          if q.owner = 0 ∨ IrqSource.signal n p.arg ∈ x.plic.waiting then x
            else { x with plic := { x.plic with waiting := x.plic.waiting ++ [.signal n p.arg] } })) ∧
      (p.opc = 7 → ∀ b v, u.testCond q p.sub p.d1 p.d2 p.d3 = (.ok b, v) → Steps (.waitPacket n) s
        (if b then v.packetDone n q p else v.putQueue n { q with waiting := some (.cond p.sub p.d1 p.d2 p.d3 u.cycle) })) ∧
      (p.opc = 8 → Steps (.fencePacket n) s
        (if q.launched = [] then u.packetDone n q p else u.putQueue n { q with waiting := some .fence })) ∧
      (p.opc = 9 → Steps (.ffence n) s (u.packetDone n { q with levels := q.levels.map (fun l => { l with held := [] }) } p)) ∧
      (p.opc = 10 → ∀ table done v w, u.frontLoad q.space p.d1 8 = (.ok table, v) → v.frontLoad q.space (p.d1 + 8) 8 = (.ok done, w) →
        Steps (.promote n) s ({ w with
          requests := kset w.requests (w.requests.foldl (fun (m : Nat) (y : Nat × Request) => max m (y.1 + 1)) 0)
            { table := table.1, done := done.1, space := q.space, broken := false, stage := .start } }.packetDone n q p))) ∧
    (∀ n q o code u i, kget s.queues n = some q → s.queueRuns q = true → s.beginPacket q = .bad o code u →
      IsPacket n (o.getD 0) i → Steps i s (u.stopQueue n (BitVec.ofNat 64 (q.level.base + q.level.pos)) code)) ∧
    (∀ n q cmp addr ref mask since b u, kget s.queues n = some q → s.testDue q = true → q.waiting = some (.cond cmp addr ref mask since) →
      s.testCond q cmp addr ref mask = (.ok b, u) → Steps (.waitPacketTest n) s (if b then u.bytesDone n q 32
        else u.putQueue n { q with waiting := some (.cond cmp addr ref mask (since + 1024)) })) ∧
    (∀ n q v, kget s.queues n = some q →
      (q.stopped = false → v.toNat % 16 = 0 → v.toNat < 2 ^ q.log2 → Steps (.doorbellTail n v) s
        { s with queues := kset s.queues n { q with tail := v.toNat } }) ∧
      (v ≠ 1 ∨ q.stopped = false → Steps (.doorbellReset n v) s s) ∧
      (v = 1 → q.stopped = true → q.tail % 16 = 0 → q.tail < 2 ^ q.log2 → let u := s.putDesc q 0x18 0
        Steps (.doorbellReset n v) s { u with queues := kset u.queues n { q with
          stopped := false, levels := [], waiting := none, head := (s.dwordAt (q.desc + 0x10)).toNat } })) ∧
    (s.queueCommand 1 = true → kget s.queues s.endpoint.qnum = none → ∀ q, s.queueAt s.endpoint.qaddr.toNat = some q → q.owner ≠ 0 →
      Steps .qcmdRegister s ({ s with queues := kset s.queues s.endpoint.qnum q }.queueResult 0)) ∧
    (s.queueCommand 2 = true → ∀ q, kget s.queues s.endpoint.qnum = some q → s.descDword s.endpoint.qaddr.toNat 6 = q.owner.toNat →
      q.busy = false → Steps .qcmdUnregister s ({ s with queues := kdel s.queues s.endpoint.qnum }.queueResult 0)) ∧
    (s.endpoint.nstat ≠ 1 → let e := s.endpoint
      let ok := vget e.feata 0 0 &&& ~~~0x1F = 0 ∧ ∀ i, i < 4 → i ≠ 0 → vget e.feata i 0 = 0
      (ok → Steps .commit s { s with endpoint := { e with nstat := 1, enabled := vget e.feata 0 0 } }) ∧
      (¬ ok → Steps .commit s { s with endpoint := { e with nstat := 2, enabled := 0 } })) ∧
    (∀ v, Steps (.registerWrite (.endpoint 0x58) v) s { s with endpoint := { s.endpoint with qaddr := v } } ∧
      Steps (.registerWrite .ckper v) s { s with ckpt := { s.ckpt with ckper := v.toNat } } ∧
      Steps (.registerWrite .ckstep v) s { s with ckpt := { s.ckpt with ckstep := v.toNat } } ∧
      (∀ core slot, let k := ctxKey core slot
        let t := s.modCtx k (fun c => { (if v = 0 then c else c.takeBack) with halted := v != 0 })
        Steps (.registerWrite (.halt core slot) v) s (if v ≠ 0 ∧ (s.getCtx k).mode = .user then t.askCtx k else t)) ∧
      (∀ core, let c := s.getCtx (ctxKey core 0)
        let t := s.modCore core (fun c => { c with supWork := false })
        Steps (.registerWrite (.supWork core) 0) s
          (if c.midway || c.cr.sstat.getLsbD 16 then t else t.setCtx (ctxKey core 0) { c.takeBack with slot := .parkedWaiting })) ∧
      (∀ n r, Steps (.registerWrite (.appCore n r) v) s { s with apps := kset s.apps n.toNat ((kgetD s.apps n.toNat AppCore.reset).put r v) }) ∧
      (let c := s.plic
       let set (x : Plic) : State := { s with plic := x }
       (∀ i, Steps (.registerWrite (.raise i) v) s (set { c with waiting := if i ∈ c.waiting then c.waiting else c.waiting ++ [i] }) ∧
         Steps (.registerWrite (.complete i) v) s (set { c with claimed := c.claimed.erase i }) ∧
         (∃ l, Steps (.registerWrite (.irqPriority i) v) s (set { c with priority := l }) ∧
           ∀ j, ({ c with priority := l } : Plic).prio j = if j = i then v.toNat else c.prio j) ∧
         ∀ n, ∃ l, Steps (.registerWrite (.irqEnable n i) v) s (set { c with enabled := l }) ∧
           ∀ y, y ∈ l ↔ if y = (n, i) then v ≠ 0 else y ∈ c.enabled) ∧
       ∀ n, Steps (.registerWrite (.irqThreshold n) v) s (set { c with threshold := kset c.threshold n v.toNat }) ∧
         (∀ i, c.best n = some i → Steps (.registerWrite (.claim n) v) s { s with
           plic := { c with waiting := c.waiting.erase i, claimed := c.claimed ++ [i] }, outputs := s.outputs ++ [.irqClaim n (some i)] }) ∧
         (c.best n = none → Steps (.registerWrite (.claim n) v) s { s with outputs := s.outputs ++ [.irqClaim n none] })) ∧
      (∀ n ctr len, Steps (.registerWrite (.loopStart n ctr len) v) s { s with loops := kset s.loops n { key := v, ctr := ctr, len := len } }) ∧
      (∀ n k l, kget s.loops n = some l → Steps (.registerWrite (.loopCommit n k) v) s
        { s with loops := kset s.loops n { l with ctr := v, len := l.len + 1 + k } }) ∧
      (∀ n, Steps (.registerWrite (.loopEnd n) v) s { s with loops := kdel s.loops n }) ∧
      (∀ core off, core < 16 → off < 2 ^ 18 → Steps (.registerWrite (.tcm core off) v) s
        { s with tcms := kset s.tcms core (kset (kgetD s.tcms core []) (off / 8) v) }) ∧
      (∀ n, n < 128 → v.getLsbD 63 = false → Steps (.registerWrite (.gateway n) v) s
        (s.modDom (fun d => { d with gateway := kset d.gateway n (v.toNat % 65536) }))) ∧
      (∀ i, 0 < i → i < 256 → v.getLsbD 63 = false → s.keyHeld i = false → Steps (.registerWrite (.memoryKey i) v) s
        { s with keys := kset s.keys i (v.toNat % 65536) }) ∧
      (s.endpoint.qcmd.getLsbD 63 = false → v.extractLsb' 16 2 ≠ 0 → Steps (.registerWrite (.endpoint 0x60) v) s { s with
        endpoint := { s.endpoint with qcmd := (v &&& 0x3_0FFF) ||| (s.endpoint.qcmd &&& 0x0F00_0000_0000_0000) ||| 0x8000_0000_0000_0000 } })) ∧
    (∀ version security signed, s.endpoint.enabled.getLsbD 0 = true → let e := s.endpoint
      let own := if e.active then s.flash.versionB else s.flash.versionA
      (e.upst ≠ 1 → Steps (.liveUpdate version security signed) s { s with endpoint := { e with upst := 1 } }) ∧
      (e.upst = 1 → signed = false ∨ security < s.flash.secver ∨ version < own →
        Steps (.liveUpdate version security signed) s { s with endpoint := { e with upst := 3 } }) ∧
      (e.upst = 1 → signed = true → s.flash.secver ≤ security → own ≤ version → ∃ t, Steps (.liveUpdate version security signed) s t ∧
        t.endpoint = { e with upst := 2, active := !e.active } ∧
        t.queues = s.queues.map (fun (x : Nat × Queue) => (x.1, { x.2 with levels := x.2.levels.map (fun l => { l with held := [] }) })) ∧
        (if e.active then t.flash.versionA else t.flash.versionB) = version ∧ t.loops = (if own < 2 then [] else s.loops))) ∧
    (∀ security, Steps (.packageReset { rom := false, images := true, security := security }) s s.unbooted ∧
      (s.flash.secver ≤ security →
        Steps (.packageReset { rom := true, images := true, security := security }) s s.booted) ∧
      (security < s.flash.secver →
        Steps (.packageReset { rom := true, images := true, security := security }) s { s.booted with stopped := true })) ∧
    Steps .endpointReset s { s with endpoint := { Endpoint.reset with active := s.endpoint.active } } ∧
    (∀ nonce, s.leafIndex < 2 ^ 20 → Steps (.attestation nonce) s { s with
      leafIndex := s.leafIndex + 1
      outputs := s.outputs ++ [.report s.leafIndex nonce s.measurements s.endpoint.enabled
        (Config.signature identity s.leafIndex (nonce :: (s.measurements ++ [BitVec.setWidth 256 s.endpoint.enabled])))] }) ∧
    (∀ m : Sample, (115 < m.temp ∨ m.voltageOut = true → Steps (.monitorSample m) s { s with stopped := true }) ∧
      (m.temp ≤ 115 → m.voltageOut = false → 105 < m.temp ∨ 2800 < m.power → Steps (.monitorSample m) s
        { s with throttle := max 4 (s.throttle - 1) }) ∧
      (m.voltageOut = false → m.temp < 95 → m.power < 2700 → Steps (.monitorSample m) s { s with throttle := min 16 (s.throttle + 1) })) ∧
    (∀ pa data, s.ownMemory pa data.length = true → let ps := linePieces data.length pa data
      let r := s.sysRead ps
      (∀ i, i = .hostDeviceAccess false pa data ∨ i = .applicationCoreAccess false pa data →
        Steps i s { r.2 with outputs := r.2.outputs ++ [.hostRead pa r.1] }) ∧
      Steps (.hostDeviceAccess true pa data) s (ps.foldl (fun (t : State) p => t.uncachedStore p.1 p.2.length (bytesNat p.2) false 0) s) ∧
      Steps (.applicationCoreAccess true pa data) s (s.sysWrite ps))

/-- R386, R389 to R397: a plane's answer to a request by the state of the line's entry, the releases of a line that is not recovering, forwards, a
recall, the replay of what a link has not acknowledged, a lost plane, at the 64th missing heartbeat, the reports that end a recovery, and a lost
package, this one among them, with which its regions end. The model's are (log 36): how many flits of a link the far side has acknowledged, a free value; that
PutS in state S clears D; that PutM is accepted in state E. -/
def Obligations.CoherenceDomainSteps : Prop :=
  ∀ s : State,
    (∀ line pkg, s.recovering line = false →
      exec (.gets line pkg) s = .next (s.getS line pkg) ∧ exec (.getm line pkg) s = .next (s.getM line pkg) ∧
      (kget s.dom.dir line = none → pkg ≠ homePkg line →
        exec (.gets line pkg) s = .next (((s.grantFromHome line pkg .exclusive).setCopy pkg line (some .e)).receive line pkg) ∧
        exec (.getm line pkg) s = .next (((s.grantFromHome line pkg .modified).setCopy pkg line (some .m)).receive line pkg)) ∧
      (∀ e, kget s.dom.dir line = some e → pkg ≠ homePkg line → pkg ≠ e.owner → pkg ∉ e.sharers →
        (e.state = .shared → exec (.gets line pkg) s =
          .next (((s.setCopy pkg line (some .cleanS)).setDir line .shared e.owner (nadd e.sharers pkg)).receive line pkg)) ∧
        (e.state = .modified → exec (.gets line pkg) s = .next ((((s.setCopy e.owner line (some .o)).setCopy pkg line (some .ownerS)).setDir line
          .owned e.owner [pkg]).receive line pkg)) ∧
        (e.state = .owned → exec (.gets line pkg) s =
          .next (((s.setCopy pkg line (some .ownerS)).setDir line .owned e.owner (nadd e.sharers pkg)).receive line pkg)) ∧
        (e.state ≠ .shared → let t := (e.holders.filter (fun p => p != pkg)).foldl (fun (t : State) p => t.giveUp line p) s
          exec (.getm line pkg) s = .next (((t.setCopy pkg line (some .m)).setDir line .modified pkg []).receive line pkg)))) ∧
    (∀ line pkg data b e, Entry s line e →
      (e.state = .shared → pkg ∈ e.sharers → let t := (s.giveUp line pkg).setD line false
        exec (.puts line pkg) s = .next (if ndel e.sharers pkg = [] then t.homeAlone line
          else t.setDir line .shared e.owner (ndel e.sharers pkg))) ∧
      (e.state = .exclusive → e.owner = pkg → exec (.pute line pkg) s = .next ((s.giveUp line pkg).homeAlone line)) ∧
      (e.state = .modified ∨ e.state = .exclusive → e.owner = pkg → exec (.putm line pkg data b) s =
        .next (((s.bringHome line data b).giveUp line pkg).homeAlone line)) ∧
      (e.state = .owned → e.owner = pkg → let t := ((s.bringHome line data b).giveUp line pkg).setD line false
        exec (.puto line pkg data b) s = .next (if e.sharers = [] then t.homeAlone line else t.setDir line .shared pkg e.sharers))) ∧
    (∀ line pkg, exec (.forward line pkg .supplyDrop) s = .next (s.giveUp line pkg) ∧
      exec (.forward line pkg .invalidate) s = .next (s.giveUp line pkg) ∧
      (s.copyOf pkg line = some .m → exec (.forward line pkg .supplyKeep) s = .next (s.setCopy pkg line (some .o))) ∧
      (s.copyOf pkg line = some .e → exec (.forward line pkg .supplyKeep) s = .next (s.setCopy pkg line (some .cleanS))) ∧
      exec (.recall line) s = .next (s.makeRoom line)) ∧
    (∀ link, kgetD s.dom.replay link [] ≠ [] →
      let keep := (kgetD s.dom.replay link []).drop (Config.choose s.fresh % ((kgetD s.dom.replay link []).length + 1))
      exec (.linkReplay link) s = .next { s with
        fresh := s.fresh + 1, outputs := s.outputs ++ keep.map .packet, dom := { s.dom with replay := kset s.dom.replay link keep } }) ∧
    (∀ plane, exec (.planeLost plane) s = .next (s.declareLost plane) ∧
      exec (.heartbeat plane true) s = .next (s.modDom (fun d => { d with missed := kdel d.missed plane, beats := d.beats + 1 })) ∧
      (let t := s.modDom (fun d => { d with missed := kset d.missed plane (kgetD s.dom.missed plane 0 + 1), beats := d.beats + 1 })
       exec (.heartbeat plane false) s = .next (if kgetD s.dom.missed plane 0 < 63 then t else t.declareLost plane))) ∧
    (∀ pkg pre r post, s.dom.recovery = pre ++ r :: post → (∀ x ∈ pre, pkg ∈ x.reported) → pkg ∉ r.reported → exec (.recoveryReport pkg) s =
      .next (s.modDom (fun d => { d with recovery := pre ++ { r with reported := nadd r.reported pkg } :: post })).endRecovery) ∧
    (∀ pkg, pkg ≠ s.pkgNum → pkg ∈ s.dom.members → pkg ∉ s.dom.lost → exec (.packageLost pkg) s =
      .next (((s.dom.dir.foldl (fun (t : State) x => t.afterLoss pkg x.1 x.2) s).modDom (fun d =>
        { d with lost := nadd d.lost pkg, copies := kdel d.copies pkg })).push (s.lostAnswers pkg)).endRecovery) ∧
    exec (.packageLost s.pkgNum) s =
      .next ((s.regions.filter (fun x => x.2.running)).foldl (fun (t : State) x => t.endRegion x.1 0x10) s)

/-- R2, R400 to R404: a trigger quiesces the regions; the snapshot follows when all has drained, or the attempt ends where a context cannot be saved;
the frames follow in ascending order, one that a store waits for first, and the header last; a stream that fails leaves the previous image valid; a
restore onto the same shape writes memory, regions, queues and kiln values back, and reports any other shape. The model's are (log 37): whether a stream fails, a
free value; that an attempt with a context that cannot be saved is abandoned with its yield requests withdrawn; that a restore onto another shape reports it and does
nothing else. -/
def Obligations.CheckpointSteps : Prop :=
  ∀ s : State,
    (s.ckptDue = true → let t : State := { s with ckpt := { s.ckpt with step := .quiesce } }
      exec .checkpointStart s =
        .next (t.runningRegions.foldl (fun (t : State) x => x.2.cores.foldl (fun (u : State) c => u.requestYield x.1 c) t) t)) ∧
    (s.ckpt.step = .quiesce → s.unsavable = true → exec .checkpointSnapshot s =
      .next { s with ctxs := s.ctxs.map (fun (x : Nat × Context) => (x.1, { x.2 with yieldReq := none })),
                     ckpt := { s.ckpt with since := s.sysTicks, launches := 0, step := .idle } }) ∧
    (s.ckpt.step = .quiesce → s.unsavable = false → s.drained = true →
      let t := (s.placeThose (fun _ => true)).cleanCopies.writeKsave
      exec .checkpointSnapshot s = .next { t with ckpt := { s.ckpt with
        since := s.sysTicks, launches := 0, step := .stream 0, taken := [], pending := some t.image } }) ∧
    (∀ f img, s.ckpt.step = .stream f → s.ckpt.pending = some img → let t : State := { s with fresh := s.fresh + 1 }
      let frame (n : Nat) : Output := .frame n (img.mem.filter (fun c => c.1 % 2 ^ 44 / 65536 == n))
      (Config.sinkFails s.fresh = true → exec .checkpointFrame s =
        .next { t with ckpt := { s.ckpt with step := .idle, taken := [], pending := none } }) ∧
      (Config.sinkFails s.fresh = false →
        (∀ n, s.waitedFrame f = some n → exec .checkpointFrame s =
          .next { t with outputs := s.outputs ++ [frame n], ckpt := { s.ckpt with taken := nadd s.ckpt.taken n } }) ∧
        (s.waitedFrame f = none → f ∉ s.ckpt.taken →
          (f + 1 < 2 ^ 24 → exec .checkpointFrame s =
            .next { t with outputs := s.outputs ++ [frame f], ckpt := { s.ckpt with step := .stream (f + 1) } }) ∧
          (f + 1 = 2 ^ 24 → exec .checkpointFrame s = .next { t with
            outputs := s.outputs ++ [frame f, .imageHeader img.header img.digest]
            ckpt := { s.ckpt with step := .idle, taken := [], pending := none,
                                  images := { img with valid := true } :: s.ckpt.images.take 1 } })))) ∧
    (∀ img imgs, s.ckpt.images = img :: imgs →
      (s.fits img = false → exec .restore s = .next { s with outputs := s.outputs ++ [.shapeMismatch] }) ∧
      (s.fits img = true → let t := s.emptied img
        let u := t.runningRegions.foldl (fun (t : State) x => t.restoreKiln x.1 x.2) t
        exec .restore s = .next { u with queues := img.queues.map (fun (x : Nat × Queue) =>
          (x.1, { x.2 with levels := [], waiting := none, head := (u.dwordAt (x.2.desc + 0x10)).toNat })) }))


/-! ### Encodings, the step, reset and what every step keeps -/

/-- R29 to R40: every well-formed instruction, with every operand at every value that its encoding admits, is read back from its own words. That an instruction whose
scalar destination is one of its scalar sources is well-formed in every entry, where the letter of R34 asks an entry to say so, is the model's (log 49, 'Scalar
overlap'). -/
def Obligations.DecodeEncodeRoundTrip : Prop := ∀ i : Instr, i.isWord = true → i.wf = true → decode (encode i) = some i

/-- The words that the spec writes out decode to the instructions beside them. -/
def Obligations.SpecWordsDecode : Prop :=
  decode [0x0508_4800] = some (.add 8 8 9 false) ∧ decode [0x2125_0003] = some (.slli 9 5 3) ∧
  decode [0x48C5_FFFD] = some (.blt 6 5 (-3)) ∧ decode [0x6005_0003] = some (.loop 5 3) ∧
  decode [0x640C_4008] = some (.crw 12 .fpm) ∧ decode [0x6540_0005] = some (.crr 10 .cycle) ∧
  decode [0x8822_190E] = some (.vfma 1 2 3 4 1 .f32) ∧ decode [0x9884_7001] = some (.vld 4 4 3 .w 1) ∧
  decode [0xD109_50F6] = some (.dcopy 8 9 10 3 true true .pkg) ∧ decode [0xD42A_1218] = some (.mma 5 8 9 true true) ∧
  decode [0xD851_4B0E] = some (.spup 20 10 11 3 true) ∧ decode [0xDDCD_61E6] = some (.attn 14 13 12 7 true false .pkg) ∧
  decode [0xE12B_6002] = some (.sverify 9 11 12) ∧ decode [0xE408_0003] = some (.spshape 8 3)

/-- R27, R35, R36, R112, R114: where one context is to issue and nothing else may happen, a step runs the instruction that the group at its pc decodes to,
and time passes; of a group of one word, whose line is in memory, the word is the four bytes at the pc, the lowest least significant; a context that stands
within an instruction goes on with the one that it has fetched. That time
passes freely and that the choice between several happenings is free are the model's (logs 1, 4). -/
def Obligations.StepRunsTheDecodedInstruction : Prop :=
  ∀ (s0 : State) k, s0.stopped = false → s0.moves = [.issue k] → let s : State := { s0 with passed := [] }
    let c := s.getCtx k
    (∀ w i, c.wait = some w → (c.midway || c.plan.isSome) = true → heldInstr w.grp = some i → step s0 = ticked s (exec i { s with cur := k, grp := w.grp })) ∧
    (c.midway = false → c.plan = none → s.kernelStands k = false →
    (∀ i g u, s.fetchGroup k 5 Prefixes.empty (groupAt c) = (.ok i, g, u) → step s0 = ticked s (exec i { u with cur := k, grp := g })) ∧
    (∀ e g u, s.fetchGroup k 5 Prefixes.empty (groupAt c) = (.error e, g, u) →
      step s0 = .next (s.heldBack ({ u with cur := k, grp := g }.stop e)).tick) ∧
    (∀ pa l1 wt key u i, s.translate (.ctx k) (k / 64) c.space c.pc .fetch 4 = (.ok (.coherent pa l1 wt key), u) → Settled u pa key false →
      u.stalls (.coherent pa l1 wt key) false = false → kget (u.getCore (k / 64)).icache (lineOf pa) = none → pa % 4 = 0 →
      decode [BitVec.ofNat 32 (u.mem.read pa 4)] = some i → ∃ t, step s0 = ticked s (exec i t) ∧ t.cur = k ∧
        t.grp = { groupAt c with word := BitVec.ofNat 32 (u.mem.read pa 4) } ∧ t.mem = u.mem ∧ t.ctxs = u.ctxs))

/-- R15, R129, R146, R392, R406: right after reset CYCLE is 0, every incarnation and serial count is 0, every U slot is free, the S contexts are in
supervisor mode, and there is no region, packet, command or queue. That memory reads 0 and that registers hold 0 is the model's choice (logs 2, 3). -/
def Obligations.ResetState : Prop :=
  let s := State.reset
  (∀ k, s.crRead k .cycle = 0 ∧ (s.getCtx k).inc = 0 ∧ ∀ r, (s.getCtx k).s r = 0 ∧ (s.getCtx k).v r = 0) ∧
  (∀ core slot, 0 < slot → slot < 64 → (s.getCtx (64 * core + slot)).slot = .free ∧ (s.getCtx (64 * core + slot)).mode = .user) ∧
  (∀ core, (s.getCtx (64 * core)).mode = .super ∧ (s.getCore core).serial = 0 ∧ (s.getCore core).flight = [] ∧
    (s.getCore core).sealed = none) ∧
  (∀ a, s.mem.byte a = 0) ∧ s.regions = [] ∧ s.net = [] ∧ s.copies = [] ∧ s.attns = [] ∧ s.queues = [] ∧ s.endpoint.nstat = 0 ∧
  s.dom.rh = [] ∧ s.stopped = false

/-- The memories of the machine are in their canonical form right after reset (the model's own form, log 3). -/
def Obligations.ResetIsCanonical : Prop := State.reset.Canon

/-- Every step keeps the memories in their canonical form, so that two memories that read alike are equal (the model's own form, log 3). -/
def Obligations.StepsKeepMemoryCanonical : Prop := ∀ s t : State, s.Canon → step s = .next t → t.Canon
end

