-- ==== Sys2Proof/Laws/Maps.lean ====
section
/-! SUPPORT. Reading a finite map after a change of it, and the canonical form of memory under its operations. -/

namespace Sys2Proof

theorem kget_kset_self {α : Type} (m : List (Nat × α)) (k : Nat) (v : α) : kget (kset m k v) k = some v := by
  induction m with
  | nil => simp [kset, kget]
  | cons x m ih =>
    simp only [kset]
    split
    · simp [kget]
    · split
      · simp [kget]
      · rename_i h1 h2
        simp [kget, Ne.symm h2, ih]

theorem kget_kset_ne {α : Type} (m : List (Nat × α)) (k j : Nat) (v : α) (h : j ≠ k) : kget (kset m k v) j = kget m j := by
  induction m with
  | nil => simp [kset, kget, Ne.symm h]
  | cons x m ih =>
    simp only [kset]
    split
    · simp [kget, Ne.symm h]
    · split
      · rename_i h1 h2
        subst h2
        simp [kget, Ne.symm h]
      · simp [kget, ih]

@[simp] theorem kgetD_kset_self {α : Type} (m : List (Nat × α)) (k : Nat) (v d : α) : kgetD (kset m k v) k d = v := by
  simp [kgetD, kget_kset_self]

theorem kgetD_kset_ne {α : Type} (m : List (Nat × α)) (k j : Nat) (v d : α) (h : j ≠ k) :
    kgetD (kset m k v) j d = kgetD m j d := by
  simp [kgetD, kget_kset_ne m k j v h]

/-- Of two sets of one key the later stands. -/
theorem kset_kset {α : Type} (m : List (Nat × α)) (k : Nat) (v w : α) : kset (kset m k v) k w = kset m k w := by
  induction m with
  | nil => simp [kset]
  | cons x m ih =>
    simp only [kset]
    split
    · simp [kset]
    · split
      · simp [kset]
      · rename_i h1 h2
        simp [kset, h1, h2, ih]

theorem kget_kdel_self {α : Type} (m : List (Nat × α)) (k : Nat) : kget (kdel m k) k = none := by
  induction m with
  | nil => rfl
  | cons x m ih =>
    simp only [kdel]
    split
    · exact ih
    · rename_i h
      simp [kget, h, ih]

theorem kget_kdel_ne {α : Type} (m : List (Nat × α)) (k j : Nat) (h : j ≠ k) : kget (kdel m k) j = kget m j := by
  induction m with
  | nil => rfl
  | cons x m ih =>
    simp only [kdel]
    split
    · rename_i h1
      simp [kget, h1, Ne.symm h, ih]
    · simp [kget, ih]

/-! ### Bytes of memory -/

theorem Memory.byte_setByte_self (m : Memory) (a : Nat) (b : BitVec 8) : (m.setByte a b).byte a = b := by
  unfold Memory.setByte
  split
  · rename_i h
    simp [Memory.byte, kgetD, kget_kdel_self, h]
  · simp [Memory.byte]

theorem Memory.byte_setByte_ne (m : Memory) (a a' : Nat) (b : BitVec 8) (h : a' ≠ a) : (m.setByte a b).byte a' = m.byte a' := by
  unfold Memory.setByte
  split
  · simp [Memory.byte, kgetD, kget_kdel_ne m a a' h]
  · simp [Memory.byte, kgetD_kset_ne m a a' b _ h]

/-- A write leaves every byte outside its range as it was. -/
theorem Memory.byte_write_outside (m : Memory) (a n v x : Nat) (h : x < a ∨ a + n ≤ x) : (m.write a n v).byte x = m.byte x := by
  induction n generalizing m a v with
  | zero => rfl
  | succ n ih =>
    rw [Memory.write, ih _ _ _ (by omega)]
    exact Memory.byte_setByte_ne m a x _ (by omega)

/-- A byte that a write covers is that byte of the number. -/
theorem Memory.byte_write_inside (m : Memory) (a n v i : Nat) (h : i < n) :
    (m.write a n v).byte (a + i) = BitVec.ofNat 8 (v / 256 ^ i) := by
  induction n generalizing m a v i with
  | zero => omega
  | succ n ih =>
    rw [Memory.write]
    cases i with
    | zero =>
      rw [Memory.byte_write_outside _ _ _ _ _ (by omega)]
      simp [Memory.byte_setByte_self]
    | succ i =>
      have := ih (m.setByte a (BitVec.ofNat 8 v)) (a + 1) (v / 256) i (by omega)
      rw [show a + (i + 1) = a + 1 + i by omega, this, Nat.div_div_eq_div_mul, Nat.pow_succ']

/-- A read after a write of the same bytes gives the number written, modulo its width. -/
theorem Memory.read_write_same (m : Memory) (a n v : Nat) : (m.write a n v).read a n = v % 256 ^ n := by
  induction n generalizing m a v with
  | zero => simp [Memory.read, Nat.mod_one]
  | succ n ih =>
    rw [Memory.write, Memory.read, ih, Memory.byte_write_outside _ _ _ _ _ (by omega), Memory.byte_setByte_self]
    rw [Nat.pow_succ', Nat.mod_mul]
    simp

/-! ### The canonical form -/

/-- A byte map is canonical if its addresses rise from a bound on and no byte is that of an unlisted address. -/
def Memory.wfFrom (lo : Nat) : Memory → Prop
  | [] => True
  | (a, b) :: m => lo ≤ a ∧ b ≠ Memory.unlisted ∧ Memory.wfFrom (a + 1) m

theorem Memory.wfFrom_mono {lo hi : Nat} {m : Memory} (h : Memory.wfFrom hi m) (hl : lo ≤ hi) : Memory.wfFrom lo m := by
  cases m with
  | nil => trivial
  | cons x m => exact ⟨Nat.le_trans hl h.1, h.2⟩

theorem Memory.wf_iff (m : Memory) : m.wf = true ↔ Memory.wfFrom 0 m := by
  have key : ∀ (m : Memory) (a : Nat) (b : BitVec 8), Memory.wf ((a, b) :: m) = true ↔
      (b ≠ Memory.unlisted ∧ Memory.wfFrom (a + 1) m) := by
    intro m
    induction m with
    | nil => intro a b; simp [Memory.wf, Memory.wfFrom]
    | cons x m ih =>
      intro a b
      obtain ⟨a', b'⟩ := x
      rw [Memory.wf, Bool.and_eq_true, ih a' b']
      simp only [Memory.wfFrom, Bool.and_eq_true, bne_iff_ne, decide_eq_true_eq]
      constructor
      · rintro ⟨⟨h1, h2⟩, h3⟩; exact ⟨h1, h2, h3⟩
      · rintro ⟨h1, h2, h3⟩; exact ⟨⟨h1, h2⟩, h3⟩
  cases m with
  | nil => simp [Memory.wf, Memory.wfFrom]
  | cons x m => obtain ⟨a, b⟩ := x; rw [key]; simp [Memory.wfFrom]

theorem Memory.wfFrom_kset (m : Memory) (lo a : Nat) (b : BitVec 8) (h : Memory.wfFrom lo m) (hl : lo ≤ a)
    (hb : b ≠ Memory.unlisted) : Memory.wfFrom lo (kset m a b) := by
  induction m generalizing lo with
  | nil => exact ⟨hl, hb, trivial⟩
  | cons x m ih =>
    obtain ⟨h1, h2, h3⟩ := h
    simp only [kset]
    split
    · rename_i hlt
      exact ⟨hl, hb, by omega, h2, h3⟩
    · split
      · rename_i h4
        subst h4
        exact ⟨h1, hb, h3⟩
      · exact ⟨h1, h2, ih _ h3 (by omega)⟩

theorem Memory.wfFrom_kdel (m : Memory) (lo a : Nat) (h : Memory.wfFrom lo m) : Memory.wfFrom lo (kdel m a) := by
  induction m generalizing lo with
  | nil => trivial
  | cons x m ih =>
    obtain ⟨h1, h2, h3⟩ := h
    simp only [kdel]
    split
    · exact Memory.wfFrom_mono (ih _ h3) (by omega)
    · exact ⟨h1, h2, ih _ h3⟩

/-- A write of a byte keeps the canonical form. -/
theorem Memory.wf_setByte (m : Memory) (a : Nat) (b : BitVec 8) (h : m.wf = true) : (m.setByte a b).wf = true := by
  rw [Memory.wf_iff] at *
  unfold Memory.setByte
  split
  · exact Memory.wfFrom_kdel m 0 a h
  · exact Memory.wfFrom_kset m 0 a b h (Nat.zero_le _) ‹_›

/-- A write of bytes keeps the canonical form. -/
theorem Memory.wf_write (m : Memory) (a n v : Nat) (h : m.wf = true) : (m.write a n v).wf = true := by
  induction n generalizing m a v with
  | zero => exact h
  | succ n ih => exact ih _ _ _ (Memory.wf_setByte m a _ h)

theorem Memory.wfFrom_filter (m : Memory) (lo : Nat) (p : Nat × BitVec 8 → Bool) (h : Memory.wfFrom lo m) :
    Memory.wfFrom lo (m.filter p) := by
  induction m generalizing lo with
  | nil => trivial
  | cons x m ih =>
    obtain ⟨h1, h2, h3⟩ := h
    rw [List.filter_cons]
    split
    · exact ⟨h1, h2, ih _ h3⟩
    · exact Memory.wfFrom_mono (ih _ h3) (by omega)

/-- A part of a canonical memory is canonical. -/
theorem Memory.wf_filter (m : Memory) (p : Nat × BitVec 8 → Bool) (h : m.wf = true) : Memory.wf (m.filter p) = true := by
  rw [Memory.wf_iff] at *
  exact Memory.wfFrom_filter m 0 p h

end Sys2Proof
end

