-- ==== Sys2Proof/Laws/State.lean ====
section
/-! SUPPORT. What each update of the state leaves in every field, and what the accessors read after it. -/

namespace Sys2Proof.Machine

/-! ### setCtx -/

@[simp] theorem State.setCtx_cur (s : State) (k : Nat) (c : Context) : (s.setCtx k c).cur = s.cur := rfl
@[simp] theorem State.setCtx_grp (s : State) (k : Nat) (c : Context) : (s.setCtx k c).grp = s.grp := rfl
@[simp] theorem State.setCtx_fresh (s : State) (k : Nat) (c : Context) : (s.setCtx k c).fresh = s.fresh := rfl
@[simp] theorem State.setCtx_inputs (s : State) (k : Nat) (c : Context) : (s.setCtx k c).inputs = s.inputs := rfl
@[simp] theorem State.setCtx_outputs (s : State) (k : Nat) (c : Context) : (s.setCtx k c).outputs = s.outputs := rfl
@[simp] theorem State.setCtx_stopped (s : State) (k : Nat) (c : Context) : (s.setCtx k c).stopped = s.stopped := rfl
@[simp] theorem State.setCtx_cycle (s : State) (k : Nat) (c : Context) : (s.setCtx k c).cycle = s.cycle := rfl
@[simp] theorem State.setCtx_phase (s : State) (k : Nat) (c : Context) : (s.setCtx k c).phase = s.phase := rfl
@[simp] theorem State.setCtx_domTicks (s : State) (k : Nat) (c : Context) : (s.setCtx k c).domTicks = s.domTicks := rfl
@[simp] theorem State.setCtx_sysTicks (s : State) (k : Nat) (c : Context) : (s.setCtx k c).sysTicks = s.sysTicks := rfl
@[simp] theorem State.setCtx_ltCycle (s : State) (k : Nat) (c : Context) : (s.setCtx k c).ltCycle = s.ltCycle := rfl
@[simp] theorem State.setCtx_throttle (s : State) (k : Nat) (c : Context) : (s.setCtx k c).throttle = s.throttle := rfl
@[simp] theorem State.setCtx_pkgNum (s : State) (k : Nat) (c : Context) : (s.setCtx k c).pkgNum = s.pkgNum := rfl
@[simp] theorem State.setCtx_pkgDom (s : State) (k : Nat) (c : Context) : (s.setCtx k c).pkgDom = s.pkgDom := rfl
@[simp] theorem State.setCtx_localHoming (s : State) (k : Nat) (c : Context) : (s.setCtx k c).localHoming = s.localHoming := rfl
@[simp] theorem State.setCtx_cores (s : State) (k : Nat) (c : Context) : (s.setCtx k c).cores = s.cores := rfl
@[simp] theorem State.setCtx_mem (s : State) (k : Nat) (c : Context) : (s.setCtx k c).mem = s.mem := rfl
@[simp] theorem State.setCtx_behind (s : State) (k : Nat) (c : Context) : (s.setCtx k c).behind = s.behind := rfl
@[simp] theorem State.setCtx_poison (s : State) (k : Nat) (c : Context) : (s.setCtx k c).poison = s.poison := rfl
@[simp] theorem State.setCtx_leases (s : State) (k : Nat) (c : Context) : (s.setCtx k c).leases = s.leases := rfl
@[simp] theorem State.setCtx_enc (s : State) (k : Nat) (c : Context) : (s.setCtx k c).enc = s.enc := rfl
@[simp] theorem State.setCtx_agents (s : State) (k : Nat) (c : Context) : (s.setCtx k c).agents = s.agents := rfl
@[simp] theorem State.setCtx_early (s : State) (k : Nat) (c : Context) : (s.setCtx k c).early = s.early := rfl
@[simp] theorem State.setCtx_past (s : State) (k : Nat) (c : Context) : (s.setCtx k c).past = s.past := rfl
@[simp] theorem State.setCtx_tlb (s : State) (k : Nat) (c : Context) : (s.setCtx k c).tlb = s.tlb := rfl
@[simp] theorem State.setCtx_affine (s : State) (k : Nat) (c : Context) : (s.setCtx k c).affine = s.affine := rfl
@[simp] theorem State.setCtx_keys (s : State) (k : Nat) (c : Context) : (s.setCtx k c).keys = s.keys := rfl
@[simp] theorem State.setCtx_net (s : State) (k : Nat) (c : Context) : (s.setCtx k c).net = s.net := rfl
@[simp] theorem State.setCtx_regions (s : State) (k : Nat) (c : Context) : (s.setCtx k c).regions = s.regions := rfl
@[simp] theorem State.setCtx_socs (s : State) (k : Nat) (c : Context) : (s.setCtx k c).socs = s.socs := rfl
@[simp] theorem State.setCtx_copies (s : State) (k : Nat) (c : Context) : (s.setCtx k c).copies = s.copies := rfl
@[simp] theorem State.setCtx_attns (s : State) (k : Nat) (c : Context) : (s.setCtx k c).attns = s.attns := rfl
@[simp] theorem State.setCtx_layouts (s : State) (k : Nat) (c : Context) : (s.setCtx k c).layouts = s.layouts := rfl
@[simp] theorem State.setCtx_requests (s : State) (k : Nat) (c : Context) : (s.setCtx k c).requests = s.requests := rfl
@[simp] theorem State.setCtx_loops (s : State) (k : Nat) (c : Context) : (s.setCtx k c).loops = s.loops := rfl
@[simp] theorem State.setCtx_apps (s : State) (k : Nat) (c : Context) : (s.setCtx k c).apps = s.apps := rfl
@[simp] theorem State.setCtx_plic (s : State) (k : Nat) (c : Context) : (s.setCtx k c).plic = s.plic := rfl
@[simp] theorem State.setCtx_tcms (s : State) (k : Nat) (c : Context) : (s.setCtx k c).tcms = s.tcms := rfl
@[simp] theorem State.setCtx_queues (s : State) (k : Nat) (c : Context) : (s.setCtx k c).queues = s.queues := rfl
@[simp] theorem State.setCtx_owners (s : State) (k : Nat) (c : Context) : (s.setCtx k c).owners = s.owners := rfl
@[simp] theorem State.setCtx_endpoint (s : State) (k : Nat) (c : Context) : (s.setCtx k c).endpoint = s.endpoint := rfl
@[simp] theorem State.setCtx_dom (s : State) (k : Nat) (c : Context) : (s.setCtx k c).dom = s.dom := rfl
@[simp] theorem State.setCtx_ckpt (s : State) (k : Nat) (c : Context) : (s.setCtx k c).ckpt = s.ckpt := rfl
@[simp] theorem State.setCtx_leafIndex (s : State) (k : Nat) (c : Context) : (s.setCtx k c).leafIndex = s.leafIndex := rfl
@[simp] theorem State.setCtx_flash (s : State) (k : Nat) (c : Context) : (s.setCtx k c).flash = s.flash := rfl
@[simp] theorem State.setCtx_passed (s : State) (k : Nat) (c : Context) : (s.setCtx k c).passed = s.passed := rfl
@[simp] theorem State.setCtx_still (s : State) (k : Nat) (c : Context) : (s.setCtx k c).still = s.still := rfl
@[simp] theorem State.setCtx_stalled (s : State) (k : Nat) (c : Context) : (s.setCtx k c).stalled = s.stalled := rfl

/-! ### modCtx -/

@[simp] theorem State.modCtx_cur (s : State) (k : Nat) (f : Context → Context) : (s.modCtx k f).cur = s.cur := rfl
@[simp] theorem State.modCtx_grp (s : State) (k : Nat) (f : Context → Context) : (s.modCtx k f).grp = s.grp := rfl
@[simp] theorem State.modCtx_fresh (s : State) (k : Nat) (f : Context → Context) : (s.modCtx k f).fresh = s.fresh := rfl
@[simp] theorem State.modCtx_inputs (s : State) (k : Nat) (f : Context → Context) : (s.modCtx k f).inputs = s.inputs := rfl
@[simp] theorem State.modCtx_outputs (s : State) (k : Nat) (f : Context → Context) : (s.modCtx k f).outputs = s.outputs := rfl
@[simp] theorem State.modCtx_stopped (s : State) (k : Nat) (f : Context → Context) : (s.modCtx k f).stopped = s.stopped := rfl
@[simp] theorem State.modCtx_cycle (s : State) (k : Nat) (f : Context → Context) : (s.modCtx k f).cycle = s.cycle := rfl
@[simp] theorem State.modCtx_phase (s : State) (k : Nat) (f : Context → Context) : (s.modCtx k f).phase = s.phase := rfl
@[simp] theorem State.modCtx_domTicks (s : State) (k : Nat) (f : Context → Context) : (s.modCtx k f).domTicks = s.domTicks := rfl
@[simp] theorem State.modCtx_sysTicks (s : State) (k : Nat) (f : Context → Context) : (s.modCtx k f).sysTicks = s.sysTicks := rfl
@[simp] theorem State.modCtx_ltCycle (s : State) (k : Nat) (f : Context → Context) : (s.modCtx k f).ltCycle = s.ltCycle := rfl
@[simp] theorem State.modCtx_throttle (s : State) (k : Nat) (f : Context → Context) : (s.modCtx k f).throttle = s.throttle := rfl
@[simp] theorem State.modCtx_pkgNum (s : State) (k : Nat) (f : Context → Context) : (s.modCtx k f).pkgNum = s.pkgNum := rfl
@[simp] theorem State.modCtx_pkgDom (s : State) (k : Nat) (f : Context → Context) : (s.modCtx k f).pkgDom = s.pkgDom := rfl
@[simp] theorem State.modCtx_localHoming (s : State) (k : Nat) (f : Context → Context) : (s.modCtx k f).localHoming = s.localHoming := rfl
@[simp] theorem State.modCtx_cores (s : State) (k : Nat) (f : Context → Context) : (s.modCtx k f).cores = s.cores := rfl
@[simp] theorem State.modCtx_mem (s : State) (k : Nat) (f : Context → Context) : (s.modCtx k f).mem = s.mem := rfl
@[simp] theorem State.modCtx_behind (s : State) (k : Nat) (f : Context → Context) : (s.modCtx k f).behind = s.behind := rfl
@[simp] theorem State.modCtx_poison (s : State) (k : Nat) (f : Context → Context) : (s.modCtx k f).poison = s.poison := rfl
@[simp] theorem State.modCtx_leases (s : State) (k : Nat) (f : Context → Context) : (s.modCtx k f).leases = s.leases := rfl
@[simp] theorem State.modCtx_enc (s : State) (k : Nat) (f : Context → Context) : (s.modCtx k f).enc = s.enc := rfl
@[simp] theorem State.modCtx_agents (s : State) (k : Nat) (f : Context → Context) : (s.modCtx k f).agents = s.agents := rfl
@[simp] theorem State.modCtx_early (s : State) (k : Nat) (f : Context → Context) : (s.modCtx k f).early = s.early := rfl
@[simp] theorem State.modCtx_past (s : State) (k : Nat) (f : Context → Context) : (s.modCtx k f).past = s.past := rfl
@[simp] theorem State.modCtx_tlb (s : State) (k : Nat) (f : Context → Context) : (s.modCtx k f).tlb = s.tlb := rfl
@[simp] theorem State.modCtx_affine (s : State) (k : Nat) (f : Context → Context) : (s.modCtx k f).affine = s.affine := rfl
@[simp] theorem State.modCtx_keys (s : State) (k : Nat) (f : Context → Context) : (s.modCtx k f).keys = s.keys := rfl
@[simp] theorem State.modCtx_net (s : State) (k : Nat) (f : Context → Context) : (s.modCtx k f).net = s.net := rfl
@[simp] theorem State.modCtx_regions (s : State) (k : Nat) (f : Context → Context) : (s.modCtx k f).regions = s.regions := rfl
@[simp] theorem State.modCtx_socs (s : State) (k : Nat) (f : Context → Context) : (s.modCtx k f).socs = s.socs := rfl
@[simp] theorem State.modCtx_copies (s : State) (k : Nat) (f : Context → Context) : (s.modCtx k f).copies = s.copies := rfl
@[simp] theorem State.modCtx_attns (s : State) (k : Nat) (f : Context → Context) : (s.modCtx k f).attns = s.attns := rfl
@[simp] theorem State.modCtx_layouts (s : State) (k : Nat) (f : Context → Context) : (s.modCtx k f).layouts = s.layouts := rfl
@[simp] theorem State.modCtx_requests (s : State) (k : Nat) (f : Context → Context) : (s.modCtx k f).requests = s.requests := rfl
@[simp] theorem State.modCtx_loops (s : State) (k : Nat) (f : Context → Context) : (s.modCtx k f).loops = s.loops := rfl
@[simp] theorem State.modCtx_apps (s : State) (k : Nat) (f : Context → Context) : (s.modCtx k f).apps = s.apps := rfl
@[simp] theorem State.modCtx_plic (s : State) (k : Nat) (f : Context → Context) : (s.modCtx k f).plic = s.plic := rfl
@[simp] theorem State.modCtx_tcms (s : State) (k : Nat) (f : Context → Context) : (s.modCtx k f).tcms = s.tcms := rfl
@[simp] theorem State.modCtx_queues (s : State) (k : Nat) (f : Context → Context) : (s.modCtx k f).queues = s.queues := rfl
@[simp] theorem State.modCtx_owners (s : State) (k : Nat) (f : Context → Context) : (s.modCtx k f).owners = s.owners := rfl
@[simp] theorem State.modCtx_endpoint (s : State) (k : Nat) (f : Context → Context) : (s.modCtx k f).endpoint = s.endpoint := rfl
@[simp] theorem State.modCtx_dom (s : State) (k : Nat) (f : Context → Context) : (s.modCtx k f).dom = s.dom := rfl
@[simp] theorem State.modCtx_ckpt (s : State) (k : Nat) (f : Context → Context) : (s.modCtx k f).ckpt = s.ckpt := rfl
@[simp] theorem State.modCtx_leafIndex (s : State) (k : Nat) (f : Context → Context) : (s.modCtx k f).leafIndex = s.leafIndex := rfl
@[simp] theorem State.modCtx_flash (s : State) (k : Nat) (f : Context → Context) : (s.modCtx k f).flash = s.flash := rfl
@[simp] theorem State.modCtx_passed (s : State) (k : Nat) (f : Context → Context) : (s.modCtx k f).passed = s.passed := rfl
@[simp] theorem State.modCtx_still (s : State) (k : Nat) (f : Context → Context) : (s.modCtx k f).still = s.still := rfl
@[simp] theorem State.modCtx_stalled (s : State) (k : Nat) (f : Context → Context) : (s.modCtx k f).stalled = s.stalled := rfl

/-! ### setCx -/

@[simp] theorem State.setCx_cur (s : State) (c : Context) : (s.setCx c).cur = s.cur := rfl
@[simp] theorem State.setCx_grp (s : State) (c : Context) : (s.setCx c).grp = s.grp := rfl
@[simp] theorem State.setCx_fresh (s : State) (c : Context) : (s.setCx c).fresh = s.fresh := rfl
@[simp] theorem State.setCx_inputs (s : State) (c : Context) : (s.setCx c).inputs = s.inputs := rfl
@[simp] theorem State.setCx_outputs (s : State) (c : Context) : (s.setCx c).outputs = s.outputs := rfl
@[simp] theorem State.setCx_stopped (s : State) (c : Context) : (s.setCx c).stopped = s.stopped := rfl
@[simp] theorem State.setCx_cycle (s : State) (c : Context) : (s.setCx c).cycle = s.cycle := rfl
@[simp] theorem State.setCx_phase (s : State) (c : Context) : (s.setCx c).phase = s.phase := rfl
@[simp] theorem State.setCx_domTicks (s : State) (c : Context) : (s.setCx c).domTicks = s.domTicks := rfl
@[simp] theorem State.setCx_sysTicks (s : State) (c : Context) : (s.setCx c).sysTicks = s.sysTicks := rfl
@[simp] theorem State.setCx_ltCycle (s : State) (c : Context) : (s.setCx c).ltCycle = s.ltCycle := rfl
@[simp] theorem State.setCx_throttle (s : State) (c : Context) : (s.setCx c).throttle = s.throttle := rfl
@[simp] theorem State.setCx_pkgNum (s : State) (c : Context) : (s.setCx c).pkgNum = s.pkgNum := rfl
@[simp] theorem State.setCx_pkgDom (s : State) (c : Context) : (s.setCx c).pkgDom = s.pkgDom := rfl
@[simp] theorem State.setCx_localHoming (s : State) (c : Context) : (s.setCx c).localHoming = s.localHoming := rfl
@[simp] theorem State.setCx_cores (s : State) (c : Context) : (s.setCx c).cores = s.cores := rfl
@[simp] theorem State.setCx_mem (s : State) (c : Context) : (s.setCx c).mem = s.mem := rfl
@[simp] theorem State.setCx_behind (s : State) (c : Context) : (s.setCx c).behind = s.behind := rfl
@[simp] theorem State.setCx_poison (s : State) (c : Context) : (s.setCx c).poison = s.poison := rfl
@[simp] theorem State.setCx_leases (s : State) (c : Context) : (s.setCx c).leases = s.leases := rfl
@[simp] theorem State.setCx_enc (s : State) (c : Context) : (s.setCx c).enc = s.enc := rfl
@[simp] theorem State.setCx_agents (s : State) (c : Context) : (s.setCx c).agents = s.agents := rfl
@[simp] theorem State.setCx_early (s : State) (c : Context) : (s.setCx c).early = s.early := rfl
@[simp] theorem State.setCx_past (s : State) (c : Context) : (s.setCx c).past = s.past := rfl
@[simp] theorem State.setCx_tlb (s : State) (c : Context) : (s.setCx c).tlb = s.tlb := rfl
@[simp] theorem State.setCx_affine (s : State) (c : Context) : (s.setCx c).affine = s.affine := rfl
@[simp] theorem State.setCx_keys (s : State) (c : Context) : (s.setCx c).keys = s.keys := rfl
@[simp] theorem State.setCx_net (s : State) (c : Context) : (s.setCx c).net = s.net := rfl
@[simp] theorem State.setCx_regions (s : State) (c : Context) : (s.setCx c).regions = s.regions := rfl
@[simp] theorem State.setCx_socs (s : State) (c : Context) : (s.setCx c).socs = s.socs := rfl
@[simp] theorem State.setCx_copies (s : State) (c : Context) : (s.setCx c).copies = s.copies := rfl
@[simp] theorem State.setCx_attns (s : State) (c : Context) : (s.setCx c).attns = s.attns := rfl
@[simp] theorem State.setCx_layouts (s : State) (c : Context) : (s.setCx c).layouts = s.layouts := rfl
@[simp] theorem State.setCx_requests (s : State) (c : Context) : (s.setCx c).requests = s.requests := rfl
@[simp] theorem State.setCx_loops (s : State) (c : Context) : (s.setCx c).loops = s.loops := rfl
@[simp] theorem State.setCx_apps (s : State) (c : Context) : (s.setCx c).apps = s.apps := rfl
@[simp] theorem State.setCx_plic (s : State) (c : Context) : (s.setCx c).plic = s.plic := rfl
@[simp] theorem State.setCx_tcms (s : State) (c : Context) : (s.setCx c).tcms = s.tcms := rfl
@[simp] theorem State.setCx_queues (s : State) (c : Context) : (s.setCx c).queues = s.queues := rfl
@[simp] theorem State.setCx_owners (s : State) (c : Context) : (s.setCx c).owners = s.owners := rfl
@[simp] theorem State.setCx_endpoint (s : State) (c : Context) : (s.setCx c).endpoint = s.endpoint := rfl
@[simp] theorem State.setCx_dom (s : State) (c : Context) : (s.setCx c).dom = s.dom := rfl
@[simp] theorem State.setCx_ckpt (s : State) (c : Context) : (s.setCx c).ckpt = s.ckpt := rfl
@[simp] theorem State.setCx_leafIndex (s : State) (c : Context) : (s.setCx c).leafIndex = s.leafIndex := rfl
@[simp] theorem State.setCx_flash (s : State) (c : Context) : (s.setCx c).flash = s.flash := rfl
@[simp] theorem State.setCx_passed (s : State) (c : Context) : (s.setCx c).passed = s.passed := rfl
@[simp] theorem State.setCx_still (s : State) (c : Context) : (s.setCx c).still = s.still := rfl
@[simp] theorem State.setCx_stalled (s : State) (c : Context) : (s.setCx c).stalled = s.stalled := rfl

/-! ### modCx -/

@[simp] theorem State.modCx_cur (s : State) (f : Context → Context) : (s.modCx f).cur = s.cur := rfl
@[simp] theorem State.modCx_grp (s : State) (f : Context → Context) : (s.modCx f).grp = s.grp := rfl
@[simp] theorem State.modCx_fresh (s : State) (f : Context → Context) : (s.modCx f).fresh = s.fresh := rfl
@[simp] theorem State.modCx_inputs (s : State) (f : Context → Context) : (s.modCx f).inputs = s.inputs := rfl
@[simp] theorem State.modCx_outputs (s : State) (f : Context → Context) : (s.modCx f).outputs = s.outputs := rfl
@[simp] theorem State.modCx_stopped (s : State) (f : Context → Context) : (s.modCx f).stopped = s.stopped := rfl
@[simp] theorem State.modCx_cycle (s : State) (f : Context → Context) : (s.modCx f).cycle = s.cycle := rfl
@[simp] theorem State.modCx_phase (s : State) (f : Context → Context) : (s.modCx f).phase = s.phase := rfl
@[simp] theorem State.modCx_domTicks (s : State) (f : Context → Context) : (s.modCx f).domTicks = s.domTicks := rfl
@[simp] theorem State.modCx_sysTicks (s : State) (f : Context → Context) : (s.modCx f).sysTicks = s.sysTicks := rfl
@[simp] theorem State.modCx_ltCycle (s : State) (f : Context → Context) : (s.modCx f).ltCycle = s.ltCycle := rfl
@[simp] theorem State.modCx_throttle (s : State) (f : Context → Context) : (s.modCx f).throttle = s.throttle := rfl
@[simp] theorem State.modCx_pkgNum (s : State) (f : Context → Context) : (s.modCx f).pkgNum = s.pkgNum := rfl
@[simp] theorem State.modCx_pkgDom (s : State) (f : Context → Context) : (s.modCx f).pkgDom = s.pkgDom := rfl
@[simp] theorem State.modCx_localHoming (s : State) (f : Context → Context) : (s.modCx f).localHoming = s.localHoming := rfl
@[simp] theorem State.modCx_cores (s : State) (f : Context → Context) : (s.modCx f).cores = s.cores := rfl
@[simp] theorem State.modCx_mem (s : State) (f : Context → Context) : (s.modCx f).mem = s.mem := rfl
@[simp] theorem State.modCx_behind (s : State) (f : Context → Context) : (s.modCx f).behind = s.behind := rfl
@[simp] theorem State.modCx_poison (s : State) (f : Context → Context) : (s.modCx f).poison = s.poison := rfl
@[simp] theorem State.modCx_leases (s : State) (f : Context → Context) : (s.modCx f).leases = s.leases := rfl
@[simp] theorem State.modCx_enc (s : State) (f : Context → Context) : (s.modCx f).enc = s.enc := rfl
@[simp] theorem State.modCx_agents (s : State) (f : Context → Context) : (s.modCx f).agents = s.agents := rfl
@[simp] theorem State.modCx_early (s : State) (f : Context → Context) : (s.modCx f).early = s.early := rfl
@[simp] theorem State.modCx_past (s : State) (f : Context → Context) : (s.modCx f).past = s.past := rfl
@[simp] theorem State.modCx_tlb (s : State) (f : Context → Context) : (s.modCx f).tlb = s.tlb := rfl
@[simp] theorem State.modCx_affine (s : State) (f : Context → Context) : (s.modCx f).affine = s.affine := rfl
@[simp] theorem State.modCx_keys (s : State) (f : Context → Context) : (s.modCx f).keys = s.keys := rfl
@[simp] theorem State.modCx_net (s : State) (f : Context → Context) : (s.modCx f).net = s.net := rfl
@[simp] theorem State.modCx_regions (s : State) (f : Context → Context) : (s.modCx f).regions = s.regions := rfl
@[simp] theorem State.modCx_socs (s : State) (f : Context → Context) : (s.modCx f).socs = s.socs := rfl
@[simp] theorem State.modCx_copies (s : State) (f : Context → Context) : (s.modCx f).copies = s.copies := rfl
@[simp] theorem State.modCx_attns (s : State) (f : Context → Context) : (s.modCx f).attns = s.attns := rfl
@[simp] theorem State.modCx_layouts (s : State) (f : Context → Context) : (s.modCx f).layouts = s.layouts := rfl
@[simp] theorem State.modCx_requests (s : State) (f : Context → Context) : (s.modCx f).requests = s.requests := rfl
@[simp] theorem State.modCx_loops (s : State) (f : Context → Context) : (s.modCx f).loops = s.loops := rfl
@[simp] theorem State.modCx_apps (s : State) (f : Context → Context) : (s.modCx f).apps = s.apps := rfl
@[simp] theorem State.modCx_plic (s : State) (f : Context → Context) : (s.modCx f).plic = s.plic := rfl
@[simp] theorem State.modCx_tcms (s : State) (f : Context → Context) : (s.modCx f).tcms = s.tcms := rfl
@[simp] theorem State.modCx_queues (s : State) (f : Context → Context) : (s.modCx f).queues = s.queues := rfl
@[simp] theorem State.modCx_owners (s : State) (f : Context → Context) : (s.modCx f).owners = s.owners := rfl
@[simp] theorem State.modCx_endpoint (s : State) (f : Context → Context) : (s.modCx f).endpoint = s.endpoint := rfl
@[simp] theorem State.modCx_dom (s : State) (f : Context → Context) : (s.modCx f).dom = s.dom := rfl
@[simp] theorem State.modCx_ckpt (s : State) (f : Context → Context) : (s.modCx f).ckpt = s.ckpt := rfl
@[simp] theorem State.modCx_leafIndex (s : State) (f : Context → Context) : (s.modCx f).leafIndex = s.leafIndex := rfl
@[simp] theorem State.modCx_flash (s : State) (f : Context → Context) : (s.modCx f).flash = s.flash := rfl
@[simp] theorem State.modCx_passed (s : State) (f : Context → Context) : (s.modCx f).passed = s.passed := rfl
@[simp] theorem State.modCx_still (s : State) (f : Context → Context) : (s.modCx f).still = s.still := rfl
@[simp] theorem State.modCx_stalled (s : State) (f : Context → Context) : (s.modCx f).stalled = s.stalled := rfl

/-! ### retire -/

@[simp] theorem State.retire_cur (s : State) : (s.retire).cur = s.cur := rfl
@[simp] theorem State.retire_grp (s : State) : (s.retire).grp = s.grp := rfl
@[simp] theorem State.retire_fresh (s : State) : (s.retire).fresh = s.fresh := rfl
@[simp] theorem State.retire_inputs (s : State) : (s.retire).inputs = s.inputs := rfl
@[simp] theorem State.retire_outputs (s : State) : (s.retire).outputs = s.outputs := rfl
@[simp] theorem State.retire_stopped (s : State) : (s.retire).stopped = s.stopped := rfl
@[simp] theorem State.retire_cycle (s : State) : (s.retire).cycle = s.cycle := rfl
@[simp] theorem State.retire_phase (s : State) : (s.retire).phase = s.phase := rfl
@[simp] theorem State.retire_domTicks (s : State) : (s.retire).domTicks = s.domTicks := rfl
@[simp] theorem State.retire_sysTicks (s : State) : (s.retire).sysTicks = s.sysTicks := rfl
@[simp] theorem State.retire_ltCycle (s : State) : (s.retire).ltCycle = s.ltCycle := rfl
@[simp] theorem State.retire_throttle (s : State) : (s.retire).throttle = s.throttle := rfl
@[simp] theorem State.retire_pkgNum (s : State) : (s.retire).pkgNum = s.pkgNum := rfl
@[simp] theorem State.retire_pkgDom (s : State) : (s.retire).pkgDom = s.pkgDom := rfl
@[simp] theorem State.retire_localHoming (s : State) : (s.retire).localHoming = s.localHoming := rfl
@[simp] theorem State.retire_cores (s : State) : (s.retire).cores = s.cores := rfl
@[simp] theorem State.retire_mem (s : State) : (s.retire).mem = s.mem := rfl
@[simp] theorem State.retire_behind (s : State) : (s.retire).behind = s.behind := rfl
@[simp] theorem State.retire_poison (s : State) : (s.retire).poison = s.poison := rfl
@[simp] theorem State.retire_leases (s : State) : (s.retire).leases = s.leases := rfl
@[simp] theorem State.retire_enc (s : State) : (s.retire).enc = s.enc := rfl
@[simp] theorem State.retire_agents (s : State) : (s.retire).agents = s.agents := rfl
@[simp] theorem State.retire_early (s : State) : (s.retire).early = s.early := rfl
@[simp] theorem State.retire_past (s : State) : (s.retire).past = s.past := rfl
@[simp] theorem State.retire_tlb (s : State) : (s.retire).tlb = s.tlb := rfl
@[simp] theorem State.retire_affine (s : State) : (s.retire).affine = s.affine := rfl
@[simp] theorem State.retire_keys (s : State) : (s.retire).keys = s.keys := rfl
@[simp] theorem State.retire_net (s : State) : (s.retire).net = s.net := rfl
@[simp] theorem State.retire_regions (s : State) : (s.retire).regions = s.regions := rfl
@[simp] theorem State.retire_socs (s : State) : (s.retire).socs = s.socs := rfl
@[simp] theorem State.retire_copies (s : State) : (s.retire).copies = s.copies := rfl
@[simp] theorem State.retire_attns (s : State) : (s.retire).attns = s.attns := rfl
@[simp] theorem State.retire_layouts (s : State) : (s.retire).layouts = s.layouts := rfl
@[simp] theorem State.retire_requests (s : State) : (s.retire).requests = s.requests := rfl
@[simp] theorem State.retire_loops (s : State) : (s.retire).loops = s.loops := rfl
@[simp] theorem State.retire_apps (s : State) : (s.retire).apps = s.apps := rfl
@[simp] theorem State.retire_plic (s : State) : (s.retire).plic = s.plic := rfl
@[simp] theorem State.retire_tcms (s : State) : (s.retire).tcms = s.tcms := rfl
@[simp] theorem State.retire_queues (s : State) : (s.retire).queues = s.queues := rfl
@[simp] theorem State.retire_owners (s : State) : (s.retire).owners = s.owners := rfl
@[simp] theorem State.retire_endpoint (s : State) : (s.retire).endpoint = s.endpoint := rfl
@[simp] theorem State.retire_dom (s : State) : (s.retire).dom = s.dom := rfl
@[simp] theorem State.retire_ckpt (s : State) : (s.retire).ckpt = s.ckpt := rfl
@[simp] theorem State.retire_leafIndex (s : State) : (s.retire).leafIndex = s.leafIndex := rfl
@[simp] theorem State.retire_flash (s : State) : (s.retire).flash = s.flash := rfl
@[simp] theorem State.retire_passed (s : State) : (s.retire).passed = s.passed := rfl
@[simp] theorem State.retire_still (s : State) : (s.retire).still = s.still := rfl
@[simp] theorem State.retire_stalled (s : State) : (s.retire).stalled = s.stalled := rfl

/-! ### goto -/

@[simp] theorem State.goto_cur (s : State) (a : Dword) : (s.goto a).cur = s.cur := rfl
@[simp] theorem State.goto_grp (s : State) (a : Dword) : (s.goto a).grp = s.grp := rfl
@[simp] theorem State.goto_fresh (s : State) (a : Dword) : (s.goto a).fresh = s.fresh := rfl
@[simp] theorem State.goto_inputs (s : State) (a : Dword) : (s.goto a).inputs = s.inputs := rfl
@[simp] theorem State.goto_outputs (s : State) (a : Dword) : (s.goto a).outputs = s.outputs := rfl
@[simp] theorem State.goto_stopped (s : State) (a : Dword) : (s.goto a).stopped = s.stopped := rfl
@[simp] theorem State.goto_cycle (s : State) (a : Dword) : (s.goto a).cycle = s.cycle := rfl
@[simp] theorem State.goto_phase (s : State) (a : Dword) : (s.goto a).phase = s.phase := rfl
@[simp] theorem State.goto_domTicks (s : State) (a : Dword) : (s.goto a).domTicks = s.domTicks := rfl
@[simp] theorem State.goto_sysTicks (s : State) (a : Dword) : (s.goto a).sysTicks = s.sysTicks := rfl
@[simp] theorem State.goto_ltCycle (s : State) (a : Dword) : (s.goto a).ltCycle = s.ltCycle := rfl
@[simp] theorem State.goto_throttle (s : State) (a : Dword) : (s.goto a).throttle = s.throttle := rfl
@[simp] theorem State.goto_pkgNum (s : State) (a : Dword) : (s.goto a).pkgNum = s.pkgNum := rfl
@[simp] theorem State.goto_pkgDom (s : State) (a : Dword) : (s.goto a).pkgDom = s.pkgDom := rfl
@[simp] theorem State.goto_localHoming (s : State) (a : Dword) : (s.goto a).localHoming = s.localHoming := rfl
@[simp] theorem State.goto_cores (s : State) (a : Dword) : (s.goto a).cores = s.cores := rfl
@[simp] theorem State.goto_mem (s : State) (a : Dword) : (s.goto a).mem = s.mem := rfl
@[simp] theorem State.goto_behind (s : State) (a : Dword) : (s.goto a).behind = s.behind := rfl
@[simp] theorem State.goto_poison (s : State) (a : Dword) : (s.goto a).poison = s.poison := rfl
@[simp] theorem State.goto_leases (s : State) (a : Dword) : (s.goto a).leases = s.leases := rfl
@[simp] theorem State.goto_enc (s : State) (a : Dword) : (s.goto a).enc = s.enc := rfl
@[simp] theorem State.goto_agents (s : State) (a : Dword) : (s.goto a).agents = s.agents := rfl
@[simp] theorem State.goto_early (s : State) (a : Dword) : (s.goto a).early = s.early := rfl
@[simp] theorem State.goto_past (s : State) (a : Dword) : (s.goto a).past = s.past := rfl
@[simp] theorem State.goto_tlb (s : State) (a : Dword) : (s.goto a).tlb = s.tlb := rfl
@[simp] theorem State.goto_affine (s : State) (a : Dword) : (s.goto a).affine = s.affine := rfl
@[simp] theorem State.goto_keys (s : State) (a : Dword) : (s.goto a).keys = s.keys := rfl
@[simp] theorem State.goto_net (s : State) (a : Dword) : (s.goto a).net = s.net := rfl
@[simp] theorem State.goto_regions (s : State) (a : Dword) : (s.goto a).regions = s.regions := rfl
@[simp] theorem State.goto_socs (s : State) (a : Dword) : (s.goto a).socs = s.socs := rfl
@[simp] theorem State.goto_copies (s : State) (a : Dword) : (s.goto a).copies = s.copies := rfl
@[simp] theorem State.goto_attns (s : State) (a : Dword) : (s.goto a).attns = s.attns := rfl
@[simp] theorem State.goto_layouts (s : State) (a : Dword) : (s.goto a).layouts = s.layouts := rfl
@[simp] theorem State.goto_requests (s : State) (a : Dword) : (s.goto a).requests = s.requests := rfl
@[simp] theorem State.goto_loops (s : State) (a : Dword) : (s.goto a).loops = s.loops := rfl
@[simp] theorem State.goto_apps (s : State) (a : Dword) : (s.goto a).apps = s.apps := rfl
@[simp] theorem State.goto_plic (s : State) (a : Dword) : (s.goto a).plic = s.plic := rfl
@[simp] theorem State.goto_tcms (s : State) (a : Dword) : (s.goto a).tcms = s.tcms := rfl
@[simp] theorem State.goto_queues (s : State) (a : Dword) : (s.goto a).queues = s.queues := rfl
@[simp] theorem State.goto_owners (s : State) (a : Dword) : (s.goto a).owners = s.owners := rfl
@[simp] theorem State.goto_endpoint (s : State) (a : Dword) : (s.goto a).endpoint = s.endpoint := rfl
@[simp] theorem State.goto_dom (s : State) (a : Dword) : (s.goto a).dom = s.dom := rfl
@[simp] theorem State.goto_ckpt (s : State) (a : Dword) : (s.goto a).ckpt = s.ckpt := rfl
@[simp] theorem State.goto_leafIndex (s : State) (a : Dword) : (s.goto a).leafIndex = s.leafIndex := rfl
@[simp] theorem State.goto_flash (s : State) (a : Dword) : (s.goto a).flash = s.flash := rfl
@[simp] theorem State.goto_passed (s : State) (a : Dword) : (s.goto a).passed = s.passed := rfl
@[simp] theorem State.goto_still (s : State) (a : Dword) : (s.goto a).still = s.still := rfl
@[simp] theorem State.goto_stalled (s : State) (a : Dword) : (s.goto a).stalled = s.stalled := rfl

/-! ### setCore -/

@[simp] theorem State.setCore_cur (s : State) (n : Nat) (c : Core) : (s.setCore n c).cur = s.cur := rfl
@[simp] theorem State.setCore_grp (s : State) (n : Nat) (c : Core) : (s.setCore n c).grp = s.grp := rfl
@[simp] theorem State.setCore_fresh (s : State) (n : Nat) (c : Core) : (s.setCore n c).fresh = s.fresh := rfl
@[simp] theorem State.setCore_inputs (s : State) (n : Nat) (c : Core) : (s.setCore n c).inputs = s.inputs := rfl
@[simp] theorem State.setCore_outputs (s : State) (n : Nat) (c : Core) : (s.setCore n c).outputs = s.outputs := rfl
@[simp] theorem State.setCore_stopped (s : State) (n : Nat) (c : Core) : (s.setCore n c).stopped = s.stopped := rfl
@[simp] theorem State.setCore_cycle (s : State) (n : Nat) (c : Core) : (s.setCore n c).cycle = s.cycle := rfl
@[simp] theorem State.setCore_phase (s : State) (n : Nat) (c : Core) : (s.setCore n c).phase = s.phase := rfl
@[simp] theorem State.setCore_domTicks (s : State) (n : Nat) (c : Core) : (s.setCore n c).domTicks = s.domTicks := rfl
@[simp] theorem State.setCore_sysTicks (s : State) (n : Nat) (c : Core) : (s.setCore n c).sysTicks = s.sysTicks := rfl
@[simp] theorem State.setCore_ltCycle (s : State) (n : Nat) (c : Core) : (s.setCore n c).ltCycle = s.ltCycle := rfl
@[simp] theorem State.setCore_throttle (s : State) (n : Nat) (c : Core) : (s.setCore n c).throttle = s.throttle := rfl
@[simp] theorem State.setCore_pkgNum (s : State) (n : Nat) (c : Core) : (s.setCore n c).pkgNum = s.pkgNum := rfl
@[simp] theorem State.setCore_pkgDom (s : State) (n : Nat) (c : Core) : (s.setCore n c).pkgDom = s.pkgDom := rfl
@[simp] theorem State.setCore_localHoming (s : State) (n : Nat) (c : Core) : (s.setCore n c).localHoming = s.localHoming := rfl
@[simp] theorem State.setCore_ctxs (s : State) (n : Nat) (c : Core) : (s.setCore n c).ctxs = s.ctxs := rfl
@[simp] theorem State.setCore_mem (s : State) (n : Nat) (c : Core) : (s.setCore n c).mem = s.mem := rfl
@[simp] theorem State.setCore_behind (s : State) (n : Nat) (c : Core) : (s.setCore n c).behind = s.behind := rfl
@[simp] theorem State.setCore_poison (s : State) (n : Nat) (c : Core) : (s.setCore n c).poison = s.poison := rfl
@[simp] theorem State.setCore_leases (s : State) (n : Nat) (c : Core) : (s.setCore n c).leases = s.leases := rfl
@[simp] theorem State.setCore_enc (s : State) (n : Nat) (c : Core) : (s.setCore n c).enc = s.enc := rfl
@[simp] theorem State.setCore_agents (s : State) (n : Nat) (c : Core) : (s.setCore n c).agents = s.agents := rfl
@[simp] theorem State.setCore_early (s : State) (n : Nat) (c : Core) : (s.setCore n c).early = s.early := rfl
@[simp] theorem State.setCore_past (s : State) (n : Nat) (c : Core) : (s.setCore n c).past = s.past := rfl
@[simp] theorem State.setCore_tlb (s : State) (n : Nat) (c : Core) : (s.setCore n c).tlb = s.tlb := rfl
@[simp] theorem State.setCore_affine (s : State) (n : Nat) (c : Core) : (s.setCore n c).affine = s.affine := rfl
@[simp] theorem State.setCore_keys (s : State) (n : Nat) (c : Core) : (s.setCore n c).keys = s.keys := rfl
@[simp] theorem State.setCore_net (s : State) (n : Nat) (c : Core) : (s.setCore n c).net = s.net := rfl
@[simp] theorem State.setCore_regions (s : State) (n : Nat) (c : Core) : (s.setCore n c).regions = s.regions := rfl
@[simp] theorem State.setCore_socs (s : State) (n : Nat) (c : Core) : (s.setCore n c).socs = s.socs := rfl
@[simp] theorem State.setCore_copies (s : State) (n : Nat) (c : Core) : (s.setCore n c).copies = s.copies := rfl
@[simp] theorem State.setCore_attns (s : State) (n : Nat) (c : Core) : (s.setCore n c).attns = s.attns := rfl
@[simp] theorem State.setCore_layouts (s : State) (n : Nat) (c : Core) : (s.setCore n c).layouts = s.layouts := rfl
@[simp] theorem State.setCore_requests (s : State) (n : Nat) (c : Core) : (s.setCore n c).requests = s.requests := rfl
@[simp] theorem State.setCore_loops (s : State) (n : Nat) (c : Core) : (s.setCore n c).loops = s.loops := rfl
@[simp] theorem State.setCore_apps (s : State) (n : Nat) (c : Core) : (s.setCore n c).apps = s.apps := rfl
@[simp] theorem State.setCore_plic (s : State) (n : Nat) (c : Core) : (s.setCore n c).plic = s.plic := rfl
@[simp] theorem State.setCore_tcms (s : State) (n : Nat) (c : Core) : (s.setCore n c).tcms = s.tcms := rfl
@[simp] theorem State.setCore_queues (s : State) (n : Nat) (c : Core) : (s.setCore n c).queues = s.queues := rfl
@[simp] theorem State.setCore_owners (s : State) (n : Nat) (c : Core) : (s.setCore n c).owners = s.owners := rfl
@[simp] theorem State.setCore_endpoint (s : State) (n : Nat) (c : Core) : (s.setCore n c).endpoint = s.endpoint := rfl
@[simp] theorem State.setCore_dom (s : State) (n : Nat) (c : Core) : (s.setCore n c).dom = s.dom := rfl
@[simp] theorem State.setCore_ckpt (s : State) (n : Nat) (c : Core) : (s.setCore n c).ckpt = s.ckpt := rfl
@[simp] theorem State.setCore_leafIndex (s : State) (n : Nat) (c : Core) : (s.setCore n c).leafIndex = s.leafIndex := rfl
@[simp] theorem State.setCore_flash (s : State) (n : Nat) (c : Core) : (s.setCore n c).flash = s.flash := rfl
@[simp] theorem State.setCore_passed (s : State) (n : Nat) (c : Core) : (s.setCore n c).passed = s.passed := rfl
@[simp] theorem State.setCore_still (s : State) (n : Nat) (c : Core) : (s.setCore n c).still = s.still := rfl
@[simp] theorem State.setCore_stalled (s : State) (n : Nat) (c : Core) : (s.setCore n c).stalled = s.stalled := rfl

/-! ### modCore -/

@[simp] theorem State.modCore_cur (s : State) (n : Nat) (f : Core → Core) : (s.modCore n f).cur = s.cur := rfl
@[simp] theorem State.modCore_grp (s : State) (n : Nat) (f : Core → Core) : (s.modCore n f).grp = s.grp := rfl
@[simp] theorem State.modCore_fresh (s : State) (n : Nat) (f : Core → Core) : (s.modCore n f).fresh = s.fresh := rfl
@[simp] theorem State.modCore_inputs (s : State) (n : Nat) (f : Core → Core) : (s.modCore n f).inputs = s.inputs := rfl
@[simp] theorem State.modCore_outputs (s : State) (n : Nat) (f : Core → Core) : (s.modCore n f).outputs = s.outputs := rfl
@[simp] theorem State.modCore_stopped (s : State) (n : Nat) (f : Core → Core) : (s.modCore n f).stopped = s.stopped := rfl
@[simp] theorem State.modCore_cycle (s : State) (n : Nat) (f : Core → Core) : (s.modCore n f).cycle = s.cycle := rfl
@[simp] theorem State.modCore_phase (s : State) (n : Nat) (f : Core → Core) : (s.modCore n f).phase = s.phase := rfl
@[simp] theorem State.modCore_domTicks (s : State) (n : Nat) (f : Core → Core) : (s.modCore n f).domTicks = s.domTicks := rfl
@[simp] theorem State.modCore_sysTicks (s : State) (n : Nat) (f : Core → Core) : (s.modCore n f).sysTicks = s.sysTicks := rfl
@[simp] theorem State.modCore_ltCycle (s : State) (n : Nat) (f : Core → Core) : (s.modCore n f).ltCycle = s.ltCycle := rfl
@[simp] theorem State.modCore_throttle (s : State) (n : Nat) (f : Core → Core) : (s.modCore n f).throttle = s.throttle := rfl
@[simp] theorem State.modCore_pkgNum (s : State) (n : Nat) (f : Core → Core) : (s.modCore n f).pkgNum = s.pkgNum := rfl
@[simp] theorem State.modCore_pkgDom (s : State) (n : Nat) (f : Core → Core) : (s.modCore n f).pkgDom = s.pkgDom := rfl
@[simp] theorem State.modCore_localHoming (s : State) (n : Nat) (f : Core → Core) : (s.modCore n f).localHoming = s.localHoming := rfl
@[simp] theorem State.modCore_ctxs (s : State) (n : Nat) (f : Core → Core) : (s.modCore n f).ctxs = s.ctxs := rfl
@[simp] theorem State.modCore_mem (s : State) (n : Nat) (f : Core → Core) : (s.modCore n f).mem = s.mem := rfl
@[simp] theorem State.modCore_behind (s : State) (n : Nat) (f : Core → Core) : (s.modCore n f).behind = s.behind := rfl
@[simp] theorem State.modCore_poison (s : State) (n : Nat) (f : Core → Core) : (s.modCore n f).poison = s.poison := rfl
@[simp] theorem State.modCore_leases (s : State) (n : Nat) (f : Core → Core) : (s.modCore n f).leases = s.leases := rfl
@[simp] theorem State.modCore_enc (s : State) (n : Nat) (f : Core → Core) : (s.modCore n f).enc = s.enc := rfl
@[simp] theorem State.modCore_agents (s : State) (n : Nat) (f : Core → Core) : (s.modCore n f).agents = s.agents := rfl
@[simp] theorem State.modCore_early (s : State) (n : Nat) (f : Core → Core) : (s.modCore n f).early = s.early := rfl
@[simp] theorem State.modCore_past (s : State) (n : Nat) (f : Core → Core) : (s.modCore n f).past = s.past := rfl
@[simp] theorem State.modCore_tlb (s : State) (n : Nat) (f : Core → Core) : (s.modCore n f).tlb = s.tlb := rfl
@[simp] theorem State.modCore_affine (s : State) (n : Nat) (f : Core → Core) : (s.modCore n f).affine = s.affine := rfl
@[simp] theorem State.modCore_keys (s : State) (n : Nat) (f : Core → Core) : (s.modCore n f).keys = s.keys := rfl
@[simp] theorem State.modCore_net (s : State) (n : Nat) (f : Core → Core) : (s.modCore n f).net = s.net := rfl
@[simp] theorem State.modCore_regions (s : State) (n : Nat) (f : Core → Core) : (s.modCore n f).regions = s.regions := rfl
@[simp] theorem State.modCore_socs (s : State) (n : Nat) (f : Core → Core) : (s.modCore n f).socs = s.socs := rfl
@[simp] theorem State.modCore_copies (s : State) (n : Nat) (f : Core → Core) : (s.modCore n f).copies = s.copies := rfl
@[simp] theorem State.modCore_attns (s : State) (n : Nat) (f : Core → Core) : (s.modCore n f).attns = s.attns := rfl
@[simp] theorem State.modCore_layouts (s : State) (n : Nat) (f : Core → Core) : (s.modCore n f).layouts = s.layouts := rfl
@[simp] theorem State.modCore_requests (s : State) (n : Nat) (f : Core → Core) : (s.modCore n f).requests = s.requests := rfl
@[simp] theorem State.modCore_loops (s : State) (n : Nat) (f : Core → Core) : (s.modCore n f).loops = s.loops := rfl
@[simp] theorem State.modCore_apps (s : State) (n : Nat) (f : Core → Core) : (s.modCore n f).apps = s.apps := rfl
@[simp] theorem State.modCore_plic (s : State) (n : Nat) (f : Core → Core) : (s.modCore n f).plic = s.plic := rfl
@[simp] theorem State.modCore_tcms (s : State) (n : Nat) (f : Core → Core) : (s.modCore n f).tcms = s.tcms := rfl
@[simp] theorem State.modCore_queues (s : State) (n : Nat) (f : Core → Core) : (s.modCore n f).queues = s.queues := rfl
@[simp] theorem State.modCore_owners (s : State) (n : Nat) (f : Core → Core) : (s.modCore n f).owners = s.owners := rfl
@[simp] theorem State.modCore_endpoint (s : State) (n : Nat) (f : Core → Core) : (s.modCore n f).endpoint = s.endpoint := rfl
@[simp] theorem State.modCore_dom (s : State) (n : Nat) (f : Core → Core) : (s.modCore n f).dom = s.dom := rfl
@[simp] theorem State.modCore_ckpt (s : State) (n : Nat) (f : Core → Core) : (s.modCore n f).ckpt = s.ckpt := rfl
@[simp] theorem State.modCore_leafIndex (s : State) (n : Nat) (f : Core → Core) : (s.modCore n f).leafIndex = s.leafIndex := rfl
@[simp] theorem State.modCore_flash (s : State) (n : Nat) (f : Core → Core) : (s.modCore n f).flash = s.flash := rfl
@[simp] theorem State.modCore_passed (s : State) (n : Nat) (f : Core → Core) : (s.modCore n f).passed = s.passed := rfl
@[simp] theorem State.modCore_still (s : State) (n : Nat) (f : Core → Core) : (s.modCore n f).still = s.still := rfl
@[simp] theorem State.modCore_stalled (s : State) (n : Nat) (f : Core → Core) : (s.modCore n f).stalled = s.stalled := rfl

/-! ### modCo -/

@[simp] theorem State.modCo_cur (s : State) (f : Core → Core) : (s.modCo f).cur = s.cur := rfl
@[simp] theorem State.modCo_grp (s : State) (f : Core → Core) : (s.modCo f).grp = s.grp := rfl
@[simp] theorem State.modCo_fresh (s : State) (f : Core → Core) : (s.modCo f).fresh = s.fresh := rfl
@[simp] theorem State.modCo_inputs (s : State) (f : Core → Core) : (s.modCo f).inputs = s.inputs := rfl
@[simp] theorem State.modCo_outputs (s : State) (f : Core → Core) : (s.modCo f).outputs = s.outputs := rfl
@[simp] theorem State.modCo_stopped (s : State) (f : Core → Core) : (s.modCo f).stopped = s.stopped := rfl
@[simp] theorem State.modCo_cycle (s : State) (f : Core → Core) : (s.modCo f).cycle = s.cycle := rfl
@[simp] theorem State.modCo_phase (s : State) (f : Core → Core) : (s.modCo f).phase = s.phase := rfl
@[simp] theorem State.modCo_domTicks (s : State) (f : Core → Core) : (s.modCo f).domTicks = s.domTicks := rfl
@[simp] theorem State.modCo_sysTicks (s : State) (f : Core → Core) : (s.modCo f).sysTicks = s.sysTicks := rfl
@[simp] theorem State.modCo_ltCycle (s : State) (f : Core → Core) : (s.modCo f).ltCycle = s.ltCycle := rfl
@[simp] theorem State.modCo_throttle (s : State) (f : Core → Core) : (s.modCo f).throttle = s.throttle := rfl
@[simp] theorem State.modCo_pkgNum (s : State) (f : Core → Core) : (s.modCo f).pkgNum = s.pkgNum := rfl
@[simp] theorem State.modCo_pkgDom (s : State) (f : Core → Core) : (s.modCo f).pkgDom = s.pkgDom := rfl
@[simp] theorem State.modCo_localHoming (s : State) (f : Core → Core) : (s.modCo f).localHoming = s.localHoming := rfl
@[simp] theorem State.modCo_ctxs (s : State) (f : Core → Core) : (s.modCo f).ctxs = s.ctxs := rfl
@[simp] theorem State.modCo_mem (s : State) (f : Core → Core) : (s.modCo f).mem = s.mem := rfl
@[simp] theorem State.modCo_behind (s : State) (f : Core → Core) : (s.modCo f).behind = s.behind := rfl
@[simp] theorem State.modCo_poison (s : State) (f : Core → Core) : (s.modCo f).poison = s.poison := rfl
@[simp] theorem State.modCo_leases (s : State) (f : Core → Core) : (s.modCo f).leases = s.leases := rfl
@[simp] theorem State.modCo_enc (s : State) (f : Core → Core) : (s.modCo f).enc = s.enc := rfl
@[simp] theorem State.modCo_agents (s : State) (f : Core → Core) : (s.modCo f).agents = s.agents := rfl
@[simp] theorem State.modCo_early (s : State) (f : Core → Core) : (s.modCo f).early = s.early := rfl
@[simp] theorem State.modCo_past (s : State) (f : Core → Core) : (s.modCo f).past = s.past := rfl
@[simp] theorem State.modCo_tlb (s : State) (f : Core → Core) : (s.modCo f).tlb = s.tlb := rfl
@[simp] theorem State.modCo_affine (s : State) (f : Core → Core) : (s.modCo f).affine = s.affine := rfl
@[simp] theorem State.modCo_keys (s : State) (f : Core → Core) : (s.modCo f).keys = s.keys := rfl
@[simp] theorem State.modCo_net (s : State) (f : Core → Core) : (s.modCo f).net = s.net := rfl
@[simp] theorem State.modCo_regions (s : State) (f : Core → Core) : (s.modCo f).regions = s.regions := rfl
@[simp] theorem State.modCo_socs (s : State) (f : Core → Core) : (s.modCo f).socs = s.socs := rfl
@[simp] theorem State.modCo_copies (s : State) (f : Core → Core) : (s.modCo f).copies = s.copies := rfl
@[simp] theorem State.modCo_attns (s : State) (f : Core → Core) : (s.modCo f).attns = s.attns := rfl
@[simp] theorem State.modCo_layouts (s : State) (f : Core → Core) : (s.modCo f).layouts = s.layouts := rfl
@[simp] theorem State.modCo_requests (s : State) (f : Core → Core) : (s.modCo f).requests = s.requests := rfl
@[simp] theorem State.modCo_loops (s : State) (f : Core → Core) : (s.modCo f).loops = s.loops := rfl
@[simp] theorem State.modCo_apps (s : State) (f : Core → Core) : (s.modCo f).apps = s.apps := rfl
@[simp] theorem State.modCo_plic (s : State) (f : Core → Core) : (s.modCo f).plic = s.plic := rfl
@[simp] theorem State.modCo_tcms (s : State) (f : Core → Core) : (s.modCo f).tcms = s.tcms := rfl
@[simp] theorem State.modCo_queues (s : State) (f : Core → Core) : (s.modCo f).queues = s.queues := rfl
@[simp] theorem State.modCo_owners (s : State) (f : Core → Core) : (s.modCo f).owners = s.owners := rfl
@[simp] theorem State.modCo_endpoint (s : State) (f : Core → Core) : (s.modCo f).endpoint = s.endpoint := rfl
@[simp] theorem State.modCo_dom (s : State) (f : Core → Core) : (s.modCo f).dom = s.dom := rfl
@[simp] theorem State.modCo_ckpt (s : State) (f : Core → Core) : (s.modCo f).ckpt = s.ckpt := rfl
@[simp] theorem State.modCo_leafIndex (s : State) (f : Core → Core) : (s.modCo f).leafIndex = s.leafIndex := rfl
@[simp] theorem State.modCo_flash (s : State) (f : Core → Core) : (s.modCo f).flash = s.flash := rfl
@[simp] theorem State.modCo_passed (s : State) (f : Core → Core) : (s.modCo f).passed = s.passed := rfl
@[simp] theorem State.modCo_still (s : State) (f : Core → Core) : (s.modCo f).still = s.still := rfl
@[simp] theorem State.modCo_stalled (s : State) (f : Core → Core) : (s.modCo f).stalled = s.stalled := rfl

/-! ### setRegion -/

@[simp] theorem State.setRegion_cur (s : State) (n : Nat) (r : Region) : (s.setRegion n r).cur = s.cur := rfl
@[simp] theorem State.setRegion_grp (s : State) (n : Nat) (r : Region) : (s.setRegion n r).grp = s.grp := rfl
@[simp] theorem State.setRegion_fresh (s : State) (n : Nat) (r : Region) : (s.setRegion n r).fresh = s.fresh := rfl
@[simp] theorem State.setRegion_inputs (s : State) (n : Nat) (r : Region) : (s.setRegion n r).inputs = s.inputs := rfl
@[simp] theorem State.setRegion_outputs (s : State) (n : Nat) (r : Region) : (s.setRegion n r).outputs = s.outputs := rfl
@[simp] theorem State.setRegion_stopped (s : State) (n : Nat) (r : Region) : (s.setRegion n r).stopped = s.stopped := rfl
@[simp] theorem State.setRegion_cycle (s : State) (n : Nat) (r : Region) : (s.setRegion n r).cycle = s.cycle := rfl
@[simp] theorem State.setRegion_phase (s : State) (n : Nat) (r : Region) : (s.setRegion n r).phase = s.phase := rfl
@[simp] theorem State.setRegion_domTicks (s : State) (n : Nat) (r : Region) : (s.setRegion n r).domTicks = s.domTicks := rfl
@[simp] theorem State.setRegion_sysTicks (s : State) (n : Nat) (r : Region) : (s.setRegion n r).sysTicks = s.sysTicks := rfl
@[simp] theorem State.setRegion_ltCycle (s : State) (n : Nat) (r : Region) : (s.setRegion n r).ltCycle = s.ltCycle := rfl
@[simp] theorem State.setRegion_throttle (s : State) (n : Nat) (r : Region) : (s.setRegion n r).throttle = s.throttle := rfl
@[simp] theorem State.setRegion_pkgNum (s : State) (n : Nat) (r : Region) : (s.setRegion n r).pkgNum = s.pkgNum := rfl
@[simp] theorem State.setRegion_pkgDom (s : State) (n : Nat) (r : Region) : (s.setRegion n r).pkgDom = s.pkgDom := rfl
@[simp] theorem State.setRegion_localHoming (s : State) (n : Nat) (r : Region) : (s.setRegion n r).localHoming = s.localHoming := rfl
@[simp] theorem State.setRegion_ctxs (s : State) (n : Nat) (r : Region) : (s.setRegion n r).ctxs = s.ctxs := rfl
@[simp] theorem State.setRegion_cores (s : State) (n : Nat) (r : Region) : (s.setRegion n r).cores = s.cores := rfl
@[simp] theorem State.setRegion_mem (s : State) (n : Nat) (r : Region) : (s.setRegion n r).mem = s.mem := rfl
@[simp] theorem State.setRegion_behind (s : State) (n : Nat) (r : Region) : (s.setRegion n r).behind = s.behind := rfl
@[simp] theorem State.setRegion_poison (s : State) (n : Nat) (r : Region) : (s.setRegion n r).poison = s.poison := rfl
@[simp] theorem State.setRegion_leases (s : State) (n : Nat) (r : Region) : (s.setRegion n r).leases = s.leases := rfl
@[simp] theorem State.setRegion_enc (s : State) (n : Nat) (r : Region) : (s.setRegion n r).enc = s.enc := rfl
@[simp] theorem State.setRegion_agents (s : State) (n : Nat) (r : Region) : (s.setRegion n r).agents = s.agents := rfl
@[simp] theorem State.setRegion_early (s : State) (n : Nat) (r : Region) : (s.setRegion n r).early = s.early := rfl
@[simp] theorem State.setRegion_past (s : State) (n : Nat) (r : Region) : (s.setRegion n r).past = s.past := rfl
@[simp] theorem State.setRegion_tlb (s : State) (n : Nat) (r : Region) : (s.setRegion n r).tlb = s.tlb := rfl
@[simp] theorem State.setRegion_affine (s : State) (n : Nat) (r : Region) : (s.setRegion n r).affine = s.affine := rfl
@[simp] theorem State.setRegion_keys (s : State) (n : Nat) (r : Region) : (s.setRegion n r).keys = s.keys := rfl
@[simp] theorem State.setRegion_net (s : State) (n : Nat) (r : Region) : (s.setRegion n r).net = s.net := rfl
@[simp] theorem State.setRegion_socs (s : State) (n : Nat) (r : Region) : (s.setRegion n r).socs = s.socs := rfl
@[simp] theorem State.setRegion_copies (s : State) (n : Nat) (r : Region) : (s.setRegion n r).copies = s.copies := rfl
@[simp] theorem State.setRegion_attns (s : State) (n : Nat) (r : Region) : (s.setRegion n r).attns = s.attns := rfl
@[simp] theorem State.setRegion_layouts (s : State) (n : Nat) (r : Region) : (s.setRegion n r).layouts = s.layouts := rfl
@[simp] theorem State.setRegion_requests (s : State) (n : Nat) (r : Region) : (s.setRegion n r).requests = s.requests := rfl
@[simp] theorem State.setRegion_loops (s : State) (n : Nat) (r : Region) : (s.setRegion n r).loops = s.loops := rfl
@[simp] theorem State.setRegion_apps (s : State) (n : Nat) (r : Region) : (s.setRegion n r).apps = s.apps := rfl
@[simp] theorem State.setRegion_plic (s : State) (n : Nat) (r : Region) : (s.setRegion n r).plic = s.plic := rfl
@[simp] theorem State.setRegion_tcms (s : State) (n : Nat) (r : Region) : (s.setRegion n r).tcms = s.tcms := rfl
@[simp] theorem State.setRegion_queues (s : State) (n : Nat) (r : Region) : (s.setRegion n r).queues = s.queues := rfl
@[simp] theorem State.setRegion_owners (s : State) (n : Nat) (r : Region) : (s.setRegion n r).owners = s.owners := rfl
@[simp] theorem State.setRegion_endpoint (s : State) (n : Nat) (r : Region) : (s.setRegion n r).endpoint = s.endpoint := rfl
@[simp] theorem State.setRegion_dom (s : State) (n : Nat) (r : Region) : (s.setRegion n r).dom = s.dom := rfl
@[simp] theorem State.setRegion_ckpt (s : State) (n : Nat) (r : Region) : (s.setRegion n r).ckpt = s.ckpt := rfl
@[simp] theorem State.setRegion_leafIndex (s : State) (n : Nat) (r : Region) : (s.setRegion n r).leafIndex = s.leafIndex := rfl
@[simp] theorem State.setRegion_flash (s : State) (n : Nat) (r : Region) : (s.setRegion n r).flash = s.flash := rfl
@[simp] theorem State.setRegion_passed (s : State) (n : Nat) (r : Region) : (s.setRegion n r).passed = s.passed := rfl
@[simp] theorem State.setRegion_still (s : State) (n : Nat) (r : Region) : (s.setRegion n r).still = s.still := rfl
@[simp] theorem State.setRegion_stalled (s : State) (n : Nat) (r : Region) : (s.setRegion n r).stalled = s.stalled := rfl

/-! ### push -/

@[simp] theorem State.push_cur (s : State) (ps : List Packet) : (s.push ps).cur = s.cur := rfl
@[simp] theorem State.push_grp (s : State) (ps : List Packet) : (s.push ps).grp = s.grp := rfl
@[simp] theorem State.push_fresh (s : State) (ps : List Packet) : (s.push ps).fresh = s.fresh := rfl
@[simp] theorem State.push_inputs (s : State) (ps : List Packet) : (s.push ps).inputs = s.inputs := rfl
@[simp] theorem State.push_outputs (s : State) (ps : List Packet) : (s.push ps).outputs = s.outputs := rfl
@[simp] theorem State.push_stopped (s : State) (ps : List Packet) : (s.push ps).stopped = s.stopped := rfl
@[simp] theorem State.push_cycle (s : State) (ps : List Packet) : (s.push ps).cycle = s.cycle := rfl
@[simp] theorem State.push_phase (s : State) (ps : List Packet) : (s.push ps).phase = s.phase := rfl
@[simp] theorem State.push_domTicks (s : State) (ps : List Packet) : (s.push ps).domTicks = s.domTicks := rfl
@[simp] theorem State.push_sysTicks (s : State) (ps : List Packet) : (s.push ps).sysTicks = s.sysTicks := rfl
@[simp] theorem State.push_ltCycle (s : State) (ps : List Packet) : (s.push ps).ltCycle = s.ltCycle := rfl
@[simp] theorem State.push_throttle (s : State) (ps : List Packet) : (s.push ps).throttle = s.throttle := rfl
@[simp] theorem State.push_pkgNum (s : State) (ps : List Packet) : (s.push ps).pkgNum = s.pkgNum := rfl
@[simp] theorem State.push_pkgDom (s : State) (ps : List Packet) : (s.push ps).pkgDom = s.pkgDom := rfl
@[simp] theorem State.push_localHoming (s : State) (ps : List Packet) : (s.push ps).localHoming = s.localHoming := rfl
@[simp] theorem State.push_ctxs (s : State) (ps : List Packet) : (s.push ps).ctxs = s.ctxs := rfl
@[simp] theorem State.push_cores (s : State) (ps : List Packet) : (s.push ps).cores = s.cores := rfl
@[simp] theorem State.push_mem (s : State) (ps : List Packet) : (s.push ps).mem = s.mem := rfl
@[simp] theorem State.push_behind (s : State) (ps : List Packet) : (s.push ps).behind = s.behind := rfl
@[simp] theorem State.push_poison (s : State) (ps : List Packet) : (s.push ps).poison = s.poison := rfl
@[simp] theorem State.push_leases (s : State) (ps : List Packet) : (s.push ps).leases = s.leases := rfl
@[simp] theorem State.push_enc (s : State) (ps : List Packet) : (s.push ps).enc = s.enc := rfl
@[simp] theorem State.push_agents (s : State) (ps : List Packet) : (s.push ps).agents = s.agents := rfl
@[simp] theorem State.push_early (s : State) (ps : List Packet) : (s.push ps).early = s.early := rfl
@[simp] theorem State.push_past (s : State) (ps : List Packet) : (s.push ps).past = s.past := rfl
@[simp] theorem State.push_tlb (s : State) (ps : List Packet) : (s.push ps).tlb = s.tlb := rfl
@[simp] theorem State.push_affine (s : State) (ps : List Packet) : (s.push ps).affine = s.affine := rfl
@[simp] theorem State.push_keys (s : State) (ps : List Packet) : (s.push ps).keys = s.keys := rfl
@[simp] theorem State.push_regions (s : State) (ps : List Packet) : (s.push ps).regions = s.regions := rfl
@[simp] theorem State.push_socs (s : State) (ps : List Packet) : (s.push ps).socs = s.socs := rfl
@[simp] theorem State.push_copies (s : State) (ps : List Packet) : (s.push ps).copies = s.copies := rfl
@[simp] theorem State.push_attns (s : State) (ps : List Packet) : (s.push ps).attns = s.attns := rfl
@[simp] theorem State.push_layouts (s : State) (ps : List Packet) : (s.push ps).layouts = s.layouts := rfl
@[simp] theorem State.push_requests (s : State) (ps : List Packet) : (s.push ps).requests = s.requests := rfl
@[simp] theorem State.push_loops (s : State) (ps : List Packet) : (s.push ps).loops = s.loops := rfl
@[simp] theorem State.push_apps (s : State) (ps : List Packet) : (s.push ps).apps = s.apps := rfl
@[simp] theorem State.push_plic (s : State) (ps : List Packet) : (s.push ps).plic = s.plic := rfl
@[simp] theorem State.push_tcms (s : State) (ps : List Packet) : (s.push ps).tcms = s.tcms := rfl
@[simp] theorem State.push_queues (s : State) (ps : List Packet) : (s.push ps).queues = s.queues := rfl
@[simp] theorem State.push_owners (s : State) (ps : List Packet) : (s.push ps).owners = s.owners := rfl
@[simp] theorem State.push_endpoint (s : State) (ps : List Packet) : (s.push ps).endpoint = s.endpoint := rfl
@[simp] theorem State.push_dom (s : State) (ps : List Packet) : (s.push ps).dom = s.dom := rfl
@[simp] theorem State.push_ckpt (s : State) (ps : List Packet) : (s.push ps).ckpt = s.ckpt := rfl
@[simp] theorem State.push_leafIndex (s : State) (ps : List Packet) : (s.push ps).leafIndex = s.leafIndex := rfl
@[simp] theorem State.push_flash (s : State) (ps : List Packet) : (s.push ps).flash = s.flash := rfl
@[simp] theorem State.push_passed (s : State) (ps : List Packet) : (s.push ps).passed = s.passed := rfl
@[simp] theorem State.push_still (s : State) (ps : List Packet) : (s.push ps).still = s.still := rfl
@[simp] theorem State.push_stalled (s : State) (ps : List Packet) : (s.push ps).stalled = s.stalled := rfl

/-! ### modDom -/

@[simp] theorem State.modDom_cur (s : State) (f : Domain → Domain) : (s.modDom f).cur = s.cur := rfl
@[simp] theorem State.modDom_grp (s : State) (f : Domain → Domain) : (s.modDom f).grp = s.grp := rfl
@[simp] theorem State.modDom_fresh (s : State) (f : Domain → Domain) : (s.modDom f).fresh = s.fresh := rfl
@[simp] theorem State.modDom_inputs (s : State) (f : Domain → Domain) : (s.modDom f).inputs = s.inputs := rfl
@[simp] theorem State.modDom_outputs (s : State) (f : Domain → Domain) : (s.modDom f).outputs = s.outputs := rfl
@[simp] theorem State.modDom_stopped (s : State) (f : Domain → Domain) : (s.modDom f).stopped = s.stopped := rfl
@[simp] theorem State.modDom_cycle (s : State) (f : Domain → Domain) : (s.modDom f).cycle = s.cycle := rfl
@[simp] theorem State.modDom_phase (s : State) (f : Domain → Domain) : (s.modDom f).phase = s.phase := rfl
@[simp] theorem State.modDom_domTicks (s : State) (f : Domain → Domain) : (s.modDom f).domTicks = s.domTicks := rfl
@[simp] theorem State.modDom_sysTicks (s : State) (f : Domain → Domain) : (s.modDom f).sysTicks = s.sysTicks := rfl
@[simp] theorem State.modDom_ltCycle (s : State) (f : Domain → Domain) : (s.modDom f).ltCycle = s.ltCycle := rfl
@[simp] theorem State.modDom_throttle (s : State) (f : Domain → Domain) : (s.modDom f).throttle = s.throttle := rfl
@[simp] theorem State.modDom_pkgNum (s : State) (f : Domain → Domain) : (s.modDom f).pkgNum = s.pkgNum := rfl
@[simp] theorem State.modDom_pkgDom (s : State) (f : Domain → Domain) : (s.modDom f).pkgDom = s.pkgDom := rfl
@[simp] theorem State.modDom_localHoming (s : State) (f : Domain → Domain) : (s.modDom f).localHoming = s.localHoming := rfl
@[simp] theorem State.modDom_ctxs (s : State) (f : Domain → Domain) : (s.modDom f).ctxs = s.ctxs := rfl
@[simp] theorem State.modDom_cores (s : State) (f : Domain → Domain) : (s.modDom f).cores = s.cores := rfl
@[simp] theorem State.modDom_mem (s : State) (f : Domain → Domain) : (s.modDom f).mem = s.mem := rfl
@[simp] theorem State.modDom_behind (s : State) (f : Domain → Domain) : (s.modDom f).behind = s.behind := rfl
@[simp] theorem State.modDom_poison (s : State) (f : Domain → Domain) : (s.modDom f).poison = s.poison := rfl
@[simp] theorem State.modDom_leases (s : State) (f : Domain → Domain) : (s.modDom f).leases = s.leases := rfl
@[simp] theorem State.modDom_enc (s : State) (f : Domain → Domain) : (s.modDom f).enc = s.enc := rfl
@[simp] theorem State.modDom_agents (s : State) (f : Domain → Domain) : (s.modDom f).agents = s.agents := rfl
@[simp] theorem State.modDom_early (s : State) (f : Domain → Domain) : (s.modDom f).early = s.early := rfl
@[simp] theorem State.modDom_past (s : State) (f : Domain → Domain) : (s.modDom f).past = s.past := rfl
@[simp] theorem State.modDom_tlb (s : State) (f : Domain → Domain) : (s.modDom f).tlb = s.tlb := rfl
@[simp] theorem State.modDom_affine (s : State) (f : Domain → Domain) : (s.modDom f).affine = s.affine := rfl
@[simp] theorem State.modDom_keys (s : State) (f : Domain → Domain) : (s.modDom f).keys = s.keys := rfl
@[simp] theorem State.modDom_net (s : State) (f : Domain → Domain) : (s.modDom f).net = s.net := rfl
@[simp] theorem State.modDom_regions (s : State) (f : Domain → Domain) : (s.modDom f).regions = s.regions := rfl
@[simp] theorem State.modDom_socs (s : State) (f : Domain → Domain) : (s.modDom f).socs = s.socs := rfl
@[simp] theorem State.modDom_copies (s : State) (f : Domain → Domain) : (s.modDom f).copies = s.copies := rfl
@[simp] theorem State.modDom_attns (s : State) (f : Domain → Domain) : (s.modDom f).attns = s.attns := rfl
@[simp] theorem State.modDom_layouts (s : State) (f : Domain → Domain) : (s.modDom f).layouts = s.layouts := rfl
@[simp] theorem State.modDom_requests (s : State) (f : Domain → Domain) : (s.modDom f).requests = s.requests := rfl
@[simp] theorem State.modDom_loops (s : State) (f : Domain → Domain) : (s.modDom f).loops = s.loops := rfl
@[simp] theorem State.modDom_apps (s : State) (f : Domain → Domain) : (s.modDom f).apps = s.apps := rfl
@[simp] theorem State.modDom_plic (s : State) (f : Domain → Domain) : (s.modDom f).plic = s.plic := rfl
@[simp] theorem State.modDom_tcms (s : State) (f : Domain → Domain) : (s.modDom f).tcms = s.tcms := rfl
@[simp] theorem State.modDom_queues (s : State) (f : Domain → Domain) : (s.modDom f).queues = s.queues := rfl
@[simp] theorem State.modDom_owners (s : State) (f : Domain → Domain) : (s.modDom f).owners = s.owners := rfl
@[simp] theorem State.modDom_endpoint (s : State) (f : Domain → Domain) : (s.modDom f).endpoint = s.endpoint := rfl
@[simp] theorem State.modDom_ckpt (s : State) (f : Domain → Domain) : (s.modDom f).ckpt = s.ckpt := rfl
@[simp] theorem State.modDom_leafIndex (s : State) (f : Domain → Domain) : (s.modDom f).leafIndex = s.leafIndex := rfl
@[simp] theorem State.modDom_flash (s : State) (f : Domain → Domain) : (s.modDom f).flash = s.flash := rfl
@[simp] theorem State.modDom_passed (s : State) (f : Domain → Domain) : (s.modDom f).passed = s.passed := rfl
@[simp] theorem State.modDom_still (s : State) (f : Domain → Domain) : (s.modDom f).still = s.still := rfl
@[simp] theorem State.modDom_stalled (s : State) (f : Domain → Domain) : (s.modDom f).stalled = s.stalled := rfl

/-! ### Accessors after an update -/

@[simp] theorem State.getCtx_setCtx_self (s : State) (k : Nat) (c : Context) : (s.setCtx k c).getCtx k = c := by
  simp [State.getCtx, State.setCtx]
theorem State.getCtx_setCtx_ne (s : State) (k j : Nat) (c : Context) (h : j ≠ k) : (s.setCtx k c).getCtx j = s.getCtx j := by
  simp [State.getCtx, State.setCtx, kgetD_kset_ne _ _ _ _ _ h]
@[simp] theorem State.getCtx_modCtx_self (s : State) (k : Nat) (f : Context → Context) : (s.modCtx k f).getCtx k = f (s.getCtx k) := by
  simp [State.modCtx]
theorem State.getCtx_modCtx_ne (s : State) (k j : Nat) (f : Context → Context) (h : j ≠ k) :
    (s.modCtx k f).getCtx j = s.getCtx j := State.getCtx_setCtx_ne s k j _ h
@[simp] theorem State.cx_setCx (s : State) (c : Context) : (s.setCx c).cx = c := State.getCtx_setCtx_self s s.cur c
@[simp] theorem State.cx_modCx (s : State) (f : Context → Context) : (s.modCx f).cx = f s.cx := State.getCtx_setCtx_self s s.cur _
@[simp] theorem State.cx_retire (s : State) : s.retire.cx = s.cx.advance s.lastWord := State.cx_modCx s _
@[simp] theorem State.cx_goto (s : State) (a : Dword) : (s.goto a).cx = { s.cx with pc := canon a, wait := none } := State.cx_modCx s _
theorem State.getCtx_modCx_ne (s : State) (j : Nat) (f : Context → Context) (h : j ≠ s.cur) : (s.modCx f).getCtx j = s.getCtx j :=
  State.getCtx_setCtx_ne s s.cur j _ h
theorem State.getCtx_retire_ne (s : State) (j : Nat) (h : j ≠ s.cur) : s.retire.getCtx j = s.getCtx j := State.getCtx_modCx_ne s j _ h
theorem State.getCtx_goto_ne (s : State) (a : Dword) (j : Nat) (h : j ≠ s.cur) : (s.goto a).getCtx j = s.getCtx j :=
  State.getCtx_modCx_ne s j _ h

@[simp] theorem State.getCore_setCore_self (s : State) (n : Nat) (c : Core) : (s.setCore n c).getCore n = c := by
  simp [State.getCore, State.setCore]
theorem State.getCore_setCore_ne (s : State) (n j : Nat) (c : Core) (h : j ≠ n) : (s.setCore n c).getCore j = s.getCore j := by
  simp [State.getCore, State.setCore, kgetD_kset_ne _ _ _ _ _ h]
@[simp] theorem State.getCore_modCore_self (s : State) (n : Nat) (f : Core → Core) : (s.modCore n f).getCore n = f (s.getCore n) := by
  simp [State.modCore]

@[simp] theorem State.getCtx_setCore (s : State) (n k : Nat) (c : Core) : (s.setCore n c).getCtx k = s.getCtx k := rfl
@[simp] theorem State.getCtx_modCore (s : State) (n k : Nat) (f : Core → Core) : (s.modCore n f).getCtx k = s.getCtx k := rfl
@[simp] theorem State.getCore_setCtx (s : State) (n k : Nat) (c : Context) : (s.setCtx k c).getCore n = s.getCore n := rfl
@[simp] theorem State.getCore_modCtx (s : State) (n k : Nat) (f : Context → Context) : (s.modCtx k f).getCore n = s.getCore n := rfl
@[simp] theorem State.getCore_modCx (s : State) (n : Nat) (f : Context → Context) : (s.modCx f).getCore n = s.getCore n := rfl
@[simp] theorem State.getCore_retire (s : State) (n : Nat) : s.retire.getCore n = s.getCore n := rfl
@[simp] theorem State.getCtx_push (s : State) (k : Nat) (ps : List Packet) : (s.push ps).getCtx k = s.getCtx k := rfl
@[simp] theorem State.getCore_push (s : State) (n : Nat) (ps : List Packet) : (s.push ps).getCore n = s.getCore n := rfl
@[simp] theorem State.getCtx_setRegion (s : State) (k n : Nat) (r : Region) : (s.setRegion n r).getCtx k = s.getCtx k := rfl
@[simp] theorem State.getRegion_setRegion_self (s : State) (n : Nat) (r : Region) : (s.setRegion n r).getRegion? n = some r := by
  simp [State.getRegion?, State.setRegion, kget_kset_self]

@[simp] theorem State.lastWord_modCx (s : State) (f : Context → Context) : (s.modCx f).lastWord = s.lastWord := rfl
@[simp] theorem State.coreNum_modCx (s : State) (f : Context → Context) : (s.modCx f).coreNum = s.coreNum := rfl
@[simp] theorem State.slotNum_modCx (s : State) (f : Context → Context) : (s.modCx f).slotNum = s.slotNum := rfl
@[simp] theorem State.co_modCx (s : State) (f : Context → Context) : (s.modCx f).co = s.co := rfl

/-- Two updates of one context are one. -/
theorem State.setCtx_setCtx (s : State) (k : Nat) (c d : Context) : (s.setCtx k c).setCtx k d = s.setCtx k d := by
  simp only [State.setCtx, kset_kset]
theorem State.modCx_modCx (s : State) (f g : Context → Context) : (s.modCx f).modCx g = s.modCx (fun c => g (f c)) := by
  simp only [State.modCx, State.setCx, State.cx, State.setCtx_setCtx, State.setCtx_cur, State.getCtx_setCtx_self]

end Sys2Proof.Machine
end

