-- ==== Sys2Proof/Laws/Registers.lean ====
section
/-! SUPPORT. Reading a register after a write of one, and what completing an instruction leaves. -/

namespace Sys2Proof.Machine

/-! ### Bits of a poison register -/

theorem getLsbD_setBit {n : Nat} (x : BitVec n) (i j : Nat) (b : Bool) (hj : j < n) :
    (setBit x i b).getLsbD j = if j = i then b else x.getLsbD j := by
  unfold setBit
  have hb : (BitVec.ofNat n (2 ^ i)).getLsbD j = decide (j = i) := by
    simp only [BitVec.getLsbD_ofNat, hj, decide_true, Bool.true_and, Nat.testBit_two_pow, eq_comm (a := i)]
  cases b with
  | true => simp only [if_true, BitVec.getLsbD_or, hb]; by_cases h : j = i <;> simp [h]
  | false => simp only [Bool.false_eq_true, if_false, BitVec.getLsbD_and, BitVec.getLsbD_not, hb]; by_cases h : j = i <;> simp [h, hj]

/-! ### Scalars -/

theorem Context.s_zero (c : Context) : c.s 0 = 0 := rfl
theorem Context.sp_zero (c : Context) : c.sp 0 = false := rfl

@[simp] theorem Context.s_setS_self (c : Context) (r : Reg) (v : Dword) (p : Bool) (h : r ≠ 0) : (c.setS r v p).s r = v := by
  simp only [Context.s, Context.setS, if_neg h, Vector.getElem_set_self]
@[simp] theorem Context.sp_setS_self (c : Context) (r : Reg) (v : Dword) (p : Bool) (h : r ≠ 0) : (c.setS r v p).sp r = p := by
  simp only [Context.sp, Context.setS, if_neg h, getLsbD_setBit _ _ _ _ r.isLt, if_true, bne_iff_ne.mpr h, Bool.true_and]
theorem Context.s_setS_ne (c : Context) (r q : Reg) (v : Dword) (p : Bool) (h : q ≠ r) : (c.setS r v p).s q = c.s q := by
  unfold Context.setS
  split
  · rfl
  · simp only [Context.s]
    split
    · rfl
    · have : r.toNat ≠ q.toNat := fun e => h (BitVec.eq_of_toNat_eq e.symm)
      simp [this]
theorem Context.sp_setS_ne (c : Context) (r q : Reg) (v : Dword) (p : Bool) (h : q ≠ r) : (c.setS r v p).sp q = c.sp q := by
  unfold Context.setS
  split
  · rfl
  · have : q.toNat ≠ r.toNat := fun e => h (BitVec.eq_of_toNat_eq e)
    simp only [Context.sp, getLsbD_setBit _ _ _ _ q.isLt, if_neg this]
@[simp] theorem Context.v_setS (c : Context) (r q : Reg) (v : Dword) (p : Bool) : (c.setS r v p).v q = c.v q := by
  unfold Context.setS; split <;> rfl
@[simp] theorem Context.vp_setS (c : Context) (r q : Reg) (v : Dword) (p : Bool) : (c.setS r v p).vp q = c.vp q := by
  unfold Context.setS; split <;> rfl
@[simp] theorem Context.p_setS (c : Context) (r : Reg) (q : PReg) (v : Dword) (p : Bool) : (c.setS r v p).p q = c.p q := by
  unfold Context.setS; split <;> rfl
@[simp] theorem Context.rest_setS (c : Context) (r : Reg) (v : Dword) (p : Bool) : (c.setS r v p).rest = c.rest := by
  unfold Context.setS; split <;> rfl
@[simp] theorem Context.cr_setS (c : Context) (r : Reg) (v : Dword) (p : Bool) : (c.setS r v p).cr = c.cr := by
  unfold Context.setS; split <;> rfl
@[simp] theorem Context.mode_setS (c : Context) (r : Reg) (v : Dword) (p : Bool) : (c.setS r v p).mode = c.mode := by
  unfold Context.setS; split <;> rfl

/-! ### Predicates -/

@[simp] theorem Context.p_setP_self (c : Context) (r : PReg) (v : Dword) (h : r ≠ 0) : (c.setP r v).p r = v := by
  simp only [Context.p, Context.setP, if_neg h, Vector.getElem_set_self]
theorem Context.p_setP_ne (c : Context) (r q : PReg) (v : Dword) (h : q ≠ r) : (c.setP r v).p q = c.p q := by
  unfold Context.setP
  split
  · rfl
  · simp only [Context.p]
    split
    · rfl
    · have : r.toNat ≠ q.toNat := fun e => h (BitVec.eq_of_toNat_eq e.symm)
      simp [this]
@[simp] theorem Context.s_setP (c : Context) (r : PReg) (q : Reg) (v : Dword) : (c.setP r v).s q = c.s q := by
  unfold Context.setP; split <;> rfl
@[simp] theorem Context.sp_setP (c : Context) (r : PReg) (q : Reg) (v : Dword) : (c.setP r v).sp q = c.sp q := by
  unfold Context.setP; split <;> rfl
@[simp] theorem Context.v_setP (c : Context) (r : PReg) (q : Reg) (v : Dword) : (c.setP r v).v q = c.v q := by
  unfold Context.setP; split <;> rfl
@[simp] theorem Context.vp_setP (c : Context) (r : PReg) (q : Reg) (v : Dword) : (c.setP r v).vp q = c.vp q := by
  unfold Context.setP; split <;> rfl
@[simp] theorem Context.rest_setP (c : Context) (r : PReg) (v : Dword) : (c.setP r v).rest = c.rest := by
  unfold Context.setP; split <;> rfl
@[simp] theorem Context.cr_setP (c : Context) (r : PReg) (v : Dword) : (c.setP r v).cr = c.cr := by
  unfold Context.setP; split <;> rfl

/-! ### Vectors -/

@[simp] theorem Context.v_setV_self (c : Context) (r : Reg) (v : VReg) (p : Bool) (h : c.portOf r = none) : (c.setV r v p).v r = v := by
  simp [Context.v, Context.setV, h]
@[simp] theorem Context.vp_setV_self (c : Context) (r : Reg) (v : VReg) (p : Bool) (h : c.portOf r = none) : (c.setV r v p).vp r = p := by
  simp only [Context.vp, Context.setV, h, getLsbD_setBit _ _ _ _ r.isLt, if_true]
/-- A write of a bound port is discarded (R136). -/
theorem Context.setV_port (c : Context) (r : Reg) (v : VReg) (p : Bool) (q : Port) (h : c.portOf r = some q) : c.setV r v p = c := by
  simp [Context.setV, h]
theorem Context.v_setV_ne (c : Context) (r q : Reg) (v : VReg) (p : Bool) (h : q ≠ r) : (c.setV r v p).v q = c.v q := by
  unfold Context.setV
  split
  · rfl
  · have : r.toNat ≠ q.toNat := fun e => h (BitVec.eq_of_toNat_eq e.symm)
    simp [Context.v, this]
theorem Context.vp_setV_ne (c : Context) (r q : Reg) (v : VReg) (p : Bool) (h : q ≠ r) : (c.setV r v p).vp q = c.vp q := by
  unfold Context.setV
  split
  · rfl
  · have : q.toNat ≠ r.toNat := fun e => h (BitVec.eq_of_toNat_eq e)
    simp only [Context.vp, getLsbD_setBit _ _ _ _ q.isLt, if_neg this]
@[simp] theorem Context.s_setV (c : Context) (r q : Reg) (v : VReg) (p : Bool) : (c.setV r v p).s q = c.s q := by
  unfold Context.setV; split <;> rfl
@[simp] theorem Context.sp_setV (c : Context) (r q : Reg) (v : VReg) (p : Bool) : (c.setV r v p).sp q = c.sp q := by
  unfold Context.setV; split <;> rfl
@[simp] theorem Context.p_setV (c : Context) (r : Reg) (q : PReg) (v : VReg) (p : Bool) : (c.setV r v p).p q = c.p q := by
  unfold Context.setV; split <;> rfl
@[simp] theorem Context.rest_setV (c : Context) (r : Reg) (v : VReg) (p : Bool) : (c.setV r v p).rest = c.rest := by
  unfold Context.setV; split <;> rfl
@[simp] theorem Context.cr_setV (c : Context) (r : Reg) (v : VReg) (p : Bool) : (c.setV r v p).cr = c.cr := by
  unfold Context.setV; split <;> rfl

/-! ### Completing an instruction (R87) -/

@[simp] theorem Context.s_advance (c : Context) (a : Dword) (r : Reg) : (c.advance a).s r = c.s r := by
  unfold Context.advance; split <;> [split; skip] <;> rfl
@[simp] theorem Context.sp_advance (c : Context) (a : Dword) (r : Reg) : (c.advance a).sp r = c.sp r := by
  unfold Context.advance; split <;> [split; skip] <;> rfl
@[simp] theorem Context.v_advance (c : Context) (a : Dword) (r : Reg) : (c.advance a).v r = c.v r := by
  unfold Context.advance; split <;> [split; skip] <;> rfl
@[simp] theorem Context.vp_advance (c : Context) (a : Dword) (r : Reg) : (c.advance a).vp r = c.vp r := by
  unfold Context.advance; split <;> [split; skip] <;> rfl
@[simp] theorem Context.p_advance (c : Context) (a : Dword) (r : PReg) : (c.advance a).p r = c.p r := by
  unfold Context.advance; split <;> [split; skip] <;> rfl
@[simp] theorem Context.rest_advance (c : Context) (a : Dword) : (c.advance a).rest = c.rest := by
  unfold Context.advance; split <;> [split; skip] <;> rfl
@[simp] theorem Context.mode_advance (c : Context) (a : Dword) : (c.advance a).mode = c.mode := by
  unfold Context.advance; split <;> [split; skip] <;> rfl
@[simp] theorem Context.wait_advance (c : Context) (a : Dword) : (c.advance a).wait = none := by
  unfold Context.advance; split <;> [split; skip] <;> rfl
@[simp] theorem Context.pc_advance (c : Context) (a : Dword) : (c.advance a).pc = (c.after a).1 := by
  unfold Context.advance Context.after; split <;> [split; skip] <;> rfl
@[simp] theorem Context.lcnt_advance (c : Context) (a : Dword) : (c.advance a).cr.lcnt = (c.after a).2 := by
  unfold Context.advance Context.after; split <;> [split; skip] <;> rfl

/-- Where an instruction goes on does not depend on what it wrote, unless that was a loop register. -/
theorem Context.after_congr {c d : Context} (a : Dword) (h : c.cr = d.cr) : c.after a = d.after a := by
  simp only [Context.after, h]

/-! ### One context changed -/

/-- A change of the running context is a change of it alone. -/
theorem State.onlyContext_modCx (s : State) (f : Context → Context) : s.OnlyContext (s.modCx f) s.cur :=
  ⟨fun j h => State.getCtx_modCx_ne s j f h, ⟨fun _ => rfl, fun _ _ => rfl⟩, rfl⟩
theorem State.onlyContext_retire (s : State) (f : Context → Context) : s.OnlyContext (s.modCx f).retire s.cur :=
  ⟨fun j h => (State.getCtx_retire_ne (s.modCx f) j h).trans (State.getCtx_modCx_ne s j f h), ⟨fun _ => rfl, fun _ _ => rfl⟩, rfl⟩

theorem State.onlyContext_refl (s : State) (k : Nat) : s.OnlyContext s k := ⟨fun _ _ => rfl, ⟨fun _ => rfl, fun _ _ => rfl⟩, rfl⟩

/-- What an instruction does that writes one scalar register and goes on. -/
theorem plain_setS (i : Instr) (s : State) (d : Reg) (v : Dword) (p : Bool)
    (h : exec i s = .next (s.modCx (fun c => c.setS d v p)).retire) :
    Plain i s (s.modCx (fun c => c.setS d v p)).retire [d] [] [] := by
  refine ⟨h, State.onlyContext_retire s _, ⟨?_, ?_, ?_, ?_⟩, ?_⟩
  · intro r hr
    have hr : r ≠ d := by simpa using hr
    simp [Context.s_setS_ne _ _ _ _ _ hr, Context.sp_setS_ne _ _ _ _ _ hr]
  · intro r _; simp
  · intro q _; simp
  · simp
  · simp [State.Retired, Context.after_congr (c := s.cx.setS d v p) (d := s.cx) _ (Context.cr_setS ..)]

/-- What an instruction does that writes no register and goes on. -/
theorem plain_retire (i : Instr) (s : State) (h : exec i s = .next s.retire) : Plain i s s.retire [] [] [] := by
  refine ⟨h, ?_, ⟨?_, ?_, ?_, ?_⟩, ?_⟩
  · exact ⟨fun j h => State.getCtx_retire_ne _ j h, ⟨fun _ => rfl, fun _ _ => rfl⟩, rfl⟩
  · intro r _; simp
  · intro r _; simp
  · intro q _; simp
  · simp
  · simp [State.Retired]

end Sys2Proof.Machine
end

