-- ==== Sys2Proof/Laws/Exec.lean ====
section
/-! SUPPORT. Running a computation of `Exec` one operation at a time, so that no proof unfolds its monad. -/

namespace Sys2Proof.Machine

/-- What follows a computation that has answered. -/
def Exec.andThen {α β : Type} (r : Except Stop α × State) (f : α → Exec β) : Except Stop β × State :=
  match r with
  | (.ok a, t) => f a t
  | (.error e, t) => (.error e, t)

@[simp] theorem Exec.andThen_ok {α β : Type} (a : α) (t : State) (f : α → Exec β) : Exec.andThen (.ok a, t) f = f a t := rfl
@[simp] theorem Exec.andThen_error {α β : Type} (e : Stop) (t : State) (f : α → Exec β) :
    Exec.andThen (.error e, t) f = (.error e, t) := rfl

@[simp] theorem Exec.bind_run {α β : Type} (m : Exec α) (f : α → Exec β) (s : State) :
    (m >>= f : Exec β) s = Exec.andThen (m s) f := by
  simp only [Bind.bind, ExceptT.bind, ExceptT.mk, StateT.bind, ExceptT.bindCont, Exec.andThen]
  rcases m s with ⟨r, t⟩
  cases r <;> rfl
@[simp] theorem Exec.pure_run {α : Type} (a : α) (s : State) : (pure a : Exec α) s = (.ok a, s) := rfl
@[simp] theorem Exec.get_run (s : State) : (get : Exec State) s = (.ok s, s) := rfl
@[simp] theorem Exec.set_run (t s : State) : (set t : Exec PUnit) s = (.ok ⟨⟩, t) := rfl
@[simp] theorem Exec.modify_run (f : State → State) (s : State) : (modify f : Exec PUnit) s = (.ok ⟨⟩, f s) := rfl
@[simp] theorem Exec.throw_run {α : Type} (e : Stop) (s : State) : (throw e : Exec α) s = (.error e, s) := rfl
@[simp] theorem Exec.map_run {α β : Type} (f : α → β) (m : Exec α) (s : State) :
    (f <$> m : Exec β) s = Exec.andThen (m s) (fun a => pure (f a)) := by
  rw [map_eq_pure_bind, Exec.bind_run]

@[simp] theorem trapWith_run {α : Type} (cause : Byte) (v : Dword) (s : State) :
    (trapWith cause v : Exec α) s = (.error (.trap cause v), s) := rfl
theorem guardTrap_run (ok : Bool) (cause : Byte) (v : Dword) (s : State) :
    guardTrap ok cause v s = if ok then (.ok (), s) else (.error (.trap cause v), s) := by
  cases ok <;> rfl
@[simp] theorem guardTrap_true (cause : Byte) (v : Dword) (s : State) : guardTrap true cause v s = (.ok (), s) := rfl
@[simp] theorem guardTrap_false (cause : Byte) (v : Dword) (s : State) :
    guardTrap false cause v s = (.error (.trap cause v), s) := rfl
@[simp] theorem guardPoison_false (s : State) : guardPoison false s = (.ok (), s) := rfl
@[simp] theorem guardPoison_true (s : State) : guardPoison true s = (.error (.trap cPOISON 0), s) := rfl
@[simp] theorem cx_run (s : State) : cx s = (.ok s.cx, s) := rfl
@[simp] theorem modCx_run (f : Context → Context) (s : State) : modCx f s = (.ok (), s.modCx f) := rfl
@[simp] theorem retireE_run (s : State) : retireE s = (.ok (), s.retire) := rfl

/-- A meaning whose computation completes answers the state that it leaves. -/
theorem finish_ok (m : Exec Unit) (s t : State) (h : m s = (.ok (), t)) : finish m s = .next t := by
  simp [finish, h]
/-- A meaning whose computation stops answers the state before it, as the attempt has left it, with the stop taken. -/
theorem finish_error (m : Exec Unit) (s t : State) (e : Stop) (h : m s = (.error e, t)) :
    finish m s = .next ((s.undone t).stop e) := by
  simp [finish, h]

/-- An attempt that has ended no region leaves of itself the counter of free values, the cached translations with the leases and the logical time of their walks,
and the mark of what holds the step up. -/
theorem State.undone_of_regions {s u : State} (h : u.regions = s.regions) :
    s.undone u = State.raiseTime { s with fresh := u.fresh, tlb := u.tlb, stalled := u.stalled, leases := u.leases, affine := u.affine }
      (.ctx s.cur) u.cx.lt := by
  simp [State.undone, h]
/-- A time that a context has reached raises nothing. -/
theorem State.raiseTime_le {s : State} {k t : Nat} (h : t ≤ (s.getCtx k).lt) : s.raiseTime (.ctx k) t = s := if_pos h
@[simp] theorem State.undone_self (s : State) : s.undone s = s := by
  rw [State.undone_of_regions rfl]
  exact State.raiseTime_le (Nat.le_refl _)

/-- Every meaning that is a computation answers a next state. -/
theorem finish_next (m : Exec Unit) (s : State) : ∃ t, finish m s = .next t := by
  unfold finish
  rcases m s with ⟨r, t⟩
  cases r <;> exact ⟨_, rfl⟩

end Sys2Proof.Machine
end

