-- ==== Sys2Proof/Laws/Access.lean ====
section
/-! SUPPORT. What the checks of an access answer when they pass, and what completing leaves. -/

namespace Sys2Proof.Machine

/-- Completing an instruction changes the running context alone, and there the pc, the wait and LCNT. -/
theorem from_retire (u : State) : From u u.retire [] [] [] := by
  refine ⟨⟨fun j h => State.getCtx_retire_ne _ j h, ⟨fun _ => rfl, fun _ _ => rfl⟩, rfl⟩, ⟨?_, ?_, ?_, ?_⟩, ?_⟩
  · intro r _; simp
  · intro r _; simp
  · intro q _; simp
  · simp
  · simp [State.Retired]

/-- The same with a scalar register written. -/
theorem from_setS (u : State) (d : Reg) (v : Dword) (p : Bool) : From u (u.modCx (fun c => c.setS d v p)).retire [d] [] [] := by
  refine ⟨State.onlyContext_retire u _, ⟨?_, ?_, ?_, ?_⟩, ?_⟩
  · intro r hr
    have hr : r ≠ d := by simpa using hr
    simp [Context.s_setS_ne _ _ _ _ _ hr, Context.sp_setS_ne _ _ _ _ _ hr]
  · intro r _; simp
  · intro q _; simp
  · simp
  · simp [State.Retired, Context.after_congr (c := u.cx.setS d v p) (d := u.cx) _ (Context.cr_setS ..)]

/-- A store in a permitted place passes TIMEDWR's check. -/
theorem guardTimed_ok {s : State} {va : Dword} {n : Nat} (h : timedOk s.cx va n = true) : guardTimed va n s = (.ok (), s) := by
  simp only [timedOk] at h
  simp only [guardTimed, Exec.bind_run, cx_run, Exec.andThen_ok]
  cases hf : s.cx.firing <;> simp_all [guardTrap_run]

/-- One outside them traps with its address. -/
theorem guardTimed_trap {s : State} {va : Dword} {n : Nat} (h : timedOk s.cx va n = false) :
    guardTimed va n s = (.error (.trap cTIMEDWR va), s) := by
  simp only [timedOk] at h
  simp only [guardTimed, Exec.bind_run, cx_run, Exec.andThen_ok]
  cases hf : s.cx.firing <;> simp_all [guardTrap_run]

/-- An access that reaches a place is translated to it. -/
theorem translateT_ok {s : State} {va : Dword} {acc : Access} {n : Nat} {p : Place} {u : State} (h : Reaches s va acc n p u) :
    translateT va acc n s = (.ok p, u) := by
  obtain ⟨h1, h2, h3⟩ := h
  simp only [translateT, tryTranslate, Exec.bind_run, Exec.get_run, Exec.andThen_ok, Exec.set_run, Exec.pure_run, h1]
  have hg : guardPlane p acc.writes u = (.ok (), u) := by
    simp only [guardPlane, Exec.bind_run, Exec.get_run, Exec.andThen_ok, h2]
    cases hw : acc.writes
    · rfl
    · simp only [h3 hw]; rfl
  rw [hg]; rfl

/-- An access whose translation meets a cause traps with its address (R82). -/
theorem translateT_error {s : State} {va : Dword} {acc : Access} {n : Nat} {c : Byte} {u : State}
    (h : s.translate (.ctx s.cur) s.coreNum s.cx.space va acc n = (.error c, u)) : translateT va acc n s = (.error (.trap c va), u) := by
  simp only [translateT, tryTranslate, Exec.bind_run, Exec.get_run, Exec.andThen_ok, Exec.set_run, Exec.pure_run, h]
  rfl

/-- No scratchpad word of an unretired engine instruction makes an access wait. -/
theorem waitSpWords_ok {s : State} {p : Place} {n : Nat} (h : wordsFree s p n = true) : waitSpWords p n s = (.ok (), s) := by
  cases p with
  | scratch off =>
    simp only [waitSpWords, Exec.bind_run, Exec.get_run, Exec.andThen_ok]
    rw [if_neg]
    · rfl
    · simpa [wordsFree] using h
  | _ => rfl

/-- Outside a firing a store makes no undo copy. -/
theorem logStore_plain {s : State} {va : Dword} {n : Nat} (h : s.cx.firing = none) : logStore va n s = (.ok (), s) := by
  simp only [logStore, Exec.bind_run, cx_run, Exec.andThen_ok, h]
  rfl

@[simp] theorem loadE_run (p : Place) (n : Nat) (s : State) : loadE p n s = (.ok (s.loadAt s.cur p n).1, (s.loadAt s.cur p n).2) := rfl
@[simp] theorem storeE_run (p : Place) (n v : Nat) (b : Bool) (s : State) : storeE p n v b s = (.ok (), s.storeAt s.cur p n v b) := rfl

end Sys2Proof.Machine
end

