-- ==== Sys2Proof/Laws/Shared.lean ====
section
/-! SUPPORT. What the shared operations of traps, seals, engine writes, vector lanes and promotions can do, said once (spec 01 R19, R22, R23; 05 R112; 10 R227; 15 R413; 17 R313;
19 R337). -/

namespace Sys2Proof.Machine

/-! ### Traps -/

/-- A trap of a U context enters the S context that takes it. -/
theorem State.trapToS_enters {s : State} {k : Nat} {e : TrapEntry} (h : s.takesTrap (k / 64) = true) :
    s.trapToS k e = (s.modCtx k (fun c => { c with inTrap := true, wait := none })).enterS (k / 64) (k % 64) e := if_pos h

/-- Else it waits under its slot. -/
theorem State.trapToS_waits {s : State} {k : Nat} {e : TrapEntry} (h : s.takesTrap (k / 64) = false) :
    s.trapToS k e = s.modCtx k (fun c => { c with trapped := some e, wait := none }) := if_neg (by simp [h])

/-- A trap other than POISON is taken once the units owe the context nothing. -/
theorem State.trapNow_takes {s : State} {cause : Byte} {v : Dword} (h : s.owesUnits = false) (hc : cause ≠ cPOISON) :
    s.trapNow cause v = s.takeTrap s.cur cause v s.grp.first (pfxOf s.grp) := by
  simp [State.trapNow, h, hc]

/-- While they do, the group waits. -/
theorem State.trapNow_waits {s : State} {cause : Byte} {v : Dword} (h : s.owesUnits = true) (hw : s.cx.wait = none) :
    s.trapNow cause v = s.beginWait .matrix := by
  simp [State.trapNow, h, hw]

/-- A context in the middle of its accesses is at no instruction boundary, unless it has made none of its stores yet. -/
theorem Context.midway_of_plan {c : Context} {p : LanePlan} (h : c.plan = some p) : c.midway = !p.back := by
  unfold Context.plan at h
  unfold Context.midway
  split at h
  · cases h
  · split at h <;> simp_all

/-- Accesses of which none has been made yet are taken back; nothing else is. -/
theorem Context.takeBack_back {c : Context} {p : LanePlan} (h : c.plan = some p) (hb : p.back = true) : c.takeBack = { c with wait := none } := by
  simp [Context.takeBack, h, hb]
theorem Context.takeBack_midway {c : Context} (h : c.midway = true) : c.takeBack = c := by
  unfold Context.takeBack
  match hp : c.plan with
  | none => rfl
  | some p =>
    have := Context.midway_of_plan hp
    simp_all

/-! ### Seals -/

/-- A sealed core is not sealed again. -/
theorem State.seal_sealed {s : State} {core : Nat} (h : (s.getCore core).sealed.isSome = true) : s.seal core = s := if_pos h

/-- A core whose units have nothing of it, and on which no instruction is to be completed, is sealed at once. -/
theorem State.seal_now {s : State} {core : Nat} (h : (s.getCore core).sealed.isSome = false) (hm : (s.getCore core).matq = [])
    (hs : (s.getCore core).spq = []) (hl : s.completesOn core = false) : s.seal core = s.sealNow core := by
  simp [State.seal, h, hm, hs, hl]

/-- A core on which an instruction is to be completed is not sealed yet: its other contexts issue nothing more. -/
theorem State.seal_waits {s : State} {core : Nat} (h : (s.getCore core).sealed.isSome = false) (hl : s.completesOn core = true) :
    ((s.seal core).getCore core).sealing = true ∧ ((s.seal core).getCore core).sealed = (s.getCore core).sealed := by
  simp [State.seal, h, hl]

/-! ### Writes of engines -/

/-- Where no early write is picked none is due. -/
theorem dueEarly_none {pick : Early → Bool} {l : List Early} (h : ∀ e ∈ l, pick e = false) : dueEarly pick l = [] := by
  induction l with
  | nil => rfl
  | cons e es ih =>
    have hes : dueEarly pick es = [] := ih (fun x hx => h x (List.mem_cons_of_mem _ hx))
    simp [dueEarly, hes, h e List.mem_cons_self]

/-- Where no early write is picked nothing takes its place. -/
theorem State.placeThose_none {s : State} {pick : Early → Bool} (h : ∀ e ∈ s.early, pick e = false) : s.placeThose pick = s := by
  have hd : dueEarly (fun e => pick e && !s.heldUp e.line true) s.early = [] := dueEarly_none (fun e he => by simp [h e he])
  simp [State.placeThose, hd]

/-- A context sees its own early writes. -/
theorem State.seesEarly_own {s : State} {k : Nat} {e : Early} (h : e.of k (s.getCtx k) = true) : s.seesEarly k e = true := by
  simp [State.seesEarly, h]

/-! ### Vector lanes -/

/-- An access with no lane left is over: it makes nothing more. -/
theorem runLanes_done {p : LanePlan} {s : State} (h : p.todo = []) : runLanes p s = (.ok p, s) := by
  obtain ⟨_, _, _, _, _, _, _, _, _⟩ := p
  cases h
  rfl

/-- A context that stands in the middle of an access runs the instruction that it has fetched, and fetches nothing. -/
theorem issueStep_midway {s : State} {k : Nat} {p : LanePlan} {w : Wait} {i : Instr} (hp : (s.getCtx k).plan = some p) (hw : (s.getCtx k).wait = some w)
    (hi : heldInstr w.grp = some i) : issueStep s k = exec i { s with cur := k, grp := w.grp } := by
  simp [issueStep, hp, hw, hi]

/-! ### Promotions -/

/-- A request that is not known, or may not go on, leaves the state as it is. -/
theorem execPromotion_idle {s : State} {n : Nat} (h : ∀ r, kget s.requests n = some r → s.promotionDue n r = false) : execPromotion n s = .next s := by
  unfold execPromotion
  split
  · rfl
  · next r hr => simp [h r hr]

/-! ### Stores with values of their own -/

/-- Where an access brings no values of its own, a store takes them from its source. -/
theorem LanePlan.value_source {p : LanePlan} (h : p.vals = []) (i : Nat) : p.value i = (lineBytes p.acc (p.bytes * i) p.bytes, p.pois) := by
  simp [LanePlan.value, h, kget]

/-- With nothing left to store the instruction pops its ports and completes. -/
theorem goOnStoring_done {pops : List Reg} {p : LanePlan} {s : State} (h : p.todo = []) :
    goOnStoring pops p s = (.ok (), (s.modCx (fun c => c.popPorts pops)).retire) := by
  simp [goOnStoring, runLanes_done h, h]

/-! ### The matrix unit -/

/-- With no block left to store an `mst` or `mstc` sets its flags and completes. -/
theorem goOnBlocks_done {p : LanePlan} {s : State} (h : p.todo = []) :
    goOnBlocks p s = (.ok (), (s.modCx (fun c => c.addFlags (BitVec.setWidth 8 p.acc))).retire) := by
  simp [goOnBlocks, runLanes_done h, h]

/-- A store of a tile waits for no member where none writes the tile and none is of the context. -/
theorem waitTile_free {s : State} {m : BitVec 7} (h : ∀ j ∈ s.co.matq, j.tile ≠ m.toNat ∧ j.slot ≠ s.slotNum) : waitTile m s = (.ok (), s) := by
  have h' : s.tileOwed m.toNat = false := by
    simpa [State.tileOwed, not_or] using h
  simp [waitTile, h']

/-! ### Interrupts and sequences -/

/-- A raised interrupt waits. -/
theorem State.raiseIrq_waits (s : State) (i : IrqSource) : i ∈ (s.raiseIrq i).plic.waiting := by
  unfold State.raiseIrq
  split
  · next h => exact List.contains_iff_mem.1 h
  · simp

/-- A target with nothing to claim changes nothing of the controller. -/
theorem State.claimIrq_none {s : State} {n : Nat} (h : s.plic.best n = none) :
    s.claimIrq n = { s with outputs := s.outputs ++ [.irqClaim n none] } := by simp [State.claimIrq, h]

end Sys2Proof.Machine
end

