-- ==== Sys2Proof/Tests/Slice0.lean ====
section
/-! SUPPORT. Tests: words of the spec's encodings, ill-formed terms, single steps on small states, and for every statement with
hypotheses a state and operands that meet them. -/

namespace Sys2Proof.Tests

set_option Elab.async false
open Sys2Proof Sys2Proof.Machine

/-! ### Decoding: the word that the tables of spec 02 and the entries give each instruction, with its operands in their fields -/

/-- A word is read as an instruction, and the instruction is written as that word. -/
def reads (l : List (Word × Instr)) : Bool := l.all (fun x => decode [x.1] == some x.2 && encode x.2 == [x.1])

/-- alu (R77). -/
theorem test_words_alu : reads [
    (0x0689_6400, .add 20 9 12 true),
    (0x0689_6401, .sub 20 9 12 true),
    (0x0689_6002, .and 20 9 12),
    (0x0689_6003, .or 20 9 12),
    (0x0689_6004, .xor 20 9 12),
    (0x0689_6005, .andn 20 9 12),
    (0x0689_6406, .sll 20 9 12 true),
    (0x0689_6407, .srl 20 9 12 true),
    (0x0689_6408, .sra 20 9 12 true),
    (0x0689_6009, .slt 20 9 12),
    (0x0689_600A, .sltn 20 9 12),
    (0x0689_600B, .min 20 9 12),
    (0x0689_600C, .max 20 9 12),
    (0x0689_600D, .minn 20 9 12),
    (0x0689_600E, .maxn 20 9 12),
    (0x0689_640F, .mul 20 9 12 true),
    (0x0689_6010, .mulh 20 9 12),
    (0x0689_6011, .mulhn 20 9 12),
    (0x0689_6012, .mulhsn 20 9 12),
    (0x0689_6413, .div 20 9 12 true),
    (0x0689_6414, .divn 20 9 12 true),
    (0x0689_6415, .rem 20 9 12 true),
    (0x0689_6416, .remn 20 9 12 true),
    (0x0689_0017, .clz 20 9),
    (0x0689_0018, .ctz 20 9),
    (0x0689_0019, .popc 20 9),
    (0x0689_001A, .bswap 20 9)] = true := by
  decide +kernel

/-- immediates (R78 to R80). -/
theorem test_words_immediates : reads [
    (0x0A89_FFFD, .addi 20 9 (-3)),
    (0x0E89_FFFD, .andi 20 9 (-3)),
    (0x1289_FFFD, .ori 20 9 (-3)),
    (0x1689_FFFD, .xori 20 9 (-3)),
    (0x1A89_FFFD, .slti 20 9 (-3)),
    (0x1E89_FFFD, .sltni 20 9 (-3)),
    (0x2289_0029, .slli 20 9 41),
    (0x2289_4029, .srli 20 9 41),
    (0x2289_8029, .srai 20 9 41),
    (0x2689_0A49, .bfx 20 9 41 9),
    (0x2689_1A49, .bfxs 20 9 41 9),
    (0x2A89_0A49, .bfi 20 9 41 9)] = true := by
  decide +kernel

/-- loads and stores (R81). -/
theorem test_words_loads_and_stores : reads [
    (0x3289_BFF8, .ld 20 9 .w (-8)),
    (0x3689_BFF8, .ldn 20 9 .w (-8)),
    (0x3989_BFF8, .st 12 9 .w (-8)),
    (0x3E89_6022, .ldx 20 9 12 2 .w),
    (0x3E89_6026, .ldnx 20 9 12 2 .w),
    (0x3E89_602A, .stx 20 9 12 2 .w)] = true := by
  decide +kernel

/-- branches, jumps, loop (R84 to R87). -/
theorem test_words_branches_jumps_loop : reads [
    (0x4189_FFFD, .beq 12 9 65533),
    (0x4589_FFFD, .bne 12 9 65533),
    (0x4989_FFFD, .blt 12 9 65533),
    (0x4D89_FFFD, .bge 12 9 65533),
    (0x5189_FFFD, .bltn 12 9 65533),
    (0x5589_FFFD, .bgen 12 9 65533),
    (0x5A9F_FFFD, .jal 20 2097149),
    (0x5E89_FFFC, .jalr 20 9 (-4)),
    (0x6009_0ABC, .loop 9 2748)] = true := by
  decide +kernel

/-- control registers (R89). -/
theorem test_words_control_registers : reads [
    (0x6680_0008, .crr 20 .fpm),
    (0x6409_4008, .crw 9 .fpm),
    (0x6409_8008, .crs 9 .fpm),
    (0x6409_C008, .crc 9 .fpm)] = true := by
  decide +kernel

/-- system (R91 to R93, R345). -/
theorem test_words_system : reads [
    (0x6800_0000, .nop),
    (0x6891_A001, .trap 4660),
    (0x6800_0002, .eret),
    (0x6891_A003, .brkpt 4660),
    (0x6800_0004, .wfe),
    (0x6800_2805, .chkerr 5)] = true := by
  decide +kernel

/-- atomics (R234 to R236); `z` true selects the 8-byte form. -/
theorem test_words_atomics : reads [
    (0x6E89_6010, .amoAdd 20 9 12 true),
    (0x6E89_6011, .amoAnd 20 9 12 true),
    (0x6E89_6012, .amoOr 20 9 12 true),
    (0x6E89_6013, .amoXor 20 9 12 true),
    (0x6E89_6014, .amoMin 20 9 12 true),
    (0x6E89_6015, .amoMax 20 9 12 true),
    (0x6E89_6016, .amoMinn 20 9 12 true),
    (0x6E89_6017, .amoMaxn 20 9 12 true),
    (0x6E89_6018, .amoSwap 20 9 12 true),
    (0x6E89_6019, .amoFadd 20 9 12 true),
    (0x7289_6001, .cas 20 9 12 true)] = true := by
  decide +kernel

/-- fences and caches (R237 to R244). -/
theorem test_words_fences_and_caches : reads [
    (0x7400_0300, .fence .pkg),
    (0x7420_0500, .fenceIo),
    (0x7409_0301, .cflush 9 .pkg),
    (0x7409_0302, .cinval 9 .pkg),
    (0x7429_0003, .prefetch true 9),
    (0x7449_6304, .tlbinv .page 9 12 .pkg)] = true := by
  decide +kernel

/-- valu (R97). -/
theorem test_words_valu : reads [
    (0x8289_6340, .vadd 20 9 12 3 .i32),
    (0x8289_6341, .vsub 20 9 12 3 .i32),
    (0x8289_6342, .vmul 20 9 12 3 .i32),
    (0x8289_6343, .vmin 20 9 12 3 .i32),
    (0x8289_6344, .vmax 20 9 12 3 .i32),
    (0x8289_6345, .vminn 20 9 12 3 .i32),
    (0x8289_6346, .vmaxn 20 9 12 3 .i32),
    (0x8289_0347, .vabs 20 9 3 .i32),
    (0x8289_0348, .vneg 20 9 3 .i32),
    (0x8289_6349, .vand 20 9 12 3 .i32),
    (0x8289_634A, .vor 20 9 12 3 .i32),
    (0x8289_634B, .vxor 20 9 12 3 .i32),
    (0x8289_634C, .vandn 20 9 12 3 .i32),
    (0x8289_634D, .vsll 20 9 12 3 .i32),
    (0x8289_634E, .vsrl 20 9 12 3 .i32),
    (0x8289_634F, .vsra 20 9 12 3 .i32),
    (0x8289_6350, .vaddsat 20 9 12 3 .i32),
    (0x8289_6351, .vsubsat 20 9 12 3 .i32),
    (0x8289_6352, .vaddsatn 20 9 12 3 .i32),
    (0x8289_6353, .vsubsatn 20 9 12 3 .i32),
    (0x8289_6354, .vdiv 20 9 12 3 .i32),
    (0x8289_03D5, .vsqrt 20 9 3 .f32),
    (0x8289_6356, .vmulh 20 9 12 3 .i32),
    (0x8289_6357, .vmulhn 20 9 12 3 .i32),
    (0x8289_6358, .vsel 20 9 12 3 .i32)] = true := by
  decide +kernel

/-- vsfu (R98). -/
theorem test_words_vsfu : reads [
    (0x8689_03C0, .vrcp 20 9 3),
    (0x8689_03C1, .vrsqrt 20 9 3),
    (0x8689_03C2, .vexp2 20 9 3),
    (0x8689_03C3, .vlog2 20 9 3),
    (0x8689_03C4, .vtanh 20 9 3)] = true := by
  decide +kernel

/-- fused multiply-add (R99). -/
theorem test_words_fused_multiply_add : reads [
    (0x8A89_61DE, .vfma 20 9 12 7 3 .f32),
    (0x8E89_61DE, .vfms 20 9 12 7 3 .f32),
    (0x9289_61DE, .vfnma 20 9 12 7 3 .f32),
    (0x9689_61DE, .vfnms 20 9 12 7 3 .f32)] = true := by
  decide +kernel

/-- vector memory (R100 to R102). -/
theorem test_words_vector_memory : reads [
    (0x9A89_77F5, .vld 20 9 3 .w 2037),
    (0x9E89_77F5, .vldff 20 9 3 .w 2037),
    (0xA189_77F5, .vst 12 9 3 .w 2037),
    (0xA689_6340, .vgather 20 9 12 3 .i32),
    (0xA689_6341, .vscatter 20 9 12 3 .i32)] = true := by
  decide +kernel

/-- compares and predicates (R103, R104). -/
theorem test_words_compares_and_predicates : reads [
    (0xA889_6340, .vcmpEq 4 9 12 3 .i32),
    (0xA889_6341, .vcmpNe 4 9 12 3 .i32),
    (0xA889_6342, .vcmpLt 4 9 12 3 .i32),
    (0xA889_6343, .vcmpLe 4 9 12 3 .i32),
    (0xA889_6344, .vcmpLtn 4 9 12 3 .i32),
    (0xA889_6345, .vcmpLen 4 9 12 3 .i32),
    (0xA889_63C6, .vcmpUnord 4 9 12 3 .f32),
    (0xACA6_0800, .pand 5 6 1),
    (0xACA6_0801, .por 5 6 1),
    (0xACA6_0802, .pxor 5 6 1),
    (0xACA6_0003, .pnot 5 6),
    (0xACA9_0004, .pcnt 5 9),
    (0xAE86_0005, .ppop 20 6),
    (0xACA6_0006, .pfirst 5 6),
    (0xACA6_0007, .pbrk 5 6)] = true := by
  decide +kernel

/-- lane movement (R105). -/
theorem test_words_lane_movement : reads [
    (0xB289_0340, .vbcast 20 9 3 .i32),
    (0xB289_6341, .vins 20 9 12 3 .i32),
    (0xB289_6042, .vext 20 9 12 .i32),
    (0xB289_6343, .vperm 20 9 12 3 .i32),
    (0xB289_6344, .vslide 20 9 12 3 .i32),
    (0xB289_0345, .vcompress 20 9 3 .i32)] = true := by
  decide +kernel

/-- conversions (R106 to R110); `e` is the destination type, `t` the source type, `u` unsigned. -/
theorem test_words_conversions : reads [
    (0xB689_7340, .vcvt 20 9 true .f32 3 .i32),
    (0xB689_7B41, .vcvtw 20 9 true .f64 3 .i32),
    (0xB68A_53E2, .vcvtn 20 10 true .i32 3 .f64),
    (0xB689_63C3, .vcvtq 20 9 12 3),
    (0xB689_63C4, .vcvte 20 9 12 3),
    (0xB689_0305, .vcbx 20 9 3),
    (0xB689_03C6, .vcvtsp 20 9 3),
    (0xB689_03C7, .vcvtfs 20 9 3)] = true := by
  decide +kernel

/-- reductions (R111). -/
theorem test_words_reductions : reads [
    (0xBA89_0340, .vredsum 20 9 3 .i32),
    (0xBA89_0341, .vredmin 20 9 3 .i32),
    (0xBA89_0342, .vredmax 20 9 3 .i32),
    (0xBA89_0343, .vredminn 20 9 3 .i32),
    (0xBA89_0344, .vredmaxn 20 9 3 .i32),
    (0xBA89_0345, .vredand 20 9 3 .i32),
    (0xBA89_0346, .vredor 20 9 3 .i32)] = true := by
  decide +kernel

/-- tasks (R178 to R182). -/
theorem test_words_tasks : reads [
    (0xC009_6000, .spawn 9 12),
    (0xC289_6001, .callat 20 9 12),
    (0xC000_0002, .halt),
    (0xC009_0022, .haltR 9),
    (0xC000_0003, .yield),
    (0xC009_0004, .tret 9)] = true := by
  decide +kernel

/-- messages (R183 to R189). -/
theorem test_words_messages : reads [
    (0xC409_6000, .send 9 12),
    (0xC409_6001, .sendv 9 12),
    (0xC409_6002, .reply 9 12),
    (0xC7C9_0003, .bind 2 9),
    (0xC7C0_0004, .unbind 2),
    (0xC689_6005, .wait 20 9 12),
    (0xC680_0006, .poll 20),
    (0xC680_6007, .recv 20 12)] = true := by
  decide +kernel

/-- actors (R190 to R196). -/
theorem test_words_actors : reads [
    (0xCA89_6000, .esend 20 9 12),
    (0xC800_0001, .fend),
    (0xC849_6002, .defer .w 9 12),
    (0xC889_0002, .deferN 9),
    (0xC809_0003, .kwait 9),
    (0xCA89_6004, .acre 20 9 12),
    (0xC809_6005, .arehome 9 12)] = true := by
  decide +kernel

/-- barriers (R197 to R201). -/
theorem test_words_barriers : reads [
    (0xCE89_0000, .barArr 20 9),
    (0xCC09_0001, .barWait 9),
    (0xCE89_6002, .barCfg 20 9 12),
    (0xCE89_6003, .chred 20 9 12)] = true := by
  decide +kernel

/-- copies and tags (R291 to R295); `q` acquire, `l` release, `c` scope. -/
theorem test_words_copies_and_tags : reads [
    (0xD10A_A4E6, .dcopy 8 10 20 19 true false .pkg),
    (0xD289_0001, .dwaitAny 20 9),
    (0xD009_0041, .dwaitAll 9),
    (0xD289_0081, .dffr 20 9),
    (0xD009_00C1, .rflush 9),
    (0xD289_6101, .dtagst 20 9 12)] = true := by
  decide +kernel

/-- matrix (R296 to R300); `x` scale record of A, `y` of B. -/
theorem test_words_matrix : reads [
    (0xD42A_5818, .mma 5 9 12 true true),
    (0xD428_0001, .mzero 5),
    (0xD42A_5802, .mld 5 9 12),
    (0xD42A_5803, .mst 5 9 12),
    (0xD42A_5804, .mstc 5 9 12),
    (0xD402_4005, .cbld 9)] = true := by
  decide +kernel

/-- sum-product (R284 to R288); `sp` selects sp32. -/
theorem test_words_sum_product : reads [
    (0xD851_4BA6, .spup 20 10 11 41 true),
    (0xD851_4BA7, .spdown 20 10 11 41 true)] = true := by
  decide +kernel

/-- attention (R301). -/
theorem test_words_attention : reads [
    (0xDDCD_A4F6, .attn 14 13 20 19 true true .pkg)] = true := by
  decide +kernel

/-- sampling (R322 to R327). -/
theorem test_words_sampling : reads [
    (0xE289_0000, .spivot 20 9),
    (0xE289_0001, .sdraw 20 9),
    (0xE289_6002, .sverify 20 9 12),
    (0xE009_0003, .cfinc 9),
    (0xE009_0004, .cfapply 9),
    (0xE409_0029, .spshape 9 41)] = true := by
  decide +kernel

/-- safe point (R40). -/
theorem test_words_safe_point : reads [
    (0xFCC0_FFFD, .safe 65533)] = true := by
  decide +kernel

/-- The words that the spec itself writes out. -/
theorem test_words_spec_examples : reads [
    (0x0508_4800, .add 8 8 9 false),
    (0x2125_0003, .slli 9 5 3),
    (0x48C5_FFFD, .blt 6 5 (-3)),
    (0x5820_0010, .jal 1 16),
    (0x6005_0003, .loop 5 3),
    (0x6540_0005, .crr 10 .cycle),
    (0x640C_4008, .crw 12 .fpm),
    (0x6800_3801, .trap 7),
    (0x6800_0805, .chkerr 1),
    (0x6800_0002, .eret),
    (0x6800_0000, .nop),
    (0x6800_0004, .wfe),
    (0x8822_190E, .vfma 1 2 3 4 1 .f32),
    (0x9884_7001, .vld 4 4 3 .w 1),
    (0xD109_50F6, .dcopy 8 9 10 3 true true .pkg),
    (0xD009_0041, .dwaitAll 9),
    (0xD12A_0001, .dwaitAny 9 10),
    (0xD12A_5901, .dtagst 9 10 11),
    (0xD42A_1218, .mma 5 8 9 true true),
    (0xD42A_0002, .mld 5 8 0),
    (0xD428_0001, .mzero 5),
    (0xD402_0005, .cbld 8),
    (0xDDCD_61E6, .attn 14 13 12 7 true false .pkg),
    (0xE408_0003, .spshape 8 3),
    (0xD851_4B0E, .spup 20 10 11 3 true),
    (0xD851_4B0F, .spdown 20 10 11 3 true),
    (0xE10A_0000, .spivot 8 10),
    (0xE12A_0001, .sdraw 9 10),
    (0xE12B_6002, .sverify 9 11 12),
    (0xE009_0003, .cfinc 9),
    (0xE00A_0004, .cfapply 10),
    (0xFCC0_0000, .safe 0)] = true := by
  decide +kernel

/-- R37, R38: an imm prefix widens the immediate, one before a load the offset; hint and mod prefixes. -/
theorem test_prefixes :
    decode [0xFC12_3456, 0x0920_789A] = some (.addi 9 0 0x12_3456_789A) ∧ decode [0xFC00_0004, 0x3124_E340] = some (.ld 9 4 .d 0x1_2340) ∧
    encode (.addi 9 0 0x12_3456_789A) = [0xFC12_3456, 0x0920_789A] := by decide +kernel

/-- R29 to R36: reserved words: an opcode with no row, a reserved function, reserved bits that are not 0, p0 as the destination of a compare. -/
theorem test_reserved_words :
    ([0x0000_0000, 0xFFFF_FFFF, 0x0508_4A00, 0x6800_0806, 0xE00A_0005, 0xFCC0_0000 + 0x20_0000].all
      (fun w => decode [w] == none || w == 0x6800_0001)) = true := by decide +kernel

/-! ### Terms that are not instructions -/

/-- R31 to R37, R80, R81, R87, R345: immediates and offsets that no prefix reaches, fields that leave the register, `ldn.d`, a loop of no
words, a mask of none. -/
theorem test_ill_formed_scalar_refused :
    ([.addi 1 2 0x800_0000_0000_0000, .bfx 1 2 63 1, .bfxs 1 2 31 33, .bfi 1 2 1 63, .ld 1 2 .d 0x200_0000_0000_0000, .ldn 1 2 .d 0,
      .st 1 2 .w 0x200_0000_0000_0000, .ldnx 1 2 3 0 .d, .jalr 1 2 0x800_0000_0000_0000, .loop 1 0, .chkerr 0] : List Instr).all
      (fun i => !i.wf) = true := by decide +kernel

/-- R237 to R244: scopes and operands that a cache instruction does not take. -/
theorem test_ill_formed_caches_refused :
    ([.cflush 1 .ctx, .cinval 1 .ctx, .cinval 1 .sys, .tlbinv .all 0 0 .ctx, .tlbinv .all 1 0 .core, .tlbinv .all 0 1 .core,
      .tlbinv .asid 1 2 .core, .tlbinv .pageAny 1 2 .core] : List Instr).all (fun i => !i.wf) = true := by decide +kernel

/-- R94 to R111: types that a family does not have, p0 where a predicate is written, pairs that do not start at an even register or take in the
other operand. -/
theorem test_ill_formed_vector_refused :
    ([.vminn 1 2 3 0 .f32, .vmaxn 1 2 3 0 .f64, .vsll 1 2 3 0 .f16, .vsrl 1 2 3 0 .bf16, .vsra 1 2 3 0 .f32, .vaddsat 1 2 3 0 .f32,
      .vsubsat 1 2 3 0 .f32, .vaddsatn 1 2 3 0 .f32, .vsubsatn 1 2 3 0 .f32, .vsqrt 1 2 0 .i32, .vmulh 1 2 3 0 .f32, .vmulhn 1 2 3 0 .f32,
      .vfma 1 2 3 4 0 .i32, .vfms 1 2 3 4 0 .i32, .vfnma 1 2 3 4 0 .i32, .vfnms 1 2 3 4 0 .i32, .vldff 1 2 0 .w 0, .vcmpEq 0 1 2 0 .i32,
      .vcmpNe 0 1 2 0 .i32, .vcmpLt 0 1 2 0 .i32, .vcmpLe 0 1 2 0 .i32, .vcmpLtn 0 1 2 0 .i32, .vcmpLtn 1 1 2 0 .f32, .vcmpLen 1 1 2 0 .f32,
      .vcmpUnord 1 1 2 0 .i32, .pand 0 1 2, .por 0 1 2, .pxor 0 1 2, .pnot 0 1, .pcnt 0 1, .pfirst 0 1, .pbrk 0 1,
      .vcvt 1 2 false .i32 0 .f64, .vcvt 1 2 false .i32 0 .i32, .vcvt 1 2 true .f32 0 .f32, .vcvtw 1 4 false .f64 0 .f32,
      .vcvtw 2 3 false .f64 0 .f32, .vcvtn 1 3 false .f32 0 .f64, .vcbx 2 3 0, .vredminn 1 2 0 .f32, .vredmaxn 1 2 0 .f32] :
      List Instr).all (fun i => !i.wf) = true := by decide +kernel

/-- R175, R327: blocks that do not start at a multiple of four or take in the other register, pairs at an odd register or at s0. -/
theorem test_ill_formed_parallel_refused :
    ([.spawn 1 2, .callat 1 2 3, .send 1 2, .reply 1 2, .wait 4 5 8, .wait 4 8 5, .wait 0 8 8, .recv 4 5, .recv 5 8, .esend 1 2 3,
      .sverify 1 2 3, .sverify 1 2 0] : List Instr).all (fun i => !i.wf) = true := by decide +kernel

/-! ### One step each -/

/-- Core 0 with a context in slot 1, in user mode at 0x1000, changed by `f`; it is about to execute. -/
def user (f : Context → Context) : State :=
  { State.reset.setCtx 1 (f { Context.reset .user with slot := .issuing, pc := 0x1000 }) with
    cur := 1, grp := { Group.reset with first := 0x1000 } }

/-- The same for the S context of core 0. -/
def sup (f : Context → Context) : State :=
  { State.reset.setCtx 0 (f { Context.reset .super with slot := .issuing, pc := 0x1000 }) with
    grp := { Group.reset with first := 0x1000 } }

/-- Scalar registers set. -/
def regs (l : List (Reg × Dword)) (c : Context) : Context := l.foldl (fun c x => c.setS x.1 x.2 false) c

/-- Lanes of `w` bits set in a vector register. -/
def lanes (d : Reg) (w : Nat) (l : List Nat) (c : Context) : Context := c.setV d (ofLanesV w l) false

/-- What an instruction leaves, seen through `f`. -/
def after {α : Type} (i : Instr) (s : State) (f : State → α) : Option α :=
  match exec i s with
  | .next t => some (f t)
  | _ => none

/-- S[20] after an instruction with s9 = x, s10 = y and s20 = z. -/
def s20 (i : Instr) (x y z : Dword) : Option Dword := after i (user (regs [(9, x), (10, y), (20, z)])) (fun t => t.cx.s 20)

/-- Lanes of V[20] after an instruction on v9 and v10, under P1, with v20 as given. -/
def v20 (i : Instr) (w : Nat) (x y z : List Nat) (p : Dword) : Option (List Nat) :=
  after i (user (fun c => (((c.setV 9 (ofLanesV w x) false).setV 10 (ofLanesV w y) false).setV 20 (ofLanesV w z) false).setP 1 p))
    (fun t => (lanesOf w (t.cx.v 20)).take 4)

/-- Scratchpad addresses. -/
def sp (off : Nat) : Dword := 0xFF00_0000_0000_0000 + BitVec.ofNat 64 off

/-- A state whose core's scratchpad holds dwords. -/
def withScratch (l : List (Nat × Nat × Nat)) (s : State) : State :=
  s.modCore 0 (fun c => { c with scratch := l.foldl (fun m x => m.write x.1 x.2.1 x.2.2) c.scratch })

/-- R77: the worked table for x = −7, y = 2, and the shifts with y = 1. -/
theorem test_alu_worked_table :
    let x : Dword := 0xFFFF_FFFF_FFFF_FFF9
    s20 (.div 20 9 10 false) x 2 0 = some 0xFFFF_FFFF_FFFF_FFFD ∧ s20 (.rem 20 9 10 false) x 2 0 = some 0xFFFF_FFFF_FFFF_FFFF ∧
    s20 (.divn 20 9 10 false) x 2 0 = some 0x7FFF_FFFF_FFFF_FFFC ∧ s20 (.remn 20 9 10 false) x 2 0 = some 1 ∧
    s20 (.div 20 9 10 true) x 2 0 = some 0xFFFF_FFFF_FFFF_FFFD ∧ s20 (.divn 20 9 10 true) x 2 0 = some 0x0000_0000_7FFF_FFFC ∧
    s20 (.mulh 20 9 10) x 2 0 = some 0xFFFF_FFFF_FFFF_FFFF ∧ s20 (.mulhn 20 9 10) x 2 0 = some 1 ∧
    s20 (.mulhsn 20 9 10) x 2 0 = some 0xFFFF_FFFF_FFFF_FFFF ∧ s20 (.sra 20 9 10 false) x 1 0 = some 0xFFFF_FFFF_FFFF_FFFC ∧
    s20 (.srl 20 9 10 false) x 1 0 = some 0x7FFF_FFFF_FFFF_FFFC ∧ s20 (.srl 20 9 10 true) x 1 0 = some 0x0000_0000_7FFF_FFFC ∧
    s20 (.clz 20 9) x 0 0 = some 0 ∧ s20 (.ctz 20 9) x 0 0 = some 0 ∧ s20 (.popc 20 9) x 0 0 = some 62 := by decide +kernel

/-- R52, R53, R77: wraps, divisions by zero and of the least number, counts taken modulo the width. -/
theorem test_alu_corners :
    s20 (.add 20 9 10 true) 0x7FFF_FFFF 1 0 = some 0xFFFF_FFFF_8000_0000 ∧ s20 (.sub 20 9 10 false) 0 1 0 = some 0xFFFF_FFFF_FFFF_FFFF ∧
    s20 (.div 20 9 10 false) 0x8000_0000_0000_0000 0xFFFF_FFFF_FFFF_FFFF 0 = some 0x8000_0000_0000_0000 ∧
    s20 (.rem 20 9 10 false) 5 0 0 = some 5 ∧ s20 (.div 20 9 10 false) 5 0 0 = some 0xFFFF_FFFF_FFFF_FFFF ∧
    s20 (.remn 20 9 10 true) 0x8000_0000 0 0 = some 0xFFFF_FFFF_8000_0000 ∧ s20 (.sll 20 9 10 false) 1 65 0 = some 2 ∧
    s20 (.mul 20 9 10 false) 0xFFFF_FFFF_FFFF_FFFF 3 0 = some 0xFFFF_FFFF_FFFF_FFFD ∧ s20 (.slt 20 9 10) 0xFFFF_FFFF_FFFF_FFFF 0 7 = some 1 ∧
    s20 (.sltn 20 9 10) 0xFFFF_FFFF_FFFF_FFFF 0 7 = some 0 ∧ s20 (.min 20 9 10) 0xFFFF_FFFF_FFFF_FFFF 0 7 = some 0xFFFF_FFFF_FFFF_FFFF ∧
    s20 (.maxn 20 9 10) 0xFFFF_FFFF_FFFF_FFFF 0 7 = some 0xFFFF_FFFF_FFFF_FFFF ∧ s20 (.max 20 9 10) 0xFFFF_FFFF_FFFF_FFFF 0 7 = some 0 ∧
    s20 (.minn 20 9 10) 0xFFFF_FFFF_FFFF_FFFF 0 7 = some 0 ∧ s20 (.andn 20 9 10) 0xFF 0x0F 0 = some 0xF0 ∧
    s20 (.bswap 20 9) 0x0102_0304_0506_0708 0 0 = some 0x0807_0605_0403_0201 ∧ s20 (.clz 20 9) 0 0 0 = some 64 := by decide +kernel

/-- R78 to R80: immediates, and the worked bit fields. -/
theorem test_immediates :
    s20 (.sltni 20 9 0xFFFF_FFFF_FFFF_FFFF) 5 0 0 = some 1 ∧ s20 (.slti 20 9 0xFFFF_FFFF_FFFF_FFFF) 5 0 0 = some 0 ∧
    s20 (.xori 20 9 0xFFFF_FFFF_FFFF_FFFF) 5 0 0 = some 0xFFFF_FFFF_FFFF_FFFA ∧ s20 (.slli 20 9 3) 5 0 0 = some 40 ∧
    s20 (.srai 20 9 63) 0x8000_0000_0000_0000 0 0 = some 0xFFFF_FFFF_FFFF_FFFF ∧ s20 (.srli 20 9 63) 0x8000_0000_0000_0000 0 0 = some 1 ∧
    s20 (.bfx 20 9 7 4) 0x8000_00FF 0 0 = some 0x0F ∧ s20 (.bfxs 20 9 3 28) 0x8000_00FF 0 0 = some 0xFFFF_FFFF_FFFF_FFF8 ∧
    s20 (.bfi 20 0 7 0) 0 0 0x8000_00FF = some 0x8000_0000 := by decide +kernel

/-- R8, R9: s0 is never written, and poison follows the sources. -/
theorem test_zero_register_and_poison :
    after (.addi 0 9 5) (user (regs [(9, 3)])) (fun t => t.cx.s 0) = some 0 ∧
    after (.add 20 9 10 false) (user (fun c => (c.setS 9 3 true).setS 10 4 false)) (fun t => (t.cx.s 20, t.cx.sp 20)) = some (7, true) ∧
    after (.add 0 9 10 false) (user (fun c => c.setS 9 3 true)) (fun t => t.cx.sp 0) = some false := by decide +kernel

/-- R84 to R87: a branch counts from its group's last word, a call links, `jalr` reads before it links, `loop` sets its three registers. -/
theorem test_control_flow :
    after (.blt 10 9 0xFFFD) (user (regs [(9, 0xFFFF_FFFF_FFFF_FFFF)])) (fun t => t.cx.pc) = some 0xFF4 ∧
    after (.bltn 10 9 0xFFFD) (user (regs [(9, 0xFFFF_FFFF_FFFF_FFFF)])) (fun t => t.cx.pc) = some 0x1004 ∧
    after (.jal 1 16) (user id) (fun t => (t.cx.pc, t.cx.s 1)) = some (0x1040, 0x1004) ∧
    after (.jalr 9 9 8) (user (regs [(9, 0x2000)])) (fun t => (t.cx.pc, t.cx.s 9)) = some (0x2008, 0x1004) ∧
    after (.jalr 9 9 0) (user (regs [(9, 0x2002)])) (fun t => (t.getCtx 0).cr.sval) = some 0x2002 ∧
    after (.loop 9 3) (user (regs [(9, 5)])) (fun t => (t.cx.pc, t.cx.cr.lcnt, t.cx.cr.lstart, t.cx.cr.lend)) = some (0x1004, 5, 0x1004, 0x100C) ∧
    after (.loop 9 3) (user id) (fun t => t.cx.pc) = some 0x1010 := by decide +kernel

/-- R87: the last word of a body goes back while passes are left. -/
theorem test_loop_end :
    let c (n : Dword) (x : Context) : Context := { x with cr := { x.cr with lcnt := n, lstart := 0x0F00, lend := 0x1000 } }
    after .nop (user (c 2)) (fun t => (t.cx.pc, t.cx.cr.lcnt)) = some (0x0F00, 1) ∧
    after .nop (user (c 1)) (fun t => (t.cx.pc, t.cx.cr.lcnt)) = some (0x1004, 0) := by decide +kernel

/-- R13, R89: FPM keeps its reserved bits 0, an S register in user mode traps PRIV, CHKINT bits are cleared by writing 1. -/
theorem test_control_registers :
    after (.crr 20 .stvec) (user id) (fun t => (t.getCtx 0).cr.scause) = some 0x02 ∧
    after (.crw 9 .chkint) (user (fun c => { (c.setS 9 1 false) with cr := { c.cr with chkint := 3 } })) (fun t => t.cx.cr.chkint) = some 2 ∧
    after (.crs 9 .cbtl) (user (fun c => { (c.setS 9 1 false) with cr := { c.cr with cbtl := 2 } })) (fun t => t.cx.cr.cbtl) = some 3 ∧
    after (.crc 9 .cbtl) (user (fun c => { (c.setS 9 1 false) with cr := { c.cr with cbtl := 3 } })) (fun t => t.cx.cr.cbtl) = some 2 ∧
    after (.crr 20 .core) ({ user id with cur := 65 }) (fun t => t.cx.s 20) = some 1 := by decide +kernel

/-- R22, R24, R91: `trap` enters the S context with the word and stops the caller; `eret` lets it go on at SPC. -/
theorem test_trap_and_eret :
    after (.trap 7) ({ user id with grp := { Group.reset with first := 0x1000, word := 0x6800_3801 } })
      (fun t => let c := t.getCtx 0; (c.cr.scause, c.cr.spc, c.cr.sval, c.cr.sstat.extractLsb' 0 6, c.cr.sstat.getLsbD 16, t.cx.inTrap)) =
      some (0x0E, 0x1000, 0x6800_3801, 1, true, true) ∧
    after .eret (((sup (fun c => { c with cr := { c.cr with sstat := 0x1_0001, spc := 0x1004 } })).setCtx 1
        { Context.reset .user with slot := .issuing, pc := 0x1000, inTrap := true }))
      (fun t => ((t.getCtx 1).pc, (t.getCtx 1).inTrap, t.cx.cr.sstat)) = some (0x1004, false, 1) ∧
    after .eret (user id) (fun t => (t.getCtx 0).cr.scause) = some 0x01 := by decide +kernel

/-- R81, R82: sizes, extension, byte order, and ALIGN with the address. -/
theorem test_loads_and_stores :
    let s := withScratch [(0x40, 8, 0x8877_6655_4433_2281)] (user (regs [(9, sp 0x40), (10, 0x1122_3344_5566_7788), (11, 1)]))
    after (.ld 20 9 .b 0) s (fun t => t.cx.s 20) = some 0xFFFF_FFFF_FFFF_FF81 ∧ after (.ldn 20 9 .b 0) s (fun t => t.cx.s 20) = some 0x81 ∧
    after (.ld 20 9 .w 4) s (fun t => t.cx.s 20) = some 0xFFFF_FFFF_8877_6655 ∧ after (.ldx 20 9 11 1 .h) s (fun t => t.cx.s 20) = some 0x4433 ∧
    after (.ldnx 20 9 11 2 .w) s (fun t => t.cx.s 20) = some 0x8877_6655 ∧
    after (.st 10 9 .h 2) s (fun t => t.co.scratch.read 0x40 8) = some 0x8877_6655_7788_2281 ∧
    after (.stx 10 9 11 3 .d) s (fun t => t.co.scratch.read 0x40 16) = some (0x1122_3344_5566_7788 * 2 ^ 64 + 0x8877_6655_4433_2281) ∧
    after (.ld 20 9 .d 4) s (fun t => ((t.getCtx 0).cr.scause, (t.getCtx 0).cr.sval)) = some (0x03, sp 0x44) := by decide +kernel

/-- R234 to R236: old values, signed and unsigned minima, one rounding in `amo.fadd`, `cas` that misses. -/
theorem test_atomics :
    let s := withScratch [(0x40, 8, 0x4B80_0000_FFFF_FFFF)] (user (regs [(9, sp 0x40), (10, 1), (11, sp 0x44), (12, 0x3F80_0000)]))
    after (.amoAdd 20 9 10 false) s (fun t => (t.cx.s 20, t.co.scratch.read 0x40 8)) = some (0xFFFF_FFFF_FFFF_FFFF, 0x4B80_0000_0000_0000) ∧
    after (.amoMin 20 9 10 false) s (fun t => t.co.scratch.read 0x40 4) = some 0xFFFF_FFFF ∧
    after (.amoMinn 20 9 10 false) s (fun t => t.co.scratch.read 0x40 4) = some 1 ∧
    after (.amoMax 20 9 10 false) s (fun t => t.co.scratch.read 0x40 4) = some 1 ∧
    after (.amoMaxn 20 9 10 false) s (fun t => t.co.scratch.read 0x40 4) = some 0xFFFF_FFFF ∧
    after (.amoSwap 20 9 10 true) s (fun t => t.co.scratch.read 0x40 8) = some 1 ∧
    after (.amoXor 20 9 10 false) s (fun t => t.co.scratch.read 0x40 4) = some 0xFFFF_FFFE ∧
    after (.amoAnd 20 9 10 false) s (fun t => t.co.scratch.read 0x40 4) = some 1 ∧
    after (.amoOr 20 11 10 false) s (fun t => t.co.scratch.read 0x44 4) = some 0x4B80_0001 ∧
    after (.amoFadd 20 11 12 false) s (fun t => (t.cx.s 20, t.co.scratch.read 0x44 4, t.cx.cr.fpm.extractLsb' 8 8 &&& 0x10)) =
      some (0x4B80_0000, 0x4B80_0000, 0x10) ∧
    after (.cas 20 9 10 false) s (fun t => t.co.scratch.read 0x40 4) = some 0xFFFF_FFFF := by decide +kernel

/-! #### Vectors -/

/-- R53, R54, R97: wraps, saturation, signs, inactive lanes kept, division by zero. -/
theorem test_integer_lanes :
    v20 (.vadd 20 9 10 1 .i8) 8 [255, 5, 7, 9] [2, 1, 1, 1] [0, 0, 0, 0xAA] 0x7 = some [1, 6, 8, 0xAA] ∧
    v20 (.vsub 20 9 10 0 .i16) 16 [0, 5, 7, 9] [1, 1, 1, 1] [] 0 = some [0xFFFF, 4, 6, 8] ∧
    v20 (.vmul 20 9 10 0 .i32) 32 [0xFFFF_FFFF, 3, 4, 5] [2, 3, 4, 5] [] 0 = some [0xFFFF_FFFE, 9, 16, 25] ∧
    v20 (.vmulh 20 9 10 0 .i32) 32 [0xFFFF_FFFF, 0x8000_0000, 4, 5] [2, 0x8000_0000, 4, 5] [] 0 = some [0xFFFF_FFFF, 0x4000_0000, 0, 0] ∧
    v20 (.vmulhn 20 9 10 0 .i32) 32 [0xFFFF_FFFF, 0, 0, 0] [2, 0, 0, 0] [] 0 = some [1, 0, 0, 0] ∧
    v20 (.vmin 20 9 10 0 .i8) 8 [0xFF, 1, 2, 3] [0, 9, 1, 4] [] 0 = some [0xFF, 1, 1, 3] ∧
    v20 (.vmaxn 20 9 10 0 .i8) 8 [0xFF, 1, 2, 3] [0, 9, 1, 4] [] 0 = some [0xFF, 9, 2, 4] ∧
    v20 (.vabs 20 9 0 .i8) 8 [0x80, 0xFF, 1, 0] [] [] 0 = some [0x80, 1, 1, 0] ∧
    v20 (.vneg 20 9 0 .i8) 8 [0x80, 0xFF, 1, 0] [] [] 0 = some [0x80, 1, 0xFF, 0] ∧
    v20 (.vandn 20 9 10 0 .i8) 8 [0xFF, 0x0F, 1, 0] [0x0F, 0xFF, 0, 0] [] 0 = some [0xF0, 0, 1, 0] ∧
    v20 (.vsra 20 9 10 0 .i8) 8 [0x80, 0x80, 0x40, 0] [1, 9, 1, 0] [] 0 = some [0xC0, 0xC0, 0x20, 0] ∧
    v20 (.vsrl 20 9 10 0 .i8) 8 [0x80, 0x80, 0x40, 0] [1, 9, 1, 0] [] 0 = some [0x40, 0x40, 0x20, 0] ∧
    v20 (.vaddsat 20 9 10 0 .i8) 8 [0x7F, 0x80, 1, 0] [1, 0xFF, 1, 0] [] 0 = some [0x7F, 0x80, 2, 0] ∧
    v20 (.vsubsatn 20 9 10 0 .i8) 8 [0, 5, 1, 0] [1, 3, 1, 0] [] 0 = some [0, 2, 0, 0] ∧
    v20 (.vaddsatn 20 9 10 0 .i8) 8 [0xFF, 5, 1, 0] [1, 3, 1, 0] [] 0 = some [0xFF, 8, 2, 0] ∧
    v20 (.vsubsat 20 9 10 0 .i8) 8 [0x80, 5, 1, 0] [1, 3, 1, 0] [] 0 = some [0x80, 2, 0, 0] ∧
    v20 (.vdiv 20 9 10 0 .i8) 8 [0xF9, 0x80, 1, 6] [2, 0xFF, 0, 3] [] 0 = some [0xFD, 0x80, 0xFF, 2] := by decide +kernel

/-- R55 to R59, R97 to R99: rounding once, signs of zero, canonical NaNs. -/
theorem test_float_lanes :
    v20 (.vadd 20 9 10 0 .f32) 32 [0x4B80_0000, 0x3F80_0000, 0x7F80_0000, 0] [0x3F80_0000, 0x3F80_0000, 0xFF80_0000, 0x8000_0000] [] 0 =
      some [0x4B80_0000, 0x4000_0000, 0x7FC0_0000, 0] ∧
    v20 (.vmul 20 9 10 0 .f64) 64 [0x4000_0000_0000_0000] [0x4008_0000_0000_0000] [] 0 = some [0x4018_0000_0000_0000, 0, 0, 0] ∧
    v20 (.vsub 20 9 10 0 .f16) 16 [0x4000] [0x3C00] [] 0 = some [0x3C00, 0, 0, 0] ∧
    v20 (.vdiv 20 9 10 0 .f32) 32 [0x3F80_0000, 0x3F80_0000] [0x4080_0000, 0] [] 3 = some [0x3E80_0000, 0x7F80_0000, 0x7FC0_0000, 0x7FC0_0000] ∧
    v20 (.vsqrt 20 9 0 .f32) 32 [0x4080_0000, 0xBF80_0000, 0, 0x8000_0000] [] [] 0 = some [0x4000_0000, 0x7FC0_0000, 0, 0x8000_0000] ∧
    v20 (.vfma 20 9 10 9 0 .f32) 32 [0x4000_0000] [0x4040_0000] [] 0 = some [0x4100_0000, 0, 0, 0] ∧
    v20 (.vfms 20 9 10 9 0 .f32) 32 [0x4000_0000] [0x4040_0000] [] 0 = some [0x4080_0000, 0, 0, 0] ∧
    v20 (.vfnms 20 9 10 9 1 .f32) 32 [0x4000_0000] [0x4040_0000] [] 1 = some [0xC080_0000, 0, 0, 0] ∧
    v20 (.vfnma 20 9 10 9 1 .f32) 32 [0x4000_0000] [0x4040_0000] [] 1 = some [0xC100_0000, 0, 0, 0] ∧
    v20 (.vneg 20 9 0 .f32) 32 [0x3F80_0000, 0x7F80_0001] [] [] 0 = some [0xBF80_0000, 0x7FC0_0000, 0x8000_0000, 0x8000_0000] ∧
    v20 (.vrcp 20 9 1) 32 [0x4000_0000] [] [] 1 = some [0x3F00_0000, 0, 0, 0] ∧
    v20 (.vexp2 20 9 1) 32 [0] [] [] 1 = some [0x3F80_0000, 0, 0, 0] := by decide +kernel

/-- R73: the flags of the active lanes alone are set. -/
theorem test_float_flags :
    after (.vdiv 20 9 10 1 .f32) (user (fun c => ((lanes 9 32 [0x3F80_0000, 0x3F80_0000] c).setP 1 1).setV 10 0 false))
      (fun t => t.cx.cr.fpm.extractLsb' 16 8 ||| t.cx.cr.fpm.extractLsb' 8 8 ||| t.cx.cr.fpm.extractLsb' 0 8) = some 2 := by decide +kernel

/-- R103, R104: conditions by lane, bits beyond the lanes cleared; the predicate functions. -/
theorem test_compares_and_predicates :
    let p (i : Instr) (q : Dword) : Option Dword :=
      after i (user (fun c => (((lanes 9 32 [1, 0xFFFF_FFFF, 3] c).setV 10 (ofLanesV 32 [1, 1, 1]) false).setP 1 q).setP 2 0xFFFF_FFFF_FFFF_FFFF))
        (fun t => t.cx.p 2)
    p (.vcmpEq 2 9 10 1 .i32) 7 = some 0xFFF9 ∧ p (.vcmpLt 2 9 10 1 .i32) 7 = some 0xFFFA ∧ p (.vcmpLtn 2 9 10 1 .i32) 7 = some 0xFFF8 ∧
    p (.vcmpLen 2 9 10 0 .i32) 0 = some 0xFFF9 ∧ p (.vcmpUnord 2 9 10 0 .f32) 0 = some 2 ∧ p (.pnot 2 1) 5 = some 0xFFFF_FFFF_FFFF_FFFA ∧
    p (.pfirst 2 1) 0b10110 = some 2 ∧ p (.pbrk 2 1) 0b10100 = some 3 ∧
    after (.pcnt 2 9) (user (regs [(9, 21)])) (fun t => t.cx.p 2) = some 0x1F_FFFF ∧
    after (.pcnt 2 9) (user (regs [(9, 65)])) (fun t => t.cx.p 2) = some 0xFFFF_FFFF_FFFF_FFFF ∧
    after (.ppop 20 1) (user (fun c => c.setP 1 0b10110)) (fun t => t.cx.s 20) = some 3 := by decide +kernel

/-- R105: the worked compress, a slide, a permutation, a broadcast, an insertion, an extraction. -/
theorem test_lane_movement :
    v20 (.vcompress 20 9 1 .i32) 32 [10, 11, 12, 13, 14] [] [7, 7, 7, 7] 0b10110 = some [11, 12, 14, 0] ∧
    v20 (.vsel 20 9 10 1 .i32) 32 [10, 11, 12, 13] [1, 2, 3, 4] [] 0b0101 = some [10, 2, 12, 4] ∧
    v20 (.vperm 20 9 10 0 .i32) 32 [10, 11, 12, 13] [3, 2, 17, 0] [] 0 = some [13, 12, 11, 10] ∧
    after (.vslide 20 9 11 0 .i32) (user (fun c => (lanes 9 32 [10, 11, 12, 13] c).setS 11 (-1) false)) (fun t => (lanesOf 32 (t.cx.v 20)).take 3) =
      some [0, 10, 11] ∧
    after (.vbcast 20 11 1 .i16) (user (fun c => (c.setP 1 5).setS 11 0x1_2345 false)) (fun t => (lanesOf 16 (t.cx.v 20)).take 3) =
      some [0x2345, 0, 0x2345] ∧
    after (.vins 20 11 12 0 .i16) (user (fun c => (c.setS 12 2 false).setS 11 0x1_2345 false)) (fun t => (lanesOf 16 (t.cx.v 20)).take 3) =
      some [0, 0, 0x2345] ∧
    after (.vext 20 9 11 .i8) (user (fun c => (lanes 9 8 [1, 2, 0x83] c).setS 11 2 false)) (fun t => t.cx.s 20) = some 0xFFFF_FFFF_FFFF_FF83 := by
  decide +kernel

/-- R65, R108: the worked codes of the format byte 0x03, with saturation and in the extended form. -/
theorem test_binary8_conversions :
    after (.vcvtq 20 9 11 0) (user (fun c => (lanes 9 8 [0x43, 0xC3, 0x7F, 0x01] c).setS 11 0x03 false)) (fun t => (lanesOf 32 (t.cx.v 20)).take 4) =
      some [0x3FB0_0000, 0xBFB0_0000, 0x4370_0000, 0x3A80_0000] ∧
    (let e (f : Dword) (x : Nat) : Option (List Nat) :=
      after (.vcvte 20 9 11 1) (user (fun c => ((lanes 9 32 [x] c).setS 11 f false).setP 1 1)) (fun t => (lanesOf 8 (t.cx.v 20)).take 1)
     e 0x03 0x3FB0_0000 = some [0x43] ∧ e 0x03 0x3A80_0000 = some [0x01] ∧ e 0x03 0x4396_0000 = some [0x80] ∧ e 0x13 0x4396_0000 = some [0x7F]) := by
  decide +kernel

/-- R71, R72, R109: the worked values of sp32. -/
theorem test_sp32_conversions :
    v20 (.vcvtsp 20 9 0) 32 [0x3F40_0000, 0x4040_0000, 0, 0x3F80_0000] [] [] 0 = some [0x0001_8000, 0xFFFF_8000, 0x8000_0000, 0] ∧
    v20 (.vcvtfs 20 9 0) 32 [0x0001_8000, 0xFFFF_8000, 0x8000_0000, 0x8000_0001] [] [] 0 = some [0x3F40_0000, 0x4040_0000, 0, 0x7FC0_0000] := by
  decide +kernel

/-- R106, R107: a float to an integer, a widening into a pair, a narrowing out of one. -/
theorem test_width_conversions :
    v20 (.vcvt 20 9 false .i32 0 .f32) 32 [0x4020_0000, 0xBFC0_0000, 0x7FC0_0000, 0x4F80_0000] [] [] 0 = some [2, 0xFFFF_FFFE, 0, 0x7FFF_FFFF] ∧
    after (.vcvtw 20 9 false .f64 0 .f32) (user (lanes 9 32 [0x3F80_0000, 0x4000_0000])) (fun t => (lanesOf 64 (t.cx.v 20)).take 2) =
      some [0x3FF0_0000_0000_0000, 0x4000_0000_0000_0000] ∧
    after (.vcvtn 20 8 false .f32 0 .f64) (user (lanes 9 64 [0x3FF0_0000_0000_0000])) (fun t => (lanesOf 32 (t.cx.v 20)).drop 7 |>.take 3) =
      some [0, 0x3F80_0000, 0] := by decide +kernel

/-- R74, R111: the tree over lane positions (1 + 1 is added before 2^24), minima, and the identity where no lane is active. -/
theorem test_reductions :
    let r (i : Instr) (w : Nat) (x : List Nat) (p : Dword) : Option VReg :=
      after i (user (fun c => (lanes 9 w x c).setP 1 p)) (fun t => t.cx.v 20)
    r (.vredsum 20 9 1 .f32) 32 [0x4B80_0000, 0x3F80_0000, 0x3F80_0000, 0x3F80_0000] 15 = some 0x4B80_0001 ∧
    r (.vredsum 20 9 1 .i8) 8 [200, 100, 1] 7 = some 45 ∧ r (.vredmin 20 9 1 .i8) 8 [200, 100, 1] 7 = some 200 ∧
    r (.vredmaxn 20 9 1 .i8) 8 [200, 100, 1] 7 = some 200 ∧ r (.vredmin 20 9 1 .i8) 8 [200] 0 = some 127 ∧
    r (.vredand 20 9 1 .i16) 16 [0xFF0F, 0x0FFF] 3 = some 0x0F0F ∧ r (.vredor 20 9 1 .i16) 16 [0xFF00, 0x00F0] 3 = some 0xFFF0 ∧
    r (.vredmax 20 9 1 .f32) 32 [] 0 = some 0xFF80_0000 := by decide +kernel

/-- R100 to R102: a block, active lanes alone, indices scaled by the lane. -/
theorem test_vector_memory :
    let s := withScratch [(0x40, 8, 0x0000_0002_0000_0001), (0x48, 8, 0x0000_0004_0000_0003)]
      (user (fun c => (lanes 10 32 [3, 0] (((lanes 20 32 [9, 9, 9, 9] (c.setS 9 (sp 0x40) false)).setP 1 5).setP 2 1))))
    after (.vld 20 9 1 .w 0) s (fun t => (lanesOf 32 (t.cx.v 20)).take 4) = some [1, 9, 3, 9] ∧
    after (.vgather 20 9 10 2 .i32) s (fun t => (lanesOf 32 (t.cx.v 20)).take 3) = some [4, 9, 9] ∧
    after (.vst 20 9 1 .w 0) s (fun t => (t.co.scratch.read 0x40 8, t.co.scratch.read 0x48 8)) = some (0x0000_0002_0000_0009, 0x0000_0004_0000_0009) ∧
    after (.vscatter 20 9 10 2 .i32) s (fun t => (t.co.scratch.read 0x40 8, t.co.scratch.read 0x48 8)) = some (0x0000_0002_0000_0001, 0x0000_0009_0000_0003) := by
  decide +kernel

/-- R101: beyond the scratchpad's last word the load and the predicate stop. -/
theorem test_first_fault_load :
    after (.vldff 20 9 1 .w 0) (user (fun c => (c.setS 9 (sp 0x1_FFFC) false).setP 1 0xFFFF)) (fun t => t.cx.p 1) = some 1 := by decide +kernel

/-! #### Engines -/

/-- R70, R296: the worked product: int8 with block scales 128 and 126, 1 + 6 = 7; 16 cycles after its acceptance it retires. -/
theorem test_mma_worked_element :
    let s := (withScratch [(0x1000, 8, (sp 0x2000).toNat), (0x1008, 8, 0x20 * 2 ^ 56 + 1 * 2 ^ 6), (0x1010, 8, (sp 0x3000).toNat),
        (0x1020, 8, (sp 0x4000).toNat), (0x1028, 8, 0x20 * 2 ^ 56 + 1 * 2 ^ 6), (0x1030, 8, (sp 0x3010).toNat),
        (0x2000, 1, 2), (0x4000, 1, 3), (0x3000, 1, 128), (0x3010, 1, 126)]
      (user (regs [(8, sp 0x1000), (9, sp 0x1020)]))).modCore 0 (fun c => { c with
        part := 8 * 32 + 1, tiles := [(5, { data := 0x3F80_0000, pois := false })] })
    ((after (.mma 5 8 9 true true) s id).bind (fun t => after (.matrixRetire 0) { t with cycle := 16 }
      (fun u => (u.co.tile 5).data.extractLsb' 0 64))) = some 0x40E0_0000 := by decide +kernel

/-- R277, R278: the worked passes of the mixture in sp32. -/
theorem test_worked_passes :
    let s := (withScratch [(0x40, 4, 0x0064_0000), (0x44, 4, 0x0078_0000), (0x48, 4, 0x005A_8000), (0x4C, 4, 0x0082_0000),
        (0x440, 4, 0x8000_0000), (0x444, 4, 0x8000_0000), (0x448, 4, 0x8000_0000), (0x44C, 4, 0x8000_0000), (0x450, 4, 0),
        (0x800, 8, 0x1312_1110), (0x820, 4, 0x0002_0000), (0x824, 4, 0), (0x828, 4, 0x0001_8000), (0x82C, 4, 0)]
      (user (fun c => let d := regs [(10, sp 0x800), (11, sp 0x820)] c
        { d with cr := { d.cr with spbase := sp 0, spadj := sp 0x400 } }))).modCore 0 (fun c => { c with
          shapes := [(3, 0x03FF_FFFF_FF98_3210)] })
    let retired (i : Instr) : Option State := (after i s id).bind (fun t => after (.spRetire 0) { t with cycle := 100 } id)
    (retired (.spup 20 10 11 3 true)).map (fun t => t.co.scratch.read 0x50 4) = some 0x00DC_6000 ∧
    (retired (.spdown 20 10 11 3 true)).map (fun t => [0x440, 0x444, 0x448, 0x44C].map (fun a => t.co.scratch.read a 4)) =
      some [0x007A_0000, 0x0066_0000, 0x0083_8000, 0x005A_2000] := by decide +kernel

/-- R274: the mixture is a tree; a child named twice and one above its record are not. -/
theorem test_shape_words :
    isTree 0x03FF_FFFF_FF98_3210 = true ∧ isTree 0x03FF_FFFF_FF98_3211 = false ∧ isTree 0x00FF_FFFF_FFFF_FF80 = false ∧
    shapeUsed 0x03FF_FFFF_FF98_3210 = [0, 1, 2, 3] := by decide +kernel

/-- R317, R326: the worked draw: the candidate 5 is rejected at counter 1, token 3 is drawn at counter 2. -/
theorem test_worked_draw :
    let s := withScratch ([(0x1000, 8, 16 * 2 ^ 32 + 16), (0x1008, 8, 2 * 2 ^ 32 + 0x3F80_0000), (0x1010, 8, 0x3F80_0000 * 2 ^ 32 + 0x3F80_0000)] ++
        (List.range 16).map (fun i => (0x40 + 4 * i, 4, if i = 3 ∨ i = 7 then 0 else if i = 5 then 0xBF31_7218 else 0xFF80_0000)))
      (user (fun c => let d := regs [(10, sp 0x40)] c
        { d with cr := { d.cr with sampctx := sp 0x1000, rngk := 0, rngc := 1 } }))
    after (.spivot 20 10) s (fun t => (t.cx.s 20, t.co.scratch.read 0x1030 4)) = some (0, 0) ∧
    after (.sdraw 20 10) s (fun t => (t.cx.s 20).extractLsb' 0 32) = some 3 ∧ after (.sdraw 20 10) s (fun t => t.cx.cr.rngc) = some 3 := by
  decide +kernel

/-- R320, R323: token 0 counts in row 0 at 0, and in row 1 at (0x5BD1_E995 × 0x85EB_CA6B mod 2^32) / 2^20. -/
theorem test_counting_filter :
    after (.cfinc 9) (user (fun c => { c with cr := { c.cr with sampctx := sp 0x1000 } }))
      (fun t => (t.co.scratch.read 0x3000 1, t.co.scratch.read (0x4000 + 0x5BD1_E995 * 0x85EB_CA6B % 2 ^ 32 / 2 ^ 20) 1)) = some (1, 1) := by
  decide +kernel

/-- R253, R254: the worked record: 48 bytes pending on the tag at issue. -/
theorem test_worked_copy :
    let s := withScratch [(0x1000, 8, 2 * 2 ^ 8 + 2), (0x1008, 8, 3), (0x1010, 8, 4), (0x1030, 8, 4), (0x1038, 8, 64), (0x1058, 8, 4), (0x1060, 8, 12)]
      (user (regs [(8, sp 0x1000), (9, sp 0x2000), (10, sp 0x3000)]))
    after (.dcopy 8 9 10 3 true true .pkg) s (fun t => (vget t.cx.tags 3 Tag.reset).pending) = some 48 ∧
    after (.dcopy 8 9 10 3 true true .pkg) s (fun t => t.copies.map (fun c => (c.2.from_ 11, c.2.to_ 11))) = some [(sp 0x20C8, sp 0x302C)] := by
  decide +kernel

/-- R214: the worked homes of 0x12_3440: slice 277 of die 6 in uniform mode, slice 245 of die 0 in local mode. -/
theorem test_worked_homes : sliceOf false 0x12_3440 = 512 * 6 + 277 ∧ sliceOf true 0x12_3440 = 245 := by decide +kernel

/-! ### What the statements suppose

For every statement with hypotheses, states and operands that meet those of each of its clauses. -/

section
open Sys2Proof.Claims

theorem reaches {s : State} {va : Dword} {acc : Access} {n : Nat} {p : Place}
    (h : (s.translate (.ctx s.cur) s.coreNum s.cx.space va acc n).1 = .ok p)
    (h' : let u := (s.translate (.ctx s.cur) s.coreNum s.cx.space va acc n).2
      (u.stalls p (Access.writes acc) || (Access.writes acc && (u.frameDue p).isSome)) = false) :
    Reaches s va acc n p (s.translate (.ctx s.cur) s.coreNum s.cx.space va acc n).2 := by
  simp only [Bool.or_eq_false_iff, Bool.and_eq_false_iff] at h'
  exact ⟨Prod.ext h rfl, h'.1, fun w => by simpa [w] using h'.2⟩

/-- The highest canonical word address. -/
def top : Dword := 0x00FF_FFFF_FFFF_FFFC

/-- A group of one word at an address. -/
def at_ (a : Dword) (s : State) : State := { s with grp := { s.grp with first := a } }

theorem test_premise_BinaryScalarResults :
    (∃ f, binary (.add 1 2 3 true) = some (1, 2, 3, f)) ∧ ∃ f, binary (.bfi 1 2 63 0) = some (1, 1, 2, f) := ⟨⟨_, rfl⟩, ⟨_, rfl⟩⟩

theorem test_premise_UnaryScalarResults :
    (∃ f, unary (.clz 1 2) = some (1, 2, f)) ∧ ∃ f, unary (.bfxs 1 2 63 0) = some (1, 2, f) := ⟨⟨_, rfl⟩, ⟨_, rfl⟩⟩

/-- Taken, not taken, to an address that is not canonical, with a poisoned source; and an imm prefix. -/
theorem test_premise_BranchesGoWhereTheirConditionSays :
    ∃ p : Dword → Dword → Prop, conditional (.beq 10 9 0x7FFF) = some (9, 10, 0x7FFF, p) ∧
      (let s := user id
       p (s.cx.s 9) (s.cx.s 10) ∧ canonical (relative s (0x7FFF : BitVec 16)) = true ∧ s.cx.sp 9 = false ∧ s.cx.sp 10 = false) ∧
      (let s := user (regs [(9, 1)])
       ¬ p (s.cx.s 9) (s.cx.s 10) ∧ s.cx.sp 9 = false ∧ s.cx.sp 10 = false) ∧
      (let s := at_ top (user id)
       p (s.cx.s 9) (s.cx.s 10) ∧ canonical (relative s (0x7FFF : BitVec 16)) = false) ∧
      (let s := user (fun c => c.setS 9 0 true)
       canonical (relative s (0x7FFF : BitVec 16)) = true ∧ (s.cx.sp 9 || s.cx.sp 10) = true) ∧
      (0xFC00_0001 : Word).extractLsb' 22 10 = 0x3F0 :=
  ⟨fun x y => x = y, rfl, by decide +kernel, by decide +kernel, by decide +kernel, by decide +kernel, by decide +kernel⟩

theorem test_premise_JumpsAndLoopTransfer :
    canonical (relative (user id) (0xF_FFFF : BitVec 21)) = true ∧ canonical (relative (at_ top (user id)) (1 : BitVec 21)) = false ∧
    (let s := user (regs [(9, 0x2000)])
     (s.cx.s 9 + 8) &&& 3 = 0 ∧ canonical (s.cx.s 9 + 8) = true ∧ s.cx.sp 9 = false ∧ (s.cx.s 9 + 1) &&& 3 ≠ 0) ∧
    (let s := user (regs [(9, top)])
     (s.cx.s 9 + 4) &&& 3 = 0 ∧ canonical (s.cx.s 9 + 4) = false) ∧
    (let s := user (fun c => c.setS 9 0x2000 true)
     (s.cx.s 9 + 8) &&& 3 = 0 ∧ canonical (s.cx.s 9 + 8) = true ∧ s.cx.sp 9 = true) := by decide +kernel

/-- An S register in both modes, FPM with a matrix member of the context unretired and without. -/
theorem test_premise_ControlRegisterReads :
    (let s := sup id
     mayAccess s .stvec = true ∧ unitsQuiet s .stvec = true ∧ mayAccess s .fpm = true ∧ unitsQuiet s .fpm = true) ∧
    mayAccess (user id) .stvec = false ∧
    (let s := (user id).modCore 0 (fun c => { c with matq := [{ slot := 1, tile := 0, op := .zero, due := 16 }] })
     mayAccess s .fpm = true ∧ unitsQuiet s .fpm = false) := by decide +kernel

theorem test_premise_ControlRegisterWrites :
    (let s := user id
     mayAccess s .fpm = true ∧ s.cx.sp 9 = false ∧ unitsQuiet s .fpm = true ∧ mayAccess s .asid = false) ∧
    (let s := user (fun c => c.setS 9 0 true)
     mayAccess s .lcnt = true ∧ s.cx.sp 9 = true) ∧
    (let s := (user id).modCore 0 (fun c => { c with spq := [{ slot := 1, unit := 0, writes := [], flags := 0, stall := 0, due := 6 }] })
     mayAccess s .spstat = true ∧ s.cx.sp 9 = false ∧ unitsQuiet s .spstat = false ∧ unitsQuiet s .fpm = false) := by decide +kernel

/-- The S context's control register SSTAT with bit 16 as given. -/
def handling (b : Bool) (s : State) : State :=
  s.modCtx 0 (fun c => { c with cr := { c.cr with sstat := if b then 0x1_0000 else 0 } })

/-- Whether the S context of a core takes a trap at once. -/
def sFree (s : State) (core : Nat) : Bool :=
  let o := s.getCtx (ctxKey core 0)
  !o.cr.sstat.getLsbD 16 && !o.midway && s.ctxs.all (fun x => x.1 / 64 != core || x.2.trapped == none)

theorem s_free {s : State} {core : Nat} (h : sFree s core = true) : SFree s core := by
  simpa [sFree, SFree, and_assoc, or_iff_not_imp_left] using h

/-- Nothing left in the units, and a matrix member of the context that has not retired. -/
theorem test_premise_Traps :
    (user id).owesUnits = false ∧
    (let s := (user id).modCore 0 (fun c => { c with matq := [{ slot := 1, tile := 0, op := .zero, due := 16 }] })
     s.owesUnits = true ∧ s.cx.wait = none) := by decide +kernel

theorem test_premise_TrapEntersTheSContext :
    let s := user id
    (s.getCtx 1).delegates cILL = false ∧ (s.getCtx (ctxKey (1 / 64) 0)).cr.sstat.getLsbD 16 = false ∧ 1 % 64 ≠ 0 ∧ SFree s (1 / 64) ∧
    (s.getCtx 64).delegates cALIGN = false ∧ (s.getCtx (ctxKey (64 / 64) 0)).cr.sstat.getLsbD 16 = false :=
  ⟨by decide +kernel, by decide +kernel, by decide, s_free (by decide +kernel), by decide +kernel, by decide +kernel⟩

theorem test_premise_TrapWaitsOrSealsWhileAnotherIsHandled :
    let s := handling true (user id)
    (s.getCtx 1).delegates cSYSCALL = false ∧ ¬ SFree s (1 / 64) ∧ 1 % 64 ≠ 0 ∧
    (s.getCtx 0).delegates cPAGE = false ∧ (s.getCtx (ctxKey (0 / 64) 0)).cr.sstat.getLsbD 16 = true ∧ (s.getCore (0 / 64)).sealed = none ∧
    (s.getCore (0 / 64)).matq = [] ∧ (s.getCore (0 / 64)).spq = [] ∧ s.completesOn (0 / 64) = false :=
  ⟨by decide +kernel, fun h => absurd h.1 (by decide +kernel), by decide, by decide +kernel, by decide +kernel, by decide +kernel, by decide +kernel,
    by decide +kernel, by decide +kernel⟩

theorem test_premise_DelegatedTrapStaysInTheContext :
    ((user (fun c => { c with cr := { c.cr with deleg := 8, utvec := 0x4000 } })).getCtx 1).delegates cALIGN = true := by decide +kernel

theorem test_premise_EretReturns :
    (let s := sup (fun c => { c with cr := { c.cr with sstat := 0x1_0000 } })
     s.cx.mode = .super ∧ s.slotNum = 0 ∧ s.cx.cr.sstat.getLsbD 16 = true ∧ s.cx.cr.sstat.extractLsb' 0 6 = 0) ∧
    (let s := sup (fun c => { c with cr := { c.cr with sstat := 0x1_003F } })
     s.cx.mode = .super ∧ s.slotNum = 0 ∧ s.cx.cr.sstat.getLsbD 16 = true ∧ s.cx.cr.sstat.extractLsb' 0 6 ≠ 0) ∧
    (sup id).cx.cr.sstat.getLsbD 16 = false ∧
    (let s := user (fun c => { c with cr := { c.cr with ucause := 0x8000_0000_0000_0003 } })
     s.cx.mode = .user ∧ s.cx.cr.ucause.getLsbD 63 = true) ∧
    (user id).cx.mode = .user ∧ (user id).cx.cr.ucause.getLsbD 63 = false := by decide +kernel

theorem test_premise_NopWfeChkerr :
    (user (fun c => { c with latch := true })).cx.latch = true ∧ (user id).cx.latch = false ∧ unitsQuiet (user id) .fpm = true ∧
    (user id).cx.cr.chkint.extractLsb' 0 3 &&& 7 = 0 ∧
    (user (fun c => c.chk 4)).cx.cr.chkint.extractLsb' 0 3 &&& (4 : BitVec 3) ≠ 0 ∧ unitsQuiet (user (fun c => c.chk 4)) .fpm = true := by
  decide +kernel

/-- A context whose s9 is a scratchpad address and whose s11 is 1. -/
def near (off : Nat) : State := user (regs [(9, sp off), (11, 1)])

/-- The same with a page of memory instead: virtual 0x10_0000 is physical 0x4010_0000, in the package's own memory, readable, writable,
executable. -/
def mapped (f : Context → Context) : State :=
  let s := user (fun c => f { c with cr := { c.cr with ptroot := 0x1_0000 } })
  { s with mem := (s.mem.write 0x1_0000 8 (0x2_0000 / 256 * 2 ^ 15 + 1)).write 0x2_0000 8 (0x4000 * 2 ^ 23 + 0xDF) }

/-- The state after the checks of an access of s9. -/
def checked (s : State) (acc : Access) (n : Nat) : State := (s.translate (.ctx s.cur) s.coreNum s.cx.space (s.cx.s 9) acc n).2

/-- The last dword of the scratchpad, and a dword of memory; s11 as an index of the indexed form. -/
theorem test_premise_LoadsComplete :
    ∃ ea bad, scalarLoad (.ld 20 9 .d 0) = some (20, .d, false, ea, bad) ∧
      (let s := near 0x1_FFF8
       (ea s.cx).toNat % Size.d.bytes = 0 ∧ Reaches s (ea s.cx) .load Size.d.bytes (.scratch 0x1_FFF8) (checked s .load 8) ∧ bad s.cx = false ∧
       wordsFree (checked s .load 8) (.scratch 0x1_FFF8) Size.d.bytes = true) ∧
      (let s := mapped (regs [(9, 0x10_0008)])
       (ea s.cx).toNat % Size.d.bytes = 0 ∧
       Reaches s (ea s.cx) .load Size.d.bytes (.coherent 0x4010_0008 true false 0) (checked s .load 8) ∧ bad s.cx = false) :=
  ⟨_, _, rfl, ⟨by decide +kernel, reaches (by decide +kernel) (by decide +kernel), by decide +kernel, by decide +kernel⟩,
    by decide +kernel, reaches (by decide +kernel) (by decide +kernel), by decide +kernel⟩

/-- A line that nothing has filled, at its last byte. -/
theorem test_premise_LoadAccessReadsMemory :
    let s := mapped id
    Settled s 0x4010_003F 0 false ∧ 0x4010_003F % 64 + 1 ≤ 64 ∧ ∀ c ∈ (s.getCore (1 / 64)).l1, c.line ≠ lineOf 0x4010_003F :=
  ⟨⟨by decide +kernel, by decide +kernel⟩, by decide, by decide +kernel⟩

theorem test_premise_LoadAndStoreTrapsInOrder :
    ∃ ea bad ea' bad', scalarLoad (.ldx 20 9 11 0 .h) = some (20, .h, false, ea, bad) ∧ scalarStore (.stx 20 9 11 1 .h) = some (20, .h, ea', bad') ∧
      (ea (near 0x1_FFFE).cx).toNat % Size.h.bytes ≠ 0 ∧ (ea' (near 0x1_FFFD).cx).toNat % Size.h.bytes ≠ 0 ∧
      (let s := near 0x1_FFFF
       (ea s.cx).toNat % Size.h.bytes = 0 ∧ (s.translate (.ctx s.cur) s.coreNum s.cx.space (ea s.cx) .load Size.h.bytes).1 = .error cPAGE ∧
       cPAGE ≠ cPOISON ∧ s.cx.firing = none) ∧
      (let s := near 0x1_FFFE
       (ea' s.cx).toNat % Size.h.bytes = 0 ∧ (s.translate (.ctx s.cur) s.coreNum s.cx.space (ea' s.cx) .store Size.h.bytes).1 = .error cPAGE ∧
       s.cx.firing = none) :=
  ⟨_, _, _, _, rfl, rfl, by decide +kernel, by decide +kernel, by decide +kernel, by decide +kernel⟩

/-- Poisoned address registers, of a load and of a store that reach their places. -/
theorem test_premise_LoadAndStoreTrapsInOrder_poison :
    ∃ ea bad ea' bad', scalarLoad (.ld 20 9 .h 0) = some (20, .h, false, ea, bad) ∧ scalarStore (.st 20 9 .h 0) = some (20, .h, ea', bad') ∧
      (let s := user (fun c => c.setS 9 (sp 0x1_FFFE) true)
       (ea s.cx).toNat % Size.h.bytes = 0 ∧ Reaches s (ea s.cx) .load Size.h.bytes (.scratch 0x1_FFFE) (checked s .load 2) ∧ bad s.cx = true ∧
       Reaches s (ea' s.cx) .store Size.h.bytes (.scratch 0x1_FFFE) (checked s .store 2) ∧ timedOk s.cx (ea' s.cx) Size.h.bytes = true ∧
       bad' s.cx = true) :=
  ⟨_, _, _, _, rfl, rfl, by decide +kernel, reaches (by decide +kernel) (by decide +kernel), by decide +kernel,
    reaches (by decide +kernel) (by decide +kernel), by decide +kernel, by decide +kernel⟩

/-- A firing with a state window of 64 bytes at 0x10_0000 of `mapped`. -/
def fired (r : Nat) (desc base size : Nat) (c : Context) : Context :=
  { c with firing := some {
      event := { time := 0, hix := 0, dst := 0, cancel := false, src := 0, serial := 0, payload := 0, poison := false },
      record := r, desc := desc, base := base, size := size, filter := [] } }

/-- A store outside the window of a firing. -/
theorem test_premise_LoadAndStoreTrapsInOrder_timed :
    ∃ ea bad, scalarStore (.st 20 9 .w 0) = some (20, .w, ea, bad) ∧
      (let s := mapped (fun c => fired 0 0 0x10_0000 64 (regs [(9, 0x10_0040)] c))
       (ea s.cx).toNat % Size.w.bytes = 0 ∧ Reaches s (ea s.cx) .store Size.w.bytes (.coherent 0x4010_0040 true false 0) (checked s .store 4) ∧
       timedOk s.cx (ea s.cx) Size.w.bytes = false) :=
  ⟨_, _, rfl, by decide +kernel, reaches (by decide +kernel) (by decide +kernel), by decide +kernel⟩

/-- A load of a firing that meets no page, while the S context is free and while it is not. -/
theorem test_premise_LoadAndStoreTrapsInOrder_page :
    let s := mapped (fun c => fired 0 0 0x10_0000 64 (regs [(9, 0x0040_0000_0000_0000)] c))
    (s.translate (.ctx s.cur) s.coreNum s.cx.space (s.cx.s 9) .load 4).1 = .error cPAGE ∧
    (let v := s.undone (checked s .load 4)
     v.cx.firing.isSome = true ∧ v.cx.mode = .user ∧ SFree (v.squash v.coreNum v.slotNum) v.coreNum) ∧
    (let v := handling true (s.undone (checked s .load 4))
     ¬ SFree (v.squash v.coreNum v.slotNum) v.coreNum) :=
  ⟨by decide +kernel, ⟨by decide +kernel, by decide +kernel, s_free (by decide +kernel)⟩, fun h => absurd h.1 (by decide +kernel)⟩

theorem test_premise_CanonicalAndScratchpadAddresses :
    (Context.reset .user).space.physical = false ∧ canonical (top + 4) = false ∧ canonical (sp 0x1_FFFF) = true ∧
    0xFF00_0000_0000_0000 ≤ (sp 0x1_FFFF).toNat ∧ (sp 0x1_FFFF).toNat < 0xFF00_0000_0002_0000 ∧ Access.load ≠ .fetch := by decide +kernel

/-- Outside a firing, and in the last word of a firing's window, whose block is copied first. -/
theorem test_premise_StoresComplete :
    ∃ ea bad, scalarStore (.st 20 9 .w 0) = some (20, .w, ea, bad) ∧
      (let s := near 0x1_FFFC
       (ea s.cx).toNat % Size.w.bytes = 0 ∧ Reaches s (ea s.cx) .store Size.w.bytes (.scratch 0x1_FFFC) (checked s .store 4) ∧
       timedOk s.cx (ea s.cx) Size.w.bytes = true ∧ bad s.cx = false ∧ wordsFree (checked s .store 4) (.scratch 0x1_FFFC) Size.w.bytes = true ∧
       logStore (ea s.cx) Size.w.bytes (checked s .store 4) = (.ok (), (logStore (ea s.cx) Size.w.bytes (checked s .store 4)).2)) ∧
      (let s := mapped (fun c => fired 0 0 0x10_0000 64 (regs [(9, 0x10_003C)] c))
       Reaches s (ea s.cx) .store Size.w.bytes (.coherent 0x4010_003C true false 0) (checked s .store 4) ∧
       timedOk s.cx (ea s.cx) Size.w.bytes = true) :=
  ⟨_, _, rfl, ⟨by decide +kernel, reaches (by decide +kernel) (by decide +kernel), by decide +kernel, by decide +kernel, by decide +kernel,
    Prod.ext (by decide +kernel) rfl⟩, reaches (by decide +kernel) (by decide +kernel), by decide +kernel⟩

theorem test_premise_StoreAccessChangesItsBytesAlone :
    let s := mapped id
    Settled s 0x4010_0038 0 true ∧ (∀ x ∈ s.behind, x.2.dirty = true) ∧ 0x4010_0038 % 64 + 8 ≤ 64 :=
  ⟨⟨by decide +kernel, by decide +kernel⟩, by decide +kernel, by decide⟩

theorem atomic_ready {s : State} {a : Reg} {n : Nat} {p : Place} (h : (s.cx.s a).toNat % n = 0) (h₁ : timedOk s.cx (s.cx.s a) n = true)
    (h₂ : s.cx.sp a = false) {u : State} (h₃ : Reaches s (s.cx.s a) .atomic n p u) (h₄ : wordsFree u p n = true)
    (h₅ : (logStore (s.cx.s a) n u).1 = .ok ()) : AtomicReady s a n p (logStore (s.cx.s a) n u).2 :=
  ⟨h, h₁, h₂, u, h₃, h₄, Prod.ext h₅ rfl⟩

theorem test_premise_IntegerAtomicsComplete :
    ∃ f, integerAtomic (.amoMin 20 9 10 true) = some (20, 9, 10, true, f) ∧
      (let s := near 0x1_FFF8
       let w := (logStore (s.cx.s 9) 8 (checked s .atomic 8)).2
       AtomicReady s 9 8 (.scratch 0x1_FFF8) w ∧ (w.atomicRead w.cur (.scratch 0x1_FFF8) 8).1.1 < 2 ^ (8 * 8)) :=
  ⟨_, rfl, atomic_ready (by decide +kernel) (by decide +kernel) (by decide +kernel) (reaches (by decide +kernel) (by decide +kernel))
    (by decide +kernel) (by decide +kernel), by decide +kernel⟩

theorem test_premise_FaddAndCasComplete :
    let s := near 0x1_FFFC
    AtomicReady s 9 4 (.scratch 0x1_FFFC) (logStore (s.cx.s 9) 4 (checked s .atomic 4)).2 :=
  atomic_ready (by decide +kernel) (by decide +kernel) (by decide +kernel) (reaches (by decide +kernel) (by decide +kernel))
    (by decide +kernel) (by decide +kernel)

/-- A copy command of the context under way. -/
def aCopy (c : CopyCmd → CopyCmd) : CopyCmd := c {
  core := 0, slot := 1, inc := 0, rcb := 0, tag := 3, lay := { handle := 0, ndim := 1, esize := 2, ext := [3], sstr := [4], dstr := [4], ok := true },
  src := 0x10_0000, dst := sp 0, next := 0, wrote := [], acq := false, rel := false, scope := .pkg, lt := 0,
  space := (mapped id).cx.space }

theorem test_premise_FencesPrefetchAndFlushComplete :
    (user id).commandsOpen = false ∧ (user id).fenceHeld .sys = false ∧ { user id with copies := [(0, aCopy id)] }.commandsOpen = true ∧
    (let s := mapped (regs [(9, 0x10_003F)])
     Reaches s (s.cx.s 9) .flush 1 (.coherent 0x4010_003F true false 0) (checked s .flush 1) ∧ s.cx.sp 9 = false ∧
     (checked s .flush 1).recovering (lineOf 0x4010_003F) = false) :=
  ⟨by decide +kernel, by decide +kernel, by decide +kernel, reaches (by decide +kernel) (by decide +kernel), by decide +kernel, by decide +kernel⟩

/-- A write of the context's command that a lost plane keeps from its place: a fence is held. -/
theorem test_premise_FencesPrefetchAndFlushComplete_held :
    let line := 2 ^ 38 + 5
    let e : Early := {
      ctx := 1, inc := 0, cmd := 0, scope := none, line := line, mask := 1, data := 0, pois := false, key := 0, wt := false, done := none, lt := 0,
      rcb := 0, observed := [] }
    let s : State := { user id with early := [e] }
    let t := s.modDom (fun d => { d with recovery := [{ plane := d.planeOf line, since := 0, reported := [] }] })
    t.commandsOpen = false ∧ t.fenceHeld .sys = true := by decide +kernel

/-- The S context with the tables of `mapped`. -/
def mappedSup (f : Context → Context) : State :=
  let s := mapped id
  { s.setCtx 0 (f { Context.reset .super with slot := .issuing, pc := 0x1000, cr := { CRegs.reset with ptroot := 0x1_0000 } }) with cur := 0 }

theorem test_premise_SupervisorCacheInstructions :
    (user id).cx.mode = .user ∧
    (let s := mappedSup (regs [(9, 0x10_003F)])
     s.cx.mode = .super ∧ Reaches s (s.cx.s 9) .inval 1 (.coherent 0x4010_003F true false 0) (checked s .inval 1) ∧ s.cx.firing = none ∧
     s.cx.sp 9 = false ∧ s.cx.sp 10 = false) ∧
    (let e : TlbEntry := { holder := .core 0, asid := 0, root := 0, glob := false, base := 0x10_0000, size := 0x1_0000, leaf := 0 }
     let s : State := { mappedSup id with tlb := [e] }
     let t : State := { s with copies := [(0, aCopy (fun c => { c with next := 1 }))] }
     e ∈ s.tlb ∧ (e.holder.covered .core 0 && e.hit .all (s.cx.s 9) 0) = true ∧ t.usedByCommand e = true ∧ s.usedByCommand e = false) ∧
    (let p : LanePlan :=
       { bytes := 4, todo := [(1, 0x10_0004, .coherent 0x4010_0004 true false 0)], store := false, acc := 0, pois := false, cut := none, logged := [],
         vals := [], back := false }
     (mapped (fun c => { c with wait := some { kind := .lanes p, since := 0, grp := Group.reset } })).cx.openLane 0 (fun e =>
       e.holder.covered .core 0 && e.hit .all 0 0) = true) :=
  ⟨by decide +kernel, ⟨by decide +kernel, reaches (by decide +kernel) (by decide +kernel), by decide +kernel, by decide +kernel, by decide +kernel⟩,
    by decide +kernel⟩

theorem runs {α : Type} {m : Exec α} {s : State} {a : α} (h : (m s).1 = .ok a) : m s = (.ok a, (m s).2) := Prod.ext h rfl

/-- A bound port with packets. -/
def port (k : Nat) (l : List (VReg × Bool)) (c : Context) : Context := { c with ports := vset c.ports k (some { tag := 7, fifo := l.map (fun x => (x.1, x.2, 0)) }) }

/-- One register named twice, a port with a packet, and an empty port. -/
theorem test_premise_IntegerLaneOperations :
    (∃ f, integerLanes (.vadd 20 9 9 1 .i32) = some (20, [9, 9], 1, .i32, f) ∧ sourcesOf (user id).cx [9, 9] = some [(0, false), (0, false)]) ∧
    (∃ f, integerLanes (.vabs 20 28 1 .i8) = some (20, [28], 1, .i8, f) ∧
      sourcesOf (user (port 0 [(5, true)])).cx [28] = some [(5, true)] ∧
      (user (port 0 [])).cx.portOf 28 = some { tag := 7, fifo := [] }) ∧
    (∃ f, integerLanes (.vadd 20 9 28 1 .i32) = some (20, [9, 28], 1, .i32, f) ∧ (sourceOf (user (port 0 [])).cx 9).isSome = true) :=
  ⟨⟨_, rfl, by decide +kernel⟩, ⟨_, rfl, by decide +kernel, by decide +kernel⟩, _, rfl, by decide +kernel⟩

theorem test_premise_FloatLaneOperations :
    ∃ f, floatLanes (.vfma 20 9 31 9 7 .f64) = some (20, [9, 31, 9], 7, 64, f) ∧
      sourcesOf (user (port 3 [(5, false)])).cx [9, 31, 9] = some [(0, false), (5, false), (0, false)] := ⟨_, rfl, by decide +kernel⟩

theorem test_premise_CompareResults :
    ∃ f, compares (.vcmpLt 7 9 28 1 .f32) = some (7, 9, 28, 1, .f32, f) ∧ (7 : PReg) ≠ 0 ∧
      sourceOf (user (port 0 [(5, true)])).cx 9 = some (0, false) ∧ sourceOf (user (port 0 [(5, true)])).cx 28 = some (5, true) :=
  ⟨_, rfl, by decide +kernel, by decide +kernel, by decide +kernel⟩

theorem test_premise_ReductionResults :
    (∃ f, integerReductions (.vredsum 20 9 0 .i64) = some (20, 9, 0, .i64, f, 0)) ∧
    (∃ f e, floatReductions (.vredmin 20 9 0 .f16) = some (20, 9, 0, .f16, f, e)) ∧ sourceOf (user id).cx 9 = some (0, false) :=
  ⟨⟨_, rfl⟩, ⟨_, _, rfl⟩, by decide +kernel⟩

theorem test_premise_PredicateResults :
    (7 : PReg) ≠ 0 ∧ (user id).cx.sp 9 = false ∧ (user (fun c => c.setS 9 65 true)).cx.sp 9 = true := by decide +kernel

theorem test_premise_LaneMovementResults :
    let s := user (regs [(11, 63)])
    s.cx.sp 11 = false ∧ sourceOf s.cx 9 = some (0, false) ∧ sourceOf s.cx 11 = some (0, false) ∧
    (let t := user (fun c => { c.setS 11 0 true with vpois := 0x800 })
     t.cx.sp 11 = true ∧ sourceOf t.cx 9 = some (0, false) ∧ sourceOf t.cx 11 = some (0, true)) := by decide +kernel

theorem test_premise_WideningAndNarrowingConversions :
    let s := user (regs [(11, 0x3_1D)])
    ETy.i16.width = 2 * ETy.i8.width ∧ pairOk 30 9 = true ∧ sourceOf s.cx 9 = some (0, false) ∧ ETy.f64.width = 2 * ETy.f32.width ∧
    sourceOf s.cx (9 + 1) = some (0, false) ∧ s.cx.sp 11 = false ∧ (B8.of ((s.cx.s 11).extractLsb' 0 8).toNat).isSome = true ∧
    B8.of (((user (regs [(11, 0xFF)])).cx.s 11).extractLsb' 0 8).toNat = none ∧ (user (fun c => c.setS 11 0 true)).cx.sp 11 = true := by decide +kernel

/-- The last block of the scratchpad, two lanes of it and one unaligned row of two. -/
def vnear (off : Nat) (p : Dword) : State := user (fun c => (c.setS 9 (sp off) false).setP 1 p)

/-- A context that stands within a vector access. -/
def midway (p : LanePlan) (c : Context) : Context := { c with wait := some { kind := .lanes p, since := 0, grp := Group.reset } }

/-- Lanes 0 and 15 of the last block, as one access; two lanes gathered; and the second of two lanes still to be loaded, of a load that is cut short at lane 3. -/
theorem test_premise_VectorLoadsComplete :
    (let s := vnear 0x1_FFC0 0x8001
     let ea := vectorEA s.cx 9 0
     let m := laneChecks (laneAddrs (64 / Size.w.bytes) (s.cx.p 1) (fun j => ea + BitVec.ofNat 64 (j * Size.w.bytes))) .load Size.w.bytes
     let ls := [(0, sp 0x1_FFC0, Place.scratch 0x1_FFC0), (15, sp 0x1_FFFC, .scratch 0x1_FFFC)]
     s.cx.plan = none ∧ ea.toNat % Size.w.bytes = 0 ∧ m s = (.ok ls, (m s).2) ∧ s.cx.sp 9 = false ∧ wholeBlock ea ls = some (.scratch 0x1_FFC0) ∧
     ∀ x ∈ ls, (m s).2.laneHeld (m s).2.coreNum Size.w.bytes false x.2.2 = false) ∧
    (let s := vnear 0 3
     let m := laneChecks (laneAddrs (64 / (ETy.i32.width / 8)) (s.cx.p 1) (gatherAddr ETy.i32.width (s.cx.s 9) 0)) .load (ETy.i32.width / 8)
     let ls := [(0, sp 0, Place.scratch 0), (1, sp 0, .scratch 0)]
     sourceOf s.cx 10 = some (0, false) ∧ (s.cx.s 9).toNat % (ETy.i32.width / 8) = 0 ∧ m s = (.ok ls, (m s).2) ∧ s.cx.sp 9 = false) ∧
    (let p : LanePlan := { bytes := 4, todo := [(1, sp 4, .scratch 4)], store := false, acc := 5, pois := false, cut := some 3, logged := [], vals := [], back := false }
     let s := user (midway p)
     vectorLoad (.vldff 20 9 1 .w 0) = some (20, 1, 32, []) ∧ s.cx.plan = some p ∧ p.store = false ∧ (1 : PReg) ≠ 0) :=
  ⟨⟨by decide +kernel, by decide +kernel, runs (by decide +kernel), by decide +kernel, by decide +kernel, by decide +kernel⟩,
    ⟨by decide +kernel, by decide +kernel, runs (by decide +kernel), by decide +kernel⟩, by decide +kernel⟩

/-- Two lanes in place; two in the scratchpad's last words, a third beyond; none in place; and an uncached one with one on no page. -/
theorem test_premise_FirstFaultLoads :
    let tr (s : State) := laneTranslations (laneAddrs (64 / Size.w.bytes) (s.cx.p 1) (fun j => vectorEA s.cx 9 0 + BitVec.ofNat 64 (j * Size.w.bytes)))
      Size.w.bytes s
    (let s := vnear 0x1_FFF8 3
     let l := [(0, sp 0x1_FFF8, Except.ok (.scratch 0x1_FFF8), false), (1, sp 0x1_FFFC, .ok (.scratch 0x1_FFFC), false)]
     s.cx.plan = none ∧ (vectorEA s.cx 9 0).toNat % Size.w.bytes = 0 ∧ (1 : PReg) ≠ 0 ∧ s.cx.sp 9 = false ∧ tr s = (.ok l, (tr s).2)) ∧
    (let s := vnear 0x1_FFF8 7
     let l : List LaneFound :=
       [(0, sp 0x1_FFF8, Except.ok (.scratch 0x1_FFF8), false), (1, sp 0x1_FFFC, .ok (.scratch 0x1_FFFC), false), (2, sp 0x2_0000, .error cPAGE, false)]
     tr s = (.ok l, (tr s).2) ∧
     l.find? (fun x => match x.2.2.1 with | .error _ => true | .ok _ => false) = some (2, sp 0x2_0000, .error cPAGE, false)) ∧
    (let s := vnear 0x2_0000 1
     tr s = (.ok [(0, sp 0x2_0000, .error cPAGE, false)], (tr s).2) ∧ (s.undone (tr s).2).cx.firing = none) ∧
    (let s := { mapped (fun c => (c.setS 9 0x3FFF_FFFC false).setP 1 3) with mem := (mapped id).mem.write 0x2_0001 1 2 }
     let l : List LaneFound := [(0, 0x3FFF_FFFC, .ok (.uncached 0x7FFF_FFFC 0), true), (1, 0x4000_0000, .error cPAGE, false)]
     (vectorEA s.cx 9 0).toNat % Size.w.bytes = 0 ∧ tr s = (.ok l, (tr s).2) ∧ TrapsFirst l cPAGE 0x4000_0000) :=
  ⟨⟨by decide +kernel, by decide +kernel, by decide +kernel, by decide +kernel, runs (by decide +kernel)⟩,
    ⟨runs (by decide +kernel), by decide +kernel⟩, ⟨runs (by decide +kernel), by decide +kernel⟩,
    by decide +kernel, runs (by decide +kernel), .inl rfl, _, rfl, rfl⟩

/-- The whole last block as one access; two lanes scattered; and the second of two lanes still to be stored. -/
theorem test_premise_VectorStoresComplete :
    (let s := vnear 0x1_FFC0 0xFF
     let ea := vectorEA s.cx 9 0
     let addrs := laneAddrs (64 / Size.d.bytes) (s.cx.p 1) (fun j => ea + BitVec.ofNat 64 (j * Size.d.bytes))
     let m := laneChecks addrs .store Size.d.bytes
     let ls := (List.range 8).map (fun i => (i, sp (0x1_FFC0 + 8 * i), Place.scratch (0x1_FFC0 + 8 * i)))
     s.cx.plan = none ∧ sourceOf s.cx 10 = some (0, false) ∧ ea.toNat % Size.d.bytes = 0 ∧ m s = (.ok ls, (m s).2) ∧
     (∀ x ∈ addrs, timedOk s.cx x.2 Size.d.bytes = true) ∧ s.cx.sp 9 = false ∧ wholeBlock ea ls = some (.scratch 0x1_FFC0) ∧
     (∀ x ∈ ls, (m s).2.laneHeld (m s).2.coreNum Size.d.bytes true x.2.2 = false) ∧
     logStore ea 64 (m s).2 = (.ok (), (logStore ea 64 (m s).2).2)) ∧
    (let s := vnear 0 3
     let n := ETy.i32.width / 8
     let addrs := laneAddrs (64 / n) (s.cx.p 1) (gatherAddr ETy.i32.width (s.cx.s 9) 0)
     let m := laneChecks addrs .store n
     let ls := [(0, sp 0, Place.scratch 0), (1, sp 0, .scratch 0)]
     sourceOf s.cx 20 = some (0, false) ∧ sourceOf s.cx 10 = some (0, false) ∧ (s.cx.s 9).toNat % n = 0 ∧ m s = (.ok ls, (m s).2) ∧
     (∀ x ∈ addrs, timedOk s.cx x.2 n = true) ∧ s.cx.sp 9 = false) ∧
    (let p : LanePlan := { bytes := 4, todo := [(1, sp 4, .scratch 4)], store := true, acc := 5, pois := false, cut := none, logged := [], vals := [], back := false }
     let s := user (midway p)
     vectorStore (.vst 20 9 1 .w 0) = some (20, [20]) ∧ s.cx.plan = some p ∧ p.store = true ∧ sourceOf s.cx 20 = some (0, false)) :=
  ⟨⟨by decide +kernel, by decide +kernel, by decide +kernel, runs (by decide +kernel), by decide +kernel, by decide +kernel, by decide +kernel,
      by decide +kernel, runs (by decide +kernel)⟩,
    ⟨by decide +kernel, by decide +kernel, by decide +kernel, runs (by decide +kernel), by decide +kernel, by decide +kernel⟩, by decide +kernel⟩

/-- A block of a firing's window, whose undo copy is made before its first lane is stored, and no second time. -/
theorem test_premise_VectorStoresComplete_firing :
    let s := mapped (fun c => fired 0 0 0x10_0000 64 (regs [(9, 0x10_0000)] c))
    let p : LanePlan := { bytes := 4, todo := [], store := true, acc := 5, pois := false, cut := none, logged := [], vals := [], back := false }
    UndoCopied s p 0x10_0000 (logBlock 0x4000 s).2 { p with logged := [0x4000] } ∧
    UndoCopied s { p with logged := [0x4000] } 0x10_0004 s { p with logged := [0x4000] } := by
  refine ⟨?_, ?_⟩
  · unfold UndoCopied
    rw [if_neg (by decide +kernel)]
    exact ⟨runs (by decide +kernel), by decide +kernel⟩
  · unfold UndoCopied
    rw [if_pos (by decide +kernel)]
    exact ⟨rfl, rfl⟩

/-! #### Tasks, messages, actors, barriers -/

/-- A region of two cores in force on both, with its tables in `mapped`'s pages. -/
def aRegion : Region := {
  core0 := 0, ncore := 2, ctx := 8, part := 8 * 32 + 8, sagg := 65536, deck := 16, colive := 0, fdom := 0, prio := 0, deleg := 0, lmap := 0,
  actt := 0x20_0000, seed := 0, ptroot := 0x1_0000, asid := 0, area := 0x30_0000, restart := false, soc := 0x20_0000, queue := 0, owner := 0,
  parent := 0, rootc := 0, save := 0, nsave := 0, notq := 0, reserved := [], barriers := [], saved := [], work := [], cores := [0, 1],
  status := 0, fault := none, stopping := false, running := true, lt := 0, unacked := [], stoppedAll := false }

/-- A context of that region, registered at 0x100, with an actor table of two actors at 0x20_0000 and actor 1's descriptor, homed on core 1, at
0x21_0000; a society of it. -/
def world (f : Context → Context) : State :=
  let s := mapped (fun c => f { c with cr := { c.cr with region := 0x100 } })
  { s with
    mem := [(0x4020_0000, 2), (0x4020_0048, 0x21_0000), (0x4021_0000, 0x22_0000), (0x4021_0010, 2 ^ 48 + 64), (0x4021_0018, 1)].foldl
      (fun (m : Memory) x => m.write x.1 8 x.2) s.mem
    regions := [(0x100, aRegion)]
    socs := [(0x20_0000, { actt := 0x20_0000, ptroot := 0x1_0000, scope := .die, pushed := none, sweep := none, next := 0, kiln := 0, other := none, arriving := [] })] }

/-- A full deque. -/
def fullDeque (s : State) : State := s.modWork 0x100 0 (fun w => { w with deque := List.replicate 256 { pc := 0, args := 0 } })

/-- An empty deque but one task, a full one, a pc that is no word address, a firing; a `callat` to core 1. -/
theorem test_premise_SpawnAndCallatHandOverTasks :
    (let s := world (regs [(9, 0x4000), (10, 1 * 2 ^ 18)])
     let ep := (s.cx.s 10).extractLsb' 0 40
     (s.cx.s 9).extractLsb' 0 2 = 0 ∧ s.cx.firing = none ∧ (s.getWork 0x100 s.coreNum).deque.length < 256 ∧ s.cx.sp 9 = false ∧
     (s.getRegion? 0x100).isSome = true ∧ epPkg ep = s.pkgNum ∧ s.takesWork 0x100 (epCore ep) = true ∧ s.cx.sp 10 = false ∧
     (s.cx.sendq.length < 16 ∧ vget s.cx.landing 0 none = none) ∧ 256 ≤ ((fullDeque s).getWork 0x100 (fullDeque s).coreNum).deque.length ∧
     (fullDeque s).cx.firing = none ∧ ((fullDeque s).cx.s 9).extractLsb' 0 2 = 0) ∧
    ((world (regs [(9, 0x4003)])).cx.s 9).extractLsb' 0 2 ≠ 0 ∧
    (let s := world (fun c => fired 0 0 0 64 (regs [(9, 0x4000)] c))
     (s.cx.s 9).extractLsb' 0 2 = 0 ∧ s.cx.firing.isSome = true) ∧
    (let s := world (regs [(9, 0x4000), (10, 2 * 2 ^ 18)])
     epPkg ((s.cx.s 10).extractLsb' 0 40) = s.pkgNum ∧ s.takesWork 0x100 (epCore ((s.cx.s 10).extractLsb' 0 40)) = false) := by decide +kernel

theorem test_premise_SpawnAndCallatHandOverTasks_room : Room (world id) false 0 :=
  ⟨by decide +kernel, by simp, by decide, by decide +kernel, fun j h => absurd h (Nat.not_lt_zero j)⟩

theorem test_premise_TasksAndFiringsEnd :
    (let s := world (regs [(9, 0x4000)])
     s.cx.mode = .user ∧ unitsQuiet s .fpm = true ∧ s.cx.firing = none ∧ (s.cx.s 9).extractLsb' 0 2 = 0 ∧ s.cx.sp 9 = false) ∧
    (sup id).cx.mode = .super ∧ (sup id).cx.firing = none ∧ ((world (regs [(9, 0x4001)])).cx.s 9).extractLsb' 0 2 ≠ 0 ∧
    (let s := world (fun c => c.setS 9 0x4000 true)
     (s.cx.s 9).extractLsb' 0 2 = 0 ∧ s.cx.sp 9 = true) ∧
    (let s := world (fired 0x30_0000 0x21_0000 0x22_0000 64)
     s.cx.mode = .user ∧ unitsQuiet s .fpm = true ∧ s.cx.firing.isSome = true ∧ (s.getRegion? s.cx.rgn).isSome = true) ∧
    (∃ τ, (Task.mk 0x4000 0) = τ) ∧ tagsDone (world id).cx = true ∧
    tagsDone (world (fun c => c.tagIssue 31 1)).cx = false := by
  exact ⟨by decide +kernel, by decide +kernel, by decide +kernel, by decide +kernel, by decide +kernel, by decide +kernel, ⟨_, rfl⟩, by decide +kernel, by decide +kernel⟩

/-- The S context; a U context with four others issuing and work to do, and without. -/
theorem test_premise_YieldAndSupervisorHalt :
    ((sup id).cx.mode = .super ∧ (sup id).cx.firing = none ∧ unitsQuiet (sup id) .fpm = true) ∧
    (let s := [2, 3, 4].foldl (fun (s : State) k => s.setCtx k { Context.reset .user with slot := .issuing })
       (fullDeque (world id))
     s.cx.firing = none ∧ s.cx.mode = .user ∧ s.cx.slot = .issuing ∧ 4 ≤ s.held s.coreNum ∧
     s.yieldWork s.cx.rgn s.coreNum = true) ∧
    ¬ 4 ≤ (world id).held (world id).coreNum ∧ (user (fired 0 0 0 64)).cx.firing.isSome = true := by decide +kernel

theorem test_premise_MessagesAreSent :
    (let s := user (fun c => (c.setS 9 0x1_0123_0004_0000 false).setS 10 0x2000_0004_0000 false)
     s.cx.firing = none ∧ s.cx.sp 9 = false ∧ sourceOf s.cx 8 = some (0, false) ∧ ((s.cx.s 9).extractLsb' 46 2 ≠ 0 ∨ (s.cx.s 9).getLsbD 45 = false) ∧
     (s.cx.s 10).extractLsb' 46 2 = 0 ∧ (s.cx.s 10).getLsbD 45 = true ∧ s.cx.sp 10 = false) ∧
    (user (fired 0 0 0 64)).cx.firing.isSome = true ∧
    (let s := user (fun c => { c with landing := Vector.replicate 16 (some { tag := 0, reply := false, answer := none }) })
     s.cx.firing = none ∧ s.cx.sp 9 = false ∧ (∀ j, j < 16 → vget s.cx.landing j none ≠ none) ∧ s.cx.wait = none ∧ 1 < s.cx.cr.sqlim.toNat ∧
     sourceOf s.cx 8 ≠ none) ∧
    (user (fun c => { c with cr := { c.cr with sqlim := 1 } })).cx.cr.sqlim.toNat ≤ 1 ∧
    (let s := (user id).modCore 0 (fun c => { c with flight := List.replicate 64 {
       id := 0, event := { time := 0, hix := 0, dst := 0, cancel := false, src := 0, serial := 0, payload := 0, poison := false }, rcb := 0,
       soc := 0, src := 0, dst := 0, rslot := none, acked := none, refused := none } })
     64 ≤ s.co.flight.length) := by decide +kernel

theorem test_premise_MessagesAreSent_room : Room (user id) false 0 ∧
    Room (user (fun c => { c with landing := vset c.landing 0 (some { tag := 0, reply := false, answer := none }) })) true 1 :=
  ⟨⟨by decide +kernel, by simp, by decide, by decide +kernel, fun j h => absurd h (Nat.not_lt_zero j)⟩,
    by decide +kernel, fun _ => by decide +kernel, by decide, by decide +kernel, fun j h => by
      obtain rfl : j = 0 := by omega
      decide +kernel⟩

/-- A message. -/
def aMessage : Message := { hdr := 5, data := 1, pois := 1 }

theorem test_premise_MessagesAreReceived :
    (user id).cx.sp 9 = false ∧ destBlockOk 28 9 = true ∧ (user id).cx.inbox = [] ∧
    (user (fun c => { c with inbox := [aMessage, aMessage] })).cx.inbox = [aMessage, aMessage] ∧ (user id).cx.matching ((user id).cx.s 9) = [] ∧
    (let s := user (fun c => { c with landing := vset c.landing 15 (some { tag := 0, reply := true, answer := some (0, aMessage) }) })
     firstAnswer (s.cx.matching (s.cx.s 9)) = some (15, 0, aMessage)) ∧
    (let s := user (fun c => { c with landing := vset c.landing 15 (some { tag := 0, reply := true, answer := none }) })
     s.cx.matching (s.cx.s 9) ≠ [] ∧ ∀ x ∈ s.cx.matching (s.cx.s 9), x.2.answer = none) := by decide +kernel

/-- Outside a firing: room, and a time before KILN; in one: an event to another actor, and one to the firing's own actor at its own time. -/
theorem test_premise_EventsAndDeferredActions :
    (let s := world (regs [(8, 1), (9, 5)])
     let dst := (s.cx.s 8).extractLsb' 0 48
     let u := (resolveHome dst s).2
     resolveHome dst s = (.ok (0, 1), u) ∧ u.cx.firing = none ∧ u.floorHolds (s.cx.s 9) = false ∧ s.cx.sp 8 = false ∧ s.cx.sp 9 = false ∧
     (let kiln := u.crRead u.cur .kiln
      ((s.cx.s 9).ult kiln || kiln == BitVec.allOnes 64) = false) ∧ Room u true 0) ∧
    (let s := (world (regs [(8, 1), (9, 5)])).modCore 0 (fun c => { c with kilns := [(0x20_0000, 6)] })
     let u := (resolveHome ((s.cx.s 8).extractLsb' 0 48) s).2
     let kiln := u.crRead u.cur .kiln
     u.cx.firing = none ∧ u.floorHolds (s.cx.s 9) = false ∧ ((s.cx.s 9).ult kiln || kiln == BitVec.allOnes 64) = true) ∧
    (user id).cx.firing = none ∧ (user (fired 0 0 0 64)).cx.firing.isSome = true := 
  ⟨⟨runs (by decide +kernel), by decide +kernel, by decide +kernel, by decide +kernel, by decide +kernel, by decide +kernel, by decide +kernel,
      fun _ => by decide +kernel, by decide, by decide +kernel, fun j h => absurd h (Nat.not_lt_zero j)⟩,
    by decide +kernel, by decide +kernel, by decide +kernel⟩

/-- A firing of actor 1 in `world`, whose registers s8 to s10 name a destination and a time. -/
def firing1 (dst time : Dword) : State := world (fun c => fired 0x30_0000 0x21_0000 0x22_0000 64 (regs [(8, dst), (9, time)] c))

theorem test_premise_EventsAndDeferredActions_firing :
    (let s := firing1 1 5
     let dst := (s.cx.s 8).extractLsb' 0 48
     let u := (resolveHome dst s).2
     let f : Firing := {
       event := { time := 0, hix := 0, dst := 0, cancel := false, src := 0, serial := 0, payload := 0, poison := false },
       record := 0x30_0000, desc := 0x21_0000, base := 0x22_0000, size := 64, filter := [] }
     let y := u.dealerLoad u.cx.rgn u.coreNum (f.desc + 0x1C) 4
     let serial := BitVec.ofNat 32 y.1.1
     let m := appendUnit (.sent (s.cx.s 9) dst serial)
     let w := (m y.2).2
     let late := dst == f.event.dst && decide (eventKey (s.cx.s 9) dst serial ≤ evKey f.event)
     resolveHome dst s = (.ok (0, 1), u) ∧ u.cx.firing = some f ∧ (s.cx.s 9).ult u.cx.cr.lvt = false ∧ y.2.faulted u.cx.rgn = u.faulted u.cx.rgn ∧ late = false ∧
     s.cx.sp 8 = false ∧ s.cx.sp 9 = false ∧ m y.2 = (.ok (), w) ∧ w.cx.firing = some f ∧ Room w true 0 ∧
     (let q := eventQueued w (0, 1) 0 (eventOf s w 8 9 12 (f.event.dst, serial))
      let z := q.dealerStore q.cx.rgn q.coreNum (f.desc + 0x1C) 4 (serial + 1).toNat false
      z.faulted q.cx.rgn = q.faulted q.cx.rgn)) ∧
    (let s := world (fun c => let d := fired 0x30_0000 0x21_0000 0x22_0000 64 (regs [(8, 1), (9, 5)] c)
        { d with cr := { d.cr with lvt := 6 } })
     let u := (resolveHome ((s.cx.s 8).extractLsb' 0 48) s).2
     u.cx.firing.isSome = true ∧ (s.cx.s 9).ult u.cx.cr.lvt = true) ∧
    (let s := world (fun c => fired 0 0 0 64 (regs [(9, 0x40)] c))
     let m := appendUnit (.write .w (s.cx.s 9) (BitVec.ofNat 64 ((s.cx.s 10).toNat % 2 ^ (8 * Size.w.bytes))) (s.cx.sp 10))
     let n := appendUnit (.notice (s.cx.s 9))
     s.cx.firing.isSome = true ∧ (s.cx.s 9).toNat % Size.w.bytes = 0 ∧ canonical (s.cx.s 9) = true ∧ s.cx.sp 9 = false ∧
     m s = (.ok (), (m s).2) ∧ n s = (.ok (), (n s).2)) ∧
    (let s := user (fired 0 0 0 64)
     s.cx.firing.isSome = true ∧ (s.cx.s 9).ult s.cx.cr.lvt = false) ∧
    (let s := (world (regs [(9, 5)])).modCore 0 (fun c => { c with kilns := [(0x20_0000, 6)] })
     s.cx.firing = none ∧ s.cx.sp 9 = false ∧ ((s.cx.s 9).ult (s.crRead s.cur .kiln) || s.crRead s.cur .kiln == BitVec.allOnes 64) = true) ∧
    (let s := user (regs [(9, 5)])
     s.cx.firing = none ∧ s.cx.sp 9 = false ∧ ((s.cx.s 9).ult (s.crRead s.cur .kiln) || s.crRead s.cur .kiln == BitVec.allOnes 64) = false) :=
  ⟨⟨runs (by decide +kernel), by decide +kernel, by decide +kernel, by decide +kernel, by decide +kernel, by decide +kernel, by decide +kernel,
      runs (by decide +kernel), by decide +kernel, ⟨by decide +kernel, fun _ => by decide +kernel, by decide, by decide +kernel, fun j h => absurd h (Nat.not_lt_zero j)⟩,
      by decide +kernel⟩, by decide +kernel,
    ⟨by decide +kernel, by decide +kernel, by decide +kernel, by decide +kernel, runs (by decide +kernel), runs (by decide +kernel)⟩,
    by decide +kernel, by decide +kernel, by decide +kernel⟩

/-- Actor 0 created from actor 1's fields; actor 1 where it is, moved to core 0, and told. -/
theorem test_premise_ActorsAreCreatedAndMoved :
    (let s := world (regs [(8, 0), (9, 0x21_0000), (10, 1)])
     let w := (acreChecks 8 9 10 s).2
     let p := Place.coherent 0x4021_0000 true false 0
     let q := Place.coherent 0x4020_0040 true false 0
     acreChecks 8 9 10 s = (.ok (p, q), w) ∧
     ((((w.storeAt w.cur (p.plus 0x18) 8 (s.pkgNum % 256 * 2 ^ 24 + 1) false).storeAt w.cur (p.plus 0x30) 8 0 false).entryNow q).1 = 0)) ∧
    (let s := world (regs [(9, 1), (10, 1), (11, 0)])
     let actor := (s.cx.s 9).extractLsb' 0 48
     let u := (descriptorOf actor s).2
     let m := loadAddr (BitVec.ofNat 64 (0x21_0000 + 0x18)) 8
     s.cx.firing = none ∧ s.cx.wait = none ∧ descriptorOf actor s = (.ok 0x21_0000, u) ∧ m u = (.ok (1, false), (m u).2) ∧
     s.qualifiesFor s.cx.rgn ((s.cx.s 10).extractLsb' 0 14).toNat = true ∧
     s.qualifiesFor s.cx.rgn ((s.cx.s 11).extractLsb' 0 14).toNat = true ∧ s.cx.sp 9 = false ∧ s.cx.sp 10 = false ∧
     homeOfWord 1 = (s.pkgNum, ((s.cx.s 10).extractLsb' 0 14).toNat) ∧ homeOfWord 1 ≠ (s.pkgNum, ((s.cx.s 11).extractLsb' 0 14).toNat)) ∧
    (let s := firing1 1 5
     let m := findDescriptor ((s.cx.s 8).extractLsb' 0 48)
     let r := loadAddr (BitVec.ofNat 64 (0x21_0000 + 0x18)) 8
     s.cx.wait = none ∧ m s = (.ok (.ok 0x21_0000), (m s).2) ∧ r (m s).2 = (.ok (1, false), (r (m s).2).2) ∧ s.cx.firing.isSome = true) ∧
    (let s := world (regs [(9, 2)])
     let m := findDescriptor ((s.cx.s 9).extractLsb' 0 48)
     m s = (.ok (.error 0x20_0000), (m s).2) ∧ s.cx.firing = none) ∧
    (let s := world (fun c => { (regs [(9, 1)] c) with wait := some { kind := .rehome 1, since := 0, grp := Group.reset } })
     (s.cx.wait.map Wait.kind = some (.rehome ((s.cx.s 9).extractLsb' 0 48))) ∧ s.moveOpen (s.socOf s.cx.rgn) ((s.cx.s 9).extractLsb' 0 48) = false) :=
  ⟨⟨runs (by decide +kernel), by decide +kernel⟩,
    ⟨by decide +kernel, by decide +kernel, runs (by decide +kernel), runs (by decide +kernel), by decide +kernel, by decide +kernel, by decide +kernel,
      by decide +kernel, by decide +kernel, by decide +kernel⟩,
    ⟨by decide +kernel, runs (by decide +kernel), runs (by decide +kernel), by decide +kernel⟩, ⟨runs (by decide +kernel), by decide +kernel⟩,
    by decide +kernel, by decide +kernel⟩

/-- A barrier of cores 0 and 1 in the context's region. -/
def withBarrier (n : Nat) (f : Barrier → Barrier) (s : State) : State :=
  s.modBarrier 0x100 n (fun b => f { b with members := [0, 1], perCore := 1 })

/-- The same context on core 1. -/
def onCore1 (s : State) : State := { s.setCtx 65 (s.getCtx 1) with cur := 65 }

theorem test_premise_BarriersAndChains :
    (let s := withBarrier 31 id (world (regs [(9, 31)]))
     s.cx.firing = none ∧ s.cx.sp 9 = false ∧ s.coreNum ∈ (s.barrier 0x100 31).members ∧
     kgetD (s.barrier 0x100 31).arrived s.coreNum 0 < (s.barrier 0x100 31).perCore ∧ barrierOf (s.cx.s 9) = 31 ∧
     kget s.cx.arrivals (barrierOf (s.cx.s 9)) = none ∧ s.cx.wait = none ∧ (s.barrier 0x100 31).perCore = 1 ∧
     kgetD (s.barrier 0x100 31).arrived s.coreNum 0 = 0 ∧ ∀ m ∈ (s.barrier 0x100 31).members, s.coreNum ≤ m) ∧
    (let s := withBarrier 31 (fun b => { b with arrived := [(0, 1)] }) (world (fun c => { (regs [(9, 31)] c) with arrivals := [(31, 0)] }))
     (s.barrier 0x100 31).perCore ≤ kgetD (s.barrier 0x100 31).arrived s.coreNum 0 ∧
     kget s.cx.arrivals (barrierOf (s.cx.s 9)) = some (s.barrier 0x100 31).phase) ∧
    (let s := onCore1 (withBarrier 31 id (world (regs [(9, 31)])))
     s.cx.firing = none ∧ s.coreNum ∈ (s.barrier 0x100 31).members ∧ (∃ m ∈ (s.barrier 0x100 31).members, m < s.coreNum) ∧
     kget (s.barrier 0x100 31).partials (partialKey s.coreNum (s.barrier 0x100 31).phase) = none) ∧
    (let s := onCore1 (withBarrier 31 (fun b => { b with partials := [(partialKey 1 0, (0, 5, false, 0))] }) (world (regs [(9, 31)])))
     kget (s.barrier 0x100 31).partials (partialKey s.coreNum (s.barrier 0x100 31).phase) = some (0, 5, false, 0)) := by decide +kernel

/-- A record that is valid, one that is not, and a barrier in use. -/
theorem test_premise_BarriersAndChains_cfg :
    let read (s : State) (h w : Nat) : Prop :=
      (s.cx.s 10).extractLsb' 0 3 = 0 ∧ loadBarRecord (s.cx.s 10) s = (.ok (BarRecord.of h, [w], false), (loadBarRecord (s.cx.s 10) s).2) ∧
      s.cx.sp 9 = false ∧ s.cx.sp 10 = false ∧ (s.getRegion? s.cx.rgn).isSome = true
    (let s := withScratch [(0, 8, 2 ^ 32 + 2 ^ 14), (8, 8, 3)] (world (regs [(9, 31), (10, sp 0)]))
     read s (2 ^ 32 + 2 ^ 14) 3 ∧ (s.barrier 0x100 31).arrived = [] ∧
     s.barOk aRegion (BarRecord.of (2 ^ 32 + 2 ^ 14)) ((BarRecord.of (2 ^ 32 + 2 ^ 14)).members [3]) = true) ∧
    (let s := withScratch [(0, 8, 2 ^ 32 + 2 ^ 14), (8, 8, 0)] (world (regs [(9, 31), (10, sp 0)]))
     read s (2 ^ 32 + 2 ^ 14) 0 ∧ s.barOk aRegion (BarRecord.of (2 ^ 32 + 2 ^ 14)) ((BarRecord.of (2 ^ 32 + 2 ^ 14)).members [0]) = false) ∧
    (let s := withBarrier 31 (fun b => { b with arrived := [(0, 1)] })
       (withScratch [(0, 8, 2 ^ 32 + 2 ^ 14), (8, 8, 3)] (world (regs [(9, 31), (10, sp 0)])))
     read s (2 ^ 32 + 2 ^ 14) 3 ∧ (s.barrier 0x100 31).arrived ≠ []) :=
  ⟨⟨⟨by decide +kernel, runs (by decide +kernel), by decide +kernel, by decide +kernel, by decide +kernel⟩,
      by decide +kernel, by decide +kernel⟩,
    ⟨⟨by decide +kernel, runs (by decide +kernel), by decide +kernel, by decide +kernel, by decide +kernel⟩,
      by decide +kernel⟩,
    ⟨by decide +kernel, runs (by decide +kernel), by decide +kernel, by decide +kernel, by decide +kernel⟩,
    by decide +kernel⟩

/-! #### Safe points, engines -/

/-- What an action answers, or a default. -/
def val {α : Type} (d : α) (m : Exec α) (s : State) : α :=
  match (m s).1 with
  | .ok a => a
  | .error _ => d

/-- Whether an action answers. -/
def answers {α : Type} (m : Exec α) (s : State) : Bool :=
  match (m s).1 with
  | .ok _ => true
  | .error _ => false

theorem ran {α : Type} {m : Exec α} {s : State} (d : α) (h : answers m s = true) : m s = (.ok (val d m s), (m s).2) := by
  refine Prod.ext ?_ rfl
  simp only [answers, val] at *
  split at h <;> simp_all

/-- No pending yield; one with a free record, with and without a copy pending. -/
theorem test_premise_SafePointsGoOnOrSave :
    let saves (f : Context → Context) : State := (world f).modRegion 0x100 (fun r => { r with nsave := 2 })
    (user id).cx.yieldReq = none ∧
    (let s := saves (fun c => { c with yieldReq := some 0 })
     s.cx.yieldReq = some 0 ∧ (s.getRegion? s.cx.rgn).bind Region.freeRecord = some 0 ∧ s.cx.mode = .user ∧ s.cx.timed = false ∧
     s.settled s.coreNum s.slotNum = true) ∧
    (let s := saves (fun c => { (c.tagIssue 0 1) with yieldReq := some 0 })
     (s.getRegion? s.cx.rgn).bind Region.freeRecord = some 0 ∧ s.settled s.coreNum s.slotNum = false) := by decide +kernel

/-- A layout record of one element of 64 bytes at the scratchpad's start; a query, a table of one tail block with one token. -/
def issuing : State :=
  withScratch [(0x00, 8, 2 ^ 8 + 6), (0x08, 8, 1), (0xC0, 8, 0x10_0000), (0x120, 8, 0x22_0000 + 1), (0x140, 8, 0x18_0000 + 0x8001), (0x148, 8, 1)]
    (mapped (regs [(8, sp 0), (9, 0x10_0000), (10, sp 0x1000), (11, sp 0xC0), (12, sp 0x100), (13, sp 1)]))

theorem test_premise_CopiesAndAttentionAreIssued :
    (let s := issuing
     let d : Layout × Bool := (Layout.of 0, false)
     let m := fetchLayout (s.cx.s 8)
     let lay := val d m s
     let u := (m s).2
     (s.cx.s 8).toNat % 64 = 0 ∧ m s = (.ok lay, u) ∧ lay.1.ok = true ∧ lay.1.count * lay.1.bytes = 64 ∧ (s.cx.s 9).toNat % lay.1.bytes = 0 ∧
     (s.cx.s 10).toNat % lay.1.bytes = 0 ∧ (s.cx.timed = true → spanInScratch (lay.1.span (s.cx.s 10)) = true) ∧
     (s.cx.sp 8 || s.cx.sp 9 || s.cx.sp 10 || lay.2) = false ∧ u.quadCopies (u.coreNum / 4) < 32 ∧
     TagHas u.cx 31 (lay.1.count * lay.1.bytes) ∧ (s.cx.s 13).toNat % 64 ≠ 0) ∧
    (let s := issuing
     let mp := placesT [s.cx.s 11, s.cx.s 12] .load 64
     let u₀ := (mp s).2
     let mq := issueLoad (.scratch 0xC0) 64
     let u₁ := (mq u₀).2
     let mh := issueLoad (.scratch 0x100) 64
     let u₂ := (mh u₁).2
     let qd := val (0, false) mq u₀
     let hd := val (0, false) mh u₁
     let me := loadExtents (hd.1 / 2 ^ 256 % 128) (s.cx.s 12 + 64)
     let ex := val ([], false) me u₂
     let u := (me u₂).2
     let tab : BlockTable := { hdr := hd.1, exts := ex.1 }
     (s.cx.s 11).toNat % 64 = 0 ∧ (s.cx.s 12).toNat % 64 = 0 ∧ mp s = (.ok [.scratch 0xC0, .scratch 0x100], u₀) ∧ mq u₀ = (.ok qd, u₁) ∧ mh u₁ = (.ok hd, u₂) ∧ me u₂ = (.ok ex, u) ∧
     queryOk qd.1 = true ∧ tab.ok = true ∧ tab.exts.length = 1 ∧ s.cx.timed = false ∧
     (s.cx.sp 11 || s.cx.sp 12 || s.cx.sp 10 || qd.2 || hd.2 || ex.2) = false ∧ u.attnRoom (tab.attnBlocks (u.homeSlice s.cx.space)) = true ∧
     TagHas u.cx 0 (4 * headDim tab.dcode * (qd.1 / 2 ^ 96 % 64 + 1))) :=
  ⟨⟨by decide +kernel, ran _ (by decide +kernel), by decide +kernel, by decide +kernel, by decide +kernel, by decide +kernel, by decide +kernel,
      by decide +kernel, by decide +kernel, by unfold TagHas; decide +kernel, by decide +kernel⟩,
    by decide +kernel, by decide +kernel, runs (by decide +kernel), ran _ (by decide +kernel), ran _ (by decide +kernel), ran _ (by decide +kernel), by decide +kernel,
    by decide +kernel, by decide +kernel, by decide +kernel, by decide +kernel, by decide +kernel, by unfold TagHas; decide +kernel⟩

/-- Tag 0 alone in the mask: idle, pending, in error; a poisoned mask; and no tag at all. -/
theorem test_premise_TagInstructionsComplete :
    let idle (c : Context) (i : Nat) : Bool := (vget c.tags i Tag.reset).pending == 0
    let m (s : State) : Dword := (s.cx.s 9) &&& 0xFFFF_FFFF
    let one := user (regs [(9, 1)])
    let busy := user (fun c => (regs [(9, 1)] c).tagIssue 0 1)
    let bad := user (fun c => (regs [(9, 1)] c).tagFail 0 3)
    (m one).getLsbD 0 = true ∧ idle one.cx 0 = true ∧ (∀ i, i < 32 → (vget one.cx.tags i Tag.reset).err = false) ∧ one.cx.sp 9 = false ∧
    (m busy ≠ 0 ∧ ∀ i, i < 32 → (m busy).getLsbD i = true → idle busy.cx i = false) ∧
    ((m bad).getLsbD 0 = true ∧ (vget bad.cx.tags 0 Tag.reset).err = true ∧ idle bad.cx 0 = true) ∧ m (user id) = 0 ∧
    ((user (fun c => c.setS 9 1 true)).cx.sp 9 = true) ∧ (vget one.cx.tags 0 Tag.reset).pending < 2 ^ 40 := by decide +kernel

/-- Pairs for two operands of bf16 in one line of the scratchpad, with a partition of one accumulator granule. -/
def matrix : State :=
  (withScratch [(0x1000, 8, (sp 0x2000).toNat), (0x1008, 8, 0x22 * 2 ^ 56), (0x1020, 8, (sp 0x2040).toNat), (0x1028, 8, 0x23 * 2 ^ 56 + 2 ^ 6)]
    (user (regs [(8, sp 0x1000), (9, sp 0x1020), (10, sp 0x3000), (11, 0x22)]))).modCore 0 (fun c => { c with part := 1 * 32 + 1 })

/-- An empty pair. -/
def noPair : MatRecord := { base := 0, fmt := 0, stride := 0, sbase := none, rsvd := false, pois := false }

theorem scale_aligned {r : MatRecord} (h : r.sbase = none) : ScaleAligned r := fun p h' => by simp [h] at h'

theorem test_premise_MatrixInstructionsComplete_mma :
    let s := matrix
    let mp := placesT (pairAddrs (s.cx.s 8) false ++ pairAddrs (s.cx.s 9) false) .load 16
    let ps := val [] mp s
    let u₀ := (mp s).2
    let ma := loadPair (ps.take 1)
    let mb := loadPair (ps.drop 1)
    let ra := val noPair ma u₀
    let u₁ := (ma u₀).2
    let rb := val noPair mb u₁
    let u₂ := (mb u₁).2
    let la := val ([], none) ra.places u₂
    let u₃ := (ra.places u₂).2
    let lb := val ([], none) rb.places u₃
    let u₄ := (rb.places u₃).2
    let oa := val (0, none, false) (ra.load la) u₄
    let u₅ := (ra.load la u₄).2
    let ob := val (0, none, false) (rb.load lb) u₅
    MmaReads s 8 9 false false ra rb oa ob (rb.load lb u₅).2 :=
  ⟨by decide +kernel, by decide +kernel, by decide +kernel, by decide +kernel, scale_aligned (by decide +kernel),
    scale_aligned (by decide +kernel), by decide +kernel, by decide +kernel, by decide +kernel, by decide +kernel,
    _, _, _, _, _, _, _, _, _, ran _ (by decide +kernel), ran _ (by decide +kernel), ran _ (by decide +kernel), ran _ (by decide +kernel), ran _ (by decide +kernel),
    ran _ (by decide +kernel), ran _ (by decide +kernel)⟩

/-- Tiles 3 and 4 of four; a load of tile 3, its store with nothing in the unit, a wait with a member for it; converted; a codebook. -/
theorem test_premise_MatrixInstructionsComplete :
    let s := matrix
    s.cx.plan = none ∧ 4 * partAcc s.co.part ≤ (4 : BitVec 7).toNat ∧ (3 : BitVec 7).toNat < 4 * partAcc s.co.part ∧
    (let m := rowPlaces 10 0 .load
     let ps := val [] m s
     let l := loadLines ps
     m s = (.ok ps, (m s).2) ∧ l (m s).2 = (.ok (val (0, false) l (m s).2), (l (m s).2).2) ∧ (m s).2.cx.sp 10 = false) ∧
    (∀ j ∈ s.co.matq, j.tile ≠ (3 : BitVec 7).toNat ∧ j.slot ≠ s.slotNum) ∧
    (∃ j ∈ (s.modCo (fun c => { c with matq := [{ slot := 2, tile := 3, op := .zero, due := 16 }] })).co.matq,
      j.tile = (3 : BitVec 7).toNat ∨ j.slot = s.slotNum) ∧
    (∃ j ∈ (s.modCo (fun c => { c with matq := [{ slot := 1, tile := 0, op := .zero, due := 16 }] })).co.matq,
      j.tile = (3 : BitVec 7).toNat ∨ j.slot = s.slotNum) ∧
    (let m := rowPlaces 10 0 .store
     let ps := val [] m s
     let u := (m s).2
     m s = (.ok ps, u) ∧ (∀ i, i < 16 → timedOk u.cx (rowAddr u.cx 10 0 i) 64 = true) ∧ u.cx.sp 10 = false) ∧
    (let f := (s.cx.s 11).toNat % 256
     let addr (k : Nat) : Dword := s.cx.s 10 + BitVec.ofNat 64 (64 * k)
     let m := (rangeFrom 0 (4 * 2)).mapM (fun k => translateT (addr k) .store 64)
     let ps := val [] m s
     let u := (m s).2
     storeBytes f = some 2 ∧ (s.cx.s 10).toNat % 64 = 0 ∧ m s = (.ok ps, u) ∧ (∀ k, k < 4 * 2 → timedOk u.cx (addr k) 64 = true) ∧
     s.cx.sp 10 = false ∧ s.cx.sp 11 = false) ∧
    (let p := blocksLeft 5 (fun k => s.cx.s 10 + BitVec.ofNat 64 (64 * k)) [.scratch 0x3000, .scratch 0x3040] false 1
     (s.modCx (fun c => { c with wait := some { kind := .lanes p, since := 0, grp := Group.reset } })).cx.plan = some p ∧ p.store = true) ∧
    (let u := (s.translate (.ctx s.cur) s.coreNum s.cx.space (s.cx.s 10) .load 16).2
     (s.cx.s 10).toNat % 16 = 0 ∧ Reaches s (s.cx.s 10) .load 16 (.scratch 0x3000) u ∧ s.cx.sp 10 = false ∧
     wordsFree u (.scratch 0x3000) 16 = true) :=
  ⟨by decide +kernel, by decide +kernel, by decide +kernel, ⟨ran _ (by decide +kernel), ran _ (by decide +kernel), by decide +kernel⟩,
    by decide +kernel, by decide +kernel, by decide +kernel, ⟨ran _ (by decide +kernel), by decide +kernel, by decide +kernel⟩,
    ⟨by decide +kernel, by decide +kernel, ran _ (by decide +kernel), by decide +kernel, by decide +kernel, by decide +kernel⟩, ⟨rfl, rfl⟩,
    by decide +kernel, reaches (by decide +kernel) (by decide +kernel), by decide +kernel, by decide +kernel⟩

/-- The mixture's word in memory, a word that is no tree; the worked operands, and the same with an owned word. -/
theorem test_premise_SumProductInstructionsComplete :
    (let s := withScratch [(0x40, 8, 0x03FF_FFFF_FF98_3210)] (near 0x40)
     let u := checked s .load 8
     (s.cx.s 9).toNat % 8 = 0 ∧ Reaches s (s.cx.s 9) .load 8 (.scratch 0x40) u ∧ wordsFree u (.scratch 0x40) 8 = true ∧
     kgetD u.co.spLast spFree 0 ≤ u.cycle ∧
     let r := u.loadAt u.cur (.scratch 0x40) 8
     isTree (BitVec.ofNat 64 r.1.1) = true ∧ s.cx.sp 9 = false ∧ r.1.2 = false) ∧
    (let s := near 0x40
     let u := checked s .load 8
     Reaches s (s.cx.s 9) .load 8 (.scratch 0x40) u ∧ isTree (BitVec.ofNat 64 (u.loadAt u.cur (.scratch 0x40) 8).1.1) = false) ∧
    (let s := (user (fun c => let d := regs [(10, sp 0x800)] c
        { d with cr := { d.cr with spbase := sp 0, spadj := sp 0x400 } })).modCore 0 (fun c => { c with shapes := [(63, 0x03FF_FFFF_FF98_3210)] })
     let m := spOperands 255 10 0 63 true true
     let d : SpOperands := { shape := 0, list := [], weights := [], nodes := [], root := 0, adjs := [] }
     let o := val d m s
     m s = (.ok o, s) ∧ s.co.spOwned o.touched = false ∧ s.co.spAccepts s.cycle = true ∧
     (let t := s.modCo (fun c => { c with spLast := [(4, 1)] })
      t.co.spAccepts t.cycle = false)) ∧
    (let s := (user (regs [(10, sp 0x800)])).modCore 0 (fun c => { c with
        spq := [{ slot := 2, unit := 0, writes := [(0x804, (0, false))], flags := 0, stall := 0, due := 6 }] })
     (s.cx.s 10).toNat % 8 = 0 ∧ (0xFF00_0000_0000_0000 ≤ (s.cx.s 10).toNat ∧ (s.cx.s 10).toNat - 0xFF00_0000_0000_0000 + 8 ≤ scratchBytes s.co) ∧
     s.co.spOwned [0x800, 0x804] = true) :=
  ⟨⟨by decide +kernel, reaches (by decide +kernel) (by decide +kernel), by decide +kernel, by decide +kernel, by decide +kernel, by decide +kernel,
      by decide +kernel⟩,
    ⟨reaches (by decide +kernel) (by decide +kernel), by decide +kernel⟩,
    ⟨(ran _ (by decide +kernel)).trans (Prod.ext rfl (by decide +kernel)), by decide +kernel, by decide +kernel, by decide +kernel⟩, by decide +kernel⟩

/-- A sampler context of 16 tokens with a filter at the scratchpad's offset 0x1000, and two rows. -/
def sampler (filter : List (Nat × Nat × Nat)) : State :=
  withScratch ([(0x1000, 8, 16 * 2 ^ 32 + 16), (0x1008, 8, 0x3F80_0000), (0x1010, 8, 0x3F80_0000 * 2 ^ 32 + 0x3F80_0000), (0x44, 4, 0x3F80_0000)] ++ filter)
    (user (fun c => let d := regs [(9, 1), (10, sp 0x40), (11, sp 0x80)] c
      { d with cr := { d.cr with sampctx := sp 0x1000 } }))

/-- The same with token 1 counted twice. -/
def sampling : State := sampler [(0x1000 + 0x2000 + filter0 1, 1, 2), (0x1000 + 0x3000 + filter1 1, 1, 2)]

theorem test_premise_SamplingInstructionsComplete :
    (let s := sampling
     let m := sampRows [s.cx.s 10] true (s.cx.sp 10)
     let r := val (0, [], none) m s
     let u := (m s).2
     let l := logStore (s.cx.cr.sampctx + 0x30) 4
     let v : State := { u with fresh := u.fresh + 1 }
     m s = (.ok r, u) ∧ r.2.2 = some (.scratch 0x1030) ∧ wordsFree u (.scratch 0x1030) 4 = true ∧ l v = (.ok (), (l v).2)) ∧
    (let s := sampling
     let m := sampRows [s.cx.s 10] false (s.cx.sp 10)
     m s = (.ok (val (0, [], none) m s), (m s).2)) ∧
    (let s := sampling
     let m := sampRows [s.cx.s 10, s.cx.s (10 + 1)] false (s.cx.sp 10 || s.cx.sp (10 + 1))
     m s = (.ok (val (0, [], none) m s), (m s).2)) := ⟨⟨ran _ (by decide +kernel), by decide +kernel, by decide +kernel, runs (by decide +kernel)⟩,
      ran _ (by decide +kernel), ran _ (by decide +kernel)⟩

theorem bumped {s : State} {va : Dword} {p : Place} (h : wordsFree s p 1 = true) (h' : (logStore va 1 s).1 = .ok ()) :
    ∃ t, Bumped s va p t := ⟨_, h, _, Prod.ext h' rfl, rfl⟩

theorem test_premise_SamplingInstructionsComplete_cfinc :
    let s := sampling
    let v₀ := s.cx.cr.sampctx + BitVec.ofNat 64 (0x2000 + filter0 1)
    let v₁ := s.cx.cr.sampctx + BitVec.ofNat 64 (0x3000 + filter1 1)
    let u₀ := (s.translate (.ctx s.cur) s.coreNum s.cx.space v₀ .atomic 1).2
    let u₁ := (u₀.translate (.ctx u₀.cur) u₀.coreNum u₀.cx.space v₁ .atomic 1).2
    let p₀ := Place.scratch (0x3000 + filter0 1)
    let p₁ := Place.scratch (0x4000 + filter1 1)
    (s.cx.s 9).toNat % 2 ^ 32 = 1 ∧ Reaches s v₀ .atomic 1 p₀ u₀ ∧ Reaches u₀ v₁ .atomic 1 p₁ u₁ ∧ timedOk u₁.cx v₀ 1 = true ∧
    timedOk u₁.cx v₁ 1 = true ∧ s.cx.sp 9 = false ∧ ∃ w₀, Bumped u₁ v₀ p₀ w₀ ∧ ∃ w₁, Bumped w₀ v₁ p₁ w₁ :=
  ⟨by decide +kernel, reaches (by decide +kernel) (by decide +kernel), reaches (by decide +kernel) (by decide +kernel), by decide +kernel,
    by decide +kernel, by decide +kernel, _, ⟨by decide +kernel, _, Prod.ext (by decide +kernel) rfl, rfl⟩,
    _, by decide +kernel, _, Prod.ext (by decide +kernel) rfl, rfl⟩

/-- The premises of `cfapply` in a state, with the tokens that the filter counts; before its loads, and with them made. -/
def cfapplyReady (s : State) (tokens : List Nat) : Prop :=
  let row := s.cx.s 10
  let va (i : Nat) : Dword := row + BitVec.ofNat 64 (4 * i)
  let m₁ := sampHeader [row] false
  let h := val (0, false, none) m₁ s
  let u₁ := (m₁ s).2
  let m₂ := linePlaces (sortedLines (rowLines (hdrV h.1) row)) .load
  let ps := val [] m₂ u₁
  let u₂ := (m₂ u₁).2
  let m₃ := bytePlaces ((rangeFrom 0 (hdrPad h.1)).flatMap (fun i =>
      [s.cx.cr.sampctx.toNat + 0x2000 + filter0 i, s.cx.cr.sampctx.toNat + 0x3000 + filter1 i]))
  let fs := val [] m₃ u₂
  let u₃ := (m₃ u₂).2
  let m₄ := readLines ((ps ++ fs).foldl (fun m x => kset m x.1 x.2) [])
  let ls := val [] m₄ u₃
  let u₄ := (m₄ u₃).2
  let out := penalties h.1 s.cx.cr.sampctx row ls
  let m₅ := penaltyPlaces va out
  let todo := val [] m₅ u₄
  let u₅ := (m₅ u₄).2
  let s' := s.modCx (fun c => { c with wait := some { kind := .lanes (penaltyPlan out todo), since := 0, grp := Group.reset } })
  s.cx.plan = none ∧
  m₁ s = (.ok h, u₁) ∧ m₂ u₁ = (.ok ps, u₂) ∧ m₃ u₂ = (.ok fs, u₃) ∧ m₄ u₃ = (.ok ls, u₄) ∧ m₅ u₄ = (.ok todo, u₅) ∧
  (out.map (fun x => x.1) = tokens) ∧ (∀ x ∈ out, timedOk u₅.cx (va x.1) 4 = true) ∧ s.cx.sp 10 = false ∧ h.2.1 = false ∧
  s'.cx.plan = some (penaltyPlan out todo) ∧ (penaltyPlan out todo).store = true

/-- A row whose token 1 is counted twice, and one with no token counted. -/
theorem test_premise_SamplingInstructionsComplete_cfapply : cfapplyReady sampling [1] :=
  ⟨by decide +kernel, ran _ (by decide +kernel), ran _ (by decide +kernel), ran _ (by decide +kernel), ran _ (by decide +kernel), ran _ (by decide +kernel),
    by decide +kernel, by decide +kernel, by decide +kernel, by decide +kernel, by decide +kernel, rfl⟩

theorem test_premise_SamplingInstructionsComplete_cfapply_none :
    cfapplyReady (sampler []) [] :=
  ⟨by decide +kernel, ran _ (by decide +kernel), ran _ (by decide +kernel), ran _ (by decide +kernel), ran _ (by decide +kernel), ran _ (by decide +kernel),
    by decide +kernel, by decide +kernel, by decide +kernel, by decide +kernel, by decide +kernel, rfl⟩

/-! #### Steps of the hardware -/

/-- A U context of slot 1 of core 0 that waits, in the world of one region; at cycle 20,000. -/
def waiting (k : WaitKind) : State :=
  { world (fun c => { c with wait := some { kind := k, since := 0, grp := Group.reset } }) with cycle := 20000 }

/-- Slots 2 to 4 issuing beside slot 1, and slot 5 parked and ready. -/
def crowded (s : State) : State :=
  [2, 3, 4].foldl (fun (s : State) k => s.setCtx k { Context.reset .user with slot := .issuing })
    (s.setCtx 5 { Context.reset .user with slot := .parkedReady })

/-- A task on core 0's deque. -/
def withTask (s : State) : State := s.modWork 0x100 0 (fun w => { w with deque := [{ pc := 0x4000, args := 5 }] })

theorem test_premise_DealerStepsForRunningContexts :
    (let s := waiting .latch
     (s.getCtx 1).wait = some { kind := .latch, since := 0, grp := Group.reset } ∧ (s.getCtx 1).latch = false ∧ 0 + 4096 ≤ s.cycle) ∧
    (crowded (waiting .latch)).mayPark 0 1 = true ∧
    (let s := { world id with ctxs := [(0, { (Context.reset .super) with slot := .issuing })] }
     let c := s.getCtx (ctxKey 0 0)
     c.slot = .issuing ∧ c.midway = false ∧ c.plan = none ∧ c.cr.sstat.getLsbD 16 = false ∧ (s.getCore 0).supWork = false) ∧
    (let s := (world id).setCtx 5 { Context.reset .user with slot := .parkedReady }
     s.held 0 < 4 ∧ s.lowestReady 0 = some 5) ∧
    ((world (fun c => { c with slot := .waking 0 })).getCtx 1).slot = .waking 0 ∧
    (world (fun c => { c with trapped := some (c.trapEntry cPAGE 5 0x1000 0) })).queuedTrap 0 = some 1 ∧
    (let s := { world (fun c => { (fired 0 0 0 64 c) with yieldReq := some 0 }) with cycle := 20000 }
     (s.getCtx 1).live = true ∧ (s.getCtx 1).mode = .user ∧ (s.getCtx 1).yieldReq = some 0 ∧ (s.getCtx 1).firing.isSome = true ∧ 0 + 20000 ≤ s.cycle) ∧
    (let s := (waiting .inbox).modCtx 1 (fun c => { c with yieldReq := some 0 })
     (s.getCtx 1).firing = none ∧ ((s.getCtx 1).wait.map (fun w => w.kind.parks)) = some true ∧ (s.getCtx 1).live = true) ∧
    (let s := world (fun c => { c with trapped := some (c.trapEntry cPAGE 5 0x1000 0), yieldReq := some 0 })
     (s.getCtx 1).firing = none ∧ (s.getCtx 1).trapped.isSome = true ∧ (s.getCtx 1).live = true ∧ (s.getCtx 1).mode = .user) ∧
    (let c := (world id).getCtx 1
     c.live = true ∧ c.mode = .user ∧ c.yieldReq = none ∧ c.firing = none ∧ c.wait = none ∧ c.trapped = none) ∧
    ((world (fired 0 0 0 64)).getCtx 1).yieldReq = none ∧
    (let s := { withTask (world id) with
       regions := [(0x100, { aRegion with prio := 1 }), (0x200, { aRegion with colive := 1 })] }.modWork 0x100 0 (fun w =>
         { w with deque := [{ pc := 0x4000, args := 5 }] })
     let t := s.modCore 0 (fun c => { c with serving := some 0x200 })
     t.higherWork 0 = true) ∧
    (let s := (withTask (world id)).modCore 0 (fun c => { c with serving := some 0x200 })
     { s with cycle := 2500000, regions := s.regions ++ [(0x200, aRegion)] }.sliceOver 0 = true) := by decide +kernel

/-- No context on core 0, the region in force nowhere. -/
def idle : State := { world id with ctxs := [] }

/-- An event for actor 1 on core 0's deck, whose handler table has one entry. -/
def withEvent (s : State) : State :=
  { s with mem := s.mem.write 0x4021_0008 8 0x23_0000 }.modWork 0x100 0 (fun w => { w with deck := [
    { time := 5, hix := 0, dst := 1, cancel := false, src := 2, serial := 0, payload := 0, poison := false }] })

/-- What `idle` has to start: a task, a saved context, a firing; a slot held for its tags, and one with a successor; a probe, its answers. -/
theorem test_premise_DealerStartsWork :
    (let s := withTask idle
     s.startPlace 0 = some (0x100, (s.getRegion? 0x100).getD aRegion, 1) ∧ s.candidates 0x100 0 = [] ∧
     s.resumable 0x100 ((s.getRegion? 0x100).getD aRegion) 0 = none ∧ (s.getWork 0x100 0).nextTask.isSome = true) ∧
    (let r := { aRegion with nsave := 1, saved := [{ index := 0, core := 0, caller := none, start := { pc := 0, args := 0 }, latch := false, lt := 0, fenceLt := 0, times := [] }] }
     let s := { idle with regions := [(0x100, r)] }
     s.startPlace 0 = some (0x100, r, 1) ∧ s.candidates 0x100 0 = [] ∧ s.resumable 0x100 r 0 = r.saved.head? ∧ r.saved.head?.isSome = true ∧
     ∀ y ∈ s.regions, s.resumeFails y.2 = none) ∧
    (let s := withEvent idle
     let e := ((s.getWork 0x100 0).deck.head?).getD { time := 0, hix := 9, dst := 0, cancel := true, src := 0, serial := 0, payload := 0, poison := true }
     (s.getCore 0).shut = false ∧ s.pick 0 = some 0x100 ∧ (s.getRegion? 0x100).isSome = true ∧ s.choose 0x100 0 = some (e, false) ∧
     e.hix.toNat < (s.handlerOf 0x100 0 e).1.2 ∧ s.held 0 < 4 ∧ s.lowestReady 0 = none ∧
     ((s.getRegion? 0x100).bind (fun r => s.freeSlot 0x100 r 0)) = some 1) ∧
    (let s := world (fun c => { c with slot := .draining none })
     (s.getCtx (ctxKey 0 1)).slot = .draining none ∧ tagsDone (s.getCtx (ctxKey 0 1)) = true) ∧
    (let s := world (fun c => { c with slot := .draining (some { pc := 0x4000, args := 0 }) })
     (s.getCtx (ctxKey 0 1)).slot = .draining (some { pc := 0x4000, args := 0 }) ∧ tagsDone (s.getCtx (ctxKey 0 1)) = true) ∧
    idle.mayProbe 0 = some (0x100, aRegion) ∧ (idle.getRegion? 0x100 = some aRegion ∧ aRegion.cores.length ≤ (idle.getCore 0).steal.index + 2) ∧
    epCore (idle.coreEp 0) = 0 ∧
    (let s := idle.modCore 0 (fun c => { c with steal := { c.steal with paused := some 0 } })
     (s.getCore 0).steal.paused = some 0 ∧ 0 ≤ s.cycle) := by decide +kernel

/-- A packet for slot 1 of core 0. -/
def packet (b : Body) : Packet := { net := .req, src := epAddr 0 1 1 0, dst := epAddr 0 0 1 0, rcb := 0x100, body := b }

/-- Nothing is held in the network of `world`; a message held for core 0 stops the others. -/
theorem world_unblocked (f : Context → Context) (core : Nat) (p : Packet) (h : epCore p.dst = core) (h₁ : ((world f).getCore core).reqHeld = none) :
    Unblocked (world f) p := by
  intro q hq
  rw [h, h₁] at hq
  cases hq

theorem test_premise_PacketsLand_unblocked :
    Unblocked (world id) (packet (.ack 0)) ∧ ¬ Unblocked { (world id).modCore 0 (fun c => { c with reqHeld := some (packet (.message aMessage)) }) with
      net := [packet (.message aMessage)] } (packet (.ack 0)) := by
  refine ⟨world_unblocked id 0 _ (by decide +kernel) (by decide +kernel), fun h => ?_⟩
  have := h (packet (.message aMessage)) (by decide +kernel)
  revert this
  decide +kernel

theorem test_premise_PacketsLand_full :
    (let s := world (port 3 (List.replicate 4 (0, false)))
     ((s.getCtx 1).portWith 7).map (fun x => x.2.fifo.length) = some 4) ∧
    64 ≤ (((world id).modWork 0x100 0 (fun w => { w with taskq := List.replicate 64 { task := { pc := 0, args := 0 }, caller := none } })).getWork
      0x100 0).taskq.length := by decide +kernel

theorem test_premise_PacketsLand :
    (let s := world id
     let c := s.getCtx (ctxKey (epCore (packet (.ack 0)).dst) (epSlot (packet (.ack 0)).dst))
     ToOpenCore s (packet (.ack 0)) ∧ (c.live && c.inc == epInc (packet (.ack 0)).dst) = true ∧ c.inbox.length < 16) ∧
    (let s := world (fun c => { c with inbox := List.replicate 16 aMessage })
     16 ≤ (s.getCtx 1).inbox.length) ∧
    (let s := world (fun c => { c with inc := 1 })
     let c := s.getCtx 1
     ToOpenCore s (packet (.message aMessage)) ∧ (c.live && c.inc == epInc (packet (.message aMessage)).dst) = false) ∧
    ((world id).seal 0 |>.getCore 0).sealed.isSome = true ∧
    (let s := world (port 3 [(0, false), (0, false), (0, false)])
     (s.getCtx 1).portWith 7 = some (3, { tag := 7, fifo := [(0, false, 0), (0, false, 0), (0, false, 0)] })) ∧
    ((world id).getWork 0x100 (epCore (packet (.ack 0)).dst)).taskq.length < 64 ∧
    ((world (fun c => { c with sendq := [packet (.ack 0)] })).getCtx 1).sendq = [packet (.ack 0)] ∧
    (let s := (waiting (.send false 5)).modCtx 1 (fun c => { c with
       landing := Vector.replicate 16 (some { tag := 0, reply := false, answer := none }) })
     let c := s.getCtx 1
     c.live = true ∧ c.inTrap = false ∧ c.trapped = none ∧ s.unitsOwed 0 1 = false ∧ (s.stallOver c 0).isSome = true) ∧
    (let s := withBarrier 31 (fun b => { b with partials := [(partialKey 0 0, (0, 5, false, 0))] }) (waiting (.chain 31 20 7 false 0 { op := 0, ty := 0, next := none }))
     let w : Wait := { kind := .chain 31 20 7 false 0 { op := 0, ty := 0, next := none }, since := 0, grp := Group.reset }
     let u := { s with cur := 1, grp := w.grp }
     (s.getCtx 1).wait = some w ∧ s.waitReady 1 w = true ∧ (chainTake 31 20 7 false 0 { op := 0, ty := 0, next := none } u).1 = .ok ()) := by
  refine ⟨⟨⟨?_, ?_⟩, ?_⟩, ?_, ⟨⟨?_, ?_⟩, ?_⟩, ?_, ?_, ?_, ?_, ?_, ?_⟩ <;> decide +kernel

/-- An event on its way to actor 1, which is homed on core 1 of package 0; events to either core. -/
def anEvent (cancel : Bool) : Event :=
  { time := 5, hix := 0, dst := 1, cancel := cancel, src := 2, serial := 0, payload := 0, poison := false }
def eventPacket (core : Nat) (cancel : Bool) : Packet :=
  { net := .req, src := epAddr 0 0 1 0, dst := epAddr 0 core 0 0, rcb := 0x100, body := .event (anEvent cancel) none 0 }

theorem test_premise_EventsSweepsAndRegions_events :
    (let s := world id
     let p := eventPacket 1 false
     (ToOpenCore s p ∧ (s.getCore (epCore p.dst)).reqHeld = none) ∧ ((s.takeOff p).homeNow (s.hostRegion p.rcb 1) 1 (anEvent false).dst.toNat).1 = (s.pkgNum, epCore p.dst)) ∧
    (let s := world id
     let p := eventPacket 0 true
     (ToOpenCore s p ∧ (s.getCore (epCore p.dst)).reqHeld = none) ∧ ((s.takeOff p).homeNow (s.hostRegion p.rcb 0) 0 (anEvent true).dst.toNat).1 = (0, 1) ∧ (0, 1) ≠ (s.pkgNum, epCore p.dst)) ∧
    epPkg (eventPacket 0 false).dst = (world id).pkgNum ∧
    (let f : Flight := { id := 4, event := anEvent false, rcb := 0x100, soc := 0x20_0000, src := 0, dst := 0, rslot := none, acked := none, refused := some 0 }
     let s := { (world id).modCore 0 (fun c => { c with flight := [f] }) with cycle := 4096 }
     (s.getCore 0).flight.find? (fun f => f.id == 4) = some f ∧ f.refused = some 0 ∧ 0 + 4096 ≤ s.cycle ∧
     ∀ g ∈ ((world id).getCore 0).flight, g.event.dst = 1 → g.refused = none) := by
  refine ⟨⟨⟨⟨?_, ?_⟩, ?_⟩, ?_⟩, ⟨⟨⟨?_, ?_⟩, ?_⟩, ?_⟩, ?_, ?_⟩ <;> decide +kernel

/-- A society of die scope, with a sweep of an instant as given. -/
def sweeping (w : Option Sweep) (cycle : Nat) : State :=
  { world id with cycle := cycle, socs := [(0x20_0000, { actt := 0x20_0000, ptroot := 0x1_0000, scope := .die, pushed := some 0, sweep := w, next := 1024, kiln := 0, other := none, arriving := [] })] }

theorem test_premise_EventsSweepsAndRegions_kiln :
    let so : Society := { actt := 0, ptroot := 0, scope := .die, pushed := some 0, sweep := none, next := 1024, kiln := 6, other := none,
                          arriving := [(0, 5), (1, 5), (1, 6)] }
    kget (State.socs { world id with socs := [(0x20_0000, so)] }) 0x20_0000 = some so ∧ so.arriving.find? (fun x => x.1 == 1) = some (1, 5) := by
  decide +kernel

theorem test_premise_EventsSweepsAndRegions_sweeps :
    (let s := sweeping none 1024
     ∃ so, kget s.socs 0x20_0000 = some so ∧ so.sweep = none ∧ so.next ≤ s.clock so.scope) ∧
    (let s := sweeping (some { scope := .die, start := 0, publishes := true, holds := true, lost := false, samples := [] }) 100000
     ∃ so w, kget s.socs 0x20_0000 = some so ∧ so.sweep = some w ∧ 1 ∈ s.sampleCores 0x20_0000 ∧ kget w.samples 1 = none ∧
       w.start + sweepDelay w.scope ≤ s.clock w.scope) ∧
    (let s := sweeping (some { scope := .die, start := 0, publishes := true, holds := true, lost := false, samples := [(0, 5), (1, 6)] }) 100000
     ∃ so w, kget s.socs 0x20_0000 = some so ∧ so.sweep = some w ∧ w.start + sweepPublish w.scope ≤ s.clock w.scope ∧ w.publishes = true ∧
       (∀ c ∈ s.sampleCores 0x20_0000, (kget w.samples c).isSome = true) ∧ s.awaitsOthers so = false) ∧
    (let s := sweeping (some { scope := .die, start := 0, publishes := false, holds := false, lost := false, samples := [] }) 100000
     ∃ so w, kget s.socs 0x20_0000 = some so ∧ so.sweep = some w ∧ w.start + sweepPublish w.scope ≤ s.clock w.scope ∧ w.publishes = false) ∧
    (let s := idle
     s.getRegion? 0x100 = some aRegion ∧ aRegion.running = true ∧ aRegion.fault = none ∧ s.quietRegion 0x100 aRegion = true ∧
       ∀ e ∈ s.early, e.rcb = 0x100 → s.heldUp e.line true = false) :=
  ⟨⟨_, rfl, rfl, by decide +kernel⟩, ⟨_, _, rfl, rfl, by decide +kernel, rfl, by decide +kernel⟩,
    ⟨_, _, rfl, rfl, by decide +kernel, rfl, by decide +kernel⟩, ⟨_, _, rfl, rfl, by decide +kernel, rfl⟩, by decide +kernel⟩

/-- A copy from `mapped`'s page to the scratchpad, an attention command over one block of one token with a query and a result in memory; and what
its pieces lead to. -/
def aSpace : Space := (mapped id).cx.space
def anAttn : AttnCmd := {
  core := 0, slot := 1, inc := 0, rcb := 0, tag := 3, lt := 0, qaddr := 0x10_0000, nq := 1, dim := 64, fmt := 0x22, scale := 0x3F80_0000, qpos := 0, win := 0,
  blocks := [{ base := 0x11_0000, slice := some 0, room := 16, tokens := 1, pos := 0 }], query := none, dst := 0x12_0000, done := [],
  failed := none, pois := false, acq := false, rel := false, scope := .pkg, space := aSpace }

/-- Whether an access answers. -/
def fine {ε α : Type} (x : Except ε α × State) : Bool :=
  match x.1 with
  | .ok _ => true
  | .error _ => false

theorem fine_answers {α : Type} {x : Except Byte α × State} (h : fine x = true) : ∃ r, x = (.ok r, x.2) := by
  obtain ⟨_ | r, _⟩ := x
  · cases h
  · exact ⟨r, rfl⟩

/-- What an access answers, for one that may be asked for it. -/
def answered {α : Type} (x : Except Byte (List α) × State) : List α :=
  match x.1 with
  | .ok r => r
  | .error _ => []

theorem fine_answered {α : Type} {x : Except Byte (List α) × State} (h : fine x = true) : x = (.ok (answered x), x.2) := by
  obtain ⟨_ | r, _⟩ := x
  · cases h
  · rfl

theorem test_premise_EnginesGoOn_copies :
    let c := aCopy id
    let s := { mapped id with copies := [(0, c)] }
    let a := s.enginePlace c.lt c.core c.space ((c.from_ c.next) &&& ~~~63) .load
    let b := a.2.enginePlace c.lt c.core c.space ((c.to_ c.next) &&& ~~~63) .store
    kget s.copies 0 = some c ∧ a = (.ok (.coherent 0x4010_0000 true false 0), a.2) ∧ b = (.ok (.scratch 0), b.2) ∧
    b.2.stalls (.coherent 0x4010_0000 true false 0) false = false ∧ b.2.stalls (.scratch 0) true = false :=
  ⟨rfl, Prod.ext (by decide +kernel) rfl, Prod.ext (by decide +kernel) rfl, by decide +kernel, by decide +kernel⟩

theorem test_premise_EnginesGoOn_attention :
    (let s := { mapped id with attns := [(0, anAttn)] }
     let b := (anAttn.blocks.head?).getD { base := 0, slice := none, room := 0, tokens := 0, pos := 0 }
     kget s.attns 0 = some anAttn ∧ anAttn.failed = none ∧ anAttn.blocks.drop anAttn.done.length = b :: [] ∧ s.attnStalls anAttn b = false ∧ s.attnStarts 0 anAttn = true ∧
     ∃ r, s.attnCompute (anAttn.order 0) anAttn b = (.ok r, (s.attnCompute (anAttn.order 0) anAttn b).2)) ∧
    (let a := { anAttn with done := [[none]] }
     let s := { mapped id with attns := [(0, a)] }
     let r := s.resultPlaces a.lt a.core a.space a.result
     a.blocks.length ≤ a.done.length ∧ a.pois = false ∧
     ∃ ps, r = (.ok ps, r.2) ∧ ∀ p ∈ ps, r.2.stalls p.1 true = false) := by
  refine ⟨⟨rfl, rfl, rfl, by decide +kernel, by decide +kernel, fine_answers (by decide +kernel)⟩, by decide, rfl, answered _, fine_answered ?_, ?_⟩
  all_goals decide +kernel

theorem test_premise_EnginesGoOn_matrix :
    (let j : MatJob := { slot := 1, tile := 5, op := .mma 0x22 0x23 1 1 none none 0 false, due := 0 }
     let s := (user id).modCore 0 (fun c => { c with matq := [j] })
     (s.getCore 0).matq = [j] ∧ j.due ≤ s.cycle ∧ j.op = .mma 0x22 0x23 1 1 none none 0 false ∧ (0x22 : Byte).toNat ≠ 0x21) ∧
    (let j : SpJob := { slot := 1, unit := 0, writes := [], flags := 0, stall := 0, due := 0 }
     let s := (user id).modCore 0 (fun c => { c with spq := [j] })
     (s.getCore 0).spq = [j] ∧ j.due ≤ s.cycle) := by decide +kernel

theorem test_premise_EnginesGoOn_waiting :
    (let k : WaitKind := .spDep 255 10 0 63 true false
     let w : Wait := { kind := k, since := 0, grp := Group.reset }
     let s := { (user (fun c => let d := regs [(10, sp 0x800)] c
        { d with wait := some w, cr := { d.cr with spbase := sp 0 } })).modCore 0 (fun c => { c with shapes := [(63, 0x03FF_FFFF_FF98_3210)] }) with
          cycle := 1 }
     let u : State := { s with cur := 1, grp := w.grp }
     let d : SpOperands := { shape := 0, list := [], weights := [], nodes := [], root := 0, adjs := [] }
     let o := val d (spOperands 255 10 0 63 true false) u
     s.spReady 0 1 = true ∧ (s.getCtx 1).wait = some w ∧ (spOperands 255 10 0 63 true false u).1 = .ok o ∧ (spOperands 255 10 0 63 true false u).2 = u ∧
     u.co.spOwned o.touched = false ∧ u.co.spAccepts u.cycle = true ∧ u.co.spDone < u.cycle) := by decide +kernel

theorem test_premise_EnginesGoOn_window :
    ((user id).getCtx (ctxKey ((user id).supervisor (dieOf 5)) 0)).cr.sstat.getLsbD 16 = false ∧
    ((user id).getCtx (ctxKey ((user id).supervisor (dieOf 5)) 0)).midway = false ∧ windowOk 16383 47 0 = true := by decide +kernel

/-- A request whose first tail block fails its tag. -/
def aRequest : Request := {
  table := 0x1_0000, done := 0x2_0000, space := { ptroot := 0, asid := 0, super := false, physical := true }, broken := false, stage := .start }
def requestWords : List (Nat × Nat) := [(0x1_0020, 0x22_0001), (0x1_0028, 0x3_0000), (0x1_0040, 0x4_8010), (0x1_0048, 256), (0x3_0000, 0x10_0000),
  (0x3_0008, 1), (0x3_0018, 0x3_8000), (0x1_0008, 0x3_9000)]
def requesting : State := { State.reset with
  requests := [(0, aRequest)]
  mem := requestWords.foldl (fun (m : Memory) (x : Nat × Nat) => m.write x.1 8 x.2) [] }

theorem test_premise_EnginesGoOn_promotion :
    (kget requesting.requests 0 = some aRequest ∧ requesting.promotionDue 0 aRequest = true ∧ aRequest.broken = false ∧ aRequest.stage = .start) ∧
    (let u := { requesting with fresh := requesting.fresh + 1 }
     (match tailTable aRequest.space aRequest.table u with
       | (.ok (tab, _), t) => fine (wStore aRequest.space (tab.dword 5 + 0x20) 8 (0x8000_0000_0000_0000 + (requesting.requestSlice aRequest).getD 0) t)
       | _ => false) = true ∧
     fine (aRequest.advance 0 none u) = true ∧ fine ({ aRequest with table := 8 }.advance 0 none u) = false) ∧
    (let r := { aRequest with stage := .finished 0 }
     let s := { requesting with requests := [(0, r)] }
     kget s.requests 0 = some r ∧ s.promotionDue 0 r = true) := by decide +kernel

/-! #### Queues -/

/-- A queue at 0x8000 in physical space with one packet, of 32 bytes at most. -/
def aQueue : Queue := {
  desc := 0x9000, base := 0x8000, log2 := 12, owner := 5, space := { ptroot := 0, asid := 0, super := false, physical := true }, head := 0, tail := 32,
  stopped := false, levels := [], waiting := none, launched := [] }

/-- Features enabled, and the queue with its packet's dwords. -/
def queued (a d1 d2 d3 : Nat) : State := { State.reset with
  endpoint := { Endpoint.reset with nstat := 1, enabled := 0x1F }
  queues := [(1, aQueue)]
  mem := [(0x8000, a), (0x8008, d1), (0x8010, d2), (0x8018, d3), (0xA000, 0xB000), (0xB080, 0)].foldl (fun (m : Memory) x => m.write x.1 8 x.2) [] }

/-- What the front core begins with. -/
def begun (s : State) (q : Queue) : Option (Pkt × Level × State) :=
  match s.beginPacket q with
  | .ok p l v => some (p, l, v)
  | _ => none

theorem takes_up {s : State} {n : Nat} {x : Queue} {y : Pkt × Level × State} (h : kget s.queues n = some x) (h₁ : s.queueRuns x = true)
    (h₂ : begun s x = some y) (h₃ : y.2.1.skip = 0) :
    TakesUp s n y.1 (x.withLevel (y.2.2.fetchAhead x y.2.1).1) ((y.2.2.fetchAhead x y.2.1).2.putQueue n (x.withLevel (y.2.2.fetchAhead x y.2.1).1)) := by
  refine ⟨x, y.2.1, y.2.2, h, h₁, ?_, h₃, rfl, rfl⟩
  unfold begun at h₂
  split at h₂
  · cases h₂; assumption
  · cases h₂

/-- The packet begun, or none. -/
def opcOf (s : State) : Option (Nat × Nat × Dword) := (begun s aQueue).map (fun y => (y.1.opc, y.2.1.skip, y.1.d1))

/-- Each opcode's packet is taken up, a malformed one is not, and the queue runs. -/
theorem test_premise_QueuesAndFirmware_packets :
    (queued 0 0 0 0).queueRuns aQueue = true ∧
    opcOf (queued (0 + 0x200) 0 0 0) = some (0, 0, 0) ∧ opcOf (queued (1 + 0x100) 0xA000 0x100 0) = some (1, 0, 0xA000) ∧
    opcOf (queued (2 + 0x100 + 16 * 2 ^ 32) 0xA000 0x100 0) = some (2, 0, 0xA000) ∧ opcOf (queued (3 + 0x200) 0xA000 0xB000 1) = some (3, 0, 0xA000) ∧
    opcOf (queued (4 + 0x100 + 0x1_0000 + 2 ^ 32) 0 0x100 0) = some (4, 0, 0) := by decide +kernel

theorem test_premise_QueuesAndFirmware_morePackets :
    opcOf (queued (5 + 0x200 + 0x3_0000) 0xA000 7 0) = some (5, 0, 0xA000) ∧
    opcOf (queued (6 + 0x200 + 255 * 2 ^ 32) 0xA000 7 0) = some (6, 0, 0xA000) ∧ opcOf (queued (7 + 0x200) 0xA000 7 0) = some (7, 0, 0xA000) ∧
    opcOf (queued (8 + 0x100) 0 0x100 0) = some (8, 0, 0) ∧ opcOf (queued (9 + 0x100) 0 0x100 0) = some (9, 0, 0) ∧
    opcOf (queued (10 + 0x100) 0xA000 0x100 0) = some (10, 0, 0xA000) := by decide +kernel

theorem test_premise_QueuesAndFirmware_queue : kget (queued 0 0 0 0).queues 1 = some aQueue := rfl

/-- The state in which a packet is performed; nothing is to be read ahead. -/
def performed (s : State) : State :=
  match begun s aQueue with
  | some y => (y.2.2.fetchAhead aQueue y.2.1).2.putQueue 1 (aQueue.withLevel (y.2.2.fetchAhead aQueue y.2.1).1)
  | none => s

/-- A launch record at 0xA000 naming the block at 0xB000, a condition, a store, a request's two dwords. -/
theorem test_premise_QueuesAndFirmware_accesses :
    (let u := performed (queued (1 + 0x100) 0xA000 0x100 0)
     let r := u.frontBlock aQueue.space 0xA000
     r.1 = .ok 0xB000 ∧ r.2.blockInUse aQueue.owner (0xB000 % 2 ^ 64) = false ∧ 0xB000 % 64 = 0 ∧ (r.2.clearBlock aQueue.space (0xB000 % 2 ^ 64)).1 = some 0) := by decide +kernel

theorem test_premise_QueuesAndFirmware_loads :
    fine ((performed (queued (3 + 0x200) 0xA000 0xB000 1)).testCond aQueue 0 0xA000 0xB000 1) = true ∧
    fine ((performed (queued (5 + 0x200 + 0x3_0000) 0xA000 7 0)).frontStore aQueue.space 0xA000 (2 ^ 3) 7 false) = true := by decide +kernel

theorem test_premise_QueuesAndFirmware_requests :
    (let u := performed (queued (10 + 0x100) 0xA000 0x100 0)
     let r := u.frontLoad aQueue.space 0xA000 8
     fine r = true ∧ fine (r.2.frontLoad aQueue.space (0xA000 + 8) 8) = true) := by decide +kernel

/-- A packet of no opcode of the table; an unregistered queue. -/
theorem test_premise_QueuesAndFirmware_malformed :
    (match (queued (11 + 0x100) 0 0 0).beginPacket aQueue with | .bad none 1 _ => true | _ => false) = true ∧
    IsPacket 1 ((none : Option Nat).getD 0) (.nopPacket 1) := ⟨by decide +kernel, .inl ⟨rfl, rfl⟩⟩

theorem test_premise_QueuesAndFirmware_commands :
    (let q := { aQueue with waiting := some (.cond 0 0xA000 0xB000 1 0) }
     let s := { queued 0 0 0 0 with cycle := 1024, queues := [(1, q)] }
     kget s.queues 1 = some q ∧ s.testDue q = true ∧ fine (s.testCond q 0 0xA000 0xB000 1) = true) ∧
    (aQueue.stopped = false ∧ (0xFF0 : Dword).toNat % 16 = 0 ∧ (0xFF0 : Dword).toNat < 2 ^ aQueue.log2) ∧
    (let q := { aQueue with stopped := true }
     q.stopped = true ∧ q.tail % 16 = 0 ∧ q.tail < 2 ^ q.log2) ∧ aQueue.owner ≠ 0 ∧ (0 : Dword).getLsbD 63 = false ∧ State.reset.keyHeld 255 = false ∧
    (let s := { queued 0 0 0 0 with
       mem := [(0x9000, 0x8000), (0x9008, 12), (0x9030, 5)].foldl (fun (m : Memory) (x : Nat × Nat) => m.write x.1 8 x.2) []
       endpoint := { Endpoint.reset with qaddr := 0x9000, qcmd := 0x8000_0000_0001_0002 } }
     s.queueCommand 1 = true ∧ kget s.queues s.endpoint.qnum = none ∧ (s.queueAt s.endpoint.qaddr.toNat).map Queue.owner = some (5 : Dword) ∧
     (let t := { s with endpoint := { s.endpoint with qcmd := 0x8000_0000_0002_0001 } }
      t.queueCommand 2 = true ∧ kget t.queues t.endpoint.qnum = some aQueue ∧ t.descDword t.endpoint.qaddr.toNat 6 = aQueue.owner.toNat ∧
      ({ aQueue with tail := 0 } : Queue).busy = false)) ∧
    (let e : Endpoint := { Endpoint.reset with feata := Vector.replicate 4 0 }
     e.nstat ≠ 1 ∧ vget e.feata 0 0 &&& ~~~0x1F = 0 ∧ ∀ i, i < 4 → i ≠ 0 → vget e.feata i 0 = 0) ∧
    ¬ (vget (Vector.replicate 4 (0x20 : Dword)) 0 0 &&& ~~~0x1F = 0) ∧ (queued 0 0 0 0).endpoint.enabled.getLsbD 0 = true ∧
    (queued 0 0 0 0).endpoint.upst ≠ 1 ∧ State.reset.leafIndex < 2 ^ 20 ∧ State.reset.ownMemory (2 ^ 40 - 1) 1 = true := by decide +kernel

/-- An interrupt of priority 1 for a target that enables it, and one not above the threshold; a sequence under way; a loop core's last dword. -/
theorem test_premise_QueuesAndFirmware_cores :
    (let c : Plic := { waiting := [.endpoint], claimed := [], priority := [(.endpoint, 1)], enabled := [(31, .endpoint)], threshold := [] }
     c.best 31 = some .endpoint ∧ c.best 30 = none ∧ { c with threshold := [(31, 1)] }.best 31 = none) ∧
    kget { State.reset with loops := [(0, { key := 1, ctr := 2, len := 3 })] }.loops 0 = some { key := 1, ctr := 2, len := 3 } ∧
    15 < 16 ∧ 2 ^ 18 - 8 < 2 ^ 18 := by decide +kernel

/-- Both ends of a live update: one that is not signed; and of any version that is high enough. -/
theorem test_premise_QueuesAndFirmware_write :
    State.reset.endpoint.qcmd.getLsbD 63 = false ∧ (0x1_0002 : Dword).extractLsb' 16 2 ≠ 0 := by decide

theorem test_premise_QueuesAndFirmware_update :
    ∃ version security, State.reset.flash.secver ≤ security ∧ State.reset.flash.versionB ≤ version ∧ State.reset.flash.versionA ≤ version :=
  ⟨max State.reset.flash.versionA State.reset.flash.versionB, _, Nat.le_refl _, Nat.le_max_right _ _, Nat.le_max_left _ _⟩

/-! #### The domain, the step -/

/-- A directory entry. -/
def withEntry (e : DirEntry) : State := { State.reset with dom := { Domain.reset with members := [0, 1], ndoms := 1, dir := [(5, e)] } }

/-- A package as requester, owner and sharer of a line in each state of its entry; a link's replay; the last missing heartbeat but one. -/
theorem test_premise_CoherenceDomainSteps :
    (State.reset.recovering 5 = false ∧ kget State.reset.dom.dir 5 = none ∧ 1 ≠ homePkg 5) ∧
    (let e : DirEntry := { state := .shared, owner := 0, sharers := [1], used := 0 }
     Claims.Entry (withEntry e) 5 e ∧ e.state = .shared ∧ 1 ∈ e.sharers ∧ 2 ≠ homePkg 5 ∧ 2 ≠ e.owner ∧ 2 ∉ e.sharers) ∧
    (let e : DirEntry := { state := .exclusive, owner := 1, sharers := [], used := 0 }
     Claims.Entry (withEntry e) 5 e ∧ e.state = .exclusive ∧ e.owner = 1) ∧
    (let e : DirEntry := { state := .modified, owner := 1, sharers := [], used := 0 }
     Claims.Entry (withEntry e) 5 e ∧ e.state = .modified ∧ e.owner = 1 ∧ 2 ≠ homePkg 5 ∧ 2 ≠ e.owner ∧ 2 ∉ e.sharers) ∧
    (let e : DirEntry := { state := .owned, owner := 1, sharers := [3], used := 0 }
     Claims.Entry (withEntry e) 5 e ∧ e.state = .owned ∧ e.owner = 1 ∧ 2 ≠ homePkg 5 ∧ 2 ≠ e.owner ∧ 2 ∉ e.sharers) ∧
    (State.reset.setCopy 1 5 (some .m)).copyOf 1 5 = some .m ∧ (State.reset.setCopy 1 5 (some .e)).copyOf 1 5 = some .e ∧
    kgetD { Domain.reset with replay := [(3, [packet (.ack 0)])] }.replay 3 [] ≠ [] ∧
    kgetD { Domain.reset with missed := [(3, 63)] }.missed 3 0 = 63 ∧
    (let r (l : List Nat) : Recovery := { plane := 3, reported := l, since := 0 }
     { Domain.reset with recovery := [r [0, 1], r [0]] }.recovery = [r [0, 1]] ++ r [0] :: [] ∧ (∀ x ∈ [r [0, 1]], 1 ∈ x.reported) ∧ 1 ∉ (r [0]).reported) ∧
    (1 ≠ State.reset.pkgNum ∧ 1 ∈ (withEntry { state := .shared, owner := 0, sharers := [1], used := 0 }).dom.members ∧ 1 ∉ Domain.reset.lost) := by
  unfold Claims.Entry
  decide +kernel

/-- A trigger, a region that has drained, the last frame, and images of this machine's shape and of another's. -/
theorem test_premise_CheckpointSteps :
    ({ State.reset with endpoint := { Endpoint.reset with enabled := 2 }, ckpt := { Checkpoint.reset with ckstep := 1, launches := 1 } } : State).ckptDue =
      true ∧
    (let s := { State.reset with ckpt := { Checkpoint.reset with step := .quiesce } }
     s.ckpt.step = .quiesce ∧ s.unsavable = false ∧ s.drained = true) ∧
    (let s := { State.reset with ckpt := { Checkpoint.reset with step := .stream (2 ^ 24 - 1), pending := some State.reset.image } }
     s.ckpt.step = .stream (2 ^ 24 - 1) ∧ s.ckpt.pending = some State.reset.image ∧ s.waitedFrame (2 ^ 24 - 1) = none ∧ 2 ^ 24 - 1 ∉ s.ckpt.taken) ∧
    (let s := { State.reset with ckpt := { Checkpoint.reset with images := [{ State.reset.image with valid := true }] } }
     s.ckpt.images = [{ State.reset.image with valid := true }] ∧ s.fits { State.reset.image with valid := true } = true ∧
     s.fits { State.reset.image with valid := false } = false) :=
  ⟨by decide +kernel, by decide +kernel, ⟨rfl, rfl, by decide +kernel, by decide +kernel⟩, rfl, by decide +kernel, by decide +kernel⟩

/-- A context about to issue `add s20, s9, s10` at 0x10_1000 of `mapped`, alone, with nothing else to happen. -/
def running (w : Nat) : State :=
  let s := mapped (fun c => { (regs [(9, 3), (10, 4)] c) with pc := 0x10_1000 })
  { s with mem := s.mem.write 0x4010_1000 4 w, ltCycle := 0 }

theorem test_premise_StepRunsTheDecodedInstruction :
    (let s := running 0x0689_5000
     let c := s.getCtx 1
     let r := s.translate (.ctx 1) (1 / 64) c.space c.pc .fetch 4
     s.stopped = false ∧ s.moves = [.issue 1] ∧ c.midway = false ∧ c.plan = none ∧ s.kernelStands 1 = false ∧ (s.fetchGroup 1 5 Prefixes.empty (groupAt c)).1 = .ok (.add 20 9 10 false) ∧
     r = (.ok (.coherent 0x4010_1000 true false 0), r.2) ∧ Settled r.2 0x4010_1000 0 false ∧
     r.2.stalls (.coherent 0x4010_1000 true false 0) false = false ∧ kget (r.2.getCore (1 / 64)).icache (lineOf 0x4010_1000) = none ∧
     decode [BitVec.ofNat 32 (r.2.mem.read 0x4010_1000 4)] = some (.add 20 9 10 false)) ∧
    (let s := running 0
     ∃ e, (s.fetchGroup 1 5 Prefixes.empty (groupAt (s.getCtx 1))).1 = .error e) ∧
    (let p : LanePlan := { bytes := 4, todo := [], store := true, acc := 0, pois := false, cut := none, logged := [], vals := [], back := false }
     let w : Wait := { kind := .lanes p, since := 0, grp := { Group.reset with word := 0x0689_5000 } }
     let s := (running 0).modCtx 1 (fun c => { c with wait := some w })
     s.moves = [.issue 1] ∧ (s.getCtx 1).wait = some w ∧ ((s.getCtx 1).midway || (s.getCtx 1).plan.isSome) = true ∧ heldInstr w.grp = some (.add 20 9 10 false)) :=
  ⟨⟨rfl, by decide +kernel, rfl, rfl, by decide +kernel, by decide +kernel, Prod.ext (by decide +kernel) rfl, ⟨by decide +kernel, by decide +kernel⟩,
    by decide +kernel, by decide +kernel, by decide +kernel⟩, ⟨.trap cILL 0, by decide +kernel⟩, by decide +kernel⟩

theorem test_premise_DecodeEncodeRoundTrip : (Instr.add 20 9 10 false).isWord = true ∧ (Instr.addi 1 2 0x7FF_FFFF_FFFF_FFFF).wf = true := by decide +kernel

theorem test_premise_StepsKeepMemoryCanonical :
    State.reset.Canon ∧ ∃ t, step State.reset = .next t :=
  ⟨⟨rfl, by simp [State.reset], by simp [State.reset, Checkpoint.reset], by simp [State.reset, Checkpoint.reset]⟩, _, rfl⟩

end

end Sys2Proof.Tests
end

section
/-! Control registers (spec 01 R13 to R18; 04 R89): what a stop of an attempt that has changed nothing leaves, what a write of a control register leaves in each of
them, and the settling of O6. -/

namespace Sys2Proof.Machine

/-! ### Stops of an attempt that has changed nothing -/

/-- A trap other than the two that the stop treats apart (POISON, and PAGE of a firing) is the trap that it says. -/
theorem traps_of_error {i : Instr} {s : State} {m : Exec Unit} {cause : Byte} {v : Dword} (he : exec i s = finish m s)
    (hm : m s = (.error (.trap cause v), s)) (hpoison : cause ≠ cPOISON) (hpage : cause ≠ cPAGE) : Traps i s cause v := by
  have hstop : exec i s = .next (s.trapNow cause v) := by
    rw [he, finish_error m s s _ hm, State.undone_self]
    simp [State.stop, hpage]
  exact ⟨fun h => hstop.trans (congrArg _ (State.trapNow_takes h hpoison)),
    fun h hw => hstop.trans (congrArg _ (State.trapNow_waits h hw))⟩

theorem trapsPoison_of_error {i : Instr} {s : State} {m : Exec Unit} {v : Dword} (he : exec i s = finish m s)
    (hm : m s = (.error (.trap cPOISON v), s)) : TrapsPoison i s := by
  have hpage : cPOISON ≠ cPAGE := by decide
  have hstop : exec i s = .next (s.trapNow cPOISON v) := by
    rw [he, finish_error m s s _ hm, State.undone_self]
    simp [State.stop, hpage]
  refine ⟨fun h => hstop.trans (congrArg _ ?_), fun h hw => hstop.trans (congrArg _ (State.trapNow_waits h hw))⟩
  simp [State.trapNow, h, Context.chk]

theorem waits_of_error {i : Instr} {s : State} {m : Exec Unit} {k : WaitKind} (he : exec i s = finish m s)
    (hm : m s = (.error (.wait k), s)) : Waits i s k := by
  rw [Waits, he, finish_error m s s _ hm, State.undone_self]
  rfl

/-! ### Elements of a vector of the state -/

@[simp] theorem vget_vset_self {α : Type} {n : Nat} (v : Vector α n) (i : Nat) (x d : α) (h : i < n) : vget (vset v i x) i d = x := by
  simp [vget, vset, h]

theorem vget_vset_ne {α : Type} {n : Nat} (v : Vector α n) (i j : Nat) (x d : α) (h : j ≠ i) : vget (vset v i x) j d = vget v j d := by
  unfold vset
  split
  · simp [vget, h.symm]
  · rfl

theorem mem_rangeFrom {lo n i : Nat} : i ∈ rangeFrom lo n ↔ lo ≤ i ∧ i < lo + n := by
  induction n generalizing lo with
  | zero => simp [rangeFrom]
  | succ n ih => simp only [rangeFrom, List.mem_cons, ih]; omega

/-! ### TAGS and TAGERRS (R249) -/

/-- One more bit below those of a dword. -/
theorem getLsbD_mul_two_add (x : Dword) (b : Bool) (j : Nat) (hj : j < 64) :
    (x * 2 + Dword.ofBool b).getLsbD j = if j = 0 then b else x.getLsbD (j - 1) := by
  have hb : (Dword.ofBool b).toNat = b.toNat := by cases b <;> rfl
  rw [BitVec.getLsbD, BitVec.toNat_add, BitVec.toNat_mul, hb, Nat.testBit_mod_two_pow]
  have h2 : (2 : Dword).toNat = 2 := rfl
  cases j with
  | zero =>
    have hmod : (x.toNat * 2 % 2 ^ 64 + b.toNat) % 2 = b.toNat := by cases b <;> simp [Nat.add_mod, Nat.mod_mod_of_dvd]
    rw [Nat.testBit_zero, h2, hmod]
    cases b <;> rfl
  | succ j =>
    have hdiv : (x.toNat * 2 % 2 ^ 64 + b.toNat) / 2 = x.toNat % 2 ^ 63 := by cases b <;> simp <;> omega
    rw [h2, Nat.testBit_succ, hdiv, Nat.testBit_mod_two_pow]
    simp [BitVec.getLsbD, hj]; omega

/-- The bits of a list of flags, the first lowest. -/
theorem getLsbD_foldr_ofBool {α : Type} (f : α → Bool) (l : List α) (j : Nat) (hj : j < 64) :
    (l.foldr (fun t (x : Dword) => x * 2 + Dword.ofBool (f t)) 0).getLsbD j = (l[j]?.map f).getD false := by
  induction l generalizing j with
  | nil => simp
  | cons t l ih =>
    rw [List.foldr_cons, getLsbD_mul_two_add _ _ _ hj]
    cases j with
    | zero => simp
    | succ j => simpa using ih j (by omega)

theorem Context.getLsbD_tagBits (c : Context) (j : Nat) (hj : j < 64) :
    c.tagBits.getLsbD j = (decide (j < 32) && (vget c.tags j Tag.reset).pending == 0) := by
  rw [Context.tagBits, getLsbD_foldr_ofBool (fun t : Tag => t.pending == 0) _ _ hj]
  by_cases h : j < 32 <;> simp [vget, h]

theorem Context.getLsbD_tagErrBits (c : Context) (j : Nat) (hj : j < 64) :
    c.tagErrBits.getLsbD j = (vget c.tags j Tag.reset).err := by
  rw [Context.tagErrBits, getLsbD_foldr_ofBool Tag.err _ _ hj]
  by_cases h : j < 32 <;> simp [vget, h, Tag.reset]

/-- TAGS shows of the tags their pending bytes alone. -/
theorem Context.tagBits_congr {c d : Context} (h : ∀ j, (vget c.tags j Tag.reset).pending = (vget d.tags j Tag.reset).pending) :
    c.tagBits = d.tagBits :=
  BitVec.eq_of_getLsbD_eq fun j hj => by rw [c.getLsbD_tagBits j hj, d.getLsbD_tagBits j hj, h]

/-- What a write of TAGERRS does with one tag: its error stays where the new bit is 1 (R251). -/
def Context.clearUnless (v : Dword) (c : Context) (i : Nat) : Context := if v.getLsbD i then c else c.clearTagErr i

@[simp] theorem Context.clearUnless_frame (c : Context) (v : Dword) (i : Nat) : { c.clearUnless v i with tags := c.tags } = c := by
  unfold Context.clearUnless; split <;> rfl

/-- Clearing an error changes of the tags that one's ERR and REASON. -/
theorem Context.vget_clearTagErr (c : Context) (i j : Nat) (hi : i < 32) : vget (c.clearTagErr i).tags j Tag.reset =
    if j = i then { vget c.tags i Tag.reset with err := false, reason := 0 } else vget c.tags j Tag.reset := by
  unfold Context.clearTagErr
  split
  case isTrue h => rw [h, vget_vset_self _ _ _ _ hi]
  case isFalse h => exact vget_vset_ne _ _ _ _ _ h

/-- A write of TAGERRS over a list of tags changes their ERR and REASON alone: an error stays where its tag is not listed or the new bit is 1. -/
theorem Context.clearUnless_foldl (v : Dword) (l : List Nat) (hl : ∀ i ∈ l, i < 32) (c : Context) :
    let d := l.foldl (Context.clearUnless v) c
    { d with tags := c.tags } = c ∧ ∀ j,
      (vget d.tags j Tag.reset).pending = (vget c.tags j Tag.reset).pending ∧
      (vget d.tags j Tag.reset).err = ((vget c.tags j Tag.reset).err && (v.getLsbD j || decide (j ∉ l))) := by
  induction l generalizing c with
  | nil => simp
  | cons i l ih =>
    have hi := hl i List.mem_cons_self
    obtain ⟨hframe, htags⟩ := ih (fun x hx => hl x (List.mem_cons_of_mem _ hx)) (c.clearUnless v i)
    refine ⟨?_, fun j => ?_⟩
    · calc _ = { { l.foldl (Context.clearUnless v) (c.clearUnless v i) with tags := (c.clearUnless v i).tags } with tags := c.tags } := rfl
        _ = { c.clearUnless v i with tags := c.tags } := by rw [hframe]
        _ = c := c.clearUnless_frame v i
    · obtain ⟨hp, herr⟩ := htags j
      rw [List.foldl_cons, hp, herr, Context.clearUnless]
      split
      case isTrue hv => by_cases h : j = i <;> simp [h, hv]
      case isFalse hv => rw [c.vget_clearTagErr i j hi]; by_cases h : j = i <;> simp [h, hv]

/-- A write of TAGERRS changes the tags alone, and of them ERR and REASON: an error stays where the new bit is 1. -/
theorem Context.crSet_tagerrs (c : Context) (v : Dword) :
    { c.crSet .tagerrs v with tags := c.tags } = c ∧ ∀ j,
      (vget (c.crSet .tagerrs v).tags j Tag.reset).pending = (vget c.tags j Tag.reset).pending ∧
      (vget (c.crSet .tagerrs v).tags j Tag.reset).err = ((vget c.tags j Tag.reset).err && (v.getLsbD j || decide (32 ≤ j))) := by
  rw [show c.crSet .tagerrs v = (rangeFrom 0 32).foldl (Context.clearUnless v) c from rfl]
  simpa [mem_rangeFrom] using Context.clearUnless_foldl v (rangeFrom 0 32) (fun i hi => by simpa using (mem_rangeFrom.1 hi).2) c

theorem Context.cr_crSet_tagerrs (c : Context) (v : Dword) : (c.crSet .tagerrs v).cr = c.cr :=
  (congrArg Context.cr (c.crSet_tagerrs v).1 :)

theorem Context.tagBits_crSet_tagerrs (c : Context) (v : Dword) : (c.crSet .tagerrs v).tagBits = c.tagBits :=
  Context.tagBits_congr fun j => ((c.crSet_tagerrs v).2 j).1

/-- TAGERRS after a write of it (R251). -/
theorem Context.tagErrBits_crSet_tagerrs (c : Context) (v : Dword) : (c.crSet .tagerrs v).tagErrBits = c.tagErrBits &&& v := by
  refine BitVec.eq_of_getLsbD_eq fun j hj => ?_
  rw [BitVec.getLsbD_and, Context.getLsbD_tagErrBits _ j hj, Context.getLsbD_tagErrBits _ j hj, ((c.crSet_tagerrs v).2 j).2]
  by_cases h : j < 32
  · simp [show ¬ 32 ≤ j by omega]
  · simp [vget, h, Tag.reset]

/-! ### Writes of control registers (R89) -/

/-- What a write of a control register leaves besides the control registers and the tags. -/
theorem Context.crSet_frame (c : Context) (n : CReg) (v : Dword) : { c.crSet n v with cr := c.cr, tags := c.tags } = c := by
  cases n
  case tagerrs => exact congrArg (fun d : Context => { d with cr := c.cr }) (c.crSet_tagerrs v).1
  all_goals rfl

/-- What a register but TAGERRS reads depends on the control registers, the incarnation, the twin and the tags' pending bytes alone. -/
theorem State.crRead_setCx_congr {s : State} {c : Context} {m : CReg} (hm : m ≠ .tagerrs) (hcr : c.cr = s.cx.cr) (hinc : c.inc = s.cx.inc)
    (htwin : c.twin = s.cx.twin) (htags : c.tagBits = s.cx.tagBits) : (s.setCx c).crRead s.cur m = s.crRead s.cur m := by
  have hg : (s.setCx c).getCtx s.cur = c := State.cx_setCx s c
  cases m
  case tagerrs => exact absurd rfl hm
  all_goals simp only [State.crRead, hg, Context.rgn, hcr, hinc, htwin, htags] <;> rfl

/-- Every other register reads as before after a write of one. -/
theorem State.crRead_crSet_ne (s : State) (n m : CReg) (v : Dword) (h : m ≠ n) :
    (s.setCx (s.cx.crSet n v)).crRead s.cur m = s.crRead s.cur m := by
  by_cases hn : n = .tagerrs
  · subst hn
    exact State.crRead_setCx_congr h (s.cx.cr_crSet_tagerrs v) (congrArg Context.inc (s.cx.crSet_tagerrs v).1 :)
      (congrArg Context.twin (s.cx.crSet_tagerrs v).1 :) (s.cx.tagBits_crSet_tagerrs v)
  · have hg : (s.setCx (s.cx.crSet n v)).getCtx s.cur = s.cx.crSet n v := State.cx_setCx ..
    simp only [State.crRead, hg]
    cases n
    case tagerrs => exact absurd rfl hn
    -- every other write replaces at most the one field that the other registers do not read
    all_goals cases m <;> first | rfl | exact absurd rfl h

/-! ### The value that a write forms (R6, R89) -/

/-- A register that holds an address takes every bit of the value formed that an address has. -/
theorem crNew_address {n : CReg} {m : Dword} (k : CrKind) (old x : Dword) (ha : n.addrMask = some m) :
    crNew n k old x = canon (Claims.written k old x) &&& m := by
  have hrw : n.rwMask = BitVec.allOnes 64 := by cases n <;> simp [CReg.addrMask, CReg.rwMask] at ha ⊢
  have hnone (y : Dword) : y &&& ~~~BitVec.allOnes 64 = 0#64 := by rw [BitVec.not_allOnes, BitVec.and_zero]
  cases k <;> simp only [crNew, ha, hrw, hnone, BitVec.zero_and, BitVec.zero_or, BitVec.and_allOnes, Claims.written]

/-- Bit by bit: RW bits take the value formed, RW1C bits fall where 1 is written, and every other bit stays. -/
theorem getLsbD_crNew {n : CReg} (k : CrKind) (old x : Dword) (ha : n.addrMask = none) (j : Nat) (hj : j < 64) :
    (crNew n k old x).getLsbD j =
      (if n.rwMask.getLsbD j then (Claims.written k old x).getLsbD j
       else if n.w1cMask.getLsbD j && k != .c then old.getLsbD j && !x.getLsbD j
       else old.getLsbD j) := by
  have hbit : (crNew n k old x).getLsbD j =
      (old.getLsbD j && !n.rwMask.getLsbD j && !(n.w1cMask.getLsbD j && (k != .c && x.getLsbD j)) ||
        (Claims.written k old x).getLsbD j && n.rwMask.getLsbD j) := by
    cases k <;>
      simp only [crNew, ha, Claims.written, BitVec.getLsbD_or, BitVec.getLsbD_and, BitVec.getLsbD_not, BitVec.ofNat_eq_ofNat, BitVec.getLsbD_zero,
        decide_true, Bool.true_and, hj] <;> rfl
  rw [hbit]
  cases n.rwMask.getLsbD j
  case true => simp
  case false =>
    cases n.w1cMask.getLsbD j
    case false => simp
    case true => cases k != .c <;> simp

/-- A register none of whose bits a write may change keeps its value. -/
theorem crNew_readOnly {n : CReg} (k : CrKind) (old x : Dword) (hrw : n.rwMask = 0) (hw1c : n.w1cMask = 0) (ha : n.addrMask = none) :
    crNew n k old x = old :=
  BitVec.eq_of_getLsbD_eq fun j hj => by simp [getLsbD_crNew k old x ha j hj, hrw, hw1c]

/-- A write of TAGERRS sets no bit. -/
theorem and_crNew_tagerrs (k : CrKind) (old x : Dword) : old &&& crNew .tagerrs k old x = crNew .tagerrs k old x := by
  refine BitVec.eq_of_getLsbD_eq fun j hj => ?_
  have hrw : CReg.tagerrs.rwMask.getLsbD j = false := by simp [CReg.rwMask]
  rw [BitVec.getLsbD_and, getLsbD_crNew k old x rfl j hj, hrw]
  cases old.getLsbD j <;> simp

/-- The register written reads the value formed for it. -/
theorem State.crRead_crSet_self (s : State) (n : CReg) (k : CrKind) (x : Dword) :
    (s.setCx (s.cx.crSet n (crNew n k (s.crRead s.cur n) x))).crRead s.cur n = crNew n k (s.crRead s.cur n) x := by
  have hg (c : Context) : (s.setCx c).getCtx s.cur = c := State.cx_setCx s c
  by_cases hro : n.rwMask = 0 ∧ n.w1cMask = 0
  · obtain ⟨hrw, hw1c⟩ := hro
    have ha : n.addrMask = none := by cases n <;> simp [CReg.addrMask, CReg.rwMask] at hrw ⊢
    have hn : n ≠ .tagerrs := fun e => by simp [e, CReg.w1cMask] at hw1c
    have hset (v : Dword) : s.cx.crSet n v = s.cx := by cases n <;> simp [CReg.rwMask, CReg.w1cMask] at hrw hw1c <;> rfl
    rw [crNew_readOnly _ _ _ hrw hw1c ha, hset]
    exact State.crRead_setCx_congr hn rfl rfl rfl rfl
  · cases n
    case tagerrs =>
      simp only [State.crRead, hg, Context.tagErrBits_crSet_tagerrs]
      exact and_crNew_tagerrs ..
    all_goals simp [CReg.rwMask, CReg.w1cMask] at hro
    all_goals simp only [State.crRead, hg, Context.crSet]

/-! ### The checks of an access to a control register (R13, R302, R413) -/

theorem guardPriv_run (n : CReg) (s : State) :
    guardPriv n s = if Claims.mayAccess s n then (.ok (), s) else (.error (.trap cPRIV s.wordValue), s) := by
  simp only [guardPriv, Exec.bind_run, Exec.get_run, Exec.andThen_ok, guardTrap_run]
  rfl

theorem guardPoison_run (b : Bool) (s : State) : guardPoison b s = if b then (.error (.trap cPOISON 0), s) else (.ok (), s) := by
  cases b <;> rfl

/-- No job of a list is the slot's. -/
theorem all_slot_ne_eq_not_any {α : Type} (l : List α) (slot : α → Nat) (k : Nat) :
    l.all (fun j => slot j != k) = !l.any (fun j => slot j == k) := by
  simp [List.all_eq_not_any_not, bne]

/-- An access waits for the units exactly while one of their instructions is unretired, and changes nothing. -/
theorem waitUnits_run (n : CReg) (s : State) :
    ∃ k, waitUnits n s = if Claims.unitsQuiet s n then (.ok (), s) else (.error (.wait k), s) := by
  cases n
  case fpm =>
    refine ⟨if s.co.matq.any (fun j => j.slot == s.slotNum) then .matrix else .spDone, ?_⟩
    simp only [waitUnits, Claims.unitsQuiet, all_slot_ne_eq_not_any, Exec.bind_run, Exec.get_run, Exec.andThen_ok]
    cases s.co.matq.any (fun j => j.slot == s.slotNum) <;> cases s.co.spq.any (fun j => j.slot == s.slotNum) <;> rfl
  case spstat =>
    refine ⟨.spDone, ?_⟩
    simp only [waitUnits, Claims.unitsQuiet, all_slot_ne_eq_not_any, Exec.bind_run, Exec.get_run, Exec.andThen_ok]
    cases s.co.spq.any (fun j => j.slot == s.slotNum) <;> rfl
  all_goals exact ⟨.matrix, rfl⟩

/-! ### The writing instructions (R89) -/

theorem exec_crWrite (k : CrKind) (a : Reg) (n : CReg) (s : State) : exec (Claims.crWrite k a n) s = finish (writeCr k a n) s := by
  cases k <;> rfl

/-- The running context after a write of a control register, before it goes on. -/
def State.crWritten (s : State) (k : CrKind) (a : Reg) (n : CReg) : Context := s.cx.crSet n (crNew n k (s.crRead s.cur n) (s.cx.s a))

/-- What a write does, check after check: PRIV, POISON, the wait for the units, the register. -/
theorem writeCr_run (k : CrKind) (a : Reg) (n : CReg) (s : State) : ∃ w, writeCr k a n s =
    if Claims.mayAccess s n then
      if s.cx.sp a then (.error (.trap cPOISON 0), s)
      else if Claims.unitsQuiet s n then (.ok (), (s.setCx (s.crWritten k a n)).retire)
      else (.error (.wait w), s)
    else (.error (.trap cPRIV s.wordValue), s) := by
  obtain ⟨w, hw⟩ := waitUnits_run n s
  refine ⟨w, ?_⟩
  simp only [writeCr, Exec.bind_run, guardPriv_run]
  cases Claims.mayAccess s n
  case false => rfl
  simp only [if_true, Exec.andThen_ok, cx_run, Exec.bind_run, guardPoison_run]
  cases s.cx.sp a
  case true => rfl
  simp only [Bool.false_eq_true, if_false, Exec.andThen_ok, Exec.bind_run, hw]
  cases Claims.unitsQuiet s n <;> rfl

end Sys2Proof.Machine

namespace Sys2Proof.Claims
open Sys2Proof.Machine

/-- A write that passes its checks leaves the register as the rules of its fields give it, every other register, and goes on. -/
theorem crWrite_completes {k : CrKind} {a : Reg} {n : CReg} {s : State} (hm : mayAccess s n = true) (hp : s.cx.sp a = false)
    (hq : unitsQuiet s n = true) : exec (crWrite k a n) s = .next (s.setCx (s.crWritten k a n)).retire := by
  obtain ⟨w, hw⟩ := writeCr_run k a n s
  rw [exec_crWrite]
  exact finish_ok _ _ _ (by simpa [hm, hp, hq] using hw)

/-- Settles O6: the checks are those of `writeCr_run`, and the register written reads `crNew`, whose bits `crNew_address` and `getLsbD_crNew` give. -/
theorem controlRegisterWrites : Obligations.ControlRegisterWrites := by
  unfold Obligations.ControlRegisterWrites
  intro k a n s
  obtain ⟨w, hw⟩ := writeCr_run k a n s
  refine ⟨fun hm hp hq => ?_, fun hm => ?_, fun hm hp => ?_, fun hm hp hq => ⟨w, ?_⟩⟩
  · obtain ⟨-, hkeeps, hretired⟩ := from_retire (s.setCx (s.crWritten k a n))
    rw [State.cx_setCx] at hkeeps hretired
    refine ⟨s.crWritten k a n, _, crWrite_completes hm hp hq, State.onlyContext_retire s fun _ => s.crWritten k a n, hkeeps, hretired, s.cx.crSet_frame n _,
      fun m h => s.crRead_crSet_ne n m _ h, ?_⟩
    rw [State.crWritten, State.crRead_crSet_self]
    split
    · next m ha => exact crNew_address k _ _ ha
    · next ha => exact fun j hj => getLsbD_crNew k _ _ ha j hj
  · exact traps_of_error (exec_crWrite k a n s) (by simpa [hm] using hw) (by decide) (by decide)
  · exact trapsPoison_of_error (exec_crWrite k a n s) (by simpa [hm, hp] using hw)
  · exact waits_of_error (exec_crWrite k a n s) (by simpa [hm, hp, hq] using hw)

end Sys2Proof.Claims
end

section
/-! Checkpoint and restore (spec 22 R400 to R404): each outcome of the four steps, and the settling of O54. -/

namespace Sys2Proof.Machine

/-- A trigger quiesces: every core that serves a running region is asked for its contexts (R400, R401). -/
theorem execCheckpointStart_due {s : State} (h : s.ckptDue = true) :
    let t : State := { s with ckpt := { s.ckpt with step := .quiesce } }
    execCheckpointStart s =
      .next (t.runningRegions.foldl (fun (t : State) x => x.2.cores.foldl (fun (u : State) c => u.requestYield x.1 c) t) t) := by
  simp [execCheckpointStart, h]

/-! ### The snapshot (R401) -/

/-- A context that cannot be saved ends the attempt. -/
theorem execCheckpointSnapshot_abandoned {s : State} (hq : s.ckpt.step = .quiesce) (hu : s.unsavable = true) :
    execCheckpointSnapshot s =
      .next { s.unask with ckpt := { s.ckpt with since := s.sysTicks, launches := 0, step := .idle } } := by
  simp [execCheckpointSnapshot, hq, hu]

/-- Once all has drained the snapshot instant falls: the order's writes placed, the copies clean, KSAVE written. -/
theorem execCheckpointSnapshot_drained {s : State} (hq : s.ckpt.step = .quiesce) (hu : s.unsavable = false) (hd : s.drained = true) :
    let t := (s.placeThose (fun _ => true)).cleanCopies.writeKsave
    execCheckpointSnapshot s = .next { t with ckpt := { s.ckpt with
      since := s.sysTicks, launches := 0, step := .stream 0, taken := [], pending := some t.image } } := by
  simp [execCheckpointSnapshot, hq, hu, hd]

/-! ### The stream (R402) -/

/-- The state in which a frame is streamed: whether the stream fails has been drawn. -/
def State.frameDrawn (s : State) : State := { s with fresh := s.fresh + 1 }

section
variable {s : State} {f : Nat} {img : Image} (hs : s.ckpt.step = .stream f) (hp : s.ckpt.pending = some img)
include hs hp

theorem execCheckpointFrame_fails (hf : Config.sinkFails s.fresh = true) : execCheckpointFrame s =
    .next { s.frameDrawn with ckpt := { s.ckpt with step := .idle, taken := [], pending := none } } := by
  simp [execCheckpointFrame, hs, hp, hf, State.frameDrawn]

theorem execCheckpointFrame_waited {n : Nat} (hf : Config.sinkFails s.fresh = false) (hn : s.waitedFrame f = some n) :
    execCheckpointFrame s = .next (s.frameDrawn.takeFrame n) := by
  simp [execCheckpointFrame, hs, hp, hf, hn, State.frameDrawn]

theorem execCheckpointFrame_inTurn (hf : Config.sinkFails s.fresh = false) (hn : s.waitedFrame f = none) :
    execCheckpointFrame s = .next (s.frameDrawn.frameInTurn f img) := by
  simp [execCheckpointFrame, hs, hp, hf, hn, State.frameDrawn]

end

/-- A frame taken ahead of its turn is the pending image's. -/
theorem State.takeFrame_pending {s : State} {img : Image} (n : Nat) (hp : s.ckpt.pending = some img) : s.takeFrame n =
    { s with
      outputs := s.outputs ++ [.frame n (img.mem.filter (fun c => c.1 % 2 ^ 44 / 65536 == n))]
      ckpt := { s.ckpt with taken := nadd s.ckpt.taken n } } := by
  simp [State.takeFrame, hp]

section
variable {s : State} {f : Nat} (img : Image) (ht : f ∉ s.ckpt.taken)
include ht

/-- A frame in its turn that is not the last: the next one follows. -/
theorem State.frameInTurn_next (hf : f + 1 < 2 ^ 24) : s.frameInTurn f img =
    { s with
      outputs := s.outputs ++ [.frame f (img.mem.filter (fun c => c.1 % 2 ^ 44 / 65536 == f))]
      ckpt := { s.ckpt with step := .stream (f + 1) } } := by
  have hlast : f + 1 < frames := hf
  simp only [State.frameInTurn, List.contains_iff_mem, if_neg ht, if_pos hlast]

/-- After the last frame the header, and the image is valid beside the previous one (R402, R403). -/
theorem State.frameInTurn_last (hf : f + 1 = 2 ^ 24) : s.frameInTurn f img =
    { s with
      outputs := s.outputs ++ [.frame f (img.mem.filter (fun c => c.1 % 2 ^ 44 / 65536 == f)), .imageHeader img.header img.digest]
      ckpt := { s.ckpt with step := .idle, taken := [], pending := none, images := { img with valid := true } :: s.ckpt.images.take 1 } } := by
  have hlast : ¬ f + 1 < frames := by rw [hf]; exact Nat.lt_irrefl _
  simp only [State.frameInTurn, List.contains_iff_mem, if_neg ht, if_neg hlast, State.streamed, List.append_assoc, List.singleton_append]

end

/-! ### Restore (R404) -/

section
variable {s : State} {img : Image} {imgs : List Image} (hi : s.ckpt.images = img :: imgs)
include hi

theorem execRestore_mismatch (hf : s.fits img = false) : execRestore s = .next { s with outputs := s.outputs ++ [.shapeMismatch] } := by
  simp [execRestore, hi, hf]

theorem execRestore_fits (hf : s.fits img = true) :
    let t := s.emptied img
    let u := t.runningRegions.foldl (fun (t : State) x => t.restoreKiln x.1 x.2) t
    execRestore s = .next { u with queues := img.queues.map (fun (x : Nat × Queue) =>
      (x.1, { x.2 with levels := [], waiting := none, head := (u.dwordAt (x.2.desc + 0x10)).toNat })) } := by
  simp [execRestore, hi, hf]

end

end Sys2Proof.Machine

namespace Sys2Proof.Claims
open Sys2Proof.Machine

/-- Settles O54, outcome by outcome: the trigger, the two ends of quiescing, the frames failing, waited for and in turn, and the two restores. -/
theorem checkpointSteps : Obligations.CheckpointSteps := by
  unfold Obligations.CheckpointSteps
  intro s
  refine ⟨execCheckpointStart_due, execCheckpointSnapshot_abandoned, execCheckpointSnapshot_drained, ?_, fun img imgs hi =>
    ⟨execRestore_mismatch hi, execRestore_fits hi⟩⟩
  intro f img hs hp
  have hpending : s.frameDrawn.ckpt.pending = some img := hp
  refine ⟨execCheckpointFrame_fails hs hp, fun hf => ⟨fun n hn => ?_, fun hn ht => ?_⟩⟩
  · exact (execCheckpointFrame_waited hs hp hf hn).trans (congrArg _ (State.takeFrame_pending n hpending))
  · have hstep := execCheckpointFrame_inTurn hs hp hf hn
    have htaken : f ∉ s.frameDrawn.ckpt.taken := ht
    exact ⟨fun hlt => hstep.trans (congrArg _ (State.frameInTurn_next img htaken hlt)),
      fun hlast => hstep.trans (congrArg _ (State.frameInTurn_last img htaken hlast))⟩

end Sys2Proof.Claims
end

section
/-! Control-register reads (spec 01 R13, R15, R129; 04 R89; 07 R169; 12 R204, R205; 13 R249): the checks of `crr`, the registers that are views of other state, and the
settling of O5. -/

namespace Sys2Proof.Machine

/-! ### `crr` (R89) -/

/-- Raising a context's logical time is apart from writing one of its scalar registers. -/
theorem Context.lifted_setS (c : Context) (r : Reg) (v : Dword) (p : Bool) (lt : Nat) : (c.setS r v p).lifted lt = (c.lifted lt).setS r v p := by
  unfold Context.setS; split <;> rfl

/-- Every context has reached the time 0. -/
@[simp] theorem Context.lifted_zero (c : Context) : c.lifted 0 = c := by simp [Context.lifted]

/-- Only a read of KILN is placed after something (R169). -/
theorem State.readTime_of_ne {s : State} {n : CReg} (h : n ≠ .kiln) : s.readTime n = 0 := by
  cases n <;> simp [State.readTime] at h ⊢

/-- The computation of `crr`. -/
def readCr (d : Reg) (n : CReg) : Exec Unit := do
  guardPriv n
  waitUnits n
  let s ← get
  modCx (fun c => (c.setS d (s.crRead s.cur n) false).lifted (s.readTime n))
  retireE

theorem exec_crr (d : Reg) (n : CReg) (s : State) : exec (.crr d n) s = finish (readCr d n) s := rfl

/-- The running context once it is placed after what a read of a register follows. -/
def State.readCx (s : State) (n : CReg) : State := s.modCx (fun c => c.lifted (s.readTime n))

/-- What `crr` does, check after check: PRIV, the wait for the units, the register. -/
theorem readCr_run (d : Reg) (n : CReg) (s : State) : ∃ w, readCr d n s =
    if Claims.mayAccess s n then
      if Claims.unitsQuiet s n then (.ok (), ((s.readCx n).modCx (fun c => c.setS d (s.crRead s.cur n) false)).retire)
      else (.error (.wait w), s)
    else (.error (.trap cPRIV s.wordValue), s) := by
  obtain ⟨w, hw⟩ := waitUnits_run n s
  refine ⟨w, ?_⟩
  simp only [readCr, Exec.bind_run, guardPriv_run]
  cases Claims.mayAccess s n
  case false => rfl
  simp only [if_true, Exec.andThen_ok, Exec.bind_run, hw]
  cases Claims.unitsQuiet s n
  case false => rfl
  simp only [if_true, Exec.andThen_ok, Exec.bind_run, Exec.get_run, modCx_run, retireE_run, State.readCx, State.modCx_modCx, Context.lifted_setS]

/-- A scalar register just written holds what was written (R8, R9). -/
theorem holds_setS (c : Context) (d : Reg) (v : Dword) (p : Bool) (a : Dword) : Claims.Holds ((c.setS d v p).advance a) d v p := by
  by_cases h : d = 0
  · subst h; exact ⟨rfl, rfl⟩
  · rw [Claims.Holds, Context.s_advance, Context.sp_advance, Context.s_setS_self _ _ _ _ h, Context.sp_setS_self _ _ _ _ h, if_neg h, bne_iff_ne.mpr h]
    exact ⟨rfl, rfl⟩

/-! ### Registers that are views of other state (R15) -/

theorem State.toNat_crRead_slot (s : State) (k : Nat) : (s.crRead k .slot).toNat = (s.getCtx k).inc.toNat * 2 ^ 16 + k % 64 := by
  have := (s.getCtx k).inc.isLt
  simp only [State.crRead, BitVec.toNat_ofNat]
  omega

/-- POOL (R204): the partition above the usable granules modulo 32 (log 41). -/
theorem State.toNat_crRead_pool (s : State) (k : Nat) :
    (s.crRead k .pool).toNat = (s.getCore (k / 64)).part.toNat * 2 ^ 32 + (s.getCore (k / 64)).usable % 32 := by
  have := (s.getCore (k / 64)).part.isLt
  simp only [State.crRead, BitVec.toNat_ofNat]
  omega

/-- POOL gives back the partition and, with the usable granules, the size of the scratchpad (R204, R205). -/
theorem State.crRead_pool_parts (s : State) (k : Nat) :
    (s.crRead k .pool).toNat / 2 ^ 32 = (s.getCore (k / 64)).part.toNat ∧ (s.crRead k .pool).toNat % 2 ^ 32 = (s.getCore (k / 64)).usable % 32 ∧
    scratchBytes (s.getCore (k / 64)) = 4096 *
      ((s.getCore (k / 64)).usable - (s.crRead k .pool).toNat / 2 ^ 32 % 32 - (s.crRead k .pool).toNat / 2 ^ 37 % 32) := by
  have hpool := s.toNat_crRead_pool k
  have hpart : (s.crRead k .pool).toNat / 2 ^ 32 = (s.getCore (k / 64)).part.toNat := by omega
  have hacc : (s.crRead k .pool).toNat / 2 ^ 37 = (s.getCore (k / 64)).part.toNat / 32 := by omega
  refine ⟨hpart, by omega, ?_⟩
  rw [hpart, hacc]
  rfl

end Sys2Proof.Machine

namespace Sys2Proof.Claims
open Sys2Proof.Machine

/-- Settles O5: the checks are those of `readCr_run`, and the views are read off their registers. -/
theorem controlRegisterReads : Obligations.ControlRegisterReads := by
  unfold Obligations.ControlRegisterReads
  intro d n s
  obtain ⟨w, hw⟩ := readCr_run d n s
  refine ⟨fun hm hq => ?_, fun hm => ?_, fun hm hq => ⟨w, ?_⟩, rfl, rfl, rfl, s.toNat_crRead_slot s.cur, fun i hi => ?_, fun i hi => ?_, ?_⟩
  · have hexec : exec (.crr d n) s = .next ((s.readCx n).modCx (fun c => c.setS d (s.crRead s.cur n) false)).retire :=
      finish_ok (readCr d n) s _ (by simpa [hm, hq] using hw)
    obtain ⟨honly, hkeeps, hretired⟩ := from_setS (s.readCx n) d (s.crRead s.cur n) false
    have hcx : (s.readCx n).cx = s.cx.lifted (s.readTime n) := State.cx_modCx ..
    rw [hcx] at hkeeps hretired
    refine ⟨_, ⟨hexec, ?_, hkeeps, hretired⟩, fun hn => ?_, ?_⟩
    · rw [State.readCx, State.modCx_modCx]
      exact State.onlyContext_retire s _
    · have hread : s.readCx n = s.modCx id := by simp [State.readCx, State.readTime_of_ne hn]; rfl
      rw [hread, State.modCx_modCx] at hexec ⊢
      exact plain_setS _ _ _ _ _ hexec
    · rw [State.cx_retire, State.cx_modCx]
      exact holds_setS ..
  · exact traps_of_error (exec_crr d n s) (by simpa [hm] using hw) (by decide) (by decide)
  · exact waits_of_error (exec_crr d n s) (by simpa [hm, hq] using hw)
  · exact (s.cx.getLsbD_tagBits i (by omega)).trans (by simp [hi])
  · exact s.cx.getLsbD_tagErrBits i (by omega)
  · exact s.crRead_pool_parts s.cur

end Sys2Proof.Claims
end

section
/-! Traps and the return from them (spec 01 R18, R22 to R25, R42; 04 R92; 19 R337, R346, R347): each way a trap is taken, what an entry tells the S context, and the settling of O7,
O8, O9 and O11. -/

namespace Sys2Proof.Machine
open Sys2Proof.Claims

/-! ### The ways a trap is taken (R22) -/

section
variable {s : State} {k : Nat} {cause : Byte} {value addr pfx : Dword}

theorem State.takeTrap_delegated (h : (s.getCtx k).delegates cause = true) : s.takeTrap k cause value addr pfx =
    s.modCtx k (fun c => { c with
      pc := c.cr.utvec
      wait := none
      cr := { c.cr with
        ucause := 0x8000_0000_0000_0000 ||| BitVec.ofNat 64 cause.toNat
        upc := codeAddr addr
        uval := value
        pfx := pfx } }) := if_pos h

variable (h : (s.getCtx k).delegates cause = false)
include h

theorem State.takeTrap_user (hk : k % 64 ≠ 0) :
    s.takeTrap k cause value addr pfx = s.trapToS k ((s.getCtx k).trapEntry cause value addr pfx) := by
  simp [State.takeTrap, h, hk]

theorem State.takeTrap_nested (hk : k % 64 = 0) (hb : (s.getCtx k).cr.sstat.getLsbD 16 = true) :
    s.takeTrap k cause value addr pfx = s.seal (k / 64) := by
  rw [State.takeTrap, if_neg (by simp [h]), if_neg (not_not.2 hk), if_pos hb]

theorem State.takeTrap_super (hk : k % 64 = 0) (hb : (s.getCtx k).cr.sstat.getLsbD 16 = false) :
    s.takeTrap k cause value addr pfx = s.enterS (k / 64) (k % 64) ((s.getCtx k).trapEntry cause value addr pfx) := by
  rw [State.takeTrap, if_neg (by simp [h]), if_neg (not_not.2 hk), if_neg (Bool.eq_false_iff.1 hb), hk]

end

/-- The S context takes a trap at once exactly while it is free (R22, R23). -/
theorem State.takesTrap_iff (s : State) (core : Nat) : s.takesTrap core = true ↔ SFree s core := by
  simp [State.takesTrap, SFree, and_assoc, or_iff_not_imp_left]

/-- A cause that DELEG has no bit for is never delegated (R18). -/
theorem Context.delegates_masked (c : Context) {cause : Byte} (h : CReg.deleg.rwMask.getLsbD cause.toNat = false) : c.delegates cause = false := by
  simp [Context.delegates, BitVec.getLsbD_and, h]

/-! ### The entry into the S context (R22, R42, R415) -/

/-- The key of a core's S context is that of a slot 0, and no other. -/
theorem ctxKey_zero_eq {k : Nat} (h : k % 64 = 0) : ctxKey (k / 64) 0 = k := by unfold ctxKey; omega
theorem ne_ctxKey_zero {k core : Nat} (h : k % 64 ≠ 0) : k ≠ ctxKey core 0 := by unfold ctxKey; omega

/-- SSTAT after an entry: the slot, the mode, the bit of a trap handled, and the bit that the entry keeps (R17). -/
def sstatEntered (old : Dword) (m : Mode) (slot : Nat) : Dword :=
  (old &&& 0x100) ||| 0x1_0000 ||| (if m = .super then 0x40 else 0) ||| BitVec.ofNat 64 (slot % 64)

/-- The bits of an entered SSTAT, each from its part. -/
theorem getLsbD_sstatEntered (old : Dword) (m : Mode) (slot j : Nat) (hj : j < 64) : (sstatEntered old m slot).getLsbD j =
    (old.getLsbD j && decide (j = 8) || decide (j = 16) || decide (j = 6) && m == .super || (slot % 64).testBit j) := by
  have hbit (i : Nat) : (BitVec.ofNat 64 (2 ^ i)).getLsbD j = decide (j = i) := by
    simp only [BitVec.getLsbD_ofNat, Nat.testBit_two_pow, hj, decide_true, Bool.true_and, eq_comm (a := i)]
  have hmode : (if m = .super then (0x40 : Dword) else 0).getLsbD j = (decide (j = 6) && m == .super) := by
    cases m
    case super => simpa using hbit 6
    case user => simp
  simp only [sstatEntered, BitVec.getLsbD_or, BitVec.getLsbD_and, hmode]
  rw [show (0x100 : Dword).getLsbD j = decide (j = 8) from hbit 8, show (0x1_0000 : Dword).getLsbD j = decide (j = 16) from hbit 16]
  simp only [BitVec.getLsbD_ofNat, hj, decide_true, Bool.true_and, Bool.and_comm]

/-- A slot number has no bit from the sixth on. -/
theorem testBit_mod_64 (n : Nat) {j : Nat} (hj : 6 ≤ j) : (n % 64).testBit j = false :=
  Nat.testBit_lt_two_pow (Nat.lt_of_lt_of_le (show n % 64 < 2 ^ 6 by omega) (Nat.pow_le_pow_right (by decide) hj))

theorem slot_sstatEntered (old : Dword) (m : Mode) (slot : Nat) : (sstatEntered old m slot).extractLsb' 0 6 = BitVec.ofNat 6 (slot % 64) := by
  refine BitVec.eq_of_getLsbD_eq fun j hj => ?_
  rw [BitVec.getLsbD_extractLsb', getLsbD_sstatEntered _ _ _ _ (by omega)]
  have : j ≠ 8 ∧ j ≠ 16 ∧ j ≠ 6 := by omega
  simp only [BitVec.getLsbD_ofNat, hj, this, decide_true, decide_false, Bool.true_and, Bool.and_false, Bool.false_and, Bool.false_or, Nat.zero_add]

/-- What an entry leaves of the S context. -/
theorem State.getCtx_enterS (s : State) (core slot : Nat) (e : TrapEntry) : (s.enterS core slot e).getCtx (ctxKey core 0) =
    let c := s.getCtx (ctxKey core 0)
    { c with
      pc := c.cr.stvec
      wait := none
      lt := max c.lt (s.cycle / 16)
      slot := (match c.slot with | .issuing => .issuing | .waking d => .waking d | _ => .parkedReady)
      twin := e.twin
      cr := { c.cr with
        scause := BitVec.ofNat 64 e.cause.toNat
        spc := codeAddr e.addr
        sval := e.value
        sstat := sstatEntered c.cr.sstat e.mode slot
        region := e.region
        ptroot := e.ptroot
        asid := e.asid
        pfx := e.pfx } } := State.getCtx_modCtx_self ..

theorem State.getCtx_enterS_ne (s : State) {core slot j : Nat} (e : TrapEntry) (h : j ≠ ctxKey core 0) :
    (s.enterS core slot e).getCtx j = s.getCtx j := State.getCtx_modCtx_ne s _ j _ h

/-- The S context is told of the trap, from whatever state with the same S context the entry is made. -/
theorem enteredS_enterS {s u : State} {k : Nat} {cause : Byte} {value addr pfx : Dword}
    (hu : u.getCtx (ctxKey (k / 64) 0) = s.getCtx (ctxKey (k / 64) 0)) (hc : u.cycle = s.cycle) :
    EnteredS s (u.enterS (k / 64) (k % 64) ((s.getCtx k).trapEntry cause value addr pfx)) k cause value addr pfx := by
  have hx := State.getCtx_enterS u (k / 64) (k % 64) ((s.getCtx k).trapEntry cause value addr pfx)
  rw [hu, hc] at hx
  unfold EnteredS
  rw [hx]
  refine ⟨rfl, rfl, rfl, rfl, rfl, ?_, ?_, ?_, ?_, rfl, rfl, rfl, rfl, rfl, rfl⟩
  · rw [slot_sstatEntered, Nat.mod_mod]
  all_goals rw [getLsbD_sstatEntered _ _ _ _ (by decide), testBit_mod_64 _ (by decide)]; simp [Context.trapEntry]

/-! ### One context changed -/

theorem State.onlyContext_modCtx (s : State) (k : Nat) (f : Context → Context) : s.OnlyContext (s.modCtx k f) k :=
  ⟨fun j h => State.getCtx_modCtx_ne s k j f h, ⟨fun _ => rfl, fun _ _ => rfl⟩, rfl⟩

/-! ### Sealing a core (R337) -/

/-- What every step of a fold keeps, the fold keeps. -/
theorem foldl_keeps {α β γ : Type} (p : α → γ) {f : α → β → α} (h : ∀ a b, p (f a b) = p a) (l : List β) (a : α) : p (l.foldl f a) = p a :=
  List.foldlRecOn l f (motive := fun x => p x = p a) rfl (fun x hx b _ => (h x b).trans hx)

@[simp] theorem State.cores_modRegion (s : State) (rcb : Nat) (f : Region → Region) : (s.modRegion rcb f).cores = s.cores := by
  unfold State.modRegion; split <;> rfl
@[simp] theorem State.cores_modWork (s : State) (rcb core : Nat) (f : Work → Work) : (s.modWork rcb core f).cores = s.cores := s.cores_modRegion ..
@[simp] theorem State.cores_endRegion (s : State) (rcb : Nat) (r : Byte) : (s.endRegion rcb r).cores = s.cores := s.cores_modRegion ..
@[simp] theorem State.cores_endCtx (s : State) (k : Nat) : (s.endCtx k).cores = s.cores := s.cores_modRegion ..
@[simp] theorem State.cores_moveReserved (s : State) (rcb core : Nat) (r : Region) : (s.moveReserved rcb core r).cores = s.cores := by
  simp [State.moveReserved, State.setRegion, apply_ite State.cores]

/-- What a seal does to a region it does to no core. -/
@[simp] theorem State.cores_sealRegion (s : State) (core lt rcb : Nat) (r : Region) : (s.sealRegion core lt rcb r).cores = s.cores := by
  unfold State.sealRegion
  dsimp only
  split <;> simp [apply_ite State.cores]

/-- At its instant a seal leaves the core sealed. -/
theorem State.sealed_sealNow (s : State) (core : Nat) : ((s.sealNow core).getCore core).sealed.isSome = true := by
  have hfold {l : List (Nat × Region)} {m : List Nat} {t : State} {g : State → Nat × Region → State} (hg : ∀ u x, (g u x).cores = u.cores) :
      (m.foldl (fun u k => u.endCtx (ctxKey core k)) (l.foldl g t)).cores = t.cores :=
    (foldl_keeps State.cores (fun u k => u.cores_endCtx _) m _).trans (foldl_keeps State.cores hg l t)
  unfold State.sealNow State.getCore
  rw [State.push_cores, hfold]
  · exact congrArg (fun c : Core => c.sealed.isSome) (State.getCore_setCore_self ..)
  · intro u x
    split
    · rfl
    · exact u.cores_sealRegion ..

/-- A core that a seal finds not sealed is sealed by it or is to be. -/
theorem State.seal_or {s : State} {core : Nat} (h : (s.getCore core).sealed.isSome = false) :
    ((s.seal core).getCore core).sealed.isSome = true ∨ ((s.seal core).getCore core).sealing = true := by
  simp only [State.seal, h]
  split
  · contradiction
  · split
    · exact .inl (s.sealed_sealNow core)
    · exact .inr (congrArg Core.sealing (State.getCore_setCore_self ..))

/-! ### `eret` (R24, R92, R347) -/

/-- The release of the seal that a notice under way has told of (R340). -/
def State.releaseTold (s : State) : State :=
  if s.cx.cr.scause.getLsbD 63 then
    s.modCore s.cx.cr.sval.toNat (fun co => { co with sealed := co.sealed.map (fun x => { x with released := true }) })
  else s

theorem execEret_super {s : State} (hm : s.cx.mode = .super) (hb : s.cx.cr.sstat.getLsbD 16 = true) :
    exec .eret s = .next (s.releaseTold.eretS.parkS s.coreNum) := by
  change execEret s = _
  simp only [execEret, hm, hb]
  rfl

theorem execEret_super_idle {s : State} (hm : s.cx.mode = .super) (hb : s.cx.cr.sstat.getLsbD 16 = false) :
    exec .eret s = finish (trapWith cILL s.wordValue) s := by
  change execEret s = _
  simp only [execEret, hm, hb]
  rfl

theorem execEret_user {s : State} (hm : s.cx.mode = .user) (hb : s.cx.cr.ucause.getLsbD 63 = true) : exec .eret s = .next s.eretU := by
  change execEret s = _
  simp only [execEret, hm, hb]
  rfl

theorem execEret_user_idle {s : State} (hm : s.cx.mode = .user) (hb : s.cx.cr.ucause.getLsbD 63 = false) :
    exec .eret s = finish (trapWith cILL s.wordValue) s := by
  change execEret s = _
  simp only [execEret, hm, hb]
  rfl

/-- The release of seals leaves every scratchpad. -/
theorem scratch_releaseSeals (core n : Nat) (l : List (Nat × Core)) :
    (kgetD (releaseSeals core l) n Core.reset).scratch = (kgetD l n Core.reset).scratch := by
  induction l with
  | nil => rfl
  | cons x l ih =>
    simp only [releaseSeals, List.map_cons, kgetD, kget] at ih ⊢
    split
    · rfl
    · exact ih

@[simp] theorem State.ctxs_releaseTold (s : State) : s.releaseTold.ctxs = s.ctxs := by unfold State.releaseTold; split <;> rfl
@[simp] theorem State.mem_releaseTold (s : State) : s.releaseTold.mem = s.mem := by unfold State.releaseTold; split <;> rfl
@[simp] theorem State.cur_releaseTold (s : State) : s.releaseTold.cur = s.cur := by unfold State.releaseTold; split <;> rfl
@[simp] theorem State.grp_releaseTold (s : State) : s.releaseTold.grp = s.grp := by unfold State.releaseTold; split <;> rfl
@[simp] theorem State.getCtx_releaseTold (s : State) (k : Nat) : s.releaseTold.getCtx k = s.getCtx k := by simp [State.getCtx]
@[simp] theorem State.cx_releaseTold (s : State) : s.releaseTold.cx = s.cx := by simp [State.cx]
theorem State.scratch_releaseTold (s : State) (n : Nat) : (s.releaseTold.getCore n).scratch = (s.getCore n).scratch := by
  unfold State.releaseTold
  split
  · by_cases h : n = s.cx.cr.sval.toNat
    · subst h; rw [State.getCore_modCore_self]
    · rw [State.modCore, State.getCore_setCore_ne _ _ _ _ h]
  · rfl

/-- The S context once it has no trap to handle. -/
def Context.trapOver (c : Context) : Context := { c with cr := { c.cr with sstat := c.cr.sstat &&& ~~~0x1_0000 } }

/-- The S context parked, unless firmware has work for it (R116). -/
def Context.parkedUnless (c : Context) (work : Bool) : Context := if work then c else { c with slot := .parkedWaiting }

/-- A trapping context that goes on at `spc`, unless it has been squashed (R173). -/
def Context.resumed (c : Context) (spc : Dword) : Context := { c with inTrap := false, pc := if c.live then spc else c.pc }

/-- A state without the seals that its running S context returns from. -/
def State.sealsReleased (s : State) : State := { s with cores := releaseSeals s.coreNum s.cores }

/-- The slot whose trap the running S context handles (R17). -/
def Context.trapSlot (c : Context) : Nat := (c.cr.sstat.extractLsb' 0 6).toNat

/-- A context is another but for its wait and the state of its slot, which are all that parking changes. -/
def Context.UpToPark (c d : Context) : Prop := { c with wait := d.wait, slot := d.slot } = d

theorem Context.UpToPark.trans {c d e : Context} (h : c.UpToPark d) (h' : d.UpToPark e) : c.UpToPark e :=
  (congrArg (fun x : Context => { x with wait := e.wait, slot := e.slot }) h :).trans h'

theorem Context.parkedUnless_upToPark (c : Context) (b : Bool) : (c.parkedUnless b).UpToPark c := by
  cases b <;> rfl

/-- The end of the S context's own trap: it goes to SPC. -/
theorem State.eretS_own {s : State} (h : s.cx.trapSlot = s.slotNum) : s.eretS =
    s.sealsReleased.modCx (fun c => { c.trapOver with pc := canon s.cx.cr.spc, wait := none }.parkedUnless s.co.supWork) := by
  have heq : s.eretS =
      ((s.sealsReleased.modCx Context.trapOver).goto s.cx.cr.spc).modCx (fun x => x.parkedUnless s.co.supWork) := if_pos h
  rw [heq, State.goto, State.modCx_modCx, State.modCx_modCx]

/-- The end of a U context's trap: that context is resumed, and the S context goes on. -/
theorem State.eretS_other {s : State} (h : s.cx.trapSlot ≠ s.slotNum) : s.eretS =
    ((s.sealsReleased.modCx Context.trapOver).modCtx (ctxKey s.coreNum s.cx.trapSlot) (fun x => x.resumed s.cx.cr.spc)).modCx
      (fun c => (c.advance s.lastWord).parkedUnless s.co.supWork) := by
  have hresumed : (fun x : Context => if x.live then { x with inTrap := false, pc := s.cx.cr.spc } else { x with inTrap := false }) =
      fun x => x.resumed s.cx.cr.spc := by
    funext x
    unfold Context.resumed
    cases x.live <;> rfl
  have heq : s.eretS = ((s.sealsReleased.modCx Context.trapOver).modCtx (ctxKey s.coreNum s.cx.trapSlot) (fun x =>
      if x.live then { x with inTrap := false, pc := s.cx.cr.spc } else { x with inTrap := false })).retire.modCx
        (fun x => x.parkedUnless s.co.supWork) := if_neg h
  rw [heq, hresumed, State.retire, State.modCx_modCx]
  rfl

/-- A park of the S context changes of it its wait and its slot. -/
theorem State.cx_parkS_upToPark {s : State} {core : Nat} (h : s.cur = ctxKey core 0) :
    (s.parkS core).cx.UpToPark s.cx := by
  unfold State.parkS
  rw [← h]
  dsimp only
  split
  · rfl
  · rw [show (s.setCtx s.cur _).cx = _ from State.cx_setCx s _]
    unfold Context.takeBack
    split <;> rfl

theorem State.getCtx_parkS_ne (s : State) {core j : Nat} (h : j ≠ ctxKey core 0) : (s.parkS core).getCtx j = s.getCtx j := by
  unfold State.parkS
  dsimp only
  split
  · rfl
  · exact State.getCtx_setCtx_ne s _ j _ h

theorem State.parkS_frame (s : State) (core : Nat) : { s.parkS core with ctxs := s.ctxs } = s := by
  unfold State.parkS
  dsimp only
  split <;> rfl

theorem State.cur_eretS (s : State) : s.eretS.cur = s.cur := by
  by_cases h : s.cx.trapSlot = s.slotNum
  · rw [State.eretS_own h]; rfl
  · rw [State.eretS_other h]; rfl

/-- The return changes contexts and the seals alone. -/
theorem State.eretS_parkS_sameMemory (s : State) : s.SameMemory (s.eretS.parkS s.coreNum) := by
  have hcores : (s.eretS.parkS s.coreNum).mem = s.mem ∧ (s.eretS.parkS s.coreNum).cores = releaseSeals s.coreNum s.cores := by
    rw [show (s.eretS.parkS s.coreNum).mem = s.eretS.mem from (congrArg State.mem (s.eretS.parkS_frame s.coreNum) :),
      show (s.eretS.parkS s.coreNum).cores = s.eretS.cores from (congrArg State.cores (s.eretS.parkS_frame s.coreNum) :)]
    by_cases h : s.cx.trapSlot = s.slotNum
    · rw [State.eretS_own h]; exact ⟨rfl, rfl⟩
    · rw [State.eretS_other h]; exact ⟨rfl, rfl⟩
  obtain ⟨hmem, hcores⟩ := hcores
  refine ⟨fun a => by rw [hmem], fun core a => ?_⟩
  rw [State.getCore, hcores, scratch_releaseSeals]
  rfl

section
variable {s : State} (hs : s.slotNum = 0)
include hs

/-- The S context's slot is its core's slot 0 (R12). -/
theorem State.cur_of_slotNum_zero : s.cur = ctxKey s.coreNum 0 := (ctxKey_zero_eq hs).symm

/-- After its own trap the S context is at SPC, and no other context has changed. -/
theorem State.eretS_parkS_own (h : s.cx.trapSlot = 0) :
    (s.eretS.parkS s.coreNum).cx.UpToPark { s.cx.trapOver with pc := canon s.cx.cr.spc } ∧
    ∀ j, j ≠ s.cur → (s.eretS.parkS s.coreNum).getCtx j = s.getCtx j := by
  have hcur := State.cur_of_slotNum_zero hs
  have hown := State.eretS_own (h.trans hs.symm)
  refine ⟨(State.cx_parkS_upToPark (s.cur_eretS.trans hcur)).trans ?_, fun j hj => (State.getCtx_parkS_ne _ (hcur ▸ hj)).trans ?_⟩
  · rw [hown, State.cx_modCx]
    exact (Context.parkedUnless_upToPark _ _).trans rfl
  · rw [hown]
    exact State.getCtx_modCx_ne s.sealsReleased j _ hj

/-- After another context's trap that one is resumed, the S context has gone on, and no third has changed. -/
theorem State.eretS_parkS_other (h : s.cx.trapSlot ≠ 0) (k : Nat) (hk : k = ctxKey s.coreNum s.cx.trapSlot) :
    (s.eretS.parkS s.coreNum).cx.UpToPark (s.cx.trapOver.advance s.lastWord) ∧
    (s.eretS.parkS s.coreNum).getCtx k = (s.getCtx k).resumed s.cx.cr.spc ∧
    ∀ j, j ≠ s.cur → j ≠ k → (s.eretS.parkS s.coreNum).getCtx j = s.getCtx j := by
  have hcur := State.cur_of_slotNum_zero hs
  have hk' : k ≠ s.cur := by rw [hcur, hk]; unfold ctxKey; omega
  have hlow (j : Nat) (hj : j ≠ s.cur) : (s.sealsReleased.modCx Context.trapOver).getCtx j = s.getCtx j :=
    State.getCtx_modCx_ne s.sealsReleased j _ hj
  have hother := State.eretS_other (fun e => h (e.trans hs))
  rw [← hk] at hother
  have hmid (j : Nat) (hj : j ≠ s.cur) : s.eretS.getCtx j =
      ((s.sealsReleased.modCx Context.trapOver).modCtx k (fun x => x.resumed s.cx.cr.spc)).getCtx j := by
    rw [hother]
    exact State.getCtx_modCx_ne _ j _ hj
  refine ⟨(State.cx_parkS_upToPark (s.cur_eretS.trans hcur)).trans ?_, (State.getCtx_parkS_ne _ (hcur ▸ hk')).trans ?_,
    fun j hj hjk => (State.getCtx_parkS_ne _ (hcur ▸ hj)).trans ?_⟩
  · have hcx : ((s.sealsReleased.modCx Context.trapOver).modCtx k (fun x => x.resumed s.cx.cr.spc)).cx = s.cx.trapOver :=
      (State.getCtx_modCtx_ne _ k s.cur _ hk'.symm).trans (State.cx_modCx s.sealsReleased Context.trapOver)
    rw [hother, State.cx_modCx, hcx]
    exact Context.parkedUnless_upToPark ..
  · rw [hmid k hk', State.getCtx_modCtx_self, hlow k hk']
  · rw [hmid j hj, State.getCtx_modCtx_ne _ _ _ _ hjk, hlow j hj]

end

@[simp] theorem State.coreNum_releaseTold (s : State) : s.releaseTold.coreNum = s.coreNum := by simp [State.coreNum]
@[simp] theorem State.slotNum_releaseTold (s : State) : s.releaseTold.slotNum = s.slotNum := by simp [State.slotNum]
@[simp] theorem State.lastWord_releaseTold (s : State) : s.releaseTold.lastWord = s.lastWord := by simp [State.lastWord]

theorem State.sameMemory_releaseTold (s : State) : s.SameMemory s.releaseTold :=
  ⟨fun a => by rw [State.mem_releaseTold], fun core a => by rw [State.scratch_releaseTold]⟩

theorem State.SameMemory.trans {s t u : State} (h : s.SameMemory t) (h' : t.SameMemory u) : s.SameMemory u :=
  ⟨fun a => (h'.1 a).trans (h.1 a), fun core a => (h'.2 core a).trans (h.2 core a)⟩

/-- The return in a delegated handler changes the running context alone (R347). -/
theorem State.eretU_eq (s : State) : s.eretU = s.modCx (fun c =>
    { c with pc := canon s.cx.cr.upc, wait := none, cr := { c.cr with ucause := c.cr.ucause &&& 0x7FFF_FFFF_FFFF_FFFF } }) := by
  unfold State.eretU
  rw [State.goto, State.modCx_modCx]
  rfl

end Sys2Proof.Machine

namespace Sys2Proof.Claims
open Sys2Proof.Machine

/-- Settles O7: a U context's trap enters from the state in which the context has stopped, the S context's own from the state itself. -/
theorem trapEntersTheSContext : Obligations.TrapEntersTheSContext := by
  unfold Obligations.TrapEntersTheSContext
  intro s k cause value addr pfx hd hb hfree
  by_cases hk : k % 64 = 0
  · have hkey := ctxKey_zero_eq hk
    rw [hkey] at hb ⊢
    rw [State.takeTrap_super hd hk hb]
    exact ⟨enteredS_enterS rfl rfl, ⟨fun _ => rfl, fun _ _ => rfl⟩, rfl, fun j hj _ => s.getCtx_enterS_ne _ (by rwa [hkey]), fun h => absurd hk h⟩
  · have hkey (core : Nat) : k ≠ ctxKey core 0 := ne_ctxKey_zero hk
    rw [State.takeTrap_user hd hk, State.trapToS_enters ((s.takesTrap_iff _).2 (hfree hk))]
    refine ⟨enteredS_enterS (State.getCtx_modCtx_ne s k _ _ (hkey _).symm) rfl, ⟨fun _ => rfl, fun _ _ => rfl⟩, rfl, fun j hj hj0 => ?_, fun _ => ?_⟩
    · rw [State.getCtx_enterS_ne _ _ hj0, State.getCtx_modCtx_ne s k j _ hj]
    · rw [State.getCtx_enterS_ne _ _ (hkey _), State.getCtx_modCtx_self]

/-- Settles O8: `trapToS` makes a U context's trap wait, and `seal` answers the S context's own. -/
theorem trapWaitsOrSealsWhileAnotherIsHandled : Obligations.TrapWaitsOrSealsWhileAnotherIsHandled := by
  unfold Obligations.TrapWaitsOrSealsWhileAnotherIsHandled
  intro s k cause value addr pfx hd
  refine ⟨fun hk hbusy => ?_, fun hk hb hopen => ?_⟩
  · have hwaits : s.takesTrap (k / 64) = false := Bool.eq_false_iff.2 fun h => hbusy ((s.takesTrap_iff _).1 h)
    rw [State.takeTrap_user hd hk, State.trapToS_waits hwaits]
    exact ⟨s.onlyContext_modCtx k _, State.getCtx_modCtx_self ..⟩
  · have hsealed : (s.getCore (k / 64)).sealed.isSome = false := by rw [hopen]; rfl
    rw [State.takeTrap_nested hd hk hb]
    refine ⟨fun hm hs hc => ?_, State.seal_or hsealed⟩
    rw [State.seal_now hsealed hm hs hc]
    exact s.sealed_sealNow _

/-- Settles O9: `takeTrap_delegated` says what is left, and DELEG's mask has none of the four bits. -/
theorem delegatedTrapStaysInTheContext : Obligations.DelegatedTrapStaysInTheContext := by
  unfold Obligations.DelegatedTrapStaysInTheContext
  refine ⟨fun s k cause value addr pfx hd => ?_, fun c => ?_⟩
  · rw [State.takeTrap_delegated hd]
    dsimp only
    rw [State.getCtx_modCtx_self]
    exact ⟨s.onlyContext_modCtx k _, rfl, rfl, rfl, rfl, rfl, rfl, fun _ => ⟨rfl, rfl, rfl, rfl⟩, fun _ => rfl⟩
  · exact ⟨c.delegates_masked (by decide), c.delegates_masked (by decide), c.delegates_masked (by decide), c.delegates_masked (by decide)⟩

/-- `eret` in the S context with a trap to return from (R24). -/
theorem eret_super {s : State} (hm : s.cx.mode = .super) (hs : s.slotNum = 0) (hb : s.cx.cr.sstat.getLsbD 16 = true) : ∃ t,
    exec .eret s = .next t ∧ s.SameMemory t ∧
    (∀ j, j ≠ s.cur → j ≠ ctxKey s.coreNum s.cx.trapSlot → t.getCtx j = s.getCtx j) ∧
    t.cx.cr.sstat = s.cx.cr.sstat &&& ~~~0x1_0000 ∧ (∀ r, t.cx.s r = s.cx.s r ∧ t.cx.v r = s.cx.v r) ∧
    (s.cx.trapSlot = 0 → t.cx.pc = canon s.cx.cr.spc) ∧
    (s.cx.trapSlot ≠ 0 → t.cx.pc = (s.cx.after s.lastWord).1 ∧
      t.getCtx (ctxKey s.coreNum s.cx.trapSlot) = (s.getCtx (ctxKey s.coreNum s.cx.trapSlot)).resumed s.cx.cr.spc) := by
  have hmem := s.sameMemory_releaseTold.trans s.releaseTold.eretS_parkS_sameMemory
  have hs' : s.releaseTold.slotNum = 0 := s.slotNum_releaseTold.trans hs
  rw [State.coreNum_releaseTold] at hmem
  by_cases h : s.cx.trapSlot = 0
  · obtain ⟨hcx, hctx⟩ := State.eretS_parkS_own hs' (by rwa [State.cx_releaseTold])
    simp only [State.cx_releaseTold, State.coreNum_releaseTold, State.cur_releaseTold, State.getCtx_releaseTold] at hcx hctx
    exact ⟨_, execEret_super hm hb, hmem, fun j hj _ => hctx j hj, (congrArg (fun c : Context => c.cr.sstat) hcx :),
      fun r => ⟨(congrArg (fun c : Context => c.s r) hcx :), (congrArg (fun c : Context => c.v r) hcx :)⟩,
      fun _ => (congrArg Context.pc hcx :), fun hne => absurd h hne⟩
  · obtain ⟨hcx, hk, hctx⟩ := State.eretS_parkS_other hs' (by rwa [State.cx_releaseTold]) _ rfl
    simp only [State.cx_releaseTold, State.coreNum_releaseTold, State.cur_releaseTold, State.getCtx_releaseTold, State.lastWord_releaseTold] at hcx hk hctx
    refine ⟨_, execEret_super hm hb, hmem, hctx, (congrArg (fun c : Context => c.cr.sstat) hcx :).trans ?_,
      fun r => ⟨(congrArg (fun c : Context => c.s r) hcx :).trans (Context.s_advance ..), (congrArg (fun c : Context => c.v r) hcx :).trans (Context.v_advance ..)⟩,
      fun he => absurd he h, fun _ => ⟨(congrArg Context.pc hcx :).trans (Context.pc_advance ..), hk⟩⟩
    exact (congrArg (fun c : Context => c.cr.sstat) (Context.rest_advance s.cx.trapOver s.lastWord) :)

/-- Settles O11: `eret_super` for the S context, `eretU_eq` for a delegated handler, and ILL where nothing is to be returned from. -/
theorem eretReturns : Obligations.EretReturns := by
  unfold Obligations.EretReturns
  refine fun s => ⟨fun hm hs => ⟨fun hb => ?_, fun hb => ?_⟩, fun hm => ⟨fun hb => ?_, fun hb => ?_⟩⟩
  · have hzero : s.cx.cr.sstat.extractLsb' 0 6 = 0 ↔ s.cx.trapSlot = 0 := BitVec.toNat_inj.symm
    obtain ⟨t, hexec, hmem, hctx, hsstat, hregs, hown, hother⟩ := eret_super hm hs hb
    exact ⟨t, hexec, hmem, hctx, hsstat, hregs, fun h => hown (hzero.1 h), fun h => hother (fun e => h (hzero.2 e))⟩
  · exact traps_of_error (execEret_super_idle hm hb) rfl (by decide) (by decide)
  · have hcx := (congrArg State.cx s.eretU_eq).trans (State.cx_modCx ..)
    refine ⟨s.eretU, execEret_user hm hb, ?_, ?_⟩
    · rw [s.eretU_eq]; exact s.onlyContext_modCx _
    · rw [hcx]
      exact ⟨rfl, rfl, rfl, fun _ _ => ⟨rfl, rfl⟩, fun _ _ => ⟨rfl, rfl⟩, fun _ _ => rfl, rfl⟩
  · exact traps_of_error (execEret_user_idle hm hb) rfl (by decide) (by decide)

end Sys2Proof.Claims
end


section
/-! The state after reset (spec 01 R15; 06 R129; 07 R146; 22 R392, R406), the dealer's steps for contexts that run (01 R23; 04 R93; 06 R114 to R122; 07 R160, R172; 19 R348), and the settling
of O58 and O47. -/

namespace Sys2Proof.Machine

/-! ### Reset -/

@[simp] theorem State.getCtx_reset (k : Nat) : State.reset.getCtx k = defaultCtx k := rfl
@[simp] theorem State.getCore_reset (n : Nat) : State.reset.getCore n = Core.reset := rfl

/-- Every register of a context holds 0 after reset. -/
theorem Context.reset_registers (m : Mode) (r : Reg) : (Context.reset m).s r = 0 ∧ (Context.reset m).v r = 0 := by
  simp [Context.s, Context.v, Context.reset]

/-! ### Waits and positions (R93, R114 to R116) -/

theorem execWfeTimeout_due {s : State} {core slot : Nat} {w : Wait} (hw : (s.getCtx (ctxKey core slot)).wait = some w) (hk : w.kind = .latch)
    (hl : (s.getCtx (ctxKey core slot)).latch = false) (ht : w.since + 4096 ≤ s.cycle) :
    exec (.wfeTimeout core slot) s = .next (s.modCtx (ctxKey core slot) (fun c => { c with latch := true })) := by
  have hdue : s.wfeDue (s.getCtx (ctxKey core slot)) = true := by simp [State.wfeDue, hw, hk, hl, ht]
  exact congrArg _ (if_pos hdue)

theorem execDealerPark_due {s : State} {core slot : Nat} (h : s.mayPark core slot = true) : exec (.dealerPark core slot) s = .next
    (s.modCtx (ctxKey core slot) (fun c => { c with slot := if slot = 0 || c.wait.isSome || c.stoppedOut then .parkedWaiting else .parkedReady })) :=
  congrArg _ (if_pos h)

/-- An S context with nothing to do is parked (R116). -/
theorem State.mayPark_idle {s : State} {core : Nat} (hs : (s.getCtx (ctxKey core 0)).slot = .issuing) (hm : (s.getCtx (ctxKey core 0)).midway = false)
    (hp : (s.getCtx (ctxKey core 0)).plan = none) (hb : (s.getCtx (ctxKey core 0)).cr.sstat.getLsbD 16 = false)
    (hw : (s.getCore core).supWork = false) : s.mayPark core 0 = true := by
  have hidle : s.idleS core = true := by rw [State.idleS, hb, hw]; rfl
  simp [State.mayPark, hs, hm, hp, hidle]

theorem execDealerWake_due {s : State} {core slot : Nat} (hheld : s.held core < 4) (hl : s.lowestReady core = some slot) :
    exec (.dealerWake core slot) s = .next
      ((s.modCore core Claims.unpausedCore).modCtx (ctxKey core slot) (fun c => { c with slot := .waking (s.cycle + 64) })) :=
  congrArg _ (if_pos ⟨hheld, hl⟩)

theorem execWakeDone_due {s : State} {core slot d : Nat} (hs : (s.getCtx (ctxKey core slot)).slot = .waking d) (hd : d ≤ s.cycle) :
    exec (.wakeDone core slot) s = .next (s.modCtx (ctxKey core slot) (fun c => { c with slot := .issuing, held := s.cycle })) := by
  have hawake : s.awake (s.getCtx (ctxKey core slot)) = true := by simp [State.awake, hs, hd]
  exact congrArg _ (if_pos hawake)

theorem execQueuedTrapEntry_due {s : State} {core slot : Nat} {e : TrapEntry} (hq : s.queuedTrap core = some slot)
    (he : (s.getCtx (ctxKey core slot)).trapped = some e) : exec (.queuedTrapEntry core) s = .next
      ((s.modCtx (ctxKey core slot) (fun c => { c with trapped := none, inTrap := true })).enterS core slot e) := by
  change execQueuedTrapEntry core s = _
  simp only [execQueuedTrapEntry, hq, he]

/-! ### Yield requests (R172, R348) -/

section
variable {s : State} {core slot : Nat} (hlive : (s.getCtx (ctxKey core slot)).live = true) (hmode : (s.getCtx (ctxKey core slot)).mode = .user)
include hlive hmode

theorem execYieldRequest_user : exec (.yieldRequest core slot) s =
    let t := s.askCtx (ctxKey core slot)
    .next (if !(t.getCtx (ctxKey core slot)).yieldsNow then t
      else if (s.getCtx (ctxKey core slot)).firing.isSome then t.squash core slot else t.saveFull core slot) := by
  change execYieldRequest core slot s = _
  simp [execYieldRequest, hlive, hmode]

omit hmode in
/-- A request that is none yet stays pending from now on. -/
theorem State.askCtx_new (hreq : (s.getCtx (ctxKey core slot)).yieldReq = none) :
    s.askCtx (ctxKey core slot) = s.modCtx (ctxKey core slot) (fun c => { c with yieldReq := some s.cycle }) := by
  simp [State.askCtx, hlive, hreq, State.modCtx]

omit hlive hmode in
/-- A request that is pending stays as it is. -/
theorem State.askCtx_pending (hreq : (s.getCtx (ctxKey core slot)).yieldReq.isSome = true) : s.askCtx (ctxKey core slot) = s := by
  cases h : (s.getCtx (ctxKey core slot)).yieldReq <;> simp_all [State.askCtx]

/-- A request that nothing takes yet. -/
theorem execYieldRequest_asks (hreq : (s.getCtx (ctxKey core slot)).yieldReq = none) (hf : (s.getCtx (ctxKey core slot)).firing = none)
    (hw : (s.getCtx (ctxKey core slot)).wait = none) (ht : (s.getCtx (ctxKey core slot)).trapped = none) :
    exec (.yieldRequest core slot) s = .next (s.modCtx (ctxKey core slot) (fun c => { c with yieldReq := some s.cycle })) := by
  simp [execYieldRequest_user hlive hmode, State.askCtx_new hlive hreq, Context.yieldsNow, hf, hw, ht]

/-- A request of a firing squashes it. -/
theorem execYieldRequest_firing (hreq : (s.getCtx (ctxKey core slot)).yieldReq = none) (hf : (s.getCtx (ctxKey core slot)).firing.isSome = true) :
    exec (.yieldRequest core slot) s = .next ((s.modCtx (ctxKey core slot) (fun c => { c with yieldReq := some s.cycle })).squash core slot) := by
  simp [execYieldRequest_user hlive hmode, State.askCtx_new hlive hreq, Context.yieldsNow, hf]

section
variable (hreq : (s.getCtx (ctxKey core slot)).yieldReq.isSome = true)
include hreq

theorem execYieldRequest_pendingFiring (hf : (s.getCtx (ctxKey core slot)).firing.isSome = true) :
    exec (.yieldRequest core slot) s = .next (s.squash core slot) := by
  simp [execYieldRequest_user hlive hmode, State.askCtx_pending hreq, Context.yieldsNow, hreq, hf]

theorem execYieldRequest_pendingWait (hf : (s.getCtx (ctxKey core slot)).firing = none)
    (hstands : (∃ w, (s.getCtx (ctxKey core slot)).wait = some w ∧ w.kind.yields = true) ∨ (s.getCtx (ctxKey core slot)).trapped.isSome = true) :
    exec (.yieldRequest core slot) s = .next (s.saveFull core slot) := by
  have hnow : (s.getCtx (ctxKey core slot)).yieldsNow = true := by
    obtain ⟨w, hw, hy⟩ | ht := hstands
    · simp [Context.yieldsNow, hreq, hw, hy]
    · simp [Context.yieldsNow, hreq, ht]
  simp [execYieldRequest_user hlive hmode, State.askCtx_pending hreq, hnow, hf]

omit hmode in
theorem execFiringSquash_due (hf : (s.getCtx (ctxKey core slot)).firing.isSome = true) (hm : (s.getCtx (ctxKey core slot)).midway = false) :
    exec (.firingSquash core slot) s = .next (s.squash core slot) :=
  congrArg _ (if_pos (by simp [hlive, hf, hreq, hm]))

end

theorem execPreemptTimeout_due {t : Nat} (hreq : (s.getCtx (ctxKey core slot)).yieldReq = some t) (ht : t + 20000 ≤ s.cycle) :
    exec (.preemptTimeout core slot) s = .next (s.saveFull core slot) :=
  if_pos (by simp [hlive, hmode, State.overdue, hreq, ht])

end

/-- A request of a yield changes contexts alone. -/
@[simp] theorem State.cores_askCtx (s : State) (k : Nat) : (s.askCtx k).cores = s.cores := by
  simp [State.askCtx, apply_ite State.cores]
@[simp] theorem State.cores_requestYield (s : State) (rcb core : Nat) : (s.requestYield rcb core).cores = s.cores :=
  foldl_keeps State.cores (fun t k => t.cores_askCtx (ctxKey core k)) _ s

/-- After its time slice a region's contexts are asked to yield, and the next region of its priority is due (R122). -/
theorem execTimeSliceEnd_due {s : State} {core q : Nat} (hover : s.sliceOver core = true) (hq : (s.getCore core).serving = some q) :
    exec (.timeSliceEnd core) s = .next ((s.requestYield q core).modCore core (fun c => { c with rr := q + 1, slice := s.cycle })) := by
  have hserving : ((s.requestYield q core).getCore core).serving = some q := by rw [State.getCore, State.cores_requestYield]; exact hq
  change execTimeSliceEnd core s = _
  simp [execTimeSliceEnd, hover, hq, State.modCore, hserving]

end Sys2Proof.Machine

namespace Sys2Proof.Claims
open Sys2Proof.Machine

/-- Settles O58. -/
theorem resetState : Obligations.ResetState := by
  unfold Obligations.ResetState
  refine ⟨fun k => ⟨rfl, rfl, fun r => Context.reset_registers _ r⟩, fun core slot hlo hhi => ?_, fun core => ?_, fun _ => rfl, rfl, rfl, rfl, rfl, rfl, rfl, rfl, rfl⟩
  · have hslot : (64 * core + slot) % 64 ≠ 0 := by omega
    rw [State.getCtx_reset, defaultCtx, if_neg hslot]
    exact ⟨rfl, rfl⟩
  · have hslot : 64 * core % 64 = 0 := by omega
    rw [State.getCtx_reset, defaultCtx, if_pos hslot]
    exact ⟨rfl, rfl, rfl, rfl⟩

/-- Settles O47, step by step. -/
theorem dealerStepsForRunningContexts : Obligations.DealerStepsForRunningContexts := by
  unfold Obligations.DealerStepsForRunningContexts
  intro s core slot
  refine ⟨fun w hw hk hl ht => execWfeTimeout_due hw hk hl ht, execDealerPark_due, ?_, execDealerWake_due, fun d hs hd => execWakeDone_due hs hd,
    fun e hq he => execQueuedTrapEntry_due hq he, fun hlive hmode hreq => ⟨execYieldRequest_asks hlive hmode hreq, execYieldRequest_firing hlive hmode hreq⟩,
    fun hlive hmode hreq => ⟨fun hf => ⟨execFiringSquash_due hlive hreq hf, execYieldRequest_pendingFiring hlive hmode hreq hf⟩,
      execYieldRequest_pendingWait hlive hmode hreq, fun t ht hover => execPreemptTimeout_due hlive hmode ht hover⟩, rfl,
    fun q hover hq => execTimeSliceEnd_due hover hq⟩
  rintro rfl hs hm hp hb hw
  exact State.mayPark_idle hs hm hp hb hw

end Sys2Proof.Claims
end

section
/-! What the operations of memory leave of the contexts (spec 10 R210 to R231; 22 R386 to R397): accesses move logical times and no register; translations, walks and loads follow. -/

namespace Sys2Proof.Machine
open Sys2Proof.Claims

/-! ### Which instruction runs, and in which contexts -/

/-- The running context's key, its group, and every context. -/
def State.control (s : State) : Nat × Group × List (Nat × Context) := (s.cur, s.grp, s.ctxs)

/-! ### Lines and their copies (R211, R389 to R394) -/

theorem State.control_leases (s : State) (l : List (Nat × (Nat × Nat))) : { s with leases := l }.control = s.control := rfl

@[simp] theorem State.control_modDom (s : State) (f : Domain → Domain) : (s.modDom f).control = s.control := rfl
@[simp] theorem State.control_setCopy (s : State) (pkg line : Nat) (c : Option CopyState) : (s.setCopy pkg line c).control = s.control := rfl
@[simp] theorem State.control_setX (s : State) (line : Nat) (b : Bool) : (s.setX line b).control = s.control := rfl
@[simp] theorem State.control_setD (s : State) (line : Nat) (b : Bool) : (s.setD line b).control = s.control := rfl
@[simp] theorem State.control_setDir (s : State) (line : Nat) (st : DirState) (o : Nat) (l : List Nat) : (s.setDir line st o l).control = s.control := rfl
@[simp] theorem State.control_freeDir (s : State) (line : Nat) : (s.freeDir line).control = s.control := rfl

@[simp] theorem State.control_settle (s : State) (line : Nat) : (s.settle line).control = s.control := by
  unfold State.settle
  split
  · rfl
  · split
    · rfl
    · split <;> rfl
@[simp] theorem State.control_dropBehind (s : State) (line : Nat) : (s.dropBehind line).control = s.control := by
  unfold State.dropBehind
  split
  · rfl
  · split <;> rfl
@[simp] theorem State.control_trimSlice (s : State) (line : Nat) : (s.trimSlice line).control = s.control := by
  unfold State.trimSlice
  dsimp only
  split
  · rfl
  · split
    · rfl
    · exact State.control_dropBehind _ _
@[simp] theorem State.control_storeLine (s : State) (pa n v : Nat) (p wt : Bool) : (s.storeLine pa n v p wt).control = s.control := by
  have hsettle := s.control_settle (lineOf pa)
  unfold State.storeLine
  dsimp only
  split
  · exact hsettle
  · split
    · exact hsettle
    · exact (State.control_trimSlice _ _).trans hsettle
@[simp] theorem State.control_maybeWriteBack (s : State) (line : Nat) : (s.maybeWriteBack line).control = s.control := by
  unfold State.maybeWriteBack
  split
  · rfl
  · split
    · rfl
    · split <;> rfl
@[simp] theorem State.control_rekey (s : State) (line key : Nat) : (s.rekey line key).control = s.control := by
  unfold State.rekey; split <;> rfl

@[simp] theorem State.control_raiseRH (s : State) (pkg line : Nat) : (s.raiseRH pkg line).control = s.control := by
  unfold State.raiseRH; split <;> rfl
@[simp] theorem State.control_giveUp (s : State) (line pkg : Nat) : (s.giveUp line pkg).control = s.control := by
  unfold State.giveUp; split <;> simp
@[simp] theorem State.control_arrive (s : State) (line : Nat) (d : VReg) (p : Bool) : (s.arrive line d p).control = s.control := by
  exact (State.control_leases (s.storeLine (64 * line) 64 d.toNat p false) _).trans (s.control_storeLine _ _ _ _ _)
@[simp] theorem State.control_arriveFree (s : State) (line : Nat) : (s.arriveFree line).control = s.control := by
  unfold State.arriveFree; exact State.control_arrive _ _ _ _
@[simp] theorem State.control_receive (s : State) (line pkg : Nat) : (s.receive line pkg).control = s.control := by
  unfold State.receive
  split
  · rw [State.control_modDom]; split <;> simp
  · rfl
@[simp] theorem State.control_writtenHome (s : State) (line : Nat) (d : Bool) : (s.writtenHome line d).control = s.control := by
  simp [State.writtenHome, apply_ite State.control]
@[simp] theorem State.control_wrote (s : State) (line o : Nat) : (s.wrote line o).2.control = s.control := by
  unfold State.wrote; split <;> rfl
@[simp] theorem State.control_ownerDirty (s : State) (line : Nat) (e : DirEntry) : (s.ownerDirty line e).2.control = s.control := by
  unfold State.ownerDirty; split <;> simp
theorem State.control_giveUpAll (s : State) (line : Nat) (l : List Nat) : (l.foldl (fun (t : State) p => t.giveUp line p) s).control = s.control :=
  foldl_keeps State.control (fun t p => t.control_giveUp line p) l s
@[simp] theorem State.control_recallLine (s : State) (line : Nat) (e : DirEntry) : (s.recallLine line e).control = s.control := by
  simp [State.recallLine, State.control_giveUpAll, apply_ite State.control]
@[simp] theorem State.control_makeRoom (s : State) (line : Nat) : (s.makeRoom line).control = s.control := by
  unfold State.makeRoom; split <;> simp
@[simp] theorem State.control_grantFromHome (s : State) (line r : Nat) (st : DirState) : (s.grantFromHome line r st).control = s.control := by
  simp [State.grantFromHome]
@[simp] theorem State.control_getS (s : State) (line r : Nat) : (s.getS line r).control = s.control := by
  unfold State.getS
  dsimp only
  split
  · split <;> simp
  · split
    · rfl
    · split
      · split <;> simp
      · split
        · rfl
        · split
          case h_2 => split <;> simp
          all_goals simp
@[simp] theorem State.control_getM (s : State) (line r : Nat) : (s.getM line r).control = s.control := by
  unfold State.getM
  dsimp only
  split
  · split <;> simp
  · split
    · simp
    · split
      · split <;> simp [State.control_giveUpAll]
      · split
        · rfl
        · split <;> simp [State.control_giveUpAll]
@[simp] theorem State.control_fill (s : State) (line : Nat) (w : Bool) : (s.fill line w).control = s.control := by
  simp [State.fill, apply_ite State.control]

@[simp] theorem State.control_frameFirst (s : State) (pa : Nat) : (s.frameFirst pa).control = s.control := by
  unfold State.frameFirst
  split
  · split <;> rfl
  · rfl
@[simp] theorem State.control_observe (s : State) (k line : Nat) : (s.observe k line).control = s.control := by
  unfold State.observe State.observeBy; split <;> rfl
@[simp] theorem State.control_raiseAgent (s : State) (ag t : Nat) : (s.raiseAgent ag t).control = s.control := by
  unfold State.raiseAgent; split <;> rfl
@[simp] theorem State.control_modRegion (s : State) (rcb : Nat) (f : Region → Region) : (s.modRegion rcb f).control = s.control := by
  unfold State.modRegion; split <;> rfl
@[simp] theorem State.control_fillL1 (s : State) (core : Nat) (x : L1Copy) : (s.fillL1 core x).control = s.control := by
  unfold State.fillL1; dsimp only; split <;> rfl
@[simp] theorem State.control_trimTlb (s : State) (h : TlbHolder) (cap : Nat) : (s.trimTlb h cap).control = s.control := by
  unfold State.trimTlb
  dsimp only
  split
  · rfl
  · split <;> rfl
@[simp] theorem State.control_cacheLeaf (s : State) (core : Nat) (sp : Space) (va leaf : Dword) (lvl : Nat) :
    (s.cacheLeaf core sp va leaf lvl).control = s.control := by
  unfold State.cacheLeaf
  dsimp only
  rw [State.control_trimTlb, State.control_trimTlb, State.control_trimTlb]
  rfl
@[simp] theorem State.control_uncache (s : State) (core : Nat) (sp : Space) (va : Dword) : (s.uncache core sp va).control = s.control := rfl
@[simp] theorem State.control_noteAffine (s : State) (b n : Nat) (a : Bool) : (s.noteAffine b n a).control = s.control := by
  unfold State.noteAffine
  split
  · rfl
  · split <;> rfl

/-! ### Logical times (R221, R227) -/

theorem SameRegisters.refl (c : Context) : SameRegisters c c := rfl
theorem SameRegisters.trans {c d e : Context} (h : SameRegisters c d) (h' : SameRegisters d e) : SameRegisters c e :=
  (congrArg (timesOf c) h' : timesOf c (timesOf d e) = timesOf c d).trans h

/-- The same instruction runs, and of every context at most the logical times have changed. -/
def State.Undisturbed (s u : State) : Prop := u.cur = s.cur ∧ u.grp = s.grp ∧ ∀ j, SameRegisters (s.getCtx j) (u.getCtx j)

theorem State.Undisturbed.of_control {s u : State} (h : u.control = s.control) : s.Undisturbed u := by
  have hctxs : u.ctxs = s.ctxs := congrArg (fun x => x.2.2) h
  refine ⟨congrArg (fun x => x.1) h, congrArg (fun x => x.2.1) h, fun j => ?_⟩
  unfold State.getCtx
  rw [hctxs]
  exact SameRegisters.refl _
theorem State.Undisturbed.refl (s : State) : s.Undisturbed s := .of_control rfl
theorem State.Undisturbed.trans {s t u : State} (h : s.Undisturbed t) (h' : t.Undisturbed u) : s.Undisturbed u :=
  ⟨h'.1.trans h.1, h'.2.1.trans h.2.1, fun j => SameRegisters.trans (h.2.2 j) (h'.2.2 j)⟩
theorem State.Undisturbed.then_control {s t u : State} (h : s.Undisturbed t) (h' : u.control = t.control) : s.Undisturbed u := h.trans (.of_control h')
theorem State.Undisturbed.cx {s u : State} (h : s.Undisturbed u) : SameRegisters s.cx u.cx := by
  rw [State.cx, State.cx, h.1]
  exact h.2.2 s.cur

/-- A fold of operations that leave the contexts leaves them. -/
theorem State.undisturbed_foldl {β : Type} {f : State → β → State} (h : ∀ (t : State) b, t.Undisturbed (f t b)) (l : List β) (s : State) :
    s.Undisturbed (l.foldl f s) :=
  List.foldlRecOn l f (motive := fun t => s.Undisturbed t) (.refl s) (fun t ht b _ => ht.trans (h t b))

/-- A change of one context's logical times leaves the contexts. -/
theorem State.undisturbed_modCtx (s : State) (k : Nat) (f : Context → Context) (h : ∀ c, SameRegisters c (f c)) : s.Undisturbed (s.modCtx k f) := by
  refine ⟨rfl, rfl, fun j => ?_⟩
  by_cases hj : j = k
  · subst hj; rw [State.getCtx_modCtx_self]; exact h _
  · rw [State.getCtx_modCtx_ne s k j f hj]; exact SameRegisters.refl _

theorem State.undisturbed_raiseTime (s : State) (a : Agent) (t : Nat) : s.Undisturbed (s.raiseTime a t) := by
  cases a with
  | hw n => exact .of_control (s.control_raiseAgent n t)
  | ctx k =>
    rw [State.raiseTime]
    split
    · exact .refl s
    · exact s.undisturbed_modCtx k _ fun _ => rfl
  | since _ => exact .refl s

theorem State.undisturbed_noteTime (s : State) (ctx : Nat) (inc : BitVec 12) (rcb t : Nat) : s.Undisturbed (s.noteTime ctx inc rcb t) := by
  refine (s.undisturbed_modCtx ctx _ fun c => ?_).then_control (State.control_modRegion _ rcb _)
  split <;> rfl

/-! ### Writes of engines take their places (R227) -/

theorem State.undisturbed_placeWrite (s : State) (e : Early) : s.Undisturbed (s.placeWrite e) := by
  have hline (t : State) (a n v : Nat) (p wt : Bool) (l : List (Nat × (Nat × Nat))) (co : List (Nat × Core)) :
      { t.storeLine a n v p wt with leases := l, cores := co }.control = t.control := t.control_storeLine a n v p wt
  unfold State.placeWrite
  refine .trans (.of_control ?_) (State.undisturbed_noteTime _ e.ctx e.inc e.rcb _)
  rw [hline]
  simp

theorem State.undisturbed_placeThose (s : State) (pick : Early → Bool) : s.Undisturbed (s.placeThose pick) :=
  .trans (.of_control rfl) (State.undisturbed_foldl State.undisturbed_placeWrite _ _)
theorem State.undisturbed_placeFor (s : State) (core line : Nat) : s.Undisturbed (s.placeFor core line) := by
  unfold State.placeFor
  split
  · exact .refl s
  · exact s.undisturbed_placeThose _
theorem State.undisturbed_placeSeen (s : State) (k line : Nat) : s.Undisturbed (s.placeSeen k line) := by
  unfold State.placeSeen
  split
  · exact .refl s
  · exact s.undisturbed_placeThose _
theorem State.undisturbed_placeAgent (s : State) (a : Agent) (line : Nat) : s.Undisturbed (s.placeAgent a line) := by
  cases a with
  | hw n => exact s.undisturbed_placeFor n line
  | ctx k => exact s.undisturbed_placeSeen k line
  | since _ => exact .refl s
theorem State.undisturbed_placeOverdue (s : State) (line : Nat) : s.Undisturbed (s.placeOverdue line) := s.undisturbed_placeThose _

/-! ### Translation (R216 to R220) -/

theorem State.undisturbed_walkLoad (s : State) (ag : Agent) (pa : Nat) : s.Undisturbed (s.walkLoad ag pa).2 := by
  unfold State.walkLoad
  dsimp only
  split
  · exact .of_control rfl
  · have hplaced := (s.undisturbed_placeAgent ag (lineOf pa)).then_control
      ((State.control_settle _ (lineOf pa)).trans (State.control_fill _ (lineOf pa) false))
    exact (hplaced.trans (State.undisturbed_raiseTime _ ag _)).then_control (State.control_leases _ _)

theorem State.undisturbed_walkFrom (ag : Agent) (asid : Nat) (va : Dword) (left : Nat) (s : State) (table : Nat) :
    s.Undisturbed (s.walkFrom ag asid va left table).2 := by
  induction left generalizing s table with
  | zero => exact .refl s
  | succ left ih =>
    have hload := s.undisturbed_walkLoad ag (table + 8 * walkIndex (3 - left) va)
    unfold State.walkFrom
    dsimp only
    split
    · exact hload
    · split
      · split
        · exact hload
        · exact hload.trans (ih _ _)
      · split <;> exact hload

theorem State.undisturbed_walk (s : State) (ag : Agent) (sp : Space) (va : Dword) : s.Undisturbed (s.walk ag sp va).2 := by
  unfold State.walk
  split
  · exact .refl s
  · exact State.undisturbed_walkFrom ag sp.asid.toNat va 4 s _

theorem State.Undisturbed.cacheLeaf {s t : State} (h : s.Undisturbed t) (core : Nat) (sp : Space) (va leaf : Dword) (lvl : Nat) :
    s.Undisturbed (t.cacheLeaf core sp va leaf lvl) := h.then_control (t.control_cacheLeaf core sp va leaf lvl)

theorem State.undisturbed_leafFor (s : State) (ag : Agent) (core : Nat) (sp : Space) (va : Dword) : s.Undisturbed (s.leafFor ag core sp va).2 := by
  have hwalk := s.undisturbed_walk ag sp va
  unfold State.leafFor
  generalize s.walk ag sp va = w at hwalk ⊢
  have hdrawn (n : Nat) : s.Undisturbed { w.2 with fresh := n } := hwalk.then_control rfl
  dsimp only
  split
  · exact .of_control rfl
  · split
    · exact .of_control rfl
    · split
      · dsimp only
        exact .cacheLeaf (hdrawn _) ..
      · exact hdrawn _

/-- Translating an address changes no register of any context. -/
theorem State.undisturbed_translateLeaf (s : State) (ag : Agent) (core : Nat) (sp : Space) (va : Dword) (acc : Access) (n : Nat) :
    s.Undisturbed (s.translateLeaf ag core sp va acc n).2 := by
  have hleaf := s.undisturbed_leafFor ag core sp va
  unfold State.translateLeaf
  dsimp only
  split
  · exact .refl s
  · split
    · exact .refl s
    · split
      · split <;> exact .refl s
      · split
        · exact hleaf.then_control (State.control_uncache ..)
        · split
          · exact hleaf.then_control (State.control_uncache ..)
          · exact hleaf.then_control (State.control_noteAffine ..)

theorem State.undisturbed_translate {s u : State} {ag : Agent} {core : Nat} {sp : Space} {va : Dword} {acc : Access} {n : Nat} {r : Except Byte Place}
    (h : s.translate ag core sp va acc n = (r, u)) : s.Undisturbed u := by
  have hu : u = (s.translateLeaf ag core sp va acc n).2 := (congrArg Prod.snd h).symm
  rw [hu]
  exact s.undisturbed_translateLeaf ..

theorem Reaches.undisturbed {s u : State} {va : Dword} {acc : Access} {n : Nat} {p : Place} (h : Reaches s va acc n p u) : s.Undisturbed u :=
  State.undisturbed_translate h.1

end Sys2Proof.Machine
end

section
/-! The traps of scalar loads and stores (spec 01 R19; 04 R76, R81, R82; 07 R152, R172), check after check, and the settling of O15. -/

namespace Sys2Proof.Machine
open Sys2Proof.Claims

/-! ### Stops of an attempt that has used translations -/

/-- A stop that is no PAGE of a firing in user mode is the trap that it says. -/
theorem State.stop_trap {v : State} {c : Byte} {va : Dword} (h : c ≠ cPAGE ∨ v.cx.firing = none ∨ v.cx.mode = .super) :
    v.stop (.trap c va) = v.trapNow c va := by
  refine if_neg ?_
  rintro ⟨hp, hf, hu⟩
  obtain h | h | h := h
  · exact h hp
  · rw [h] at hf; exact absurd hf (by decide)
  · rw [h] at hu; exact absurd hu (by decide)

section
variable {i : Instr} {s u : State} {m : Exec Unit} {c : Byte} {va : Dword} (he : exec i s = finish m s)
include he

omit he in
/-- A stop at `v` that is no PAGE of a firing is the trap once the units owe nothing. -/
theorem stopsWith_trapNow {v : State} (hstop : exec i s = .next (v.trapNow c va)) (hc : c ≠ cPOISON) :
    StopsWith i s v (v.takeTrap v.cur c va v.grp.first (pfxOf v.grp)) :=
  ⟨fun h => hstop.trans (congrArg _ (State.trapNow_takes h hc)), fun h hw => hstop.trans (congrArg _ (State.trapNow_waits h hw))⟩

theorem trapsAfter_of_error (hm : m s = (.error (.trap c va), u)) (hc : c ≠ cPOISON)
    (hpage : c ≠ cPAGE ∨ (s.undone u).cx.firing = none ∨ (s.undone u).cx.mode = .super) : TrapsAfter i s u c va := by
  exact stopsWith_trapNow ((he.trans (finish_error m s u _ hm)).trans (congrArg _ (State.stop_trap hpage))) hc

theorem poisonTrapAfter_of_error (hm : m s = (.error (.trap cPOISON va), u)) : PoisonTrapAfter i s u := by
  have hstop : exec i s = .next ((s.undone u).trapNow cPOISON va) :=
    (he.trans (finish_error m s u _ hm)).trans (congrArg _ (State.stop_trap (.inl (by decide))))
  refine ⟨fun h => hstop.trans (congrArg _ ?_), fun h hw => hstop.trans (congrArg _ (State.trapNow_waits h hw))⟩
  simp [State.trapNow, h, Context.chk]

/-- A cause that a translation meets; a PAGE of a firing squashes it before the S context is told (R172). -/
theorem translationTrap_of_error (hm : m s = (.error (.trap c va), u)) (hc : c ≠ cPOISON) : TranslationTrap i s u c va := by
  refine ⟨trapsAfter_of_error he hm hc, fun hp hf hu => ?_⟩
  have hstop : exec i s = .next (((s.undone u).squash (s.undone u).coreNum (s.undone u).slotNum).trapToS (s.undone u).cur
      ((s.undone u).cx.trapEntry c va (s.undone u).grp.first (pfxOf (s.undone u).grp))) :=
    (he.trans (finish_error m s u _ hm)).trans (congrArg _ (if_pos ⟨hp, hf, hu⟩))
  exact ⟨fun hfree => hstop.trans (congrArg _ (State.trapToS_enters ((State.takesTrap_iff _ _).2 hfree))),
    fun hbusy => hstop.trans (congrArg _ (State.trapToS_waits (Bool.eq_false_iff.2 fun h => hbusy ((State.takesTrap_iff _ _).1 h))))⟩

end

/-! ### Checks of a scalar access -/

section
variable {s u : State} {ea : Dword} {z : Size} {bad zx : Bool} {r : Reg} {p : Place} {c : Byte}

/-- A store is inside the permitted areas of a firing as long as it is the same firing. -/
theorem timedOk_congr {c d : Context} (h : SameRegisters c d) (va : Dword) (n : Nat) : timedOk d va n = timedOk c va n := by
  have hf : d.firing = c.firing := (congrArg Context.firing h :)
  rw [timedOk, timedOk, hf]

theorem loadScalar_unaligned (ha : ea.toNat % z.bytes ≠ 0) : loadScalar r ea z zx bad s = (.error (.trap cALIGN ea), s) := by
  simp [loadScalar, ha]
theorem storeScalar_unaligned (ha : ea.toNat % z.bytes ≠ 0) : storeScalar r ea z bad s = (.error (.trap cALIGN ea), s) := by
  simp [storeScalar, ha]

variable (ha : ea.toNat % z.bytes = 0)
include ha

theorem loadScalar_unmapped (ht : s.translate (.ctx s.cur) s.coreNum s.cx.space ea .load z.bytes = (.error c, u)) :
    loadScalar r ea z zx bad s = (.error (.trap c ea), u) := by
  simp [loadScalar, ha, translateT_error ht]
theorem storeScalar_unmapped (ht : s.translate (.ctx s.cur) s.coreNum s.cx.space ea .store z.bytes = (.error c, u)) :
    storeScalar r ea z bad s = (.error (.trap c ea), u) := by
  simp [storeScalar, ha, translateT_error ht]

theorem loadScalar_poisoned (hr : Reaches s ea .load z.bytes p u) : loadScalar r ea z zx true s = (.error (.trap cPOISON 0), u) := by
  simp [loadScalar, ha, translateT_ok hr]

theorem storeScalar_untimed (hr : Reaches s ea .store z.bytes p u) (ht : timedOk s.cx ea z.bytes = false) :
    storeScalar r ea z bad s = (.error (.trap cTIMEDWR ea), u) := by
  have ht' : timedOk u.cx ea z.bytes = false := (timedOk_congr hr.undisturbed.cx ..).trans ht
  simp [storeScalar, ha, translateT_ok hr, guardTimed_trap ht']
theorem storeScalar_poisoned (hr : Reaches s ea .store z.bytes p u) (ht : timedOk s.cx ea z.bytes = true) :
    storeScalar r ea z true s = (.error (.trap cPOISON 0), u) := by
  have ht' : timedOk u.cx ea z.bytes = true := (timedOk_congr hr.undisturbed.cx ..).trans ht
  simp [storeScalar, ha, translateT_ok hr, guardTimed_ok ht']

end

/-- The scalar loads and stores are the computations of their forms (R81). -/
theorem exec_scalarLoad {i : Instr} {d : Reg} {z : Size} {zx : Bool} {ea : Context → Dword} {bad : Context → Bool}
    (h : scalarLoad i = some (d, z, zx, ea, bad)) (s : State) : exec i s = finish (loadScalar d (ea s.cx) z zx (bad s.cx)) s := by
  unfold scalarLoad at h
  split at h <;> cases h <;> rfl
theorem exec_scalarStore {i : Instr} {b : Reg} {z : Size} {ea : Context → Dword} {bad : Context → Bool}
    (h : scalarStore i = some (b, z, ea, bad)) (s : State) : exec i s = finish (storeScalar b (ea s.cx) z (bad s.cx)) s := by
  unfold scalarStore at h
  split at h <;> cases h <;> rfl

end Sys2Proof.Machine

namespace Sys2Proof.Claims
open Sys2Proof.Machine

/-- Settles O15, check after check. -/
theorem loadAndStoreTrapsInOrder : Obligations.LoadAndStoreTrapsInOrder := by
  unfold Obligations.LoadAndStoreTrapsInOrder
  refine ⟨fun i d z zx ea bad hi s => ?_, fun i b z ea bad hi s => ?_⟩
  · have he := exec_scalarLoad hi s
    refine ⟨fun ha => traps_of_error he (loadScalar_unaligned ha) (by decide) (by decide),
      fun c u ha ht hc => translationTrap_of_error he (loadScalar_unmapped ha ht) hc, fun p u ha hr hbad => ?_⟩
    rw [hbad] at he
    exact poisonTrapAfter_of_error he (loadScalar_poisoned ha hr)
  · have he := exec_scalarStore hi s
    refine ⟨fun ha => traps_of_error he (storeScalar_unaligned ha) (by decide) (by decide),
      fun c u ha ht hc => translationTrap_of_error he (storeScalar_unmapped ha ht) hc,
      fun p u ha hr => ⟨fun ht => trapsAfter_of_error he (storeScalar_untimed ha hr ht) (by decide) (.inl (by decide)), fun ht hbad => ?_⟩⟩
    rw [hbad] at he
    exact poisonTrapAfter_of_error he (storeScalar_poisoned ha hr ht)

end Sys2Proof.Claims
end

section
/-! `cinval` and `tlbinv` (spec 11 R241, R243, R244): what a coherent store leaves of the contexts and of its line, and the settling of O22. -/

namespace Sys2Proof.Machine
open Sys2Proof.Claims

/-! ### One operation of a computation at a time -/

theorem Exec.bind_ok {α β : Type} {m : Exec α} {s t : State} {a : α} (h : m s = (.ok a, t)) (f : α → Exec β) : (m >>= f) s = f a t := by
  rw [Exec.bind_run, h, Exec.andThen_ok]
theorem Exec.bind_error {α β : Type} {m : Exec α} {s t : State} {e : Stop} (h : m s = (.error e, t)) (f : α → Exec β) : (m >>= f) s = (.error e, t) := by
  rw [Exec.bind_run, h, Exec.andThen_error]

/-! ### Instructions that end after accesses -/

/-- What is kept of a context is kept of one with the same registers, but for the logical times. -/
theorem Context.Keeps.of_sameRegisters {c d e : Context} {ss vs : List Reg} {ps : List PReg} (h : SameRegisters c d) (hk : d.Keeps e ss vs ps) :
    c.Keeps (timesOf c e) ss vs ps := by
  obtain ⟨hs, hv, hp, hrest⟩ := hk
  have hread {α : Type} (f : Context → α) (hf : ∀ x, f (timesOf c x) = f x) : f d = f c := (hf d).symm.trans (congrArg f h)
  refine ⟨fun r hr => ?_, fun r hr => ?_, fun q hq => ?_, ?_⟩
  · obtain ⟨hval, hpois⟩ := hs r hr
    exact ⟨hval.trans (hread (fun x => x.s r) fun _ => rfl), hpois.trans (hread (fun x => x.sp r) fun _ => rfl)⟩
  · obtain ⟨hval, hpois⟩ := hv r fun hm => (hread (fun x => x.portOf r) fun _ => rfl).trans_ne (hr hm)
    exact ⟨hval.trans (hread (fun x => x.v r) fun _ => rfl), hpois.trans (hread (fun x => x.vp r) fun _ => rfl)⟩
  · exact (hp q hq).trans (hread (fun x => x.p q) fun _ => rfl)
  · calc (timesOf c e).rest = timesOf c.rest e.rest := rfl
      _ = timesOf c.rest d.rest := by rw [hrest]
      _ = (timesOf c d).rest := rfl
      _ = c.rest := congrArg Context.rest h

/-- After accesses that have moved logical times alone, an instruction that writes no register goes on. -/
theorem State.Undisturbed.retire {s w : State} (h : s.Undisturbed w) :
    s.cx.Keeps (timesOf s.cx w.retire.cx) [] [] [] ∧ s.Retired s.cx w.retire := by
  obtain ⟨-, hkeeps, hretired⟩ := from_retire w
  refine ⟨hkeeps.of_sameRegisters h.cx, ?_⟩
  have hcr : w.cx.cr = s.cx.cr := (congrArg Context.cr h.cx :)
  have hlast : w.lastWord = s.lastWord := by rw [State.lastWord, State.lastWord, h.2.1]
  rw [State.Retired, ← hlast, ← Context.after_congr _ hcr]
  exact hretired

/-! ### Coherent stores (R221) -/

theorem State.control_remember (s : State) (k line : Nat) : (s.remember k line).control = s.control := rfl
theorem State.control_modCore (s : State) (n : Nat) (f : Core → Core) : (s.modCore n f).control = s.control := rfl
theorem State.lineData_modCore (s : State) (n : Nat) (f : Core → Core) (line : Nat) : (s.modCore n f).lineData line = s.lineData line := rfl
theorem State.lineData_leases (s : State) (l : List (Nat × (Nat × Nat))) (line : Nat) : { s with leases := l }.lineData line = s.lineData line := rfl
theorem State.lineData_dropICache (s : State) (sc : Scope) (l line : Nat) : (s.dropICache sc l).lineData line = s.lineData line := rfl
theorem State.control_dropICache (s : State) (sc : Scope) (line : Nat) : (s.dropICache sc line).control = s.control := rfl

/-- A store of a context as coherent memory has it: in its line, once the line is to be written. -/
def State.coStoreReady (s : State) (k line key : Nat) : State := ((((s.placeOverdue line).placeSeen k line).fill line true).rekey line key).remember k line

theorem State.undisturbed_coStoreReady (s : State) (k line key : Nat) : s.Undisturbed (s.coStoreReady k line key) :=
  ((s.undisturbed_placeOverdue line).trans (State.undisturbed_placeSeen _ k line)).then_control
    ((State.control_rekey _ line key).trans (State.control_fill _ line true))

/-- What a coherent store does once its line is ready: the bytes, at a logical time past the line's leases, in memory and in the core's own copy. -/
theorem State.coStore_eq (s : State) (k pa n v : Nat) (p wt : Bool) (key : Nat) : ∃ t l f,
    s.coStore k pa n v p wt true key =
      ({ ((s.coStoreReady k (lineOf pa) key).modCtx k (fun c => { c with lt := t })).storeLine pa n v p wt with leases := l }).modCore (k / 64) f := by
  unfold State.coStore
  dsimp only
  rw [if_pos rfl]
  exact ⟨_, _, _, rfl⟩

theorem State.undisturbed_coStore (s : State) (k pa n v : Nat) (p wt : Bool) (key : Nat) : s.Undisturbed (s.coStore k pa n v p wt true key) := by
  obtain ⟨t, l, f, heq⟩ := s.coStore_eq k pa n v p wt key
  rw [heq]
  refine .then_control ?_ (State.control_modCore ..)
  refine .then_control ?_ (State.control_leases ..)
  refine .then_control ?_ (State.control_storeLine ..)
  exact (s.undisturbed_coStoreReady k (lineOf pa) key).trans (State.undisturbed_modCtx _ k _ fun _ => rfl)

/-- A line of a write-through store holds what was stored, whatever it held. -/
theorem State.lineData_storeLine (s : State) (line : Nat) (v : VReg) (p : Bool) : (s.storeLine (64 * line) 64 v.toNat p true).lineData line = v := by
  have hmem : (s.storeLine (64 * line) 64 v.toNat p true).mem = (s.settle (lineOf (64 * line))).mem.write (64 * line) 64 v.toNat := rfl
  have hbytes : (256 : Nat) ^ 64 = 2 ^ 512 := by rw [show 512 = 8 * 64 from rfl, Nat.pow_mul]
  rw [State.lineData, hmem, Memory.read_write_same, hbytes, Nat.mod_eq_of_lt v.isLt, BitVec.ofNat_toNat, BitVec.setWidth_eq]

theorem State.lineData_coStore (s : State) (k line : Nat) (v : VReg) (p : Bool) (key : Nat) :
    (s.coStore k (64 * line) 64 v.toNat p true true key).lineData line = v := by
  obtain ⟨t, l, f, heq⟩ := s.coStore_eq k (64 * line) 64 v.toNat p true key
  rw [heq, State.lineData_modCore, State.lineData_leases, State.lineData_storeLine]

/-! ### `cinval` (R241) -/

theorem guardSuper_super {s : State} (hm : s.cx.mode = .super) : guardSuper s = (.ok (), s) := by
  rw [guardSuper, Exec.bind_ok (Exec.get_run s), hm]
  rfl
theorem guardSuper_user {s : State} (hm : s.cx.mode = .user) : guardSuper s = (.error (.trap cPRIV s.wordValue), s) := by
  rw [guardSuper, Exec.bind_ok (Exec.get_run s), hm]
  rfl

/-- A line that takes device memory's content: no newer copy of it is left, in a slice or on a core within scope. -/
def State.invalidated (s : State) (line : Nat) (sc : Scope) : State :=
  let s1 := (s.placeSeen s.cur line).maybeWriteBack line
  (s1.coStore s1.cur (64 * line) 64 (s1.deviceLine line).1.toNat (s1.deviceLine line).2 true true (s1.keyOf line)).dropICache sc line

theorem State.lineData_invalidated (s : State) (line : Nat) (sc : Scope) :
    (s.invalidated line sc).lineData line = (((s.placeSeen s.cur line).maybeWriteBack line).deviceLine line).1 :=
  by unfold State.invalidated; rw [State.lineData_dropICache, State.lineData_coStore]

theorem State.undisturbed_invalidated (s : State) (line : Nat) (sc : Scope) : s.Undisturbed (s.invalidated line sc) := by
  unfold State.invalidated
  refine .then_control ?_ (State.control_dropICache ..)
  refine .trans ?_ (State.undisturbed_coStore ..)
  exact (s.undisturbed_placeSeen s.cur line).then_control (State.control_maybeWriteBack ..)

/-- The computation of `cinval`. -/
def cinvalE (a : Reg) (sc : Scope) : Exec Unit := do
  guardSuper
  let c ← cx
  let p ← translateT (c.s a) .inval 1
  guardTrap (!c.timed) cTIMEDWR (c.s a)
  guardPoison (c.sp a)
  match p with
  | .coherent pa _ _ _ => modify (fun s => s.invalidated (lineOf pa) sc)
  | _ => pure ()
  retireE

theorem exec_cinval (a : Reg) (sc : Scope) (s : State) : exec (.cinval a sc) s = finish (cinvalE a sc) s := rfl

theorem cinvalE_priv {a : Reg} {sc : Scope} {s : State} (hm : s.cx.mode = .user) : cinvalE a sc s = (.error (.trap cPRIV s.wordValue), s) := by
  exact Exec.bind_error (guardSuper_user hm) _

theorem cinvalE_run {a : Reg} {sc : Scope} {s u : State} {pa key : Nat} {l1 wt : Bool} (hm : s.cx.mode = .super)
    (hr : Reaches s (s.cx.s a) .inval 1 (.coherent pa l1 wt key) u) (hf : s.cx.firing = none) (hp : s.cx.sp a = false) :
    cinvalE a sc s = (.ok (), (u.invalidated (lineOf pa) sc).retire) := by
  have htimed : (!s.cx.timed) = true := by rw [Context.timed, hf]; rfl
  rw [cinvalE, Exec.bind_ok (guardSuper_super hm), Exec.bind_ok (cx_run s), Exec.bind_ok (translateT_ok hr), htimed, Exec.bind_ok (guardTrap_true ..),
    hp, Exec.bind_ok (guardPoison_false u)]
  dsimp only
  rw [Exec.bind_ok (Exec.modify_run ..), retireE_run]

/-! ### `tlbinv` (R243, R244) -/

/-- The cached translations that a `tlbinv` of a context on a core drops. -/
def Context.dropped (c : Context) (core : Nat) (k : TlbKind) (a b : Reg) (sc : Scope) (e : TlbEntry) : Bool :=
  e.holder.covered sc core && e.hit k (c.s a) ((c.s b).toNat % 65536)

/-- Whether a register that a kind of `tlbinv` reads is poisoned. -/
def Context.kindPoisoned (c : Context) (k : TlbKind) (a b : Reg) : Bool :=
  match k with
  | .all => false
  | .asid => c.sp b
  | .page => c.sp a || c.sp b
  | .pageAny => c.sp a

/-- The computation of `tlbinv`. -/
def tlbinvE (k : TlbKind) (a b : Reg) (sc : Scope) : Exec Unit := do
  guardSuper
  let c ← cx
  guardPoison (c.kindPoisoned k a b)
  let s ← get
  if s.translationUsed (c.dropped s.coreNum k a b sc) then throw (.wait .translated) else pure ()
  set { s with tlb := s.tlb.filter (fun e => !c.dropped s.coreNum k a b sc e) }
  retireE

theorem exec_tlbinv (k : TlbKind) (a b : Reg) (sc : Scope) (s : State) : exec (.tlbinv k a b sc) s = finish (tlbinvE k a b sc) s := by
  cases k <;> rfl

section
variable {k : TlbKind} {a b : Reg} {sc : Scope} {s : State}

theorem tlbinvE_priv (hm : s.cx.mode = .user) : tlbinvE k a b sc s = (.error (.trap cPRIV s.wordValue), s) := by
  exact Exec.bind_error (guardSuper_user hm) _

/-- In supervisor mode, with no register that its kind reads poisoned, it waits for what has used the translations, and else drops them. -/
theorem tlbinvE_run (hm : s.cx.mode = .super) (ha : k = .page ∨ k = .pageAny → s.cx.sp a = false) (hb : k = .asid ∨ k = .page → s.cx.sp b = false) :
    tlbinvE k a b sc s = if s.translationUsed (s.cx.dropped s.coreNum k a b sc) then (.error (.wait .translated), s)
      else (.ok (), { s with tlb := s.tlb.filter (fun e => !s.cx.dropped s.coreNum k a b sc e) }.retire) := by
  have hpois : s.cx.kindPoisoned k a b = false := by cases k <;> simp_all [Context.kindPoisoned]
  rw [tlbinvE, Exec.bind_ok (guardSuper_super hm), Exec.bind_ok (cx_run s), hpois, Exec.bind_ok (guardPoison_false s), Exec.bind_ok (Exec.get_run s)]
  cases s.translationUsed (s.cx.dropped s.coreNum k a b sc)
  case true => rw [if_pos rfl, if_pos rfl, Exec.bind_error (Exec.throw_run ..)]
  case false =>
    rw [if_neg Bool.false_ne_true, if_neg Bool.false_ne_true]
    exact (Exec.bind_ok (Exec.set_run ..) _).trans (retireE_run _)

end

/-- What `tlbinv` would drop is in use through a cached translation, or by a context that stands among its lanes. -/
theorem State.translationUsed_iff (s : State) (drops : TlbEntry → Bool) : s.translationUsed drops = true ↔
    (∃ e ∈ s.tlb, drops e = true ∧ s.usedByCommand e = true) ∨ ∃ x ∈ s.ctxs, x.2.openLane (x.1 / 64) drops = true := by
  simp [State.translationUsed]

end Sys2Proof.Machine

namespace Sys2Proof.Claims
open Sys2Proof.Machine

/-- Settles O22. -/
theorem supervisorCacheInstructions : Obligations.SupervisorCacheInstructions := by
  unfold Obligations.SupervisorCacheInstructions
  refine ⟨fun a sc s => ⟨fun hm => ?_, fun u pa l1 wt key hm hr hf hp => ?_⟩, fun k a b sc s => ⟨fun hm => ?_, fun hm ha hb => ?_⟩⟩
  · exact traps_of_error (exec_cinval a sc s) (cinvalE_priv hm) (by decide) (by decide)
  · have hsame := hr.undisturbed.trans (u.undisturbed_invalidated (lineOf pa) sc)
    exact ⟨_, (exec_cinval a sc s).trans (finish_ok _ _ _ (cinvalE_run hm hr hf hp)), u.lineData_invalidated (lineOf pa) sc, hsame.retire⟩
  · exact traps_of_error (exec_tlbinv k a b sc s) (tlbinvE_priv hm) (by decide) (by decide)
  · have he := exec_tlbinv k a b sc s
    have hrun := tlbinvE_run (sc := sc) hm ha hb
    have hused := s.translationUsed_iff (s.cx.dropped s.coreNum k a b sc)
    refine ⟨fun hu => waits_of_error he (hrun.trans (if_pos (hused.2 hu))), fun hu => ?_⟩
    refine ⟨_, he.trans (finish_ok _ _ _ (hrun.trans (if_neg fun h => hu (hused.1 h)))), fun e => ?_, from_retire _⟩
    exact List.mem_filter.trans (and_congr_right fun _ => by rw [Bool.not_eq_true']; rfl)

end Sys2Proof.Claims
end

section
/-! SUPPORT. What loads leave of the contexts (spec 05 R112; 10 R208, R221, R228; 21 R363). -/

namespace Sys2Proof.Machine
open Sys2Proof.Claims

/-! ### Loads (R221) -/

theorem State.control_fresh (s : State) (n : Nat) : { s with fresh := n }.control = s.control := rfl

/-- A context's logical time moved. -/
theorem State.undisturbed_lt (s : State) (k t : Nat) : s.Undisturbed (s.modCtx k (fun c => { c with lt := t })) :=
  s.undisturbed_modCtx k _ fun _ => rfl

/-- A coherent load moves logical times alone. -/
theorem State.undisturbed_coLoad (s : State) (k pa : Nat) (l1 : Bool) (key : Nat) : s.Undisturbed (s.coLoad k pa l1 key).2 := by
  have hready : s.Undisturbed ((((s.placeOverdue (lineOf pa)).fill (lineOf pa) false).settle (lineOf pa)).observe k (lineOf pa)) :=
    (s.undisturbed_placeOverdue (lineOf pa)).then_control
      ((State.control_observe _ k _).trans ((State.control_settle _ _).trans (State.control_fill _ _ false)))
  unfold State.coLoad
  dsimp only
  generalize (((s.placeOverdue (lineOf pa)).fill (lineOf pa) false).settle (lineOf pa)).observe k (lineOf pa) = r at hready ⊢
  have hhome (n t : Nat) (l : List (Nat × (Nat × Nat))) (b : Bool) (x : L1Copy) :
      s.Undisturbed (if b then State.fillL1 { ({ r with fresh := n }.modCtx k (fun c => { c with lt := t })) with leases := l } (k / 64) x
        else { ({ r with fresh := n }.modCtx k (fun c => { c with lt := t })) with leases := l }) := by
    have htime : s.Undisturbed { ({ r with fresh := n }.modCtx k (fun c => { c with lt := t })) with leases := l } :=
      (hready.then_control (State.control_fresh r n)).trans
        ((State.undisturbed_lt _ k t).then_control (State.control_leases _ l))
    cases b
    case false => exact htime
    case true => exact htime.then_control (State.control_fillL1 ..)
  split
  · exact hhome r.fresh _ _ _ _
  · split
    · exact hready
    · split
      · exact hready.then_control (State.control_fresh ..)
      · exact hhome (r.fresh + 1) _ _ _ _

theorem State.undisturbed_uncachedLoad (s : State) (pa n key : Nat) : s.Undisturbed (s.uncachedLoad pa n key).2 := by
  unfold State.uncachedLoad
  split
  · exact .of_control rfl
  · exact .of_control (s.control_maybeWriteBack (lineOf pa))

theorem State.undisturbed_scratchLoadBy (s : State) (k off n : Nat) : s.Undisturbed (s.scratchLoadBy k off n).2 :=
  (s.undisturbed_lt k _).then_control (State.control_modCore ..)

/-- A load from memory or the scratchpad changes no register. -/
theorem State.undisturbed_loadAt (s : State) (k : Nat) {p : Place} (n : Nat) (h : ∀ pa, p ≠ .device pa) : s.Undisturbed (s.loadAt k p n).2 := by
  cases p with
  | scratch off => exact s.undisturbed_scratchLoadBy k off n
  | coherent pa l1 wt key => exact s.undisturbed_coLoad k pa l1 key
  | uncached pa key => exact s.undisturbed_uncachedLoad pa n key
  | device pa => exact absurd rfl (h pa)

end Sys2Proof.Machine
end

section
/-! SUPPORT. Loads of several lanes (spec 05 R100, R112): one after another, as the statements' `loadedLanes` has them, and a block as one access. -/

namespace Sys2Proof.Machine
open Sys2Proof.Claims

/-! ### Loads of any place -/

/-- Two contexts have the same registers, ports and mode: what accesses may have changed are logical times and control registers. -/
def SameLanes (c d : Context) : Prop := { timesOf c d with cr := c.cr } = c

theorem SameRegisters.sameLanes {c d : Context} (h : SameRegisters c d) : SameLanes c d := (congrArg (fun x : Context => { x with cr := c.cr }) h :)
theorem SameLanes.trans {c d e : Context} (h : SameLanes c d) (h' : SameLanes d e) : SameLanes c e :=
  (congrArg (fun x : Context => { timesOf c x with cr := c.cr }) h' :
    ({ timesOf c e with cr := c.cr } : Context) = { timesOf c d with cr := c.cr }).trans h

/-- The same instruction runs, and its context has the registers that it had. -/
def State.LanesUndisturbed (s u : State) : Prop := u.cur = s.cur ∧ u.grp = s.grp ∧ SameLanes s.cx u.cx

theorem State.Undisturbed.lanes {s u : State} (h : s.Undisturbed u) : s.LanesUndisturbed u := ⟨h.1, h.2.1, SameRegisters.sameLanes h.cx⟩
theorem State.LanesUndisturbed.trans {s t u : State} (h : s.LanesUndisturbed t) (h' : t.LanesUndisturbed u) : s.LanesUndisturbed u :=
  ⟨h'.1.trans h.1, h'.2.1.trans h.2.1, h.2.2.trans h'.2.2⟩

/-- A read of device space leaves every context's registers; a gated granule marks SSTAT of the core's S context (R357). -/
theorem State.lanesUndisturbed_deviceRead (s : State) (pa : Nat) : s.LanesUndisturbed (s.deviceRead pa).2 := by
  have hmark : s.LanesUndisturbed (s.modCtx (ctxKey s.coreNum 0) (fun c => { c with cr := { c.cr with sstat := c.cr.sstat ||| 0x100 } })) := by
    refine ⟨rfl, rfl, ?_⟩
    by_cases h : s.cur = ctxKey s.coreNum 0
    · rw [← h]
      rw [show (s.modCtx s.cur _).cx = _ from State.getCtx_modCtx_self s s.cur _]
      rfl
    · rw [show (s.modCtx (ctxKey s.coreNum 0) _).cx = s.cx from State.getCtx_modCtx_ne s _ s.cur _ h]
      rfl
  have hrefl : s.LanesUndisturbed s := (State.Undisturbed.refl s).lanes
  unfold State.deviceRead
  dsimp only
  split
  · exact (State.Undisturbed.of_control rfl).lanes
  · split
    · dsimp only
      split
      · exact hmark
      · exact hrefl
    · split <;> exact hrefl
    · exact hrefl
    · exact (State.Undisturbed.of_control rfl).lanes

theorem State.lanesUndisturbed_loadAt (s : State) (k : Nat) (p : Place) (n : Nat) : s.LanesUndisturbed (s.loadAt k p n).2 := by
  cases p with
  | device pa => exact s.lanesUndisturbed_deviceRead pa
  | _ => exact (s.undisturbed_loadAt k n (by simp)).lanes

/-! ### Lanes loaded in order (R112) -/

section
variable (u : State) (n : Nat) (a : VReg × Bool) (ls : List (Nat × Dword × Place))

theorem loadedLanes_cons (y : Nat × Dword × Place) : loadedLanes u n a (y :: ls) =
    loadedLanes (u.loadAt u.cur y.2.2 n).2 n (lineWith a.1 (n * y.1) n (u.loadAt u.cur y.2.2 n).1.1, a.2 || (u.loadAt u.cur y.2.2 n).1.2) ls := rfl

theorem lanesUndisturbed_loadedLanes : u.LanesUndisturbed (loadedLanes u n a ls).2 := by
  induction ls generalizing u a with
  | nil => exact (State.Undisturbed.refl u).lanes
  | cons y ls ih =>
    rw [loadedLanes_cons]
    exact (u.lanesUndisturbed_loadAt u.cur y.2.2 n).trans (ih _ _)

theorem undisturbed_loadedLanes (h : NoDevice ls) : u.Undisturbed (loadedLanes u n a ls).2 := by
  induction ls generalizing u a with
  | nil => exact .refl u
  | cons y ls ih =>
    rw [loadedLanes_cons]
    exact (u.undisturbed_loadAt u.cur n (h y List.mem_cons_self)).trans (ih _ _ fun x hx => h x (List.mem_cons_of_mem _ hx))

end

/-- The lanes of a load made one by one are those of `loadedLanes`. -/
theorem foldlM_loadLane (ls : List (Nat × Dword × Place)) (p : LanePlan) (s : State) :
    ls.foldlM loadLane p s = (.ok { p with acc := (loadedLanes s p.bytes (p.acc, p.pois) ls).1.1, pois := (loadedLanes s p.bytes (p.acc, p.pois) ls).1.2 },
      (loadedLanes s p.bytes (p.acc, p.pois) ls).2) := by
  induction ls generalizing p s with
  | nil => rfl
  | cons y ls ih =>
    have hlane : loadLane p y s = (.ok { p with
        acc := lineWith p.acc (p.bytes * y.1) p.bytes (s.loadAt s.cur y.2.2 p.bytes).1.1, pois := p.pois || (s.loadAt s.cur y.2.2 p.bytes).1.2 },
        (s.loadAt s.cur y.2.2 p.bytes).2) := by
      rw [loadLane, Exec.bind_ok (loadE_run ..), Exec.pure_run]
    rw [List.foldlM_cons, Exec.bind_ok hlane, ih]
    rfl

/-- Which lanes are made now: some at the front, and at least one where nothing holds the first back. -/
theorem takeLanes_run (p : LanePlan) (s : State) : ∃ m f, Takes s p m ∧ takeLanes p s = (.ok (p.todo.take m), { s with fresh := f }) := by
  have hfront (now : List (Nat × (Dword × Place))) (h : now <+: p.todo)
      (hne : p.todo.takeWhile (fun x => !s.laneHeld s.coreNum p.bytes p.store x.2.2) ≠ [] → now ≠ []) : Takes s p now.length := by
    refine ⟨h.length_le, fun y rest htodo hy => List.length_pos_of_ne_nil (hne ?_)⟩
    rw [htodo, List.takeWhile_cons, if_pos (by simp [hy])]
    exact List.cons_ne_nil _ _
  have hprefix := List.takeWhile_prefix (l := p.todo) (fun x => !s.laneHeld s.coreNum p.bytes p.store x.2.2)
  rw [takeLanes, Exec.bind_ok (Exec.get_run s)]
  generalize p.todo.takeWhile (fun x => !s.laneHeld s.coreNum p.bytes p.store x.2.2) = free at hfront hprefix ⊢
  split
  · refine ⟨free.length, s.fresh, hfront free hprefix id, ?_⟩
    rw [← List.prefix_iff_eq_take.1 hprefix]
    rfl
  · next hlen =>
    have hdraw : draw s = (.ok s.fresh, { s with fresh := s.fresh + 1 }) := rfl
    have htake := (List.take_prefix (Config.choose s.fresh % free.length + 1) free).trans hprefix
    refine ⟨_, s.fresh + 1, hfront _ htake fun _ => ?_, ?_⟩
    · exact List.ne_nil_of_length_pos (by rw [List.length_take]; omega)
    · rw [Exec.bind_ok hdraw, Exec.pure_run, ← List.prefix_iff_eq_take.1 htake]

/-- A load after `m` of its lanes, with what they have brought. -/
def LanePlan.loaded (p : LanePlan) (u : State) (m : Nat) : LanePlan :=
  let x := loadedLanes u p.bytes (p.acc, p.pois) (p.todo.take m)
  { p with todo := p.todo.drop m, acc := x.1.1, pois := x.1.2 }

/-- The state that it leaves. -/
def LanePlan.leaves (p : LanePlan) (u : State) (m : Nat) : State :=
  let x := loadedLanes u p.bytes (p.acc, p.pois) (p.todo.take m)
  if (p.todo.drop m).isEmpty then x.2 else x.2.beginWait (.lanes (p.loaded u m))

theorem runLanes_load {p : LanePlan} (hp : p.store = false) (s : State) : ∃ m f, Takes s p m ∧
    runLanes p s = (.ok (p.loaded { s with fresh := f } m), p.leaves { s with fresh := f } m) := by
  obtain ⟨m, f, htakes, hrun⟩ := takeLanes_run p s
  refine ⟨m, f, htakes, ?_⟩
  have hlen : (p.todo.take m).length = m := List.length_take_of_le htakes.1
  have hlanes := foldlM_loadLane (p.todo.take m) { p with todo := p.todo.drop m } { s with fresh := f }
  rw [runLanes, Exec.bind_ok hrun, if_neg (Bool.eq_false_iff.1 hp), hlen, Exec.bind_ok hlanes]
  unfold LanePlan.leaves LanePlan.loaded
  dsimp only
  split
  · rw [Exec.pure_run]
  · rw [Exec.bind_ok (Exec.modify_run ..), Exec.pure_run]

/-! ### A block loaded as one access (R112) -/

theorem guardPlane_load {s : State} {p : Place} (h : s.stalls p false = false) : guardPlane p false s = (.ok (), s) := by
  rw [guardPlane, Exec.bind_ok (Exec.get_run s), h]
  rfl

/-- A lane that nothing holds back neither stalls nor reads a word that an engine is to write. -/
theorem stalls_of_laneHeld {s : State} {core n : Nat} {p : Place} (h : s.laneHeld core n false p = false) : s.stalls p false = false := by
  simp only [State.laneHeld, Bool.or_eq_false_iff] at h
  exact h.1.1
theorem wordsFree_of_laneHeld {s : State} {n : Nat} {p : Place} (h : s.laneHeld s.coreNum n false p = false) : wordsFree s p n = true := by
  simp only [State.laneHeld, Bool.or_eq_false_iff] at h
  cases p with
  | scratch off => exact congrArg (! ·) h.2
  | _ => rfl

theorem mapM_waitSpWords {s : State} {n : Nat} (ls : List (Nat × Dword × Place)) (h : ∀ x ∈ ls, s.laneHeld s.coreNum n false x.2.2 = false) :
    ∃ r, ls.mapM (fun x => waitSpWords x.2.2 n) s = (.ok r, s) := by
  induction ls with
  | nil => exact ⟨[], rfl⟩
  | cons y ls ih =>
    obtain ⟨r, hr⟩ := ih fun x hx => h x (List.mem_cons_of_mem _ hx)
    have hy := waitSpWords_ok (wordsFree_of_laneHeld (h y List.mem_cons_self))
    exact ⟨() :: r, by rw [List.mapM_cons, Exec.bind_ok hy, Exec.bind_ok hr, Exec.pure_run]⟩

section
variable {ea : Dword} {n : Nat} {cut : Option Nat} {ls : List (Nat × Dword × Place)} {u : State}

theorem loadLanes_block {p : Place} (hb : wholeBlock ea ls = some p) (h : ∀ x ∈ ls, u.laneHeld u.coreNum n false x.2.2 = false) :
    let r := u.loadAt u.cur p.block 64
    loadLanes ea n cut ls u = (.ok { begun n ls false (0, false) cut with todo := [], acc := BitVec.ofNat 512 r.1.1, pois := r.1.2 }, r.2) := by
  cases ls with
  | nil => cases hb
  | cons y ls =>
    obtain ⟨i, va, p0⟩ := y
    obtain ⟨hif, hp⟩ : (ea.toNat % 64 = 0 ∧ p0.oneBlock = true) ∧ p0 = p := by simpa [wholeBlock] using hb
    subst hp
    obtain ⟨r, hr⟩ := mapM_waitSpWords ((i, va, p0) :: ls) h
    have hplane := guardPlane_load (stalls_of_laneHeld (h (i, va, p0) List.mem_cons_self))
    simp only [loadLanes]
    rw [if_pos hif, Exec.bind_ok hplane, Exec.bind_ok hr, Exec.bind_ok (loadE_run ..), Exec.pure_run]
    rfl

theorem loadLanes_lanes (hb : wholeBlock ea ls = none) : loadLanes ea n cut ls u = runLanes (begun n ls false (0, false) cut) u := by
  cases ls with
  | nil => exact (runLanes_done rfl).symm
  | cons y ls =>
    obtain ⟨i, va, p0⟩ := y
    have hif : ¬ (ea.toNat % 64 = 0 ∧ p0.oneBlock = true) := fun hif => by simp [wholeBlock, hif] at hb
    simp only [loadLanes]
    rw [if_neg hif]
    rfl

end

end Sys2Proof.Machine
end

section
/-! SUPPORT. What a vector load leaves in its context (spec 01 R51; 05 R95, R100, R101): its destination, and the predicate of a `vldff` cut short. -/

namespace Sys2Proof.Machine
open Sys2Proof.Claims

/-! ### Lanes of a vector (R50, R51) -/

theorem ofLanes_lt (w : Nat) (xs : List Nat) : ofLanes w xs < 2 ^ (w * xs.length) := by
  induction xs with
  | nil => simp [ofLanes]
  | cons x xs ih =>
    rw [ofLanes, List.length_cons, Nat.mul_succ, Nat.pow_add, Nat.mul_comm (2 ^ (w * xs.length))]
    have hx := Nat.mod_lt x (Nat.two_pow_pos w)
    calc x % 2 ^ w + 2 ^ w * ofLanes w xs < 2 ^ w * (ofLanes w xs + 1) := by rw [Nat.mul_succ]; omega
      _ ≤ 2 ^ w * 2 ^ (w * xs.length) := Nat.mul_le_mul_left _ ih

theorem ofLanes_lane (w : Nat) (xs : List Nat) (i : Nat) (hi : i < xs.length) : ofLanes w xs / 2 ^ (w * i) % 2 ^ w = xs[i] % 2 ^ w := by
  induction xs generalizing i with
  | nil => cases hi
  | cons x xs ih =>
    rw [ofLanes]
    cases i with
    | zero => rw [Nat.mul_zero, Nat.pow_zero, Nat.div_one, Nat.add_mul_mod_self_left, Nat.mod_mod, List.getElem_cons_zero]
    | succ i =>
      rw [Nat.mul_succ, Nat.add_comm (w * i), Nat.pow_add, ← Nat.div_div_eq_div_mul, Nat.add_mul_div_left _ _ (Nat.two_pow_pos w),
        Nat.div_eq_of_lt (Nat.mod_lt x (Nat.two_pow_pos w)), Nat.zero_add, List.getElem_cons_succ]
      exact ih i (Nat.lt_of_succ_lt_succ hi)

theorem rangeFrom_eq_range (n : Nat) : rangeFrom 0 n = List.range n := by
  have h (lo : Nat) : rangeFrom lo n = List.range' lo n := by
    induction n generalizing lo with
    | zero => rfl
    | succ n ih => rw [rangeFrom, List.range'_succ, ih]
  rw [h, List.range_eq_range']

theorem allActive_eq_range (n : Nat) (g : Dword) : allActive n g = (List.range n).all g.getLsbD := by
  rw [allActive, rangeFrom_eq_range]; rfl

theorem toNat_ofLanes {m w : Nat} {xs : List Nat} (hw : w * xs.length ≤ m) : (BitVec.ofNat m (ofLanes w xs)).toNat = ofLanes w xs := by
  rw [BitVec.toNat_ofNat]
  exact Nat.mod_eq_of_lt (Nat.lt_of_lt_of_le (ofLanes_lt w xs) (Nat.pow_le_pow_right (by decide) hw))

theorem lane_ofLanesV (w : Nat) (xs : List Nat) (hw : w * xs.length ≤ 512) (i : Nat) (hi : i < xs.length) :
    lane w (ofLanesV w xs) i = xs[i] % 2 ^ w := by
  rw [lane, ofLanesV, toNat_ofLanes hw, ofLanes_lane w xs i hi]

theorem lane_mod (w : Nat) (v : VReg) (i : Nat) : lane w v i % 2 ^ w = lane w v i := Nat.mod_mod _ _

/-- A masked destination: new lanes where active, old ones elsewhere. -/
theorem lane_maskLanes (w : Nat) (g : Dword) (old new : VReg) (i : Nat) (hi : i < 512 / w) :
    lane w (maskLanes w g old (fun j => lane w new j)) i = if g.getLsbD i then lane w new i else lane w old i := by
  rw [maskLanes, rangeFrom_eq_range, lane_ofLanesV _ _ (by rw [List.length_map, List.length_range]; exact Nat.mul_div_le 512 w) i (by simpa using hi),
    List.getElem_map, List.getElem_range, active]
  split <;> exact lane_mod ..

theorem getLsbD_lanesBelow (k j : Nat) (hj : j < 64) : (lanesBelow k).getLsbD j = decide (j < k) := by
  rw [lanesBelow, BitVec.getLsbD_ofNat, Nat.testBit_two_pow_sub_one, decide_eq_true hj, Bool.true_and]

theorem lanes_of_size (z : Size) : 512 / (8 * z.bytes) = 64 / z.bytes := by cases z <;> rfl

/-! ### Completing an instruction after a change of its context -/

theorem from_change {u : State} {f : Context → Context} {ss vs : List Reg} {ps : List PReg} (hk : u.cx.Keeps (f u.cx) ss vs ps)
    (hcr : (f u.cx).cr = u.cx.cr) : From u (u.modCx f).retire ss vs ps := by
  obtain ⟨hs, hv, hp, hrest⟩ := hk
  refine ⟨State.onlyContext_retire u f, ⟨fun r hr => ?_, fun r hr => ?_, fun q hq => ?_, ?_⟩, ?_⟩
  · simpa using hs r hr
  · simpa using hv r hr
  · simpa using hp q hq
  · simpa using hrest
  · simp [State.Retired, Context.after_congr _ hcr]

theorem Context.portOf_rest (c : Context) (d : Reg) : c.rest.portOf d = c.portOf d := rfl
theorem Context.portOf_congr {c e : Context} (h : c.rest = e.rest) (d : Reg) : c.portOf d = e.portOf d := by
  rw [← c.portOf_rest, h, e.portOf_rest]

/-! ### What a vector load leaves in its context (R95, R101) -/

/-- A context with what lanes of a load have brought, in the lanes used of a vector. -/
def Context.withLanes (c : Context) (w : Nat) (d : Reg) (used : Dword) (r : VReg × Bool) : Context :=
  c.setV d (maskLanes w used (c.v d) (fun i => lane w r.1 i)) (maskPois (512 / w) used r.2 (c.vp d))

/-- A context after a load of the lanes active in `g`, of a `vldff` cut short those below its cut. -/
def Context.loaded (c : Context) (w : Nat) (d : Reg) (g : PReg) (cut : Option Nat) (r : VReg × Bool) : Context :=
  match cut with
  | none => c.withLanes w d (c.p g) r
  | some k => (c.withLanes w d (c.p g &&& lanesBelow k) r).setP g (c.p g &&& (lanesBelow k ||| ~~~lanesBelow (512 / w)))

@[simp] theorem Context.popPorts_nil (c : Context) : c.popPorts [] = c := rfl

theorem State.modCx_congr {s : State} {f f' : Context → Context} (h : f s.cx = f' s.cx) : s.modCx f = s.modCx f' := congrArg s.setCx h

theorem putLoaded_done {p : LanePlan} (hp : p.todo = []) (w : Nat) (d : Reg) (g : PReg) (s : State) :
    putLoaded w d [] g p s = (.ok (), (s.modCx (fun c => c.loaded w d g p.cut (p.acc, p.pois))).retire) := by
  rw [putLoaded, hp, if_neg (by decide), Exec.bind_ok (cx_run s), Exec.bind_ok (modCx_run ..)]
  simp only [Context.popPorts_nil]
  cases hcut : p.cut with
  | none =>
    dsimp only
    rw [retireE_run]
    exact congrArg (fun t : State => (Except.ok (), t.retire)) (State.modCx_congr rfl)
  | some k =>
    dsimp only
    rw [Exec.bind_ok (modCx_run ..), State.modCx_modCx, retireE_run]
    exact congrArg (fun t : State => (Except.ok (), t.retire)) (State.modCx_congr rfl)

theorem putLoaded_midway {p : LanePlan} (hp : p.todo ≠ []) (w : Nat) (d : Reg) (g : PReg) (s : State) : putLoaded w d [] g p s = (.ok (), s) := by
  rw [putLoaded, if_pos (by simpa using hp)]
  rfl

theorem Context.keeps_withLanes (c : Context) (w : Nat) (d : Reg) (used : Dword) (r : VReg × Bool) :
    c.Keeps (c.withLanes w d used r) [] [d] [] := by
  refine ⟨fun q _ => by simp [withLanes], fun q hq => ?_, fun q _ => by simp [withLanes], by simp [withLanes]⟩
  by_cases h : q = d
  · subst h
    obtain ⟨x, hx⟩ := Option.ne_none_iff_exists'.1 (hq List.mem_cons_self)
    rw [withLanes, c.setV_port q _ _ x hx]
    exact ⟨rfl, rfl⟩
  · exact ⟨c.v_setV_ne _ _ _ _ h, c.vp_setV_ne _ _ _ _ h⟩

theorem Context.keeps_loaded_cut (c : Context) (w : Nat) (d : Reg) (g : PReg) (k : Nat) (r : VReg × Bool) :
    c.Keeps (c.loaded w d g (some k) r) [] [d] [g] := by
  obtain ⟨hs, hv, hp, hrest⟩ := c.keeps_withLanes w d (c.p g &&& lanesBelow k) r
  refine ⟨fun q hq => ?_, fun q hq => ?_, fun q hq => ?_, ?_⟩
  · simpa [loaded] using hs q hq
  · simpa [loaded] using hv q hq
  · exact (Context.p_setP_ne _ _ _ _ (by simpa using hq)).trans (hp q (List.not_mem_nil))
  · simpa [loaded] using hrest

theorem Context.cr_loaded (c : Context) (w : Nat) (d : Reg) (g : PReg) (cut : Option Nat) (r : VReg × Bool) : (c.loaded w d g cut r).cr = c.cr := by
  cases cut <;> simp [loaded, withLanes]

section
variable (w : State) (n : Nat) (d : Reg) (g : PReg) (r : VReg × Bool)

/-- The state after a load has put its lanes and completed. -/
def State.loaded (w : State) (n : Nat) (d : Reg) (g : PReg) (cut : Option Nat) (r : VReg × Bool) : State :=
  (w.modCx (fun c => c.loaded n d g cut r)).retire

theorem from_loaded : From w (w.loaded n d g none r) [] [d] [] := from_change (w.cx.keeps_withLanes ..) (w.cx.cr_loaded n d g none r)
theorem from_loaded_cut (k : Nat) : From w (w.loaded n d g (some k) r) [] [d] [g] := from_change (w.cx.keeps_loaded_cut ..) (w.cx.cr_loaded n d g (some k) r)

theorem holdsV_loaded : HoldsV (w.loaded n d g none r).cx d n (fun j => if (w.cx.p g).getLsbD j then lane n r.1 j else lane n (w.cx.v d) j)
    (r.2 || (w.cx.vp d && !(List.range (512 / n)).all (w.cx.p g).getLsbD)) := by
  intro hport
  obtain ⟨-, ⟨-, -, -, hrest⟩, -⟩ := from_loaded w n d g r
  rw [Context.portOf_congr hrest d] at hport
  have hcx : (w.loaded n d g none r).cx = (w.cx.withLanes n d (w.cx.p g) r).advance w.lastWord := by simp [State.loaded, Context.loaded]
  rw [hcx, Context.v_advance, Context.vp_advance, Context.withLanes, Context.v_setV_self _ _ _ _ hport, Context.vp_setV_self _ _ _ _ hport, maskPois,
    allActive_eq_range]
  exact ⟨fun j hj => lane_maskLanes n _ _ _ j hj, rfl⟩

theorem p_loaded_cut (k : Nat) (hg : g ≠ 0) (j : Nat) (hj : j < 64) : ((w.loaded n d g (some k) r).cx.p g).getLsbD j =
    ((w.cx.p g).getLsbD j && (decide (j < k) || decide (512 / n ≤ j))) := by
  have hp : (w.loaded n d g (some k) r).cx.p g = w.cx.p g &&& (lanesBelow k ||| ~~~lanesBelow (512 / n)) := by
    rw [State.loaded, State.cx_retire, State.cx_modCx, Context.p_advance]
    exact Context.p_setP_self _ _ _ hg
  rw [hp, BitVec.getLsbD_and, BitVec.getLsbD_or, BitVec.getLsbD_not, getLsbD_lanesBelow _ _ hj, getLsbD_lanesBelow _ _ hj, decide_eq_true hj, Bool.true_and,
    ← decide_not]
  simp only [Nat.not_lt]

theorem lane_loaded_cut (k : Nat) (hn : 512 / n ≤ 64) (hport : (w.loaded n d g (some k) r).cx.portOf d = none) (j : Nat) (hj : j < 512 / n) :
    lane n ((w.loaded n d g (some k) r).cx.v d) j = if (w.cx.p g).getLsbD j ∧ j < k then lane n r.1 j else lane n (w.cx.v d) j := by
  obtain ⟨-, ⟨-, -, -, hrest⟩, -⟩ := from_loaded_cut w n d g r k
  rw [Context.portOf_congr hrest d] at hport
  have hv : (w.loaded n d g (some k) r).cx.v d = (w.cx.withLanes n d (w.cx.p g &&& lanesBelow k) r).v d := by simp [State.loaded, Context.loaded]
  rw [hv, Context.withLanes, Context.v_setV_self _ _ _ _ hport, lane_maskLanes n _ _ _ j hj, BitVec.getLsbD_and, getLsbD_lanesBelow _ _ (by omega)]
  simp only [Bool.and_eq_true, decide_eq_true_eq]

end

end Sys2Proof.Machine
end

section
/-! SUPPORT. What the lanes of a `vldff` meet and where it is cut short (spec 01 R21; 05 R100, R101). -/

namespace Sys2Proof.Machine
open Sys2Proof.Claims

/-! ### The causes of translations (R21, R217) -/

/-- The causes that a translation may meet. -/
def TranslationCause (c : Byte) : Prop := c = cPAGE ∨ c = cACCESS

theorem translationCause_ne_poison {c : Byte} (h : TranslationCause c) : c ≠ cPOISON := by
  rcases h with rfl | rfl <;> decide

theorem walkFrom_cause {ag : Agent} {asid : Nat} {va : Dword} {left : Nat} {s : State} {table : Nat} {c : Byte}
    (h : (s.walkFrom ag asid va left table).1 = .error c) : TranslationCause c := by
  induction left generalizing s table with
  | zero => exact .inr (Except.error.inj h).symm
  | succ left ih =>
    unfold State.walkFrom at h
    dsimp only at h
    split at h
    · exact .inl (Except.error.inj h).symm
    · split at h
      · split at h
        · exact .inr (Except.error.inj h).symm
        · exact ih h
      · split at h
        · cases h
        · exact .inr (Except.error.inj h).symm

theorem walk_cause {s : State} {ag : Agent} {sp : Space} {va : Dword} {c : Byte} (h : (s.walk ag sp va).1 = .error c) : TranslationCause c := by
  unfold State.walk at h
  split at h
  · exact .inr (Except.error.inj h).symm
  · exact walkFrom_cause h

theorem leafFor_cause {s : State} {ag : Agent} {core : Nat} {sp : Space} {va : Dword} {c : Byte} (h : (s.leafFor ag core sp va).1 = .error c) :
    TranslationCause c := by
  have hwalk (hw : (s.walk ag sp va).1 = .error c) : TranslationCause c := walk_cause hw
  unfold State.leafFor at h
  generalize s.walk ag sp va = w at h hwalk
  dsimp only at h
  split at h
  · cases h
  · split at h
    · exact hwalk h
    · split at h <;> exact hwalk h

theorem placeAt_cause {s : State} {pa cl : Nat} {wt : Bool} {key : Nat} {acc : Access} {n : Nat} {super : Bool} {c : Byte}
    (h : s.placeAt pa cl wt key acc n super = .error c) : TranslationCause c := by
  unfold State.placeAt at h
  dsimp only at h
  have haccess (h : (.error cACCESS : Except Byte Place) = .error c) : TranslationCause c := .inr (Except.error.inj h).symm
  split at h
  · exact haccess h
  split at h
  · exact haccess h
  split at h
  · exact haccess h
  split at h
  · split at h
    · exact haccess h
    split at h
    · exact haccess h
    split at h
    · cases h
    · exact haccess h
  · split at h <;> cases h

theorem leafPlace_cause {s : State} {leaf : Dword} {lvl : Nat} {sp : Space} {va : Dword} {acc : Access} {n : Nat} {c : Byte}
    (h : s.leafPlace leaf lvl sp va acc n = .error c) : TranslationCause c := by
  unfold State.leafPlace at h
  split at h
  · exact .inr (Except.error.inj h).symm
  · exact placeAt_cause h

theorem translateLeaf_cause {s : State} {ag : Agent} {core : Nat} {sp : Space} {va : Dword} {acc : Access} {n : Nat} {c : Byte}
    (h : (s.translateLeaf ag core sp va acc n).1.1 = .error c) : TranslationCause c := by
  unfold State.translateLeaf at h
  dsimp only at h
  split at h
  · exact placeAt_cause h
  split at h
  · exact .inr (Except.error.inj h).symm
  split at h
  · split at h
    · exact .inr (Except.error.inj h).symm
    · cases h
  split at h
  · next hleaf => exact Except.error.inj h ▸ leafFor_cause hleaf
  split at h
  · next hplace => exact Except.error.inj h ▸ leafPlace_cause hplace
  · cases h

/-! ### The lanes of a `vldff`, each with what its address meets (R101) -/

/-- Lanes come in ascending order. -/
def Ascending (l : List LaneFound) : Prop := (l.map (·.1)).Pairwise (· < ·)

theorem laneAddrs_ascending (n : Nat) (g : Dword) (f : Nat → Dword) : ((laneAddrs n g f).map (·.1)).Pairwise (· < ·) := by
  rw [laneAddrs, rangeFrom_eq_range, List.map_map]
  exact (List.map_id _).symm ▸ List.pairwise_lt_range.filter _

/-- What the running context meets at an address that it loads from, and the state then. -/
def State.laneMeets (s : State) (va : Dword) (n : Nat) : (Except Byte Place × Bool) × State := s.translateLeaf (.ctx s.cur) s.coreNum s.cx.space va .load n

theorem laneTranslations_cons (y : Nat × Dword) (addrs : List (Nat × Dword)) (n : Nat) (s : State) : laneTranslations (y :: addrs) n s =
    (laneTranslations addrs n >>= fun l => pure ((y.1, y.2, (s.laneMeets y.2 n).1) :: l)) (s.laneMeets y.2 n).2 := by
  rw [laneTranslations, List.mapM_cons, Exec.bind_ok (a := (y.1, y.2, (s.laneMeets y.2 n).1)) (t := (s.laneMeets y.2 n).2)]
  · rfl
  · rw [Exec.bind_ok (Exec.get_run s), Exec.bind_ok (Exec.set_run ..), Exec.pure_run]
    rfl

/-- Translating the lanes' addresses changes no register, answers for every lane, in their order, and meets PAGE and ACCESS alone. -/
theorem laneTranslations_run {addrs : List (Nat × Dword)} {n : Nat} {s u : State} {l : List LaneFound} (h : laneTranslations addrs n s = (.ok l, u)) :
    s.Undisturbed u ∧ l.map (·.1) = addrs.map (·.1) ∧ ∀ x ∈ l, ∀ c, x.2.2.1 = .error c → TranslationCause c := by
  induction addrs generalizing s l with
  | nil =>
    cases h
    exact ⟨.refl _, rfl, by simp⟩
  | cons y addrs ih =>
    have hstep : s.Undisturbed (s.laneMeets y.2 n).2 := s.undisturbed_translateLeaf ..
    have hcause (c : Byte) (hc : (s.laneMeets y.2 n).1.1 = .error c) : TranslationCause c := translateLeaf_cause hc
    rw [laneTranslations_cons] at h
    generalize s.laneMeets y.2 n = r at h hstep hcause
    rcases hrest : laneTranslations addrs n r.2 with ⟨e | l', v⟩
    · rw [Exec.bind_error hrest] at h
      cases h
    · rw [Exec.bind_ok hrest] at h
      cases h
      obtain ⟨hu, hmap, hcauses⟩ := ih hrest
      refine ⟨hstep.trans hu, by rw [List.map_cons, List.map_cons, hmap], ?_⟩
      rw [List.forall_mem_cons]
      exact ⟨hcause, hcauses⟩

/-- Every lane has a place. -/
def Sound (l : List LaneFound) : Prop := ∀ x ∈ l, ∃ p, x.2.2.1 = .ok p

theorem sound_iff (x : LaneFound) : x.sound = true ↔ ∃ p, x.2.2.1 = .ok p := by
  unfold LaneFound.sound
  split
  · next p hp => exact ⟨fun _ => ⟨p, hp⟩, fun _ => rfl⟩
  · next c hc => simp [hc]

theorem firstCause_lanes (c : Byte) (l : List LaneFound) :
    firstCause c (l.map (fun x => (x.2.1, x.2.2.1))) = (l.find? (fun x => decide (x.2.2.1 = .error c))).map (·.2.1) := by
  have hpred : (fun x : LaneFound => match x.2.2.1 with | .error e => e == c | .ok _ => false) = fun x => decide (x.2.2.1 = .error c) := by
    funext ⟨i, va, r, q⟩
    rw [Bool.eq_iff_iff]
    cases r <;> simp
  rw [firstCause, List.find?_map, Option.map_map]
  exact congrArg (fun p : LaneFound → Bool => (l.find? p).map (·.2.1)) hpred

theorem firstCause_none {c : Byte} {l : List LaneFound} (h : ∀ x ∈ l, x.2.2.1 ≠ .error c) : firstCause c (l.map (fun x => (x.2.1, x.2.2.1))) = none := by
  rw [firstCause_lanes, List.find?_eq_none.2 (by simpa using h)]
  rfl

/-- A PAGE of some lane traps before an ACCESS, at the lowest lane that meets it (R21, R100). -/
theorem soundPlaces_trap {l : List LaneFound} {c : Byte} {va : Dword} (hc : TranslationCause c) (h : TrapsFirst l c va) (s : State) :
    soundPlaces (l.map (fun x => (x.2.1, x.2.2.1))) s = (.error (.trap c va), s) := by
  obtain ⟨hbefore, x, hfind, rfl⟩ := h
  have hfirst : firstCause c (l.map (fun x => (x.2.1, x.2.2.1))) = some x.2.1 := by rw [firstCause_lanes, hfind]; rfl
  unfold soundPlaces
  rcases hc with rfl | rfl
  · rw [hfirst]; rfl
  · rw [firstCause_none (hbefore.resolve_left (by decide)), hfirst]; rfl

/-- The places that lanes have, where all have one. -/
def placesOf (l : List LaneFound) : List Place :=
  (l.map (fun x => (x.2.1, x.2.2.1))).filterMap (fun x => match x.2 with | .ok p => some p | .error _ => none)

theorem soundPlaces_ok {l : List LaneFound} (h : Sound l) (s : State) : soundPlaces (l.map (fun x => (x.2.1, x.2.2.1))) s = (.ok (placesOf l), s) := by
  have hnone (c : Byte) := firstCause_none (c := c) (l := l) fun x hx hc => by
    obtain ⟨p, hp⟩ := h x hx
    rw [hp] at hc
    cases hc
  rw [soundPlaces, hnone, hnone]
  rfl

theorem placesFound_cons_ok (i : Nat) (va : Dword) (p : Place) (q : Bool) (l : List LaneFound) :
    placesFound ((i, va, .ok p, q) :: l) = (i, va, p) :: placesFound l := rfl
theorem placesFound_cons_error (i : Nat) (va : Dword) (c : Byte) (q : Bool) (l : List LaneFound) :
    placesFound ((i, va, .error c, q) :: l) = placesFound l := rfl

theorem zip_placesOf {l : List LaneFound} (h : Sound l) : (l.zip (placesOf l)).map (fun x => (x.1.1, x.1.2.1, x.2)) = placesFound l := by
  induction l with
  | nil => rfl
  | cons x l ih =>
    obtain ⟨i, va, r, q⟩ := x
    obtain ⟨p, rfl : r = .ok p⟩ := h _ List.mem_cons_self
    rw [placesFound_cons_ok, ← ih fun y hy => h y (List.mem_cons_of_mem _ hy)]
    rfl

theorem placesFound_below (l : List LaneFound) (k : Nat) :
    placesFound (l.filter (fun x => decide (x.1 < k))) = (placesFound l).filter (fun x => decide (x.1 < k)) := by
  induction l with
  | nil => rfl
  | cons x l ih =>
    obtain ⟨i, va, r, q⟩ := x
    cases r with
    | error c =>
      rw [placesFound_cons_error, ← ih, List.filter_cons]
      split <;> rfl
    | ok p =>
      rw [placesFound_cons_ok, List.filter_cons, List.filter_cons, ← ih]
      split <;> rfl

/-! ### Where a `vldff` is cut short (R101) -/

theorem filter_below_first {pre post : List LaneFound} {f : LaneFound} (h : Ascending (pre ++ f :: post)) :
    (pre ++ f :: post).filter (fun x => decide (x.1 < f.1)) = pre := by
  rw [Ascending, List.map_append, List.map_cons, List.pairwise_append, List.pairwise_cons] at h
  obtain ⟨-, ⟨hpost, -⟩, hpre⟩ := h
  have hkept : pre.filter (fun x => decide (x.1 < f.1)) = pre :=
    List.filter_eq_self.2 fun x hx => decide_eq_true (hpre _ (List.mem_map_of_mem hx) _ List.mem_cons_self)
  have hcut : post.filter (fun x => decide (x.1 < f.1)) = [] :=
    List.filter_eq_nil_iff.2 fun x hx => by simpa using Nat.le_of_lt (hpost _ (List.mem_map_of_mem hx))
  rw [List.filter_append, hkept, List.filter_cons, if_neg (by simp), hcut, List.append_nil]

section
variable {l : List LaneFound}

theorem cutLane_uncached (h : ∃ x ∈ l, x.2.2.2 = true) : cutLane l = none := if_pos (List.any_eq_true.2 h)

theorem cutLane_cached {x : LaneFound} (h : ∀ y ∈ x :: l, y.2.2.2 = false) : cutLane (x :: l) = (l.find? (fun y => !y.sound)).map (·.1) :=
  if_neg fun hany => by
    obtain ⟨y, hy, hq⟩ := List.any_eq_true.1 hany
    rw [h y hy] at hq
    cases hq

theorem lanesLoaded_whole (h : cutLane l = none) : lanesLoaded l = l := by rw [lanesLoaded, h]
theorem lanesLoaded_cut {k : Nat} (h : cutLane l = some k) : lanesLoaded l = l.filter (fun x => decide (x.1 < k)) := by rw [lanesLoaded, h]

theorem cutLane_sound (h : Sound l) : cutLane l = none := by
  unfold cutLane
  split
  · rfl
  · rw [List.find?_eq_none.2 fun x hx => by simpa using (sound_iff x).2 (h x (List.mem_of_mem_drop hx))]
    rfl

/-- With no lane uncached, what is checked and loaded is the lowest active lane and lanes that pass. -/
theorem lanesLoaded_cached {x : LaneFound} (h : ∀ y ∈ x :: l, y.2.2.2 = false) (hasc : Ascending (x :: l)) :
    ∃ rest, lanesLoaded (x :: l) = x :: rest ∧ Sound rest := by
  have hcut := cutLane_cached h
  cases hfind : l.find? (fun y => !y.sound) with
  | none =>
    rw [hfind] at hcut
    exact ⟨l, lanesLoaded_whole hcut, fun y hy => (sound_iff y).1 (by simpa using List.find?_eq_none.1 hfind y hy)⟩
  | some f =>
    rw [hfind] at hcut
    obtain ⟨-, pre, post, rfl, hpre⟩ := List.find?_eq_some_iff_append.1 hfind
    exact ⟨pre, (lanesLoaded_cut hcut).trans (filter_below_first (pre := x :: pre) hasc), fun y hy => (sound_iff y).1 (by simpa using hpre y hy)⟩

end

end Sys2Proof.Machine
end

section
/-! Loads of lanes as the statements describe them (R100, R101, R112), and the settling of O31. -/

namespace Sys2Proof.Machine
open Sys2Proof.Claims

/-! ### A load's lanes, and what follows them -/

/-- A load that has made its last lane leaves what its lanes leave. -/
theorem LanePlan.leaves_done {p : LanePlan} {m : Nat} (h : p.todo.drop m = []) (u : State) :
    p.leaves u m = (loadedLanes u p.bytes (p.acc, p.pois) (p.todo.take m)).2 := if_pos (by rw [h]; rfl)
/-- One that has lanes left is to go on with them. -/
theorem LanePlan.leaves_midway {p : LanePlan} {m : Nat} {y : Nat × Dword × Place} {rest : List (Nat × Dword × Place)} (h : p.todo.drop m = y :: rest) (u : State) :
    p.leaves u m = (loadedLanes u p.bytes (p.acc, p.pois) (p.todo.take m)).2.beginWait (.lanes (p.loaded u m)) := if_neg (by rw [h]; exact Bool.false_ne_true)

theorem wholeBlock_device {ea : Dword} {ls : List (Nat × Dword × Place)} {p : Place} (h : wholeBlock ea ls = some p) (pa : Nat) : p.block ≠ .device pa := by
  cases ls with
  | nil => cases h
  | cons y ls =>
    obtain ⟨i, va, p0⟩ := y
    obtain ⟨⟨-, hone⟩, rfl⟩ : (ea.toNat % 64 = 0 ∧ p0.oneBlock = true) ∧ p0 = p := by simpa [wholeBlock] using h
    cases p0 <;> simp [Place.block, Place.oneBlock] at hone ⊢

/-- A load whose lanes have passed its checks loads them as R112 has it, and then puts them: `done` may lean on registers as they were, and where no lane lies in device space
on all else of the contexts but the logical times. -/
theorem loadsLanes {i : Instr} {s u : State} {ea : Dword} {n : Nat} {cut : Option Nat} {ls : List (Nat × Dword × Place)} {m : Exec Unit} {w : Nat} {d : Reg} {g : PReg}
    {done : VReg × Bool → State → State → Prop} (he : exec i s = finish m s) (hm : m s = (loadLanes ea n cut ls >>= putLoaded w d [] g) u)
    (hdone : ∀ r v, u.LanesUndisturbed v → (NoDevice ls → u.Undisturbed v) → done r v (v.loaded w d g cut r)) : LoadsLanes i s u ea n cut ls done := by
  obtain ⟨t, ht⟩ := finish_next m s
  have hends {v : State} (hv : m s = (.ok (), v)) : t = v := Host.Outcome.next.inj (ht.symm.trans (finish_ok m s v hv))
  refine ⟨t, he.trans ht, ?_⟩
  cases hb : wholeBlock ea ls with
  | some p =>
    intro hheld
    have hput := hends (hm.trans ((Exec.bind_ok (loadLanes_block hb hheld) _).trans (putLoaded_done rfl ..)))
    rw [hput]
    exact hdone _ _ (u.lanesUndisturbed_loadAt u.cur p.block 64) fun _ => u.undisturbed_loadAt u.cur 64 (wholeBlock_device hb)
  | none =>
    obtain ⟨k, f, htakes, hrun⟩ := runLanes_load (p := begun n ls false (0, false) cut) rfl u
    have hput := hm.trans (Exec.bind_ok ((loadLanes_lanes hb).trans hrun) _)
    have hfresh : u.Undisturbed { u with fresh := f } := .of_control (u.control_fresh f)
    refine ⟨k, f, htakes, fun hk => ?_, fun y rest hdrop => ?_⟩
    · have hnone : ls.drop k = [] := List.drop_eq_nil_of_le (Nat.le_of_eq hk.symm)
      have hall : ls.take k = ls := List.take_of_length_le (Nat.le_of_eq hk.symm)
      rw [LanePlan.leaves_done hnone] at hput
      rw [hends (hput.trans (putLoaded_done hnone ..))]
      refine hdone _ _ (hfresh.lanes.trans (lanesUndisturbed_loadedLanes ..)) fun hdev => hfresh.trans ?_
      exact undisturbed_loadedLanes _ _ _ _ (hall.symm ▸ hdev)
    · rw [LanePlan.leaves_midway hdrop] at hput
      rw [hends (hput.trans (putLoaded_midway (by rw [LanePlan.loaded]; exact hdrop.trans_ne (List.cons_ne_nil y rest)) ..)), LanePlan.loaded]
      exact hdrop ▸ rfl

/-! ### `vldff` -/

/-- The computation of `vldff` of `n` lanes of a size. -/
def vldffE (d a : Reg) (g : PReg) (z : Size) (off : BitVec 11) : Exec Unit :=
  loadFrom (8 * z.bytes) d [] g (do
    let c ← cx
    let ea := vectorEA c a off
    guardTrap (ea.toNat % z.bytes = 0) cALIGN ea
    beginLoadFirst ea z.bytes (laneAddrs (64 / z.bytes) (c.p g) (fun i => ea + BitVec.ofNat 64 (i * z.bytes))) (c.sp a))

theorem exec_vldff (d a : Reg) (g : PReg) (z : Size) (off : BitVec 11) (s : State) : exec (.vldff d a g z off) s = finish (vldffE d a g z off) s := rfl

section
variable {s u : State} {d a : Reg} {g : PReg} {z : Size} {off : BitVec 11} {l : List LaneFound}

/-- The addresses of the active lanes of a contiguous load. -/
def vectorLanes (s : State) (a : Reg) (g : PReg) (z : Size) (off : BitVec 11) : List (Nat × Dword) :=
  laneAddrs (64 / z.bytes) (s.cx.p g) (fun j => vectorEA s.cx a off + BitVec.ofNat 64 (j * z.bytes))

variable (hplan : s.cx.plan = none) (halign : (vectorEA s.cx a off).toNat % z.bytes = 0)
  (hl : laneTranslations (vectorLanes s a g z off) z.bytes s = (.ok l, u))
include hplan halign hl

/-- Past its ALIGN check and its translations, `vldff` is what follows from them. -/
theorem vldffE_run : vldffE d a g z off s = (do
    let ps ← soundPlaces ((lanesLoaded l).map (fun x => (x.2.1, x.2.2.1)))
    guardPoison (s.cx.sp a)
    let p ← loadLanes (vectorEA s.cx a off) z.bytes (cutLane l) (((lanesLoaded l).zip ps).map (fun x => (x.1.1, x.1.2.1, x.2)))
    putLoaded (8 * z.bytes) d [] g p : Exec Unit) u := by
  rw [vldffE, loadFrom, Exec.bind_ok (cx_run s), hplan]
  dsimp only
  simp only [bind_assoc]
  rw [Exec.bind_ok (cx_run s), decide_eq_true halign, Exec.bind_ok (guardTrap_true ..), beginLoadFirst]
  simp only [bind_assoc]
  exact Exec.bind_ok hl _

/-- `vldff` traps as the first of the lanes that it is to load (R21, R101). -/
theorem vldff_traps {c : Byte} {va : Dword} (hc : TranslationCause c) (h : TrapsFirst (lanesLoaded l) c va) : TranslationTrap (.vldff d a g z off) s u c va := by
  refine translationTrap_of_error (exec_vldff d a g z off s) ?_ (translationCause_ne_poison hc)
  rw [vldffE_run hplan halign hl, Exec.bind_error (soundPlaces_trap hc h u)]

/-- `vldff` loads the lanes that it is to load, where all of them have places. -/
theorem vldff_loads {done : VReg × Bool → State → State → Prop} (hsound : Sound (lanesLoaded l)) (hp : s.cx.sp a = false)
    (hdone : ∀ r v, s.LanesUndisturbed v → (NoDevice (placesFound (lanesLoaded l)) → s.Undisturbed v) → done r v (v.loaded (8 * z.bytes) d g (cutLane l) r)) :
    LoadsLanes (.vldff d a g z off) s u (vectorEA s.cx a off) z.bytes (cutLane l) (placesFound (lanesLoaded l)) done := by
  obtain ⟨hu, -, -⟩ := laneTranslations_run hl
  refine loadsLanes (exec_vldff d a g z off s) ?_ fun r v hv hdev => hdone r v (hu.lanes.trans hv) fun hno => hu.trans (hdev hno)
  rw [vldffE_run hplan halign hl, Exec.bind_ok (soundPlaces_ok hsound u), hp, Exec.bind_ok (guardPoison_false u), zip_placesOf hsound]

end

theorem find?_unsound (l : List LaneFound) : l.find? (fun x => !x.sound) = l.find? (fun x => match x.2.2.1 with | .error _ => true | .ok _ => false) :=
  congrArg l.find? (funext fun ⟨_, _, r, _⟩ => by cases r <;> rfl)

/-- Predicates and vectors read as before, whatever loads have moved besides. -/
theorem SameLanes.read {c e : Context} (h : SameLanes c e) : (∀ g, e.p g = c.p g) ∧ ∀ d, e.v d = c.v d ∧ e.vp d = c.vp d :=
  ⟨fun g => (congrArg (·.p g) h :), fun d => ⟨(congrArg (·.v d) h :), (congrArg (·.vp d) h :)⟩⟩

end Sys2Proof.Machine

namespace Sys2Proof.Claims
open Sys2Proof.Machine

/-- Settles O31: the lanes below the first that fails beyond the lowest active one are what the checks and the loads are of. -/
theorem firstFaultLoads : Obligations.FirstFaultLoads := by
  unfold Obligations.FirstFaultLoads
  intro s u d a g z off l ea n loaded hplan halign hg hl
  obtain ⟨-, hindices, hcauses⟩ := laneTranslations_run hl
  have hasc : Ascending l := by rw [Ascending, hindices]; exact laneAddrs_ascending ..
  refine ⟨fun hsound hp => ?_, fun hunc c va htraps => ?_, fun hcached => ⟨fun x rest k va c q hlist hx hfind hp => ?_, fun k va c q rest hlist => ?_⟩⟩
  · have hcut := cutLane_sound hsound
    rw [← lanesLoaded_whole hcut, ← hcut]
    refine vldff_loads hplan halign hl ((lanesLoaded_whole hcut).symm ▸ hsound) hp fun r v hv hdev => ?_
    rw [hcut]
    refine ⟨from_loaded .., fun hno => (hdev ((lanesLoaded_whole hcut).symm ▸ hno)).cx, ?_⟩
    obtain ⟨hpreds, hvecs⟩ := SameLanes.read hv.2.2
    have hholds := holdsV_loaded v (8 * z.bytes) d g r
    rw [hpreds g, (hvecs d).1, (hvecs d).2, lanes_of_size] at hholds
    exact hholds
  · obtain ⟨x, hfind, -⟩ := htraps.2
    have hc : TranslationCause c := hcauses x (List.mem_of_find?_eq_some hfind) c (by simpa using List.find?_some hfind)
    exact vldff_traps hplan halign hl hc ((lanesLoaded_whole (cutLane_uncached hunc)).symm ▸ htraps)
  · subst hlist
    have hfirst := (find?_unsound _).trans hfind
    rw [List.find?_cons_of_neg (by simpa using (sound_iff x).2 hx)] at hfirst
    have hcut : cutLane (x :: rest) = some k := (cutLane_cached hcached).trans (by rw [hfirst]; rfl)
    obtain ⟨passed, hlanes, hpassed⟩ := lanesLoaded_cached hcached hasc
    rw [← placesFound_below, ← lanesLoaded_cut hcut, ← hcut]
    refine vldff_loads hplan halign hl ?_ hp fun r v hv _ => ?_
    · rw [hlanes]
      exact List.forall_mem_cons.2 ⟨hx, hpassed⟩
    · obtain ⟨hpreds, hvecs⟩ := SameLanes.read hv.2.2
      have hpred := p_loaded_cut v (8 * z.bytes) d g r k hg
      have hlane := lane_loaded_cut v (8 * z.bytes) d g r k
      rw [hpreds g, lanes_of_size] at hpred hlane
      rw [(hvecs d).1] at hlane
      rw [hcut]
      exact ⟨from_loaded_cut .., hpred, hlane (Nat.div_le_self 64 _)⟩
  · subst hlist
    obtain ⟨passed, hlanes, hpassed⟩ := lanesLoaded_cached hcached hasc
    refine vldff_traps hplan halign hl (hcauses _ List.mem_cons_self c rfl) (hlanes.symm ▸ ⟨?_, _, List.find?_cons_of_pos (by simp), rfl⟩)
    refine or_iff_not_imp_left.2 fun hne => List.forall_mem_cons.2 ⟨fun h => hne (Except.error.inj h), fun y hy h => ?_⟩
    obtain ⟨p, hplace⟩ := hpassed y hy
    cases hplace.symm.trans h

end Sys2Proof.Claims
end

section
/-! SUPPORT. Vector operands and results (spec 01 R10, R51; 03 R58; 05 R95; 06 R136): what reading a source answers, what popping ports leaves, what an instruction that writes vectors,
a pair of them or a predicate leaves of its context, and the OR of the flags of lanes. -/

namespace Sys2Proof.Machine
open Sys2Proof.Claims

/-! ### Sources and ports (R10, R136) -/

/-- A source that is ready is read with nothing else done. -/
theorem srcV_run {s : State} {r : Reg} {x : VReg × Bool} (h : sourceOf s.cx r = some x) : srcV r s = (.ok x, s) := by
  rw [srcV, Exec.bind_ok (cx_run s)]
  unfold sourceOf at h
  split at h
  case h_1 hport =>
    rw [hport]
    cases h
    rfl
  case h_2 p hport =>
    rw [hport]
    obtain ⟨y, hhead, rfl⟩ := Option.map_eq_some_iff.1 h
    obtain ⟨rest, hfifo⟩ := List.head?_eq_some_iff.1 hhead
    dsimp only
    rw [hfifo]
    rfl

theorem Context.portOf_eq_vget (c : Context) (d : Reg) : c.portOf d = if 28 ≤ d.toNat then vget c.ports (d.toNat - 28) none else none := by
  unfold Context.portOf vget
  split
  · by_cases h : d.toNat - 28 < 4 <;> simp [h]
  · rfl

/-- A register that is no bound port is none after another's packet has gone. -/
theorem Context.portOf_popPort {c : Context} {d : Reg} (h : c.portOf d = none) (r : Reg) : (c.popPort r).portOf d = none := by
  unfold Context.popPort
  split
  case h_1 => exact h
  case h_2 p hp =>
    rw [Context.portOf_eq_vget] at h hp ⊢
    split at h
    case isFalse hd => exact if_neg hd
    case isTrue hd =>
      split at hp
      case isFalse => cases hp
      case isTrue =>
        have hne : d.toNat - 28 ≠ r.toNat - 28 := fun e => by rw [e, hp] at h; cases h
        rw [if_pos hd]
        exact (vget_vset_ne c.ports _ _ _ none hne).trans h

theorem Context.portOf_popPorts {c : Context} {d : Reg} (h : c.portOf d = none) (rs : List Reg) : (c.popPorts rs).portOf d = none :=
  List.foldlRecOn rs.eraseDups Context.popPort (motive := fun x : Context => x.portOf d = none) h (fun _ hx r _ => Context.portOf_popPort hx r)

/-! ### What is kept of a context -/

theorem Context.Keeps.trans {c d e : Context} {ss ss' vs vs' : List Reg} {ps ps' : List PReg} (h : c.Keeps d ss vs ps) (h' : d.Keeps e ss' vs' ps') :
    c.Keeps e (ss ++ ss') (vs ++ vs') (ps ++ ps') := by
  obtain ⟨hs, hv, hp, hrest⟩ := h
  obtain ⟨hs', hv', hp', hrest'⟩ := h'
  refine ⟨fun r hr => ?_, fun r hr => ?_, fun q hq => ?_, hrest'.trans hrest⟩
  · rw [List.mem_append, not_or] at hr
    exact ⟨(hs' r hr.2).1.trans (hs r hr.1).1, (hs' r hr.2).2.trans (hs r hr.1).2⟩
  · have hr1 := hv r fun hm => hr (List.mem_append_left _ hm)
    have hr2 := hv' r fun hm => Context.portOf_congr hrest r ▸ hr (List.mem_append_right _ hm)
    exact ⟨hr2.1.trans hr1.1, hr2.2.trans hr1.2⟩
  · rw [List.mem_append, not_or] at hq
    exact (hp' q hq.2).trans (hp q hq.1)

theorem Context.keeps_setV (c : Context) (d : Reg) (v : VReg) (p : Bool) : c.Keeps (c.setV d v p) [] [d] [] := by
  refine ⟨fun q _ => by simp, fun q hq => ?_, fun q _ => by simp, by simp⟩
  by_cases h : q = d
  · subst h
    obtain ⟨x, hx⟩ := Option.ne_none_iff_exists'.1 (hq List.mem_cons_self)
    rw [c.setV_port q _ _ x hx]
    exact ⟨rfl, rfl⟩
  · exact ⟨c.v_setV_ne _ _ _ _ h, c.vp_setV_ne _ _ _ _ h⟩

theorem Context.keeps_setP (c : Context) (q : PReg) (v : Dword) : c.Keeps (c.setP q v) [] [] [q] :=
  ⟨fun _ _ => by simp, fun _ _ => by simp, fun _ hr => c.p_setP_ne _ _ _ (by simpa using hr), by simp⟩

@[simp] theorem Context.portOf_setV (c : Context) (r d : Reg) (v : VReg) (p : Bool) : (c.setV r v p).portOf d = c.portOf d :=
  Context.portOf_congr (c.rest_setV r v p) d

/-! ### Flags and the registers written beside them (R58) -/

@[simp] theorem Context.addFlags_zero (c : Context) : c.addFlags 0 = c := by simp [Context.addFlags]

theorem Context.addFlags_setV (c : Context) (d : Reg) (v : VReg) (p : Bool) (f : FpFlags) : (c.setV d v p).addFlags f = (c.addFlags f).setV d v p := by
  unfold Context.setV
  rw [show (c.addFlags f).portOf d = c.portOf d from rfl]
  split <;> rfl
theorem Context.addFlags_setP (c : Context) (q : PReg) (v : Dword) (f : FpFlags) : (c.setP q v).addFlags f = (c.addFlags f).setP q v := by
  unfold Context.setP
  split <;> rfl
theorem Context.poisonIf_setP (c : Context) (q : PReg) (v : Dword) (b : Bool) : (c.setP q v).poisonIf b = (c.poisonIf b).setP q v := by
  cases b
  · rfl
  · unfold Context.setP
    split <;> rfl

/-! ### Instructions that write vectors or a predicate -/

/-- Which registers are bound ports does not change. -/
theorem PlainFrom.portOf {i : Instr} {s t : State} {c : Context} {ss vs : List Reg} {ps : List PReg} (h : PlainFrom i s c t ss vs ps) (d : Reg) :
    t.cx.portOf d = c.portOf d := by
  obtain ⟨-, -, ⟨-, -, -, hrest⟩, -⟩ := h
  exact Context.portOf_congr hrest d

theorem State.modCx_eq_setCx (s : State) (f : Context → Context) : s.modCx f = s.setCx (f s.cx) := rfl

@[simp] theorem State.lastWord_setCx (s : State) (e : Context) : (s.setCx e).lastWord = s.lastWord := rfl

/-- The running context when it has gone on after a change of it. -/
theorem State.cx_changed (s : State) (e : Context) : (s.setCx e).retire.cx = e.advance s.lastWord := by
  rw [State.cx_retire, State.cx_setCx]
  rfl

section
variable {i : Instr} {s : State} {m : Exec Unit} (he : exec i s = finish m s)
include he

/-- An instruction that changes its context and goes on changes nothing else, and goes on from any context with the same control registers. -/
theorem plainFrom_of_keeps {c e : Context} {ss vs : List Reg} {ps : List PReg} (hm : m s = (.ok (), (s.setCx e).retire)) (hk : c.Keeps e ss vs ps)
    (hcr : e.cr = c.cr) : PlainFrom i s c (s.setCx e).retire ss vs ps := by
  obtain ⟨hs, hv, hp, hrest⟩ := hk
  refine ⟨he.trans (finish_ok m s _ hm), State.onlyContext_retire s fun _ => e, ⟨fun r hr => ?_, fun r hr => ?_, fun q hq => ?_, ?_⟩, ?_⟩
  · simpa using hs r hr
  · simpa using hv r hr
  · simpa using hp q hq
  · simpa using hrest
  · simp [State.Retired, Context.after_congr _ hcr]

variable {c : Context}

theorem plainFrom_setV {d : Reg} {v : VReg} {p : Bool} (hm : m s = (.ok (), (s.setCx (c.setV d v p)).retire)) :
    ∃ t, PlainFrom i s c t [] [d] [] ∧ (t.cx.portOf d = none → t.cx.v d = v ∧ t.cx.vp d = p) := by
  have hplain := plainFrom_of_keeps he hm (c.keeps_setV d v p) (c.cr_setV d v p)
  refine ⟨_, hplain, fun hport => ?_⟩
  rw [hplain.portOf d] at hport
  rw [State.cx_changed, Context.v_advance, Context.vp_advance]
  exact ⟨c.v_setV_self d v p hport, c.vp_setV_self d v p hport⟩

/-- A pair of registers: each takes its value unless it is a bound port. -/
theorem plainFrom_setV_pair {d : Reg} {lo hi : VReg} {pl ph : Bool} (hm : m s = (.ok (), (s.setCx ((c.setV d lo pl).setV (d + 1) hi ph)).retire)) :
    ∃ t, PlainFrom i s c t [] [d, d + 1] [] ∧
      (c.portOf d = none → t.cx.v d = lo ∧ t.cx.vp d = pl) ∧ (c.portOf (d + 1) = none → t.cx.v (d + 1) = hi ∧ t.cx.vp (d + 1) = ph) := by
  have hne : d ≠ d + 1 := by bv_omega
  have hkeeps := (c.keeps_setV d lo pl).trans (Context.keeps_setV _ (d + 1) hi ph)
  refine ⟨_, plainFrom_of_keeps he hm hkeeps (by simp), fun hport => ?_, fun hport => ?_⟩
  all_goals rw [State.cx_changed, Context.v_advance, Context.vp_advance]
  · rw [Context.v_setV_ne _ _ _ _ _ hne, Context.vp_setV_ne _ _ _ _ _ hne]
    exact ⟨c.v_setV_self d lo pl hport, c.vp_setV_self d lo pl hport⟩
  · have hport' := (c.portOf_setV d (d + 1) lo pl).trans hport
    exact ⟨Context.v_setV_self _ _ hi ph hport', Context.vp_setV_self _ _ hi ph hport'⟩

theorem plainFrom_setP {q : PReg} {v : Dword} (hq : q ≠ 0) (hm : m s = (.ok (), (s.setCx (c.setP q v)).retire)) :
    ∃ t, PlainFrom i s c t [] [] [q] ∧ t.cx.p q = v := by
  refine ⟨_, plainFrom_of_keeps he hm (c.keeps_setP q v) (c.cr_setP q v), ?_⟩
  rw [State.cx_changed, Context.p_advance, Context.p_setP_self _ _ _ hq]

end

/-! ### The OR of the flags of lanes (R58) -/

theorem getLsbD_orFlags (l : List (Nat × FpFlags)) (b : Nat) : (orFlags l).getLsbD b = l.any (fun x => x.2.getLsbD b) := by
  have h (a : FpFlags) : (l.foldl (fun a x => a ||| x.2) a).getLsbD b = (a.getLsbD b || l.any (fun x => x.2.getLsbD b)) := by
    induction l generalizing a with
    | nil => simp
    | cons x l ih => rw [List.foldl_cons, ih, BitVec.getLsbD_or, List.any_cons, Bool.or_assoc]
  simpa [orFlags] using h 0

theorem getLsbD_raised (n : Nat) (m : Dword) (f : Nat → FpFlags) (b : Nat) :
    (raised n m f).getLsbD b = (List.range n).any (fun i => m.getLsbD i && (f i).getLsbD b) := by
  have h (l : List Nat) (a : FpFlags) : (l.foldl (fun x i => if m.getLsbD i then x ||| f i else x) a).getLsbD b =
      (a.getLsbD b || l.any (fun i => m.getLsbD i && (f i).getLsbD b)) := by
    induction l generalizing a with
    | nil => simp
    | cons i l ih =>
      rw [List.foldl_cons, ih, List.any_cons, ← Bool.or_assoc]
      cases m.getLsbD i <;> simp
  simpa [raised] using h (List.range n) 0

/-- Where lanes that are not active raise nothing, all lanes raise what the active ones do. -/
theorem orFlags_active (n : Nat) (m : Dword) (x y : Nat → Nat) (f : Nat → FpFlags) :
    orFlags ((List.range n).map (fun i => if active m i then (x i, f i) else (y i, 0))) = raised n m f := by
  refine BitVec.eq_of_getLsbD_eq fun b _ => ?_
  rw [getLsbD_orFlags, getLsbD_raised, List.any_map]
  refine congrArg (List.any _) (funext fun i => ?_)
  rw [Function.comp, active]
  cases m.getLsbD i <;> simp

end Sys2Proof.Machine
end

section
/-! Compares of lanes (spec 03 R58; 05 R95, R103; 19 R342), and the settling of O25. -/

namespace Sys2Proof.Machine
open Sys2Proof.Claims

theorem signedOf_eq_signedLane (w x : Nat) : signedOf w x = signedLane w x := by
  have hhalf : (((2 ^ w : Nat) : Int) + 1) / 2 = ((2 ^ (w - 1) : Nat) : Int) := by
    cases w with
    | zero => rfl
    | succ w => rw [Nat.add_sub_cancel, Nat.pow_succ]; omega
  rw [signedOf, signedLane, Int.bmod_def, hhalf, ← Int.natCast_mod]
  simp only [Int.ofNat_lt]

/-! ### Predicates as lists of bits (R94) -/

theorem testBit_ofLanes_one (xs : List Nat) (j : Nat) : (ofLanes 1 xs).testBit j = (xs.getD j 0).testBit 0 := by
  induction xs generalizing j with
  | nil => simp [ofLanes]
  | cons x xs ih =>
    cases j with
    | zero => simp [ofLanes, Nat.testBit_zero, Nat.add_mod]
    | succ j =>
      have hdiv : (x % 2 ^ 1 + 2 ^ 1 * ofLanes 1 xs) / 2 = ofLanes 1 xs := by omega
      rw [ofLanes, Nat.testBit_succ, hdiv, ih, List.getD_cons_succ]

/-- The predicate of the bits of `n` lanes: those from the number of lanes on are 0. -/
theorem getLsbD_ofLanes_bits (f : Nat → Bool) (n j : Nat) (hj : j < 64) :
    (BitVec.ofNat 64 (ofLanes 1 ((List.range n).map (fun i => if f i then 1 else 0)))).getLsbD j = (decide (j < n) && f j) := by
  rw [BitVec.getLsbD_ofNat, decide_eq_true hj, Bool.true_and, testBit_ofLanes_one]
  by_cases hn : j < n
  · cases hf : f j <;> simp [List.getD, hn, hf]
  · simp [List.getD, hn]

/-! ### `compare` (R103) -/

/-- The bit that a compare leaves of a lane: the condition of an active one, the old bit of another. -/
def comparedBit (s : State) (t : ETy) (p g : PReg) (f : FpEnv → Nat → Nat → Bool × FpFlags) (x y : VReg) (j : Nat) : Bool :=
  if (s.cx.p g).getLsbD j then (f s.fpEnv (lane t.width x j) (lane t.width y j)).1 else (s.cx.p p).getLsbD j

/-- The predicate that a compare leaves. -/
def comparedBits (s : State) (t : ETy) (p g : PReg) (f : FpEnv → Nat → Nat → Bool × FpFlags) (x y : VReg) : Dword :=
  BitVec.ofNat 64 (ofLanes 1 ((List.range (512 / t.width)).map (fun j => if comparedBit s t p g f x y j then 1 else 0)))

/-- The context that a compare leaves but for that predicate. -/
def comparedCx (s : State) (t : ETy) (a b : Reg) (g : PReg) (f : FpEnv → Nat → Nat → Bool × FpFlags) (x y : VReg × Bool) : Context :=
  ((s.cx.popPorts [a, b]).addFlags (raised (512 / t.width) (s.cx.p g) (fun j => (f s.fpEnv (lane t.width x.1 j) (lane t.width y.1 j)).2))).poisonIf (x.2 || y.2)

theorem exec_compares {i : Instr} {p : PReg} {a b : Reg} {g : PReg} {t : ETy} {f : FpEnv → Nat → Nat → Bool × FpFlags}
    (h : compares i = some (p, a, b, g, t, f)) (s : State) : exec i s = finish (compare t p a b g f) s := by
  unfold compares at h
  split at h <;> cases h
  case h_2 =>
    change finish (compare t p a b g _) s = _
    simp only [decide_not]
    rfl
  case h_3 =>
    change finish (compare t p a b g _) s = _
    simp only [signedOf_eq_signedLane]
  case h_4 =>
    change finish (compare t p a b g _) s = _
    simp only [signedOf_eq_signedLane]
  all_goals rfl

theorem compare_run {s : State} {a b : Reg} {x y : VReg × Bool} (hx : sourceOf s.cx a = some x) (hy : sourceOf s.cx b = some y) (t : ETy) (p g : PReg)
    (f : FpEnv → Nat → Nat → Bool × FpFlags) :
    compare t p a b g f s = (.ok (), (s.setCx ((comparedCx s t a b g f x y).setP p (comparedBits s t p g f x.1 y.1))).retire) := by
  rw [compare, Exec.bind_ok (srcV_run hx), Exec.bind_ok (srcV_run hy), Exec.bind_ok (Exec.get_run s), Exec.bind_ok (modCx_run ..), retireE_run,
    State.modCx_eq_setCx, Context.addFlags_setP, Context.poisonIf_setP, rangeFrom_eq_range, orFlags_active, List.map_map, comparedCx, comparedBits]
  refine congrArg (fun l => (Except.ok (), (s.setCx (Context.setP _ p (BitVec.ofNat 64 (ofLanes 1 l)))).retire)) (List.map_congr_left fun i _ => ?_)
  rw [Function.comp, active, comparedBit]
  cases (s.cx.p g).getLsbD i <;> rfl

end Sys2Proof.Machine

namespace Sys2Proof.Claims
open Sys2Proof.Machine

/-- Settles O25: a compare leaves `comparedBits`, whose bits `getLsbD_ofLanes_bits` gives. -/
theorem compareResults : Obligations.CompareResults := by
  unfold Obligations.CompareResults
  intro i p a b g t f hi hp s x y hx hy
  obtain ⟨u, hplain, hbits⟩ := plainFrom_setP (exec_compares hi s) hp (compare_run hx hy t p g f)
  refine ⟨u, hplain, fun j hj => ?_⟩
  rw [hbits, comparedBits, getLsbD_ofLanes_bits _ _ _ hj]
  rfl

end Sys2Proof.Claims
end

section
/-! Reductions (spec 03 R74; 05 R95, R111): the tree of lanes as its nodes, reductions of integer lanes as their operation in the order of the lanes, and the settling of O26. -/

namespace Sys2Proof.Machine
open Sys2Proof.Claims

/-! ### The tree (R74) -/

/-- Two values of the tree, each of which may be none, with the flags raised so far, combined. -/
def joinNodes (op : Nat → Nat → Nat × FpFlags) (x y : Option Nat × FpFlags) : Option Nat × FpFlags :=
  match x.1, y.1 with
  | some a, some b => (some (op a b).1, x.2 ||| y.2 ||| (op a b).2)
  | some a, none => (some a, x.2 ||| y.2)
  | none, z => (z, x.2 ||| y.2)

/-- Flags raised below two values stay beside those of their node. -/
theorem joinNodes_or (op : Nat → Nat → Nat × FpFlags) (x y : Option Nat × FpFlags) (f g : FpFlags) :
    joinNodes op (x.1, f ||| x.2) (y.1, g ||| y.2) = ((joinNodes op x y).1, (f ||| g) ||| (joinNodes op x y).2) := by
  obtain ⟨x, fx⟩ := x
  obtain ⟨y, fy⟩ := y
  cases x <;> cases y <;> simp only [joinNodes] <;> congr 1 <;> ac_rfl

section
variable (op : Nat → Nat → Nat × FpFlags)

/-- The lists of a level are combined apart where the first has an even number of values. -/
theorem treeLevel_append (m : Nat) (xs ys : List (Option Nat)) (h : xs.length = 2 * m) :
    treeLevel op (xs ++ ys) = ((treeLevel op xs).1 ++ (treeLevel op ys).1, (treeLevel op xs).2 ||| (treeLevel op ys).2) ∧
    (treeLevel op xs).1.length = m := by
  induction m generalizing xs with
  | zero =>
    rw [List.length_eq_zero_iff.1 h]
    simp [treeLevel]
  | succ m ih =>
    match xs, h with
    | x :: y :: r, h =>
      obtain ⟨ih, hlen⟩ := ih r (by simp at h; omega)
      cases x <;> cases y <;> simp [treeLevel, ih, hlen, BitVec.or_assoc]

theorem treeOf_append (k : Nat) (xs ys : List (Option Nat)) (hx : xs.length = 2 ^ k) (hy : ys.length = 2 ^ k) :
    treeOf op (k + 1) (xs ++ ys) = joinNodes op (treeOf op k xs) (treeOf op k ys) := by
  induction k generalizing xs ys with
  | zero =>
    obtain ⟨x, rfl⟩ := List.length_eq_one_iff.1 hx
    obtain ⟨y, rfl⟩ := List.length_eq_one_iff.1 hy
    cases x <;> cases y <;> simp [treeOf, treeLevel, joinNodes]
  | succ k ih =>
    have hlevel := (treeLevel_append op (2 ^ k) xs ys (by omega)).1
    have hlx := (treeLevel_append op (2 ^ k) xs [] (by omega)).2
    have hly := (treeLevel_append op (2 ^ k) ys [] (by omega)).2
    rw [treeOf, hlevel, ih _ _ hlx hly]
    exact (joinNodes_or ..).symm

/-- The lanes below a node of a level. -/
def lanesBelowNode (k j : Nat) : List Nat := List.range' (j * 2 ^ k) (2 ^ k)

theorem lanesBelowNode_succ (k j : Nat) : lanesBelowNode (k + 1) j = lanesBelowNode k (2 * j) ++ lanesBelowNode k (2 * j + 1) := by
  have hstart : (2 * j + 1) * 2 ^ k = 2 * j * 2 ^ k + 1 * 2 ^ k := by rw [Nat.add_mul]
  rw [lanesBelowNode, lanesBelowNode, lanesBelowNode, hstart, List.range'_append, Nat.pow_succ]
  congr 1 <;> ring

/-- The tree over the lanes below a node is that node. -/
theorem treeOf_lanesBelowNode (leaf : Nat → Option Nat) (k j : Nat) : treeOf op k ((lanesBelowNode k j).map leaf) =
    ((treeNode op leaf k j).map (·.1), (treeNode op leaf k j).elim 0 (·.2)) := by
  induction k generalizing j with
  | zero =>
    cases h : leaf j <;> simp [treeOf, treeNode, lanesBelowNode, h]
  | succ k ih =>
    rw [lanesBelowNode_succ, List.map_append, treeOf_append op k _ _ (by simp [lanesBelowNode]) (by simp [lanesBelowNode]), ih, ih, treeNode]
    cases treeNode op leaf k (2 * j) <;> cases treeNode op leaf k (2 * j + 1) <;> simp [joinNodes]

end

/-! ### Reductions (R111) -/

/-- The lanes that take part in a reduction. -/
def reducedLane (s : State) (t : ETy) (g : PReg) (x : VReg) (j : Nat) : Option Nat :=
  if (s.cx.p g).getLsbD j then some (lane t.width x j) else none

/-- The root of a reduction's tree. -/
def reducedRoot (s : State) (t : ETy) (g : PReg) (op : FpEnv → Nat → Nat → Nat × FpFlags) (x : VReg) : Option (Nat × FpFlags) :=
  treeNode (op s.fpEnv) (reducedLane s t g x) (Nat.log2 (512 / t.width)) 0

theorem lanesBelowNode_root (t : ETy) : lanesBelowNode (Nat.log2 (512 / t.width)) 0 = List.range (512 / t.width) := by
  have hlanes : 2 ^ Nat.log2 (512 / t.width) = 512 / t.width := by cases t <;> decide
  rw [lanesBelowNode, Nat.zero_mul, hlanes, List.range_eq_range']

theorem reduce_run {s : State} {a : Reg} {x : VReg × Bool} (hx : sourceOf s.cx a = some x) (t : ETy) (d : Reg) (g : PReg)
    (op : FpEnv → Nat → Nat → Nat × FpFlags) (e : Nat) :
    reduce t d a g op e s = (.ok (), (s.setCx (((s.cx.popPorts [a]).addFlags ((reducedRoot s t g op x.1).elim 0 (·.2))).setV d
      (BitVec.ofNat 512 ((reducedRoot s t g op x.1).elim e (·.1))) x.2)).retire) := by
  have htree := treeOf_lanesBelowNode (op s.fpEnv) (reducedLane s t g x.1) (Nat.log2 (512 / t.width)) 0
  rw [lanesBelowNode_root] at htree
  have hlane : (fun j => if active (s.cx.p g) j then some (lane t.width x.1 j) else none) = reducedLane s t g x.1 := rfl
  have hvalue (r : Option (Nat × FpFlags)) : (r.map (·.1)).getD e = r.elim e (·.1) := by cases r <;> rfl
  rw [reduce, Exec.bind_ok (srcV_run hx), Exec.bind_ok (Exec.get_run s), Exec.bind_ok (modCx_run ..), retireE_run, State.modCx_eq_setCx, Context.addFlags_setV,
    rangeFrom_eq_range, hlane, htree, hvalue, reducedRoot]

/-! ### Integer lanes: an operation in the order of the lanes -/

/-- An operation on numbers of `w` bits may be bracketed at will, and `e` is its identity on both sides. -/
structure LaneMonoid (w : Nat) (f : Nat → Nat → Nat) (e : Nat) : Prop where
  identity_lt : e < 2 ^ w
  closed : ∀ x y, x < 2 ^ w → y < 2 ^ w → f x y < 2 ^ w
  assoc : ∀ x y z, x < 2 ^ w → y < 2 ^ w → z < 2 ^ w → f (f x y) z = f x (f y z)
  left_id : ∀ x, x < 2 ^ w → f e x = x
  right_id : ∀ x, x < 2 ^ w → f x e = x

/-- Of two numbers the one with the lower key, the second of equals. -/
theorem laneMonoid_min {w e : Nat} {key : Nat → Int} (he : e < 2 ^ w) (htop : ∀ x, x < 2 ^ w → key x < key e ∨ x = e) :
    LaneMonoid w (fun x y => if key x < key y then x else y) e where
  identity_lt := he
  closed x y hx hy := by split <;> assumption
  assoc x y z _ _ _ := by split_ifs <;> omega
  left_id x hx := by
    obtain h | rfl := htop x hx
    · exact if_neg (Int.not_lt.2 (Int.le_of_lt h))
    · exact ite_self _
  right_id x hx := by
    obtain h | rfl := htop x hx
    · exact if_pos h
    · exact ite_self _

/-- Of two numbers the one with the higher key, the first of equals. -/
theorem laneMonoid_max {w e : Nat} {key : Nat → Int} (he : e < 2 ^ w) (hbot : ∀ x, x < 2 ^ w → key e < key x ∨ x = e) :
    LaneMonoid w (fun x y => if key x < key y then y else x) e where
  identity_lt := he
  closed x y hx hy := by split <;> assumption
  assoc x y z _ _ _ := by split_ifs <;> omega
  left_id x hx := by
    obtain h | rfl := hbot x hx
    · exact if_pos h
    · exact ite_self _
  right_id x hx := by
    obtain h | rfl := hbot x hx
    · exact if_neg (Int.not_lt.2 (Int.le_of_lt h))
    · exact ite_self _

theorem laneMonoid_add (w : Nat) : LaneMonoid w (fun x y => (x + y) % 2 ^ w) 0 where
  identity_lt := Nat.two_pow_pos w
  closed _ _ _ _ := Nat.mod_lt _ (Nat.two_pow_pos w)
  assoc x y z _ _ _ := by simp [Nat.add_assoc]
  left_id x hx := by simp [Nat.mod_eq_of_lt hx]
  right_id x hx := by simp [Nat.mod_eq_of_lt hx]

theorem laneMonoid_and (w : Nat) : LaneMonoid w (fun x y => x &&& y) (2 ^ w - 1) where
  identity_lt := Nat.sub_lt (Nat.two_pow_pos w) Nat.one_pos
  closed _ _ _ hy := Nat.and_lt_two_pow _ hy
  assoc x y z _ _ _ := Nat.and_assoc x y z
  left_id x hx := by rw [Nat.and_comm, Nat.and_two_pow_sub_one_eq_mod, Nat.mod_eq_of_lt hx]
  right_id x hx := by rw [Nat.and_two_pow_sub_one_eq_mod, Nat.mod_eq_of_lt hx]

theorem laneMonoid_or (w : Nat) : LaneMonoid w (fun x y => x ||| y) 0 where
  identity_lt := Nat.two_pow_pos w
  closed _ _ hx hy := Nat.or_lt_two_pow hx hy
  assoc x y z _ _ _ := Nat.or_assoc x y z
  left_id x _ := Nat.zero_or x
  right_id x _ := Nat.or_zero x

theorem laneMonoid_unsignedMin (w : Nat) : LaneMonoid w (fun x y => if x ≤ y then x else y) (2 ^ w - 1) where
  identity_lt := Nat.sub_lt (Nat.two_pow_pos w) Nat.one_pos
  closed _ _ hx hy := by split <;> assumption
  assoc _ _ _ _ _ _ := by split_ifs <;> omega
  left_id _ hx := by split <;> omega
  right_id _ hx := by split <;> omega

theorem laneMonoid_unsignedMax (w : Nat) : LaneMonoid w (fun x y => if x ≤ y then y else x) 0 where
  identity_lt := Nat.two_pow_pos w
  closed _ _ hx hy := by split <;> assumption
  assoc _ _ _ _ _ _ := by split_ifs <;> omega
  left_id x _ := if_pos x.zero_le
  right_id _ _ := by split <;> omega

theorem signedLane_of_lt {w x : Nat} (hx : x < 2 ^ w) : signedLane w x = if x < 2 ^ (w - 1) then (x : Int) else (x : Int) - (2 ^ w : Nat) := by
  rw [← signedOf_eq_signedLane, signedOf, Nat.mod_eq_of_lt hx]

section
variable {w : Nat} (hw : 0 < w)
include hw

/-- The lanes of `w` bits whose sign is 0 are half of them. -/
theorem two_pow_eq_two_mul : 2 ^ w = 2 * 2 ^ (w - 1) := by rw [← Nat.pow_succ', Nat.succ_eq_add_one, Nat.sub_add_cancel hw]

theorem laneMonoid_signedMin : LaneMonoid w (fun x y => if signedLane w x < signedLane w y then x else y) (2 ^ (w - 1) - 1) := by
  have htwice := two_pow_eq_two_mul hw
  have hhalf := Nat.two_pow_pos (w - 1)
  have he : 2 ^ (w - 1) - 1 < 2 ^ w := by omega
  refine laneMonoid_min he fun x hx => ?_
  rw [signedLane_of_lt hx, signedLane_of_lt he]
  split_ifs <;> omega

theorem laneMonoid_signedMax : LaneMonoid w (fun x y => if signedLane w x < signedLane w y then y else x) (2 ^ (w - 1)) := by
  have htwice := two_pow_eq_two_mul hw
  have hhalf := Nat.two_pow_pos (w - 1)
  have he : 2 ^ (w - 1) < 2 ^ w := by omega
  refine laneMonoid_max he fun x hx => ?_
  rw [signedLane_of_lt hx, signedLane_of_lt he]
  split_ifs <;> omega

end

theorem width_pos (t : ETy) : 0 < t.width := by cases t <;> decide

/-- The operations of the integer reductions. -/
theorem laneMonoid_of_integerReductions {i : Instr} {d a : Reg} {g : PReg} {t : ETy} {f : Nat → Nat → Nat} {e : Nat}
    (h : integerReductions i = some (d, a, g, t, f, e)) : LaneMonoid t.width f e := by
  unfold integerReductions at h
  split at h
  case h_1 =>
    split at h <;> cases h
    exact laneMonoid_add _
  case h_2 =>
    split at h <;> cases h
    exact laneMonoid_signedMin (width_pos _)
  case h_3 =>
    split at h <;> cases h
    exact laneMonoid_signedMax (width_pos _)
  all_goals cases h
  case h_4 => exact laneMonoid_unsignedMin _
  case h_5 => exact laneMonoid_unsignedMax _
  case h_6 => exact laneMonoid_and _
  case h_7 => exact laneMonoid_or _

theorem LaneMonoid.foldl_eq {w : Nat} {f : Nat → Nat → Nat} {e : Nat} (h : LaneMonoid w f e) {l : List Nat} (hl : ∀ x ∈ l, x < 2 ^ w) {a : Nat} (ha : a < 2 ^ w) :
    l.foldl f a = f a (l.foldl f e) ∧ l.foldl f e < 2 ^ w := by
  induction l generalizing a with
  | nil => exact ⟨(h.right_id a ha).symm, h.identity_lt⟩
  | cons x l ih =>
    obtain ⟨hx, hl⟩ := List.forall_mem_cons.1 hl
    obtain ⟨hfold, hlt⟩ := ih hl hx
    rw [List.foldl_cons, List.foldl_cons, h.left_id x hx, hfold, (ih hl (h.closed a x ha hx)).1]
    exact ⟨h.assoc a x _ ha hx hlt, h.closed x _ hx hlt⟩

theorem LaneMonoid.foldl_append {w : Nat} {f : Nat → Nat → Nat} {e : Nat} (h : LaneMonoid w f e) {l l' : List Nat} (hl : ∀ x ∈ l, x < 2 ^ w)
    (hl' : ∀ x ∈ l', x < 2 ^ w) : (l ++ l').foldl f e = f (l.foldl f e) (l'.foldl f e) := by
  rw [List.foldl_append]
  exact (h.foldl_eq hl' (h.foldl_eq hl h.identity_lt).2).1

/-- A node of the tree of an operation without flags is the operation over the lanes below it, in their order. -/
theorem LaneMonoid.treeNode_eq {w : Nat} {f : Nat → Nat → Nat} {e : Nat} (h : LaneMonoid w f e) (p : Nat → Bool) (v : Nat → Nat) (hv : ∀ j, v j < 2 ^ w)
    (k j : Nat) : (treeNode (fun x y => (f x y, 0)) (fun i => if p i then some (v i) else none) k j).elim (e, 0) id =
      ((((lanesBelowNode k j).filter p).map v).foldl f e, 0) := by
  have hlt (l : List Nat) : ∀ x ∈ l.map v, x < 2 ^ w := List.forall_mem_map.2 fun j _ => hv j
  induction k generalizing j with
  | zero => cases hp : p j <;> simp [treeNode, lanesBelowNode, hp, h.left_id _ (hv j)]
  | succ k ih =>
    have hl := ih (2 * j)
    have hr := ih (2 * j + 1)
    have hlt_l := (h.foldl_eq (hlt ((lanesBelowNode k (2 * j)).filter p)) h.identity_lt).2
    rw [lanesBelowNode_succ, List.filter_append, List.map_append, h.foldl_append (hlt _) (hlt _), treeNode]
    generalize treeNode (fun x y => (f x y, 0)) (fun i => if p i then some (v i) else none) k (2 * j) = x at hl ⊢
    generalize treeNode (fun x y => (f x y, 0)) (fun i => if p i then some (v i) else none) k (2 * j + 1) = y at hr ⊢
    cases x with
    | none =>
      obtain ⟨hnone, -⟩ := Prod.mk.inj hl
      rw [← hnone, h.left_id _ (h.foldl_eq (hlt _) h.identity_lt).2]
      exact hr
    | some x =>
      obtain rfl : x = (_, 0) := hl
      cases y with
      | none =>
        obtain ⟨hnone, -⟩ := Prod.mk.inj hr
        rw [← hnone, h.right_id _ hlt_l]
        rfl
      | some y =>
        obtain rfl : y = (_, 0) := hr
        simp

/-- The root of a reduction without flags: the operation over the active lanes in their order. -/
theorem LaneMonoid.reducedRoot_eq {t : ETy} {f : Nat → Nat → Nat} {e : Nat} (h : LaneMonoid t.width f e) (s : State) (g : PReg) (x : VReg) :
    (reducedRoot s t g (fun _ x y => (f x y, 0)) x).elim e (·.1) =
      (((List.range (512 / t.width)).filter (s.cx.p g).getLsbD).map (lane t.width x)).foldl f e ∧
    (reducedRoot s t g (fun _ x y => (f x y, 0)) x).elim 0 (·.2) = 0 := by
  have hroot : (reducedRoot s t g (fun _ x y => (f x y, 0)) x).elim (e, 0) id = _ :=
    h.treeNode_eq (s.cx.p g).getLsbD (lane t.width x) (fun _ => Nat.mod_lt _ (Nat.two_pow_pos _)) _ 0
  rw [lanesBelowNode_root] at hroot
  cases hr : reducedRoot s t g (fun _ x y => (f x y, 0)) x with
  | none =>
    rw [hr] at hroot
    exact ⟨congrArg Prod.fst hroot, rfl⟩
  | some r =>
    rw [hr] at hroot
    exact ⟨congrArg Prod.fst hroot, congrArg Prod.snd hroot⟩

theorem exec_integerReductions {i : Instr} {d a : Reg} {g : PReg} {t : ETy} {f : Nat → Nat → Nat} {e : Nat}
    (h : integerReductions i = some (d, a, g, t, f, e)) (s : State) : exec i s = finish (reduce t d a g (fun _ x y => (f x y, 0)) e) s := by
  unfold integerReductions at h
  split at h
  case h_8 => cases h
  case h_4 | h_5 | h_6 | h_7 =>
    cases h
    rfl
  all_goals
    split at h
    case isTrue => cases h
    case isFalse ht =>
      cases h
      change finish (reduce t d a g _ _) s = _
      simp only [ht, Bool.false_eq_true, if_false, signedOf_eq_signedLane]

theorem exec_floatReductions {i : Instr} {d a : Reg} {g : PReg} {t : ETy} {f : FpEnv → Nat → Nat → Nat × FpFlags} {e : Nat}
    (h : floatReductions i = some (d, a, g, t, f, e)) (s : State) : exec i s = finish (reduce t d a g f e) s := by
  unfold floatReductions at h
  split at h
  case h_4 => cases h
  all_goals
    split at h
    case isFalse => cases h
    case isTrue ht =>
      cases h
      change finish (reduce t d a g _ _) s = _
      simp only [ht, if_true]

end Sys2Proof.Machine

namespace Sys2Proof.Claims
open Sys2Proof.Machine

/-- Settles O26: a reduction leaves its tree's root, which of an operation without flags is the operation over the active lanes in their order. -/
theorem reductionResults : Obligations.ReductionResults := by
  unfold Obligations.ReductionResults
  refine ⟨fun i d a g t f e hi s x hx => ?_, fun i d a g t f e hi s x hx => ?_⟩
  · obtain ⟨hvalue, hflags⟩ := (laneMonoid_of_integerReductions hi).reducedRoot_eq s g x.1
    have hrun := reduce_run hx t d g (fun _ x y => (f x y, 0)) e
    rw [hvalue, hflags, Context.addFlags_zero] at hrun
    exact plainFrom_setV (exec_integerReductions hi s) hrun
  · exact plainFrom_setV (exec_floatReductions hi s) (reduce_run hx t d g f e)

end Sys2Proof.Claims
end

section
/-! Conversions that change the number of lanes (spec 03 R58, R64, R65, R67; 05 R95, R106 to R109): what lanes written to a register or a pair of them leave, and the settling of O29. -/

namespace Sys2Proof.Machine
open Sys2Proof.Claims

/-! ### Lanes written to one register or to a pair (R95, R107) -/

/-- The lanes of a register from the lane `k` of a destination on: those written, with their flags, and the old ones. -/
def lanesWritten (w : Nat) (old : VReg) (f : Nat → Option (Nat × FpFlags)) (k : Nat) : List (Nat × FpFlags) :=
  (List.range (512 / w)).map (fun i => (f (k + i)).getD (lane w old i, 0))

def vectorWritten (w : Nat) (old : VReg) (f : Nat → Option (Nat × FpFlags)) (k : Nat) : VReg := ofLanesV w ((lanesWritten w old f k).map (·.1))

/-- What the lanes written raise, of `n` of them. -/
def raisedWriting (n : Nat) (f : Nat → Option (Nat × FpFlags)) : FpFlags := orFlags ((List.range n).map (fun i => (f i).getD (0, 0)))

/-- The lane that a write leaves: the new one modulo its width, or the old one. -/
def laneWritten (w old : Nat) (r : Option (Nat × FpFlags)) : Nat := r.elim old (fun x => x.1 % 2 ^ w)

theorem lane_vectorWritten (w : Nat) (old : VReg) (f : Nat → Option (Nat × FpFlags)) (k i : Nat) (hi : i < 512 / w) :
    lane w (vectorWritten w old f k) i = laneWritten w (lane w old i) (f (k + i)) := by
  rw [vectorWritten, lanesWritten, List.map_map, lane_ofLanesV w _ (by simpa using Nat.mul_div_le 512 w) i (by simpa using hi), List.getElem_map, List.getElem_range,
    Function.comp]
  cases f (k + i) with
  | none => exact lane_mod w old i
  | some x => rfl

theorem getLsbD_raisedWriting (n : Nat) (f : Nat → Option (Nat × FpFlags)) (b : Nat) :
    (raisedWriting n f).getLsbD b = (List.range n).any (fun i => ((f i).getD (0, 0)).2.getLsbD b) := by
  rw [raisedWriting, getLsbD_orFlags, List.any_map]
  rfl

/-- A lane that is not written raises nothing, whatever it holds. -/
theorem flags_getD (r : Option (Nat × FpFlags)) (x : Nat) : (r.getD (x, 0)).2 = (r.getD (0, 0)).2 := by cases r <;> rfl

theorem getLsbD_orFlags_lanesWritten (w : Nat) (old : VReg) (f : Nat → Option (Nat × FpFlags)) (k b : Nat) :
    (orFlags (lanesWritten w old f k)).getLsbD b = (List.range (512 / w)).any (fun i => ((f (k + i)).getD (0, 0)).2.getLsbD b) := by
  rw [getLsbD_orFlags, lanesWritten, List.any_map]
  exact congrArg _ (funext fun i => by rw [Function.comp, flags_getD])

theorem orFlags_lanesWritten (w : Nat) (old : VReg) (f : Nat → Option (Nat × FpFlags)) :
    orFlags (lanesWritten w old f 0) = raisedWriting (512 / w) f :=
  BitVec.eq_of_getLsbD_eq fun b _ => by simp only [getLsbD_orFlags_lanesWritten, getLsbD_raisedWriting, Nat.zero_add]

theorem orFlags_lanesWritten_pair (w : Nat) (old old' : VReg) (f : Nat → Option (Nat × FpFlags)) :
    orFlags (lanesWritten w old f 0 ++ lanesWritten w old' f (512 / w)) = raisedWriting (2 * (512 / w)) f := by
  refine BitVec.eq_of_getLsbD_eq fun b _ => ?_
  rw [getLsbD_orFlags, List.any_append, ← getLsbD_orFlags, ← getLsbD_orFlags, getLsbD_orFlags_lanesWritten, getLsbD_orFlags_lanesWritten, getLsbD_raisedWriting,
    Nat.two_mul, List.range_add, List.any_append, List.any_map]
  simp only [Nat.zero_add]
  rfl

theorem writeLanes_one (w : Nat) (d : Reg) (srcs : List Reg) (sp full : Bool) (f : Nat → Option (Nat × FpFlags)) (s : State) :
    writeLanes w d false srcs sp full f s = (.ok (), (s.setCx (((s.cx.popPorts srcs).addFlags (raisedWriting (512 / w) f)).setV d
      (vectorWritten w (s.cx.v d) f 0) (sp || (!full && s.cx.vp d)))).retire) := by
  rw [writeLanes, Exec.bind_ok (cx_run s), Exec.bind_ok (modCx_run ..), retireE_run, State.modCx_eq_setCx, ← orFlags_lanesWritten w (s.cx.v d)]
  simp only [Bool.false_eq_true, if_false, List.append_nil, rangeFrom_eq_range, Context.addFlags_setV]
  rfl

theorem writeLanes_pair (w : Nat) (d : Reg) (srcs : List Reg) (sp full : Bool) (f : Nat → Option (Nat × FpFlags)) (s : State) :
    writeLanes w d true srcs sp full f s = (.ok (), (s.setCx ((((s.cx.popPorts srcs).addFlags (raisedWriting (2 * (512 / w)) f)).setV d
      (vectorWritten w (s.cx.v d) f 0) (sp || (!full && s.cx.vp d))).setV (d + 1)
      (vectorWritten w (s.cx.v (d + 1)) f (512 / w)) (sp || (!full && s.cx.vp (d + 1))))).retire) := by
  rw [writeLanes, Exec.bind_ok (cx_run s), Exec.bind_ok (modCx_run ..), retireE_run, State.modCx_eq_setCx,
    ← orFlags_lanesWritten_pair w (s.cx.v d) (s.cx.v (d + 1))]
  simp only [if_true, rangeFrom_eq_range, Context.addFlags_setV]
  rfl

section
variable {i : Instr} {s : State} {w : Nat} {d : Reg} {srcs : List Reg} {sp full : Bool} {f : Nat → Option (Nat × FpFlags)} {fl : FpFlags} {val : Nat → Nat}

/-- An instruction that writes lanes of one register. -/
theorem writesLanes (he : exec i s = finish (writeLanes w d false srcs sp full f) s) (hfl : raisedWriting (512 / w) f = fl)
    (hval : ∀ j, j < 512 / w → laneWritten w (lane w (s.cx.v d) j) (f j) = val j) :
    ∃ q, PlainFrom i s ((s.cx.popPorts srcs).addFlags fl) q [] [d] [] ∧ HoldsV q.cx d w val (sp || (s.cx.vp d && !full)) := by
  subst hfl
  obtain ⟨q, hplain, hholds⟩ := plainFrom_setV he (writeLanes_one w d srcs sp full f s)
  refine ⟨q, hplain, fun hport => ?_⟩
  obtain ⟨hv, hp⟩ := hholds hport
  rw [hv, hp, Bool.and_comm]
  exact ⟨fun j hj => by rw [lane_vectorWritten _ _ _ _ _ hj, Nat.zero_add, hval j hj], rfl⟩

/-- An instruction that writes lanes of a pair of registers. -/
theorem writesLanes_pair (he : exec i s = finish (writeLanes w d true srcs sp full f) s) (hfl : raisedWriting (2 * (512 / w)) f = fl)
    (hval : ∀ j, j < 2 * (512 / w) → laneWritten w (lane w (s.cx.v (half d (512 / w) j)) (j % (512 / w))) (f j) = val j) :
    ∃ q, PlainFrom i s ((s.cx.popPorts srcs).addFlags fl) q [] [d, d + 1] [] ∧ ∀ j, j < 2 * (512 / w) → s.cx.portOf (half d (512 / w) j) = none →
      q.cx.vp (half d (512 / w) j) = (sp || (s.cx.vp (half d (512 / w) j) && !full)) ∧ lane w (q.cx.v (half d (512 / w) j)) (j % (512 / w)) = val j := by
  subst hfl
  obtain ⟨q, hplain, hlo, hhi⟩ := plainFrom_setV_pair he (writeLanes_pair w d srcs sp full f s)
  refine ⟨q, hplain, fun j hj hport => ?_⟩
  have hpop := Context.portOf_popPorts hport srcs
  rw [← hval j hj, Bool.and_comm]
  by_cases h : j < 512 / w
  · rw [half, if_pos h] at hpop ⊢
    obtain ⟨hv, hp⟩ := hlo hpop
    rw [hv, hp, Nat.mod_eq_of_lt h, lane_vectorWritten _ _ _ _ _ h, Nat.zero_add]
    exact ⟨rfl, rfl⟩
  · rw [half, if_neg h] at hpop ⊢
    obtain ⟨hv, hp⟩ := hhi hpop
    have hlt : j - 512 / w < 512 / w := by omega
    rw [hv, hp, Nat.mod_eq_sub_mod (Nat.not_lt.1 h), Nat.mod_eq_of_lt hlt, lane_vectorWritten _ _ _ _ _ hlt, Nat.add_sub_of_le (Nat.not_lt.1 h)]
    exact ⟨rfl, rfl⟩

end

/-! ### Lanes written where they are active -/

/-- The active lanes are written. -/
def whereActive (m : Dword) (r : Nat → Nat × FpFlags) (j : Nat) : Option (Nat × FpFlags) := if active m j then some (r j) else none

theorem laneWritten_whereActive (w old : Nat) (m : Dword) (r : Nat → Nat × FpFlags) (j : Nat) :
    laneWritten w old (whereActive m r j) = if m.getLsbD j then (r j).1 % 2 ^ w else old := by
  rw [whereActive, active]
  split <;> rfl

theorem raisedWriting_whereActive (n : Nat) (m : Dword) (r : Nat → Nat × FpFlags) : raisedWriting n (whereActive m r) = raised n m (fun j => (r j).2) := by
  refine BitVec.eq_of_getLsbD_eq fun b _ => ?_
  rw [getLsbD_raisedWriting, getLsbD_raised]
  refine congrArg (List.any _) (funext fun j => ?_)
  rw [whereActive, active]
  cases m.getLsbD j <;> simp

/-- Lanes written without flags raise nothing. -/
theorem raisedWriting_unflagged (n : Nat) (c : Nat → Bool) (v : Nat → Nat) : raisedWriting n (fun j => if c j then some (v j, 0) else none) = 0 := by
  refine BitVec.eq_of_getLsbD_eq fun b _ => ?_
  rw [getLsbD_raisedWriting, BitVec.ofNat_eq_ofNat, BitVec.getLsbD_zero, List.any_eq_false]
  intro j _
  cases c j <;> simp

/-- Of a quarter of the lanes of a byte each, those are written whose own is active. -/
def whereQuarterActive (m : Dword) (k : Nat) (r : Nat → Nat × FpFlags) (j : Nat) : Option (Nat × FpFlags) :=
  if j / 16 = k ∧ active m (j % 16) then some (r (j % 16)) else none

theorem laneWritten_whereQuarterActive (w old : Nat) (m : Dword) (k : Nat) (r : Nat → Nat × FpFlags) (j : Nat) :
    laneWritten w old (whereQuarterActive m k r j) = if j / 16 = k ∧ m.getLsbD (j % 16) = true then (r (j % 16)).1 % 2 ^ w else old := by
  unfold whereQuarterActive active
  split <;> rfl

theorem raisedWriting_whereQuarterActive (m : Dword) {k : Nat} (hk : k < 4) (r : Nat → Nat × FpFlags) :
    raisedWriting 64 (whereQuarterActive m k r) = raised 16 m (fun j => (r j).2) := by
  have hflag (j b : Nat) : ((whereQuarterActive m k r j).getD (0, 0)).2.getLsbD b = true ↔
      j / 16 = k ∧ m.getLsbD (j % 16) = true ∧ (r (j % 16)).2.getLsbD b = true := by
    unfold whereQuarterActive active
    split <;> simp_all
  refine BitVec.eq_of_getLsbD_eq fun b _ => Bool.eq_iff_iff.2 ?_
  simp only [getLsbD_raisedWriting, getLsbD_raised, List.any_eq_true, List.mem_range, hflag, Bool.and_eq_true]
  constructor
  · rintro ⟨j, -, -, h⟩
    exact ⟨j % 16, Nat.mod_lt _ (by decide), h⟩
  · rintro ⟨j, hj, h⟩
    have hdiv : (16 * k + j) / 16 = k := by omega
    have hmod : (16 * k + j) % 16 = j := by omega
    exact ⟨16 * k + j, by omega, hdiv, hmod.symm ▸ h⟩

/-- One flag of every active lane. -/
theorem raised_const (n : Nat) (m : Dword) (f : FpFlags) : raised n m (fun _ => f) = if (List.range n).any m.getLsbD then f else 0 := by
  refine BitVec.eq_of_getLsbD_eq fun b _ => ?_
  rw [getLsbD_raised]
  cases hf : f.getLsbD b <;> split <;> simp_all

/-! ### The computations of the conversions (R106 to R109) -/

/-- What a meaning answers depends on what its computation does with the state alone. -/
theorem finish_congr {m m' : Exec Unit} {s : State} (h : m s = m' s) : finish m s = finish m' s := by
  unfold finish
  rw [h]

section
variable {s : State} {a : Reg} {x : VReg × Bool} (hx : sourceOf s.cx a = some x) (d b : Reg) (u : Bool) (e t : ETy) (g : PReg)
include hx

theorem exec_vcvtw : exec (.vcvtw d a u e g t) s = finish (writeLanes e.width d true [a] x.2 (allActive (512 / t.width) (s.cx.p g))
    (whereActive (s.cx.p g) (fun j => cvtLane u e t s.fpEnv (lane t.width x.1 j)))) s :=
  finish_congr (by rw [Exec.bind_ok (srcV_run hx), Exec.bind_ok (Exec.get_run s)]; rfl)

theorem exec_vcvtn {y : VReg × Bool} (hy : sourceOf s.cx (a + 1) = some y) : exec (.vcvtn d a u e g t) s =
    finish (writeLanes e.width d false [a, a + 1] (x.2 || y.2) (allActive (512 / e.width) (s.cx.p g)) (whereActive (s.cx.p g)
      (fun j => cvtLane u e t s.fpEnv (if j < 512 / t.width then lane t.width x.1 j else lane t.width y.1 (j - 512 / t.width))))) s :=
  finish_congr (by rw [Exec.bind_ok (srcV_run hx), Exec.bind_ok (srcV_run hy), Exec.bind_ok (Exec.get_run s)]; rfl)

theorem exec_vcbx : exec (.vcbx d a g) s = finish (writeLanes 8 d true [a] x.2 (allActive 64 (s.cx.p g))
    (fun j => if active (s.cx.p g) (j / 2) then some (codeVal s.cx.cr.cbtl s.cx.cr.cbth (lane 4 x.1 j), 0) else none)) s :=
  finish_congr (by rw [Exec.bind_ok (srcV_run hx), Exec.bind_ok (cx_run s)])

/-- A binary8 code converted, of a reserved format the NaN (R64). -/
def fromCode (o : Option B8) (env : FpEnv) (c : Nat) : Nat × FpFlags := o.elim (FFmt.f32.qnan, fNV) (fun f => cvtFromB8 f .f32 env c)
/-- A binary32 value converted to a binary8 code, of a reserved format the NaN (R65). -/
def toCode (o : Option B8) (env : FpEnv) (v : Nat) : Nat × FpFlags := o.elim (0x80, fNV) (fun f => f.encode env (FFmt.f32.decode env.flush v))

/-- The binary8 format that a register names, and the quarter of the lanes (R62, R108). -/
def codeFormat (s : State) (b : Reg) : Option B8 := B8.of ((s.cx.s b).extractLsb' 0 8).toNat
def quarterOf (s : State) (b : Reg) : Nat := ((s.cx.s b).extractLsb' 8 2).toNat

theorem exec_vcvtq (hp : s.cx.sp b = false) : exec (.vcvtq d a b g) s = finish (writeLanes 32 d false [a] x.2 (allActive 16 (s.cx.p g))
    (whereActive (s.cx.p g) (fun j => fromCode (codeFormat s b) s.fpEnv (lane 8 x.1 (16 * quarterOf s b + j))))) s :=
  finish_congr (by
    rw [Exec.bind_ok (srcV_run hx), Exec.bind_ok (Exec.get_run s), hp, Exec.bind_ok (guardPoison_false s), codeFormat]
    cases B8.of ((s.cx.s b).extractLsb' 0 8).toNat <;> rfl)

theorem exec_vcvte (hp : s.cx.sp b = false) : exec (.vcvte d a b g) s = finish (writeLanes 8 d false [a] x.2 false
    (whereQuarterActive (s.cx.p g) (quarterOf s b) (fun j => toCode (codeFormat s b) s.fpEnv (lane 32 x.1 j)))) s :=
  finish_congr (by
    rw [Exec.bind_ok (srcV_run hx), Exec.bind_ok (Exec.get_run s), hp, Exec.bind_ok (guardPoison_false s), codeFormat]
    cases B8.of ((s.cx.s b).extractLsb' 0 8).toNat <;> rfl)

theorem vcvtq_poisoned (hp : s.cx.sp b = true) : TrapsPoison (.vcvtq d a b g) s :=
  trapsPoison_of_error rfl (by rw [Exec.bind_ok (srcV_run hx), Exec.bind_ok (Exec.get_run s), hp, Exec.bind_error (guardPoison_true s)])
theorem vcvte_poisoned (hp : s.cx.sp b = true) : TrapsPoison (.vcvte d a b g) s :=
  trapsPoison_of_error rfl (by rw [Exec.bind_ok (srcV_run hx), Exec.bind_ok (Exec.get_run s), hp, Exec.bind_error (guardPoison_true s)])

end

/-! ### Numbers of lanes -/

/-- Lanes of half the width are twice as many. -/
theorem lanes_of_half_width {e t : ETy} (h : e.width = 2 * t.width) : 512 / t.width = 2 * (512 / e.width) := by
  have hdvd : e.width ∣ 512 := by cases e <;> decide
  rw [h] at hdvd ⊢
  rw [← Nat.mul_div_assoc 2 hdvd, Nat.mul_div_mul_left 512 t.width (by decide)]

theorem quarterOf_lt (s : State) (b : Reg) : quarterOf s b < 4 := BitVec.isLt _

end Sys2Proof.Machine

namespace Sys2Proof.Claims
open Sys2Proof.Machine

section
variable {s : State} {a : Reg} {x : VReg × Bool} (hx : sourceOf s.cx a = some x) (d b : Reg) (g : PReg)
include hx

/-- `vcvtw` fills a pair of registers, each lane where it is active (R106, R107). -/
theorem vcvtw_completes (u : Bool) {e t : ETy} (h : e.width = 2 * t.width) :
    let n := 512 / e.width
    let r (j : Nat) := cvtLane u e t s.fpEnv (lane t.width x.1 j)
    ∃ q, PlainFrom (.vcvtw d a u e g t) s ((s.cx.popPorts [a]).addFlags (raised (2 * n) (s.cx.p g) (fun j => (r j).2))) q [] [d, d + 1] [] ∧
      ∀ j, j < 2 * n → s.cx.portOf (half d n j) = none →
        q.cx.vp (half d n j) = (x.2 || (s.cx.vp (half d n j) && !(List.range (2 * n)).all (s.cx.p g).getLsbD)) ∧
        lane e.width (q.cx.v (half d n j)) (j % n) =
          if (s.cx.p g).getLsbD j then (r j).1 % 2 ^ e.width else lane e.width (s.cx.v (half d n j)) (j % n) := by
  have hexec := exec_vcvtw hx d u e t g
  rw [allActive_eq_range, lanes_of_half_width h] at hexec
  exact writesLanes_pair hexec (raisedWriting_whereActive ..) fun j _ => laneWritten_whereActive ..

/-- `vcvtn` fills one register from two (R106, R107). -/
theorem vcvtn_completes (u : Bool) {e t : ETy} {y : VReg × Bool} (h : t.width = 2 * e.width) (hy : sourceOf s.cx (a + 1) = some y) :
    let n := 512 / t.width
    let r (j : Nat) := cvtLane u e t s.fpEnv (if j < n then lane t.width x.1 j else lane t.width y.1 (j - n))
    ∃ q, PlainFrom (.vcvtn d a u e g t) s ((s.cx.popPorts [a, a + 1]).addFlags (raised (2 * n) (s.cx.p g) (fun j => (r j).2))) q [] [d] [] ∧
      HoldsV q.cx d e.width (fun j => if (s.cx.p g).getLsbD j then (r j).1 % 2 ^ e.width else lane e.width (s.cx.v d) j)
        (x.2 || y.2 || (s.cx.vp d && !(List.range (2 * n)).all (s.cx.p g).getLsbD)) := by
  have hexec := exec_vcvtn hx d u e t g hy
  rw [allActive_eq_range, lanes_of_half_width h] at hexec
  refine writesLanes hexec ?_ fun j _ => laneWritten_whereActive ..
  rw [raisedWriting_whereActive, lanes_of_half_width h]

/-- `vcvtq` fills a register from a quarter of one, by whichever format (R108). -/
theorem vcvtq_completes (hp : s.cx.sp b = false) :
    let r (j : Nat) := fromCode (codeFormat s b) s.fpEnv (lane 8 x.1 (16 * quarterOf s b + j))
    ∃ q, PlainFrom (.vcvtq d a b g) s ((s.cx.popPorts [a]).addFlags (raised 16 (s.cx.p g) (fun j => (r j).2))) q [] [d] [] ∧
      HoldsV q.cx d 32 (fun j => if (s.cx.p g).getLsbD j then (r j).1 % 2 ^ 32 else lane 32 (s.cx.v d) j)
        (x.2 || (s.cx.vp d && !(List.range 16).all (s.cx.p g).getLsbD)) := by
  have hexec := exec_vcvtq hx d b g hp
  rw [allActive_eq_range] at hexec
  exact writesLanes hexec (raisedWriting_whereActive ..) fun j _ => laneWritten_whereActive ..

/-- `vcvte` fills a quarter of a register, by whichever format (R108). -/
theorem vcvte_completes (hp : s.cx.sp b = false) :
    let r (j : Nat) := toCode (codeFormat s b) s.fpEnv (lane 32 x.1 j)
    ∃ q, PlainFrom (.vcvte d a b g) s ((s.cx.popPorts [a]).addFlags (raised 16 (s.cx.p g) (fun j => (r j).2))) q [] [d] [] ∧
      HoldsV q.cx d 8 (fun j => if j / 16 = quarterOf s b ∧ (s.cx.p g).getLsbD (j % 16) = true then (r (j % 16)).1 % 2 ^ 8 else lane 8 (s.cx.v d) j)
        (x.2 || s.cx.vp d) := by
  obtain ⟨q, hplain, hholds⟩ := writesLanes (exec_vcvte hx d b g hp) (raisedWriting_whereQuarterActive _ (quarterOf_lt s b) _)
    fun j _ => laneWritten_whereQuarterActive ..
  rw [Bool.not_false, Bool.and_true] at hholds
  exact ⟨q, hplain, hholds⟩

/-- `vcbx` fills a pair of registers with values of the codebook, two to a mask bit (R109). -/
theorem vcbx_completes : ∃ q, PlainFrom (.vcbx d a g) s (s.cx.popPorts [a]) q [] [d, d + 1] [] ∧ ∀ j, j < 128 → s.cx.portOf (half d 64 j) = none →
    q.cx.vp (half d 64 j) = (x.2 || (s.cx.vp (half d 64 j) && !(List.range 64).all (s.cx.p g).getLsbD)) ∧
    lane 8 (q.cx.v (half d 64 j)) (j % 64) =
      if (s.cx.p g).getLsbD (j / 2) then codeVal s.cx.cr.cbtl s.cx.cr.cbth (lane 4 x.1 j) % 2 ^ 8 else lane 8 (s.cx.v (half d 64 j)) (j % 64) := by
  have hexec := exec_vcbx hx d g
  rw [allActive_eq_range] at hexec
  have h := writesLanes_pair hexec (raisedWriting_unflagged ..) fun _ _ => rfl
  rw [Context.addFlags_zero] at h
  obtain ⟨q, hplain, hlanes⟩ := h
  refine ⟨q, hplain, fun j hj hport => ?_⟩
  obtain ⟨hpois, hlane⟩ := hlanes j hj hport
  refine ⟨hpois, hlane.trans ?_⟩
  unfold active
  split <;> rfl

end

/-- Settles O29, conversion by conversion; of a reserved format each lane is the NaN of its destination, with NV. -/
theorem wideningAndNarrowingConversions : Obligations.WideningAndNarrowingConversions := by
  unfold Obligations.WideningAndNarrowingConversions
  intro s d a b g
  refine ⟨fun u e t x h _ hx => vcvtw_completes hx d g u h, fun u e t x y h hx hy => vcvtn_completes hx d g u h hy, fun x f hx hp hf => ?_, fun x hx hp hf => ?_,
    fun x hx hp => ⟨vcvtq_poisoned hx d b g hp, vcvte_poisoned hx d b g hp⟩, fun x _ hx => vcbx_completes hx d g⟩
  all_goals
    have hq := vcvtq_completes hx d b g hp
    have he := vcvte_completes hx d b g hp
    rw [codeFormat, hf] at hq he
  · exact ⟨hq, he⟩
  · simp only [fromCode, toCode, Option.elim_none, raised_const] at hq he
    exact ⟨hq, he⟩

end Sys2Proof.Claims
end

section
/-! System instructions that change no register (spec 04 R91, R93; 19 R345), and the settling of O10 and O12. -/

namespace Sys2Proof.Machine
open Sys2Proof.Claims

/-- The computation of `wfe`. -/
def wfeE : Exec Unit := do
  if (← cx).latch then
    modCx (fun c => { c with latch := false })
    retireE
  else throw (.wait .latch)

theorem exec_wfe (s : State) : exec .wfe s = finish wfeE s := rfl

theorem wfeE_run (s : State) : wfeE s =
    if s.cx.latch then (.ok (), (s.modCx (fun c => { c with latch := false })).retire) else (.error (.wait .latch), s) := by
  rw [wfeE, Exec.bind_ok (cx_run s)]
  cases s.cx.latch <;> rfl

/-- The computation of `chkerr`: it waits for the units as an access to FPM does. -/
def chkerrE (m : BitVec 3) (s : State) : Exec Unit := do
  waitUnits .fpm
  guardTrap (s.cx.cr.chkint.extractLsb' 0 3 &&& m == 0) cPOISON s.cx.cr.chkint
  retireE

theorem exec_chkerr (m : BitVec 3) (s : State) : exec (.chkerr m) s = finish (chkerrE m s) s := by
  refine finish_congr ?_
  simp only [chkerrE, waitUnits, Exec.bind_run, Exec.get_run, Exec.andThen_ok]
  cases s.co.matq.any (fun j => j.slot == s.slotNum)
  case true => rfl
  cases s.co.spq.any (fun j => j.slot == s.slotNum) <;> rfl

/-- What `chkerr` does, check after check: the wait for the units, POISON. -/
theorem chkerrE_run (m : BitVec 3) (s : State) : ∃ k, chkerrE m s s =
    if unitsQuiet s .fpm then
      if s.cx.cr.chkint.extractLsb' 0 3 &&& m = 0 then (.ok (), s.retire) else (.error (.trap cPOISON s.cx.cr.chkint), s)
    else (.error (.wait k), s) := by
  obtain ⟨k, hk⟩ := waitUnits_run .fpm s
  refine ⟨k, ?_⟩
  rw [chkerrE, Exec.bind_run, hk]
  cases unitsQuiet s .fpm
  case false => rfl
  rw [if_pos rfl, if_pos rfl, Exec.andThen_ok, Exec.bind_run, guardTrap_run]
  simp only [beq_iff_eq]
  split <;> rfl

/-- What `Keeps` says of everything but the registers, the pc, the wait and LCNT. -/
theorem Context.Keeps.rest_eq {c d : Context} {ss vs : List Reg} {ps : List PReg} (h : c.Keeps d ss vs ps) : d.rest = c.rest := by
  obtain ⟨-, -, -, hrest⟩ := h
  exact hrest

end Sys2Proof.Machine

namespace Sys2Proof.Claims
open Sys2Proof.Machine

/-- Settles O10: neither cause is one that a stop treats apart. -/
theorem trapAndBrkptRaise : Obligations.TrapAndBrkptRaise := by
  unfold Obligations.TrapAndBrkptRaise
  exact fun n s => ⟨traps_of_error (m := trapWith cSYSCALL s.wordValue) rfl (trapWith_run ..) (by decide) (by decide),
    traps_of_error (m := trapWith cBRK s.wordValue) rfl (trapWith_run ..) (by decide) (by decide)⟩

theorem wfe_completes {s : State} (h : s.cx.latch = true) : ∃ t, exec .wfe s = .next t ∧ s.OnlyContext t s.cur ∧ t.cx.latch = false ∧
    Context.Keeps { s.cx with latch := false } t.cx [] [] [] ∧ s.Retired s.cx t := by
  have hrun : wfeE s = (.ok (), (s.setCx { s.cx with latch := false }).retire) := by rw [wfeE_run, if_pos h]; rfl
  obtain ⟨hexec, honly, hkeeps, hret⟩ := plainFrom_of_keeps (exec_wfe s) (c := { s.cx with latch := false }) (ss := []) (vs := []) (ps := [])
    hrun ⟨fun _ _ => ⟨rfl, rfl⟩, fun _ _ => ⟨rfl, rfl⟩, fun _ _ => rfl, rfl⟩ rfl
  exact ⟨_, hexec, honly, (congrArg Context.latch hkeeps.rest_eq :), hkeeps, hret⟩

/-- Settles O12: what each instruction checks, in order. -/
theorem nopWfeChkerr : Obligations.NopWfeChkerr := by
  unfold Obligations.NopWfeChkerr
  intro s
  refine ⟨⟨_, plain_retire .nop s rfl⟩, wfe_completes, fun h => ?_, fun m hq => ?_, fun m hq hm => ?_, fun m hq hm => ?_⟩
  · exact waits_of_error (exec_wfe s) (by rw [wfeE_run, h]; rfl)
  all_goals obtain ⟨k, hrun⟩ := chkerrE_run m s
  · exact ⟨k, waits_of_error (exec_chkerr m s) (by rw [hrun, hq]; rfl)⟩
  · exact ⟨_, plain_retire _ s ((exec_chkerr m s).trans (finish_ok _ _ _ (by rw [hrun, if_pos hq, if_pos hm])))⟩
  · exact trapsPoison_of_error (exec_chkerr m s) (by rw [hrun, if_pos hq, if_neg hm])

end Sys2Proof.Claims
end

section
/-! Addresses that no table translates (spec 10 R208, R216, R217), and the settling of O16. -/

namespace Sys2Proof.Machine

section
variable {s : State} {ag : Agent} {core : Nat} {sp : Space} {va : Dword} {acc : Access} {n : Nat} (hv : sp.physical = false)
include hv

theorem translate_not_canonical (hc : canonical va = false) : s.translate ag core sp va acc n = (.error cACCESS, s) := by
  simp [State.translate, State.translateLeaf, hv, hc]

theorem translate_scratch_window (hc : canonical va = true) (hlo : Config.scratchBase ≤ va.toNat)
    (hhi : va.toNat < Config.scratchBase + Config.scratchWindow) (hacc : acc ≠ .fetch) : s.translate ag core sp va acc n =
      (if va.toNat - Config.scratchBase < scratchBytes (s.getCore core) then .ok (.scratch (va.toNat - Config.scratchBase)) else .error cACCESS, s) := by
  have hwin : Config.scratchBase ≤ va.toNat ∧ va.toNat < Config.scratchBase + Config.scratchWindow := ⟨hlo, hhi⟩
  by_cases hsize : va.toNat - Config.scratchBase < scratchBytes (s.getCore core)
  · simp [State.translate, State.translateLeaf, hv, hc, hwin, hacc, hsize, Nat.not_le.2 hsize]
  · simp [State.translate, State.translateLeaf, hv, hc, hwin, hsize, Nat.not_lt.1 hsize]

end

end Sys2Proof.Machine

namespace Sys2Proof.Claims
open Sys2Proof.Machine

/-- Settles O16: both are decided before any table is read. -/
theorem canonicalAndScratchpadAddresses : Obligations.CanonicalAndScratchpadAddresses := by
  unfold Obligations.CanonicalAndScratchpadAddresses
  exact fun s ag core sp va acc n hv => ⟨translate_not_canonical hv, translate_scratch_window hv⟩

end Sys2Proof.Claims
end

section
/-! Transfers of control (spec 02 R37; 04 R84 to R87): the word of a branch after an imm word, branches, jumps and `loop`, and the settling of O3 and O4. -/

namespace Sys2Proof.Machine
open Sys2Proof.Claims

/-! ### Addresses of transfers -/

/-- Four times a sign-extended offset, as a number (R84). -/
theorem four_mul_signExtend {n : Nat} (i : BitVec n) : (4 : Dword) * i.signExtend 64 = BitVec.ofInt 64 (4 * i.toInt) := by
  rw [BitVec.ofInt_mul]; rfl

theorem lastWord_offset (s : State) {n : Nat} (i : BitVec n) : s.lastWord + 4 * i.signExtend 64 = relative s i := by
  rw [four_mul_signExtend]; rfl

theorem canon_of_canonical {x : Dword} (h : canonical x = true) : canon x = x := by simpa [canonical] using h

/-- The low two bits, as a field and as a mask. -/
theorem low_bits_eq_zero (x : Dword) : (x.extractLsb' 0 2 == 0) = decide (x &&& 3 = 0) := by
  have hand : (x &&& 3).toNat = x.toNat % 4 := by
    rw [BitVec.toNat_and]; exact Nat.and_two_pow_sub_one_eq_mod x.toNat 2
  have hfield : (x.extractLsb' 0 2).toNat = x.toNat % 4 := by simp [BitVec.extractLsb'_toNat]
  rw [Bool.eq_iff_iff, beq_iff_eq, decide_eq_true_iff, ← BitVec.toNat_inj, ← BitVec.toNat_inj, hand, hfield]
  rfl

/-! ### An instruction that ends with a transfer -/

theorem Context.keeps_setS (c : Context) (d : Reg) (v : Dword) (p : Bool) : c.Keeps (c.setS d v p) [d] [] [] := by
  refine ⟨fun r hr => ?_, fun r _ => ⟨c.v_setS .., c.vp_setS ..⟩, fun q _ => c.p_setS .., c.rest_setS ..⟩
  have hne : r ≠ d := by simpa using hr
  exact ⟨c.s_setS_ne d r v p hne, c.sp_setS_ne d r v p hne⟩

theorem Context.Keeps.refl (c : Context) : c.Keeps c [] [] [] := ⟨fun _ _ => ⟨rfl, rfl⟩, fun _ _ => ⟨rfl, rfl⟩, fun _ _ => rfl, rfl⟩

theorem State.onlyContext_goto (s : State) (a : Dword) : s.OnlyContext (s.goto a) s.cur :=
  ⟨fun j h => State.getCtx_goto_ne s a j h, ⟨fun _ => rfl, fun _ _ => rfl⟩, rfl⟩
theorem State.onlyContext_goto_modCx (s : State) (f : Context → Context) (a : Dword) : s.OnlyContext ((s.modCx f).goto a) s.cur :=
  ⟨fun j h => (State.getCtx_goto_ne (s.modCx f) a j h).trans (State.getCtx_modCx_ne s j f h), ⟨fun _ => rfl, fun _ _ => rfl⟩, rfl⟩

/-- A transfer to a canonical address goes there and keeps LCNT if what is done before it does. -/
theorem transfers_goto {i : Instr} {s u : State} {a : Dword} {ss : List Reg} (hexec : exec i s = .next (u.goto a))
    (honly : s.OnlyContext (u.goto a) s.cur) (ha : canonical a = true) (hk : s.cx.Keeps u.cx ss [] []) (hcr : u.cx.cr = s.cx.cr) :
    Transfers i s (u.goto a) ss a := by
  obtain ⟨hs, hv, hp, hrest⟩ := hk
  rw [Transfers, State.cx_goto]
  exact ⟨hexec, honly, ⟨hs, hv, hp, hrest⟩, canon_of_canonical ha, congrArg CRegs.lcnt hcr, rfl⟩

/-! ### Branches (R84) -/

/-- A branch's word is the group's consumer with its opcode in front, and its computation tests the condition that R84 gives it. -/
theorem conditional_branch {i : Instr} {a b : Reg} {imm : BitVec 16} {p : Dword → Dword → Prop} (h : conditional i = some (a, b, imm, p)) :
    (∃ cond, (∀ x y, cond x y = true ↔ p x y) ∧ ∀ s, exec i s = finish (branch cond b a imm) s) ∧
      ∃ op : BitVec 6, (0x10 ≤ op.toNat ∧ op.toNat ≤ 0x15) ∧ ∃ d e, i.word = fi op d e imm := by
  unfold conditional at h
  split at h <;> cases h
  · exact ⟨⟨condEq, fun x y => beq_iff_eq, fun s => rfl⟩, 0x10, by decide, _, _, rfl⟩
  · exact ⟨⟨condNe, fun x y => bne_iff_ne, fun s => rfl⟩, 0x11, by decide, _, _, rfl⟩
  · exact ⟨⟨condLt, fun x y => BitVec.slt_iff_toInt_lt, fun s => rfl⟩, 0x12, by decide, _, _, rfl⟩
  · exact ⟨⟨condGe, fun x y => by simp [condGe, BitVec.slt_eq_decide], fun s => rfl⟩, 0x13, by decide, _, _, rfl⟩
  · exact ⟨⟨condLtn, fun x y => by simp [condLtn, BitVec.ult_eq_decide], fun s => rfl⟩, 0x14, by decide, _, _, rfl⟩
  · exact ⟨⟨condGen, fun x y => by simp [condGen, BitVec.ult_eq_decide], fun s => rfl⟩, 0x15, by decide, _, _, rfl⟩

/-- What a branch does, check after check: ACCESS of a target that it goes to, POISON, the transfer. -/
theorem branch_run (cond : Dword → Dword → Bool) (a b : Reg) (imm : BitVec 16) (s : State) : branch cond b a imm s =
    if !cond (s.cx.s a) (s.cx.s b) || canonical (relative s imm) then
      if s.cx.sp a || s.cx.sp b then (.error (.trap cPOISON 0), s)
      else (.ok (), if cond (s.cx.s a) (s.cx.s b) then s.goto (relative s imm) else s.retire)
    else (.error (.trap cACCESS (relative s imm)), s) := by
  rw [branch, Exec.bind_ok (Exec.get_run s), lastWord_offset, Exec.bind_run, guardTrap_run]
  split
  · rw [Exec.andThen_ok, Exec.bind_run, guardPoison_run]
    split
    · rfl
    · rw [Exec.andThen_ok]; split <;> rfl
  · rfl

/-! ### An imm word before a branch (R37) -/

theorem fop_fi (op : BitVec 6) (d a : Reg) (m : BitVec 16) : fop (fi op d a m) = op := by
  rw [fop, fi, BitVec.extractLsb'_append_eq_of_le (by decide), BitVec.extractLsb'_append_eq_of_le (by decide)]
  exact BitVec.extractLsb'_append_eq_left

/-- The opcode and the kind of an imm word (R35). -/
theorem imm_fields {q : Word} (h : q.extractLsb' 22 10 = 0x3F0) : fop q = 0x3F ∧ q.extractLsb' 22 4 = 0 := by
  have hq : q.toNat / 2 ^ 22 % 2 ^ 10 = 0x3F0 := by
    simpa [BitVec.extractLsb'_toNat, Nat.shiftRight_eq_div_pow] using congrArg BitVec.toNat h
  constructor <;> refine BitVec.eq_of_toNat_eq ?_ <;> simp only [fop, BitVec.extractLsb'_toNat, Nat.shiftRight_eq_div_pow]
  · change _ = 0x3F; omega
  · change _ = 0; omega

theorem feed_imm {q : Word} (h : q.extractLsb' 22 10 = 0x3F0) :
    feed Prefixes.empty false q = .more { Prefixes.empty with imms := [q.extractLsb' 0 22] } := by
  obtain ⟨hop, hkind⟩ := imm_fields h
  simp [feed, hop, hkind, Prefixes.empty]

theorem decode_imm_of_not_accepts {q w : Word} (h : q.extractLsb' 22 10 = 0x3F0) (hop : (fop w == 0x3F) = false) (himm : acceptsImm w = false) :
    decode [q, w] = none := by
  have hw : feed { Prefixes.empty with imms := [q.extractLsb' 0 22] } false w = .ill := by
    simp only [feed, hop, himm]
    rfl
  simp [decode, decodeFrom, feed_imm h, hw]

theorem acceptsImm_branch {op : BitVec 6} (hop : 0x10 ≤ op.toNat ∧ op.toNat ≤ 0x15) (d a : Reg) (m : BitVec 16) :
    acceptsImm (fi op d a m) = false := by
  unfold acceptsImm
  rw [fop_fi]
  obtain ⟨hlo, hhi⟩ := hop
  split
  case h_11 => rfl
  all_goals omega

theorem decode_imm_branch {q : Word} (h : q.extractLsb' 22 10 = 0x3F0) {op : BitVec 6} (hop : 0x10 ≤ op.toNat ∧ op.toNat ≤ 0x15) (d a : Reg)
    (m : BitVec 16) : decode [q, fi op d a m] = none := by
  refine decode_imm_of_not_accepts h ?_ (acceptsImm_branch hop d a m)
  rw [fop_fi, beq_eq_false_iff_ne]
  rintro rfl
  exact absurd hop (by decide)

/-! ### Jumps and `loop` (R85 to R87) -/

theorem exec_jal_run (d : Reg) (imm : BitVec 21) (s : State) : ∃ m, exec (.jal d imm) s = finish m s ∧ m s =
    if canonical (relative s imm) then (.ok (), (s.modCx (fun c => c.setS d (s.lastWord + 4) false)).goto (relative s imm))
    else (.error (.trap cACCESS (relative s imm)), s) := by
  refine ⟨_, rfl, ?_⟩
  rw [Exec.bind_ok (Exec.get_run s), lastWord_offset, Exec.bind_run, guardTrap_run]
  split <;> rfl

theorem exec_jalr_run (d a : Reg) (off : Dword) (s : State) : ∃ m, exec (.jalr d a off) s = finish m s ∧ m s =
    if s.cx.s a + off &&& 3 = 0 then
      if canonical (s.cx.s a + off) then
        if s.cx.sp a then (.error (.trap cPOISON 0), s)
        else (.ok (), (s.modCx (fun c => c.setS d (s.lastWord + 4) false)).goto (s.cx.s a + off))
      else (.error (.trap cACCESS (s.cx.s a + off)), s)
    else (.error (.trap cALIGN (s.cx.s a + off)), s) := by
  refine ⟨_, rfl, ?_⟩
  rw [Exec.bind_ok (Exec.get_run s), Exec.bind_run, guardTrap_run, low_bits_eq_zero]
  simp only [decide_eq_true_eq]
  split
  · rw [Exec.andThen_ok, Exec.bind_run, guardTrap_run]
    split
    · rw [Exec.andThen_ok, Exec.bind_run, guardPoison_run]
      split <;> rfl
    · rfl
  · rfl

/-- A context whose innermost loop is that of a `loop` at an address, with a body of `n` words and a count. -/
def Context.looping (c : Context) (first : Dword) (n : Nat) (count : Dword) : Context :=
  { c with cr := { c.cr with lstart := codeAddr (first + 4), lend := codeAddr (first + BitVec.ofNat 64 (4 * n)), lcnt := count } }

theorem exec_loop_run (a : Reg) (n : BitVec 12) (s : State) : ∃ m, exec (.loop a n) s = finish m s ∧ m s =
    if s.cx.sp a then (.error (.trap cPOISON 0), s)
    else (.ok (), (s.modCx (fun c => c.looping s.lastWord n.toNat (c.s a))).goto
      (if s.cx.s a = 0 then s.lastWord + BitVec.ofNat 64 (4 * n.toNat) + 4 else s.lastWord + 4)) := by
  refine ⟨_, rfl, ?_⟩
  rw [Exec.bind_ok (Exec.get_run s), Exec.bind_run, guardPoison_run]
  split <;> rfl

/-- A link is in its register after the jump (R85). -/
theorem holds_link (s : State) (d : Reg) (v a : Dword) : Holds ((s.modCx (fun c => c.setS d v false)).goto a).cx d v false := by
  have h := holds_setS s.cx d v false a
  rw [Holds, Context.s_advance, Context.sp_advance] at h
  rw [State.cx_goto, State.cx_modCx]
  exact h

theorem transfers_link {i : Instr} {s : State} {d : Reg} {v a : Dword} (hexec : exec i s = .next ((s.modCx (fun c => c.setS d v false)).goto a))
    (ha : canonical a = true) : ∃ t, Transfers i s t [d] a ∧ Holds t.cx d v false :=
  by
  refine ⟨_, transfers_goto hexec (s.onlyContext_goto_modCx _ a) ha ?_ ?_, holds_link s d v a⟩ <;> rw [State.cx_modCx]
  · exact s.cx.keeps_setS d v false
  · exact s.cx.cr_setS d v false

end Sys2Proof.Machine

namespace Sys2Proof.Claims
open Sys2Proof.Machine

/-- Settles O3: the checks are those of `branch_run`. -/
theorem branchesGoWhereTheirConditionSays : Obligations.BranchesGoWhereTheirConditionSays := by
  unfold Obligations.BranchesGoWhereTheirConditionSays
  intro i a b imm p hi s
  obtain ⟨⟨cond, hcond, hexec⟩, op, hop, d, e, hword⟩ := conditional_branch hi
  have he := hexec s
  have hrun := branch_run cond a b imm s
  refine ⟨fun hp hc ha hb => ?_, fun hp ha hb => ?_, fun hp hc => ?_, fun hc hbad => ?_, fun q hq => ?_⟩
  · rw [(hcond _ _).2 hp, hc, ha, hb] at hrun
    exact ⟨_, transfers_goto (he.trans (finish_ok _ _ _ hrun)) (s.onlyContext_goto _) hc (Context.Keeps.refl _) rfl⟩
  · rw [Bool.eq_false_iff.2 (fun h => hp ((hcond _ _).1 h)), ha, hb] at hrun
    exact ⟨_, plain_retire i s (he.trans (finish_ok _ _ _ hrun))⟩
  · rw [(hcond _ _).2 hp, hc] at hrun
    exact traps_of_error he hrun (by decide) (by decide)
  · refine trapsPoison_of_error he (v := 0) ?_
    rw [hrun, if_pos, if_pos hbad]
    cases hx : cond (s.cx.s a) (s.cx.s b)
    case false => rfl
    case true => exact hc ((hcond _ _).1 hx)
  · rw [hword]
    exact decode_imm_branch hq hop d e imm

theorem jal_transfers (d : Reg) (imm : BitVec 21) (s : State) :
    (canonical (relative s imm) = true → ∃ t, Transfers (.jal d imm) s t [d] (relative s imm) ∧ Holds t.cx d (s.lastWord + 4) false) ∧
    (canonical (relative s imm) = false → Traps (.jal d imm) s cACCESS (relative s imm)) := by
  obtain ⟨m, he, hrun⟩ := exec_jal_run d imm s
  refine ⟨fun hc => ?_, fun hc => ?_⟩ <;> rw [hc] at hrun
  · exact transfers_link (he.trans (finish_ok _ _ _ hrun)) hc
  · exact traps_of_error he hrun (by decide) (by decide)

theorem jalr_transfers (d a : Reg) (off : Dword) (s : State) :
    let x := s.cx.s a + off
    (x &&& 3 = 0 → canonical x = true → s.cx.sp a = false →
      ∃ t, Transfers (.jalr d a off) s t [d] x ∧ Holds t.cx d (s.lastWord + 4) false) ∧
    (x &&& 3 ≠ 0 → Traps (.jalr d a off) s cALIGN x) ∧
    (x &&& 3 = 0 → canonical x = false → Traps (.jalr d a off) s cACCESS x) ∧
    (x &&& 3 = 0 → canonical x = true → s.cx.sp a = true → TrapsPoison (.jalr d a off) s) := by
  obtain ⟨m, he, hrun⟩ := exec_jalr_run d a off s
  refine ⟨fun ha hc hp => ?_, fun ha => ?_, fun ha hc => ?_, fun ha hc hp => ?_⟩
  · rw [if_pos ha, hc, hp] at hrun
    exact transfers_link (he.trans (finish_ok _ _ _ hrun)) hc
  · rw [if_neg ha] at hrun
    exact traps_of_error he hrun (by decide) (by decide)
  · rw [if_pos ha, hc] at hrun
    exact traps_of_error he hrun (by decide) (by decide)
  · rw [if_pos ha, hc, hp] at hrun
    exact trapsPoison_of_error he hrun

theorem loop_transfers {a : Reg} (n : BitVec 12) {s : State} (hp : s.cx.sp a = false) : ∃ t,
    exec (.loop a n) s = .next t ∧ s.OnlyContext t s.cur ∧
    t.cx.cr.lcnt = s.cx.s a ∧ t.cx.cr.lstart = codeAddr (s.lastWord + 4) ∧
    t.cx.cr.lend = codeAddr (s.lastWord + BitVec.ofNat 64 (4 * n.toNat)) ∧
    t.cx.pc = canon (if s.cx.s a = 0 then s.lastWord + BitVec.ofNat 64 (4 * n.toNat) + 4 else s.lastWord + 4) ∧
    s.cx.Keeps { t.cx with cr := { t.cx.cr with lstart := s.cx.cr.lstart, lend := s.cx.cr.lend } } [] [] [] := by
  obtain ⟨m, he, hrun⟩ := exec_loop_run a n s
  rw [hp] at hrun
  refine ⟨_, he.trans (finish_ok _ _ _ hrun), s.onlyContext_goto_modCx _ _, ?_⟩
  rw [State.cx_goto, State.cx_modCx]
  exact ⟨rfl, rfl, rfl, rfl, fun _ _ => ⟨rfl, rfl⟩, fun _ _ => ⟨rfl, rfl⟩, fun _ _ => rfl, rfl⟩

/-- Settles O4: the checks stand in each instruction's run in the order of the statement. -/
theorem jumpsAndLoopTransfer : Obligations.JumpsAndLoopTransfer := by
  unfold Obligations.JumpsAndLoopTransfer
  refine ⟨jal_transfers, jalr_transfers, fun a n s => ⟨fun hp => ?_, fun hp => loop_transfers n hp⟩⟩
  obtain ⟨m, he, hrun⟩ := exec_loop_run a n s
  rw [hp] at hrun
  exact trapsPoison_of_error he hrun

end Sys2Proof.Claims
end

section
/-! Scalar loads and stores that pass their checks (spec 04 R81 to R83; 07 R154), and the settling of O13 and O17. -/

namespace Sys2Proof.Machine
open Sys2Proof.Claims

/-! ### What a store leaves of the contexts (R221, R228) -/

@[simp] theorem State.control_storeDeviceMem (s : State) (pa n v : Nat) (p : Bool) : (s.storeDeviceMem pa n v p).control = s.control := by
  have hback := s.control_maybeWriteBack (lineOf pa)
  unfold State.storeDeviceMem
  dsimp only
  split
  · exact hback
  · exact (State.control_trimSlice _ _).trans hback

theorem State.undisturbed_uncachedStore (s : State) (pa n v : Nat) (pois : Bool) (key : Nat) : s.Undisturbed (s.uncachedStore pa n v pois key) := by
  unfold State.uncachedStore
  split
  · exact .of_control rfl
  · exact .of_control (by simp)

theorem State.undisturbed_scratchStoreBy (s : State) (k off n v : Nat) (p : Bool) : s.Undisturbed (s.scratchStoreBy k off n v p) :=
  (s.undisturbed_lt k _).then_control (State.control_modCore ..)

/-- A store to memory or the scratchpad changes no register. -/
theorem State.undisturbed_storeAt (s : State) (k : Nat) {p : Place} (n v : Nat) (pois : Bool) (h : ∀ pa, p ≠ .device pa) :
    s.Undisturbed (s.storeAt k p n v pois) := by
  cases p with
  | scratch off => exact s.undisturbed_scratchStoreBy k off n v pois
  | coherent pa l1 wt key => exact s.undisturbed_coStore k pa n v pois wt key
  | uncached pa key => exact s.undisturbed_uncachedStore pa n v pois key
  | device pa => exact absurd rfl (h pa)

/-! ### The accesses once their checks have passed -/

/-- The extension of a loaded value is the one of R81. -/
theorem extend_eq_widened (zx : Bool) (n v : Nat) : extend zx n v = widened zx n v := by
  rw [extend, signedOf_eq_signedLane]; rfl

section
variable {s u : State} {ea : Dword} {z : Size} {p : Place} (ha : ea.toNat % z.bytes = 0)
include ha

theorem loadScalar_run {d : Reg} {zx : Bool} (hr : Reaches s ea .load z.bytes p u) (hw : wordsFree u p z.bytes = true) :
    loadScalar d ea z zx false s = (.ok (), ((u.loadAt u.cur p z.bytes).2.modCx (fun c =>
      c.setS d (widened zx z.bytes (u.loadAt u.cur p z.bytes).1.1) (u.loadAt u.cur p z.bytes).1.2)).retire) := by
  rw [loadScalar, decide_eq_true ha, Exec.bind_ok (guardTrap_true ..), Exec.bind_ok (translateT_ok hr), Exec.bind_ok (guardPoison_false u),
    Exec.bind_ok (waitSpWords_ok hw), Exec.bind_ok (loadE_run ..), Exec.bind_ok (modCx_run ..), retireE_run, extend_eq_widened]

theorem storeScalar_run {w : State} {b : Reg} (hr : Reaches s ea .store z.bytes p u) (ht : timedOk s.cx ea z.bytes = true)
    (hw : wordsFree u p z.bytes = true) (hlog : logStore ea z.bytes u = (.ok (), w)) :
    storeScalar b ea z false s = (.ok (), (w.storeAt w.cur p z.bytes ((w.cx.s b).toNat % 2 ^ (8 * z.bytes)) (w.cx.sp b)).retire) := by
  have ht' : timedOk u.cx ea z.bytes = true := (timedOk_congr hr.undisturbed.cx ..).trans ht
  rw [storeScalar, decide_eq_true ha, Exec.bind_ok (guardTrap_true ..), Exec.bind_ok (translateT_ok hr), Exec.bind_ok (guardTimed_ok ht'),
    Exec.bind_ok (guardPoison_false u), Exec.bind_ok (waitSpWords_ok hw), Exec.bind_ok hlog, Exec.bind_ok (cx_run w), Exec.bind_ok (storeE_run ..),
    retireE_run]

end

/-- A store leaves the registers as they were after its undo copies, and makes none outside a firing. -/
theorem storeKeeps_storeAt {s u w : State} {va : Dword} {n v : Nat} {p : Place} {pois : Bool} (hr : Reaches s va .store n p u)
    (hlog : logStore va n u = (.ok (), w)) (hp : ∀ pa, p ≠ .device pa) : StoreKeeps s w (w.storeAt w.cur p n v pois) := by
  have hstore := State.undisturbed_storeAt w w.cur n v pois hp
  refine ⟨hstore.cx, fun hf => ?_⟩
  have hfu : u.cx.firing = none := (congrArg Context.firing hr.undisturbed.cx :).trans hf
  obtain rfl : u = w := (Prod.mk.inj ((logStore_plain hfu).symm.trans hlog)).2
  exact (hr.undisturbed.trans hstore).cx

end Sys2Proof.Machine

namespace Sys2Proof.Claims
open Sys2Proof.Machine

/-- Settles O13: the passed checks leave the access, the write of the register and the completion. -/
theorem loadsComplete : Obligations.LoadsComplete := by
  unfold Obligations.LoadsComplete
  intro i d z zx ea bad hi s u p ha hr hbad hw
  have he := exec_scalarLoad hi s
  rw [hbad] at he
  refine ⟨_, he.trans (finish_ok _ _ _ (loadScalar_run ha hr hw)), from_setS .., ?_, fun hp =>
    (hr.undisturbed.trans (State.undisturbed_loadAt u u.cur z.bytes hp)).cx⟩
  rw [State.cx_retire, State.cx_modCx]
  exact holds_setS ..

/-- Settles O17: the passed checks leave the access, after its undo copies, and the completion. -/
theorem storesComplete : Obligations.StoresComplete := by
  unfold Obligations.StoresComplete
  intro i b z ea bad hi s u w p ha hr ht hbad hw hlog
  have he := exec_scalarStore hi s
  rw [hbad] at he
  exact ⟨_, he.trans (finish_ok _ _ _ (storeScalar_run ha hr ht hw hlog)), from_retire _, storeKeeps_storeAt hr hlog⟩

end Sys2Proof.Claims
end

section
/-! Integer results (spec 03 R52, R53; 04 R77 to R80): each operation as arithmetic on numbers, and the settling of O1 and O2. -/

namespace Sys2Proof.Machine
open Sys2Proof.Claims

/-! ### Operations of both widths (R52, R77) -/

/-- An operation that wraps an integer at either width gives in the 32-bit form the integer of the low halves. -/
theorem form_eq_keep {F : (n : Nat) → BitVec n → BitVec n → BitVec n} {r : (n : Nat) → BitVec n → BitVec n → Int}
    (h : ∀ n (x y : BitVec n), F n x y = BitVec.ofInt n (r n x y)) (w : Bool) (x y : Dword) :
    form w F x y = keep w (if w then r 32 (x.extractLsb' 0 32) (y.extractLsb' 0 32) else r 64 x y) := by
  cases w
  · exact h 64 x y
  · rw [form, if_pos rfl, h, BitVec.signExtend, BitVec.toInt_ofInt]; rfl

theorem signedIn_eq (w : Bool) (x : Dword) : signedIn w x = if w then (x.extractLsb' 0 32).toInt else x.toInt := by
  cases w
  · simp [signedIn]
  · rw [signedIn, if_pos rfl, if_pos rfl, BitVec.toInt_extractLsb', Nat.shiftRight_zero]

theorem unsignedIn_eq (w : Bool) (x : Dword) : unsignedIn w x = if w then (x.extractLsb' 0 32).toNat else x.toNat := by
  cases w
  · rfl
  · rw [unsignedIn, if_pos rfl, if_pos rfl, BitVec.extractLsb'_toNat, Nat.shiftRight_zero]

theorem countIn_eq (w : Bool) (y : Dword) : countIn w y = if w then shiftCount 32 (y.extractLsb' 0 32) else shiftCount 64 y := by
  cases w
  · rfl
  · rw [countIn, if_pos rfl, if_pos rfl, shiftCount, BitVec.extractLsb'_toNat, Nat.shiftRight_zero, Nat.mod_mod_of_dvd _ (by decide)]

theorem keep_neg_one (w : Bool) : keep w (-1) = -1 := by cases w <;> decide

section
variable (w : Bool) (x y : Dword)

theorem form_add : form w (fun _ x y => x + y) x y = keep w (signedIn w x + signedIn w y) := by
  rw [form_eq_keep (r := fun _ x y => x.toInt + y.toInt), signedIn_eq, signedIn_eq]
  · cases w <;> rfl
  · intro n x y; rw [BitVec.ofInt_add, BitVec.ofInt_toInt, BitVec.ofInt_toInt]

theorem form_sub : form w (fun _ x y => x - y) x y = keep w (signedIn w x - signedIn w y) := by
  rw [form_eq_keep (r := fun _ x y => x.toInt - y.toInt), signedIn_eq, signedIn_eq]
  · cases w <;> rfl
  · intro n x y; rw [Int.sub_eq_add_neg, BitVec.ofInt_add, BitVec.ofInt_neg, BitVec.ofInt_toInt, BitVec.ofInt_toInt, BitVec.sub_eq_add_neg]

theorem form_mul : form w (fun _ x y => x * y) x y = keep w (signedIn w x * signedIn w y) := by
  rw [form_eq_keep (r := fun _ x y => x.toInt * y.toInt), signedIn_eq, signedIn_eq]
  · cases w <;> rfl
  · intro n x y; rw [BitVec.ofInt_mul, BitVec.ofInt_toInt, BitVec.ofInt_toInt]

theorem shiftLeft_eq_ofNat {n : Nat} (x : BitVec n) (k : Nat) : x <<< k = BitVec.ofNat n (x.toNat * 2 ^ k) :=
  BitVec.eq_of_toNat_eq (by rw [BitVec.toNat_shiftLeft, Nat.shiftLeft_eq, BitVec.toNat_ofNat])

theorem ushiftRight_eq_ofNat {n : Nat} (x : BitVec n) (k : Nat) : x >>> k = BitVec.ofNat n (x.toNat / 2 ^ k) := by
  refine BitVec.eq_of_toNat_eq ?_
  rw [BitVec.toNat_ushiftRight, Nat.shiftRight_eq_div_pow, BitVec.toNat_ofNat, Nat.mod_eq_of_lt (Nat.lt_of_le_of_lt (Nat.div_le_self ..) x.isLt)]

theorem form_sll : form w (fun n x y => x <<< shiftCount n y) x y = keep w (unsignedIn w x * 2 ^ countIn w y : Nat) := by
  rw [form_eq_keep (r := fun n x y => (x.toNat * 2 ^ shiftCount n y : Nat)), unsignedIn_eq, countIn_eq]
  · cases w <;> rfl
  · intro n x y; rw [BitVec.ofInt_natCast]; exact shiftLeft_eq_ofNat x _

theorem form_srl : form w (fun n x y => x >>> shiftCount n y) x y = keep w (unsignedIn w x / 2 ^ countIn w y : Nat) := by
  rw [form_eq_keep (r := fun n x y => (x.toNat / 2 ^ shiftCount n y : Nat)), unsignedIn_eq, countIn_eq]
  · cases w <;> rfl
  · intro n x y; rw [BitVec.ofInt_natCast]; exact ushiftRight_eq_ofNat x _

theorem sshiftRight_eq_ofInt {n : Nat} (x : BitVec n) (k : Nat) : x.sshiftRight k = BitVec.ofInt n (x.toInt / (2 ^ k : Nat)) := by
  rw [BitVec.sshiftRight, Int.shiftRight_eq_div_pow]

theorem form_sra : form w (fun n x y => x.sshiftRight (shiftCount n y)) x y = keep w (signedIn w x / (2 ^ countIn w y : Nat)) := by
  rw [form_eq_keep (r := fun n x y => x.toInt / (2 ^ shiftCount n y : Nat)), signedIn_eq, countIn_eq]
  · cases w <;> rfl
  · intro n x y; exact sshiftRight_eq_ofInt x _

theorem toInt_eq_zero_iff {n : Nat} (y : BitVec n) : y.toInt = 0 ↔ y = 0 := by
  rw [← BitVec.toInt_inj, BitVec.ofNat_eq_ofNat, BitVec.toInt_zero]
theorem toNat_eq_zero_iff {n : Nat} (y : BitVec n) : y.toNat = 0 ↔ y = 0 := by
  rw [← BitVec.toNat_inj, BitVec.ofNat_eq_ofNat, BitVec.toNat_zero]
theorem ofInt_neg_one (n : Nat) : BitVec.ofInt n (-1) = BitVec.allOnes n := by
  rw [BitVec.ofInt_neg, ← BitVec.neg_one_eq_allOnes]; rfl

theorem form_div : form w quotS x y = if signedIn w y = 0 then -1 else keep w ((signedIn w x).tdiv (signedIn w y)) := by
  rw [form_eq_keep (r := fun _ x y => if y.toInt = 0 then -1 else x.toInt.tdiv y.toInt), signedIn_eq, signedIn_eq, ← keep_neg_one w, ← apply_ite]
  · cases w <;> rfl
  · intro n x y
    simp only [quotS, toInt_eq_zero_iff]
    split
    · exact (ofInt_neg_one n).symm
    · rw [← BitVec.toInt_inj, BitVec.toInt_sdiv, BitVec.toInt_ofInt]

theorem form_divn : form w quotU x y = if unsignedIn w y = 0 then -1 else keep w (unsignedIn w x / unsignedIn w y : Nat) := by
  rw [form_eq_keep (r := fun _ x y => if y.toNat = 0 then -1 else (x.toNat / y.toNat : Nat)), unsignedIn_eq, unsignedIn_eq, ← keep_neg_one w, ← apply_ite]
  · cases w <;> rfl
  · intro n x y
    simp only [quotU, toNat_eq_zero_iff]
    split
    · exact (ofInt_neg_one n).symm
    · rw [BitVec.ofInt_natCast, BitVec.udiv_eq, BitVec.udiv_def]

theorem form_rem : form w remS x y = keep w (if signedIn w y = 0 then signedIn w x else (signedIn w x).tmod (signedIn w y)) := by
  rw [form_eq_keep (r := fun _ x y => if y.toInt = 0 then x.toInt else x.toInt.tmod y.toInt), signedIn_eq, signedIn_eq]
  · cases w <;> rfl
  · intro n x y
    simp only [remS, toInt_eq_zero_iff]
    split
    · exact BitVec.ofInt_toInt.symm
    · rw [← BitVec.toInt_srem, BitVec.ofInt_toInt]

theorem form_remn : form w remU x y = keep w (if unsignedIn w y = 0 then unsignedIn w x else unsignedIn w x % unsignedIn w y : Nat) := by
  rw [form_eq_keep (r := fun _ x y => (if y.toNat = 0 then x.toNat else x.toNat % y.toNat : Nat)), unsignedIn_eq, unsignedIn_eq]
  · cases w <;> rfl
  · intro n x y
    simp only [remU, toNat_eq_zero_iff, BitVec.ofInt_natCast]
    split
    · rw [BitVec.ofNat_toNat, BitVec.setWidth_eq]
    · rw [BitVec.umod_eq, BitVec.umod_def]

end

/-! ### Comparisons, and the upper half of a product (R77) -/

theorem ofBool_decide (p : Prop) [Decidable p] : Dword.ofBool (decide p) = truth p := by
  by_cases h : p <;> simp [Dword.ofBool, truth, h]

/-- Where one of two is chosen by `<` or by `≤`, the same is chosen if the two are equal wherever the conditions differ. -/
theorem ite_lt_eq_ite_le {α : Type} {lt le : Prop} [Decidable lt] [Decidable le] {x y : α} (h : lt → le) (heq : le → ¬ lt → x = y) :
    (if lt then x else y) = if le then x else y := by
  by_cases hlt : lt
  · rw [if_pos hlt, if_pos (h hlt)]
  · by_cases hle : le
    · rw [if_neg hlt, if_pos hle, heq hle hlt]
    · rw [if_neg hlt, if_neg hle]

/-- Operands that are neither below nor above one another are equal. -/
theorem eq_of_le_of_not_slt {x y : Dword} (hle : x.toInt ≤ y.toInt) (h : ¬ x.slt y = true) : x = y :=
  BitVec.eq_of_toInt_eq (Int.le_antisymm hle (Int.not_lt.1 fun hlt => h (BitVec.slt_iff_toInt_lt.2 hlt)))
theorem eq_of_le_of_not_ult {x y : Dword} (hle : x.toNat ≤ y.toNat) (h : ¬ x.ult y = true) : x = y :=
  BitVec.eq_of_toNat_eq (Nat.le_antisymm hle (Nat.not_lt.1 fun hlt => h (decide_eq_true hlt)))

theorem upper_eq (p : Int) : upper p = BitVec.ofInt 64 (p / 2 ^ 64) := by
  refine BitVec.eq_of_toNat_eq ?_
  rw [upper, BitVec.extractLsb'_toNat, Nat.shiftRight_eq_div_pow, BitVec.toNat_ofInt, BitVec.toNat_ofInt]
  omega

/-! ### Bit fields (R80) -/

/-- The mask of `n` bits at a position. -/
theorem getLsbD_fieldMask (n p i : Nat) (hi : i < 64) : (BitVec.ofNat 64 ((2 ^ n - 1) * 2 ^ p)).getLsbD i = (decide (p ≤ i) && decide (i < p + n)) := by
  rw [BitVec.getLsbD_ofNat, decide_eq_true hi, Bool.true_and, Nat.testBit_mul_two_pow, Nat.testBit_two_pow_sub_one]
  by_cases h : p ≤ i
  · simp only [h, decide_true, Bool.true_and, decide_eq_decide]; omega
  · simp [h]

/-- A number with the `n` bits at a position replaced, bit by bit. -/
theorem testBit_replaced (v x p n i : Nat) : (v - v / 2 ^ p % 2 ^ n * 2 ^ p + x % 2 ^ n * 2 ^ p).testBit i =
    if p ≤ i ∧ i < p + n then x.testBit (i - p) else v.testBit i := by
  have hsplit : v - v / 2 ^ p % 2 ^ n * 2 ^ p + x % 2 ^ n * 2 ^ p = 2 ^ p * (2 ^ n * (v / 2 ^ p / 2 ^ n) + x % 2 ^ n) + v % 2 ^ p := by
    have hv := Nat.div_add_mod v (2 ^ p)
    have hq := Nat.div_add_mod (v / 2 ^ p) (2 ^ n)
    have hv' : 2 ^ p * (2 ^ n * (v / 2 ^ p / 2 ^ n)) + 2 ^ p * (v / 2 ^ p % 2 ^ n) + v % 2 ^ p = v := by rw [← Nat.mul_add, hq, hv]
    rw [Nat.mul_add, Nat.mul_comm _ (2 ^ p), Nat.mul_comm _ (2 ^ p)]
    omega
  rw [hsplit, Nat.testBit_two_pow_mul_add _ (Nat.mod_lt _ (Nat.two_pow_pos p)), Nat.testBit_two_pow_mul_add _ (Nat.mod_lt _ (Nat.two_pow_pos n))]
  by_cases hp : i < p
  · rw [if_pos hp, if_neg (by omega), Nat.testBit_mod_two_pow, decide_eq_true hp, Bool.true_and]
  · rw [if_neg hp]
    by_cases hn : i < p + n
    · rw [if_pos (by omega), if_pos (by omega), Nat.testBit_mod_two_pow, decide_eq_true (by omega), Bool.true_and]
    · rw [if_neg (by omega), if_neg (by omega), Nat.testBit_div_two_pow, Nat.testBit_div_two_pow]
      congr 1; omega

theorem bfi_eq (v x : Dword) (n p : Nat) :
    (v &&& ~~~BitVec.ofNat 64 ((2 ^ n - 1) * 2 ^ p)) ||| ((x <<< p) &&& BitVec.ofNat 64 ((2 ^ n - 1) * 2 ^ p)) =
      BitVec.ofNat 64 (v.toNat - field v p n * 2 ^ p + x.toNat % 2 ^ n * 2 ^ p) := by
  refine BitVec.eq_of_getLsbD_eq fun i hi => ?_
  rw [BitVec.getLsbD_or, BitVec.getLsbD_and, BitVec.getLsbD_and, BitVec.getLsbD_not, getLsbD_fieldMask n p i hi, BitVec.getLsbD_shiftLeft,
    BitVec.getLsbD_ofNat, field, testBit_replaced, BitVec.testBit_toNat, BitVec.testBit_toNat]
  by_cases hin : p ≤ i ∧ i < p + n
  · obtain ⟨hp, hn⟩ := hin
    simp [hi, hp, hn, Nat.not_lt.2 hp]
  · simp only [hi, hin, if_false, decide_true, Bool.true_and]
    have : (decide (p ≤ i) && decide (i < p + n)) = false := by simpa using hin
    simp [this]

/-! ### Counts of bits, and bytes (R77) -/

theorem zeros_cons (b : Bool) (l : List Bool) : zeros (b :: l) = if b then 0 else zeros l + 1 := by cases b <;> simp [zeros]

/-- From above, the zeros before the highest of `n` bits that is 1. -/
theorem zeros_reverse_highest {f : Nat → Bool} {m : Nat} (hm : f m = true) {n : Nat} (hn : m < n) (hzero : ∀ j, m < j → j < n → f j = false) :
    zeros ((List.range n).map f).reverse = n - 1 - m := by
  induction n with
  | zero => omega
  | succ n ih =>
    rw [List.range_succ, List.map_append, List.reverse_append, List.map_singleton, List.reverse_singleton, List.singleton_append, zeros_cons]
    by_cases h : n = m
    · rw [h, hm, if_pos rfl]; omega
    · rw [hzero n (by omega) (by omega), if_neg (by decide), ih (by omega) fun j hj hj' => hzero j hj (by omega)]
      omega

theorem zeros_reverse_bits (x : Dword) : zeros (bits x).reverse = leadingZeros x := by
  unfold leadingZeros
  split
  · next h => rw [h]; decide
  · next h =>
    have hx : x.toNat ≠ 0 := fun hz => h ((toNat_eq_zero_iff x).1 hz)
    refine zeros_reverse_highest (f := x.getLsbD) (Nat.testBit_log2 hx) ((Nat.log2_lt hx).2 x.isLt) fun j hj _ => ?_
    exact Nat.testBit_lt_two_pow ((Nat.log2_lt hx).1 hj)

/-- From below, the zeros before the first bit that is 1. -/
theorem find?_getD_eq_zeros (f : Nat → Bool) (lo n : Nat) : ((List.range' lo n).find? f).getD (lo + n) = lo + zeros ((List.range' lo n).map f) := by
  induction n generalizing lo with
  | zero => rfl
  | succ n ih =>
    rw [List.range'_succ, List.find?_cons, List.map_cons, zeros_cons]
    cases f lo
    · have := ih (lo + 1)
      rw [Nat.add_right_comm, Nat.add_assoc] at this
      simpa [Nat.add_assoc, Nat.add_comm 1] using this
    · rfl

theorem zeros_bits (x : Dword) : zeros (bits x) = trailingZeros x := by
  have h := find?_getD_eq_zeros x.getLsbD 0 64
  rw [Nat.zero_add, Nat.zero_add] at h
  rw [bits, trailingZeros, rangeFrom_eq_range, List.range_eq_range', ← h]

theorem count_bits (x : Dword) : (bits x).count true = onesCount x := by
  rw [bits, onesCount, rangeFrom_eq_range, List.count_eq_countP, List.countP_map, ← List.countP_eq_length_filter]
  exact List.countP_congr fun i _ => by simp

theorem toNat_append_byte {m : Nat} (x : BitVec m) (y : BitVec 8) : (x ++ y).toNat = x.toNat * 256 + y.toNat := by
  rw [BitVec.toNat_append, ← Nat.shiftLeft_add_eq_or_of_lt y.isLt, Nat.shiftLeft_eq]

theorem toNat_byte (x : Dword) (p : Nat) : (x.extractLsb' p 8).toNat = field x p 8 := by
  rw [BitVec.extractLsb'_toNat, Nat.shiftRight_eq_div_pow, field]

theorem reverseBytes_eq (x : Dword) : reverseBytes x = BitVec.ofNat 64 ((List.range 8).foldl (fun n i => n * 256 + field x (8 * i) 8) 0) := by
  have h : (reverseBytes x).toNat = (List.range 8).foldl (fun n i => n * 256 + field x (8 * i) 8) 0 := by
    simp only [reverseBytes, toNat_append_byte, toNat_byte]
    simp [List.range_succ]
  rw [← h, BitVec.ofNat_toNat, BitVec.setWidth_eq]

/-! ### Completing with a result -/

theorem scalar2_completes {i : Instr} {s : State} {d a b : Reg} {g f : Dword → Dword → Dword} (he : exec i s = .next (s.scalar2 d a b g))
    (h : ∀ x y, g x y = f x y) : ∃ t, Plain i s t [d] [] [] ∧ Holds t.cx d (f (s.cx.s a) (s.cx.s b)) (s.cx.sp a || s.cx.sp b) := by
  rw [← h]
  refine ⟨_, plain_setS i s d _ _ he, ?_⟩
  rw [State.cx_retire, State.cx_modCx]
  exact holds_setS ..

theorem scalar1_completes {i : Instr} {s : State} {d a : Reg} {g f : Dword → Dword} (he : exec i s = .next (s.scalar1 d a g))
    (h : ∀ x, g x = f x) : ∃ t, Plain i s t [d] [] [] ∧ Holds t.cx d (f (s.cx.s a)) (s.cx.sp a) := by
  rw [← h]
  refine ⟨_, plain_setS i s d _ _ he, ?_⟩
  rw [State.cx_retire, State.cx_modCx]
  exact holds_setS ..

theorem exec_binary {i : Instr} {d a b : Reg} {f : Dword → Dword → Dword} (h : binary i = some (d, a, b, f)) :
    ∃ g, (∀ s, exec i s = .next (s.scalar2 d a b g)) ∧ ∀ x y, g x y = f x y := by
  cases i <;> cases h
  case add w => exact ⟨_, fun s => rfl, form_add w⟩
  case sub w => exact ⟨_, fun s => rfl, form_sub w⟩
  case and | or | xor | andn => exact ⟨_, fun s => rfl, fun x y => rfl⟩
  case sll w => exact ⟨_, fun s => rfl, form_sll w⟩
  case srl w => exact ⟨_, fun s => rfl, form_srl w⟩
  case sra w => exact ⟨_, fun s => rfl, form_sra w⟩
  case slt => exact ⟨_, fun s => rfl, fun x y => ofBool_decide _⟩
  case sltn => exact ⟨_, fun s => rfl, fun x y => ofBool_decide _⟩
  case min => exact ⟨_, fun s => rfl, fun x y => ite_lt_eq_ite_le (fun h => (BitVec.slt_iff_toInt_lt.1 h).le) eq_of_le_of_not_slt⟩
  case max => exact ⟨_, fun s => rfl, fun x y => ite_lt_eq_ite_le (fun h => (BitVec.slt_iff_toInt_lt.1 h).le) fun hle h => (eq_of_le_of_not_slt hle h).symm⟩
  case minn => exact ⟨_, fun s => rfl, fun x y => ite_lt_eq_ite_le (fun h => (of_decide_eq_true h).le) eq_of_le_of_not_ult⟩
  case maxn => exact ⟨_, fun s => rfl, fun x y => ite_lt_eq_ite_le (fun h => (of_decide_eq_true h).le) fun hle h => (eq_of_le_of_not_ult hle h).symm⟩
  case mul w => exact ⟨_, fun s => rfl, form_mul w⟩
  case mulh | mulhn | mulhsn => exact ⟨_, fun s => rfl, fun x y => (upper_eq _).symm⟩
  case div w => exact ⟨_, fun s => rfl, form_div w⟩
  case divn w => exact ⟨_, fun s => rfl, form_divn w⟩
  case rem w => exact ⟨_, fun s => rfl, form_rem w⟩
  case remn w => exact ⟨_, fun s => rfl, form_remn w⟩
  case bfi l p => exact ⟨_, fun s => rfl, fun v x => bfi_eq v x _ _⟩

theorem exec_unary {i : Instr} {d a : Reg} {f : Dword → Dword} (h : unary i = some (d, a, f)) :
    ∃ g, (∀ s, exec i s = .next (s.scalar1 d a g)) ∧ ∀ x, g x = f x := by
  cases i <;> cases h
  case clz => exact ⟨_, fun s => rfl, fun x => congrArg _ (zeros_reverse_bits x).symm⟩
  case ctz => exact ⟨_, fun s => rfl, fun x => congrArg _ (zeros_bits x).symm⟩
  case popc => exact ⟨_, fun s => rfl, fun x => congrArg _ (count_bits x).symm⟩
  case bswap => exact ⟨_, fun s => rfl, reverseBytes_eq⟩
  case addi imm => exact ⟨_, fun s => rfl, fun x => form_add false x imm⟩
  case andi | ori | xori => exact ⟨_, fun s => rfl, fun x => rfl⟩
  case slti => exact ⟨_, fun s => rfl, fun x => ofBool_decide _⟩
  case sltni => exact ⟨_, fun s => rfl, fun x => ofBool_decide _⟩
  case slli c => exact ⟨_, fun s => rfl, fun x => shiftLeft_eq_ofNat x _⟩
  case srli c => exact ⟨_, fun s => rfl, fun x => ushiftRight_eq_ofNat x _⟩
  case srai c => exact ⟨_, fun s => rfl, fun x => sshiftRight_eq_ofInt x _⟩
  case bfx => exact ⟨_, fun s => rfl, fun x => rfl⟩
  case bfxs => exact ⟨_, fun s => rfl, fun x => congrArg _ (signedOf_eq_signedLane ..)⟩

end Sys2Proof.Machine

namespace Sys2Proof.Claims
open Sys2Proof.Machine

/-- Settles O1: each result is the arithmetic that `exec_binary` gives it. -/
theorem binaryScalarResults : Obligations.BinaryScalarResults := by
  unfold Obligations.BinaryScalarResults
  intro i d a b f hi s
  obtain ⟨g, hexec, hg⟩ := exec_binary hi
  exact scalar2_completes (hexec s) hg

/-- Settles O2: each result is the arithmetic that `exec_unary` gives it. -/
theorem unaryScalarResults : Obligations.UnaryScalarResults := by
  unfold Obligations.UnaryScalarResults
  intro i d a f hi s
  obtain ⟨g, hexec, hg⟩ := exec_unary hi
  exact scalar1_completes (hexec s) hg

end Sys2Proof.Claims
end

section
/-! Bytes of memory and of lines (spec 02 R27; 10 R211, R227): what a read of several bytes is, the bytes of a line, and of a line stored under a mask. -/

namespace Sys2Proof

/-! ### Reads of several bytes -/

theorem Memory.read_lt (m : Memory) (a n : Nat) : m.read a n < 256 ^ n := by
  induction n generalizing a with
  | zero => exact Nat.one_pos
  | succ n ih =>
    have hbyte := (m.byte a).isLt
    have hrest := ih (a + 1)
    rw [Memory.read, Nat.pow_succ']
    omega

theorem Memory.read_add (m : Memory) (a i n : Nat) : m.read a (i + n) = m.read a i + 256 ^ i * m.read (a + i) n := by
  induction i generalizing a with
  | zero => rw [Nat.zero_add, Memory.read, Nat.zero_add, Nat.pow_zero, Nat.one_mul, Nat.add_zero]
  | succ i ih =>
    rw [Nat.add_right_comm, Memory.read, ih, Memory.read, Nat.mul_add, ← Nat.mul_assoc, ← Nat.pow_succ', Nat.add_assoc, Nat.add_comm 1 i]
    exact (Nat.add_assoc ..).symm

/-- Some bytes out of those read. -/
theorem Memory.read_part (m : Memory) (a : Nat) {i n k : Nat} (h : i + n ≤ k) : m.read a k / 256 ^ i % 256 ^ n = m.read (a + i) n := by
  obtain ⟨r, rfl⟩ := Nat.exists_eq_add_of_le h
  rw [Nat.add_assoc, Memory.read_add, Nat.add_mul_div_left _ _ (Nat.pow_pos (by decide)), Nat.div_eq_of_lt (m.read_lt a i), Nat.zero_add,
    Memory.read_add, Nat.add_mul_mod_self_left, Nat.mod_eq_of_lt (m.read_lt _ n)]

theorem Memory.read_one (m : Memory) (a : Nat) : m.read a 1 = (m.byte a).toNat := by rw [Memory.read, Memory.read]; rfl

theorem two_pow_eight_mul (n : Nat) : 2 ^ (8 * n) = 256 ^ n := Nat.pow_mul 2 8 n

/-- A byte of a vector register or a line. -/
theorem byte_eq_extractLsb' (x : VReg) (j : Nat) : BitVec.ofNat 8 (x.toNat / 256 ^ j) = x.extractLsb' (8 * j) 8 := by
  rw [← two_pow_eight_mul, ← Nat.shiftRight_eq_div_pow]; rfl

end Sys2Proof

namespace Sys2Proof.Machine

theorem toNat_ofNat_read (m : Memory) (a n : Nat) : (BitVec.ofNat (8 * n) (m.read a n)).toNat = m.read a n :=
  (BitVec.toNat_ofNat ..).trans (Nat.mod_eq_of_lt <| Nat.lt_of_lt_of_eq (m.read_lt a n) (two_pow_eight_mul n).symm)
theorem toNat_read_line (m : Memory) (a : Nat) : (BitVec.ofNat 512 (m.read a 64)).toNat = m.read a 64 := toNat_ofNat_read m a 64

/-- Bytes of a line are bytes of memory. -/
theorem lineBytes_read {m : Memory} {a off n : Nat} (h : off + n ≤ 64) : lineBytes (BitVec.ofNat 512 (m.read a 64)) off n = m.read (a + off) n := by
  rw [lineBytes, toNat_read_line, two_pow_eight_mul, two_pow_eight_mul, m.read_part a h]

theorem extractLsb'_read {m : Memory} {a j : Nat} (h : j < 64) : (BitVec.ofNat 512 (m.read a 64)).extractLsb' (8 * j) 8 = m.byte (a + j) := by
  refine BitVec.eq_of_toNat_eq ?_
  have hpart := m.read_part a (i := j) (n := 1) (k := 64) (by omega)
  rw [Memory.read_one, Nat.pow_one, ← two_pow_eight_mul j] at hpart
  rw [BitVec.extractLsb'_toNat, toNat_read_line, Nat.shiftRight_eq_div_pow, ← hpart]

/-! ### Lines under a mask (R112, R227) -/

/-- The bits of the bytes that a mask picks. -/
theorem getLsbD_byteMask (mask : BitVec 64) (i : Nat) (hi : i < 512) :
    (BitVec.ofNat 512 ((rangeFrom 0 64).foldr (fun i (n : Nat) => n * 256 + if mask.getLsbD i then 255 else 0) 0)).getLsbD i = mask.getLsbD (i / 8) := by
  have hlanes (l : List Nat) : l.foldr (fun i (n : Nat) => n * 256 + if mask.getLsbD i then 255 else 0) 0 =
      ofLanes 8 (l.map fun i => if mask.getLsbD i then 255 else 0) := by
    induction l with
    | nil => rfl
    | cons i l ih => rw [List.foldr_cons, ih, List.map_cons, ofLanes]; split <;> omega
  have hlane := ofLanes_lane 8 ((List.range 64).map fun i => if mask.getLsbD i then 255 else 0) (i / 8) (by simp; omega)
  rw [BitVec.getLsbD_ofNat, decide_eq_true hi, Bool.true_and, rangeFrom_eq_range, hlanes]
  have hbit (x : Nat) : x.testBit i = (x / 2 ^ (8 * (i / 8)) % 2 ^ 8).testBit (i % 8) := by
    rw [Nat.testBit_mod_two_pow, decide_eq_true (by omega), Bool.true_and, Nat.testBit_div_two_pow, Nat.mod_add_div]
  rw [hbit, hlane, List.getElem_map, List.getElem_range]
  have hlow : i % 8 < 8 := by omega
  generalize i % 8 = b at hlow
  cases mask.getLsbD (i / 8)
  · simp
  · interval_cases b <;> rfl

theorem extractLsb'_maskLine (old new : VReg) (mask : BitVec 64) {j : Nat} (hj : j < 64) :
    (maskLine old new mask).extractLsb' (8 * j) 8 = if mask.getLsbD j then new.extractLsb' (8 * j) 8 else old.extractLsb' (8 * j) 8 := by
  refine BitVec.eq_of_getLsbD_eq fun b hb => ?_
  have hdiv : (8 * j + b) / 8 = j := by omega
  have hlt : 8 * j + b < 512 := by omega
  rw [apply_ite (BitVec.getLsbD · b)]
  simp only [BitVec.getLsbD_extractLsb', hb, decide_true, Bool.true_and, maskLine, BitVec.getLsbD_or, BitVec.getLsbD_and, BitVec.getLsbD_not,
    getLsbD_byteMask mask _ hlt, hdiv, hlt]
  cases mask.getLsbD j <;> simp

/-- A line of memory stored under a mask: the bytes picked are the new ones, and every other byte is as it was. -/
theorem byte_write_masked (m : Memory) (line : Nat) (x : VReg) (mask : BitVec 64) (a : Nat) :
    (m.write (64 * line) 64 (maskLine (BitVec.ofNat 512 (m.read (64 * line) 64)) x mask).toNat).byte a =
      if a / 64 = line ∧ mask.getLsbD (a % 64) = true then x.extractLsb' (8 * (a % 64)) 8 else m.byte a := by
  by_cases hline : a / 64 = line
  · have hlt : a % 64 < 64 := Nat.mod_lt _ (by decide)
    have ha : a = 64 * line + a % 64 := by omega
    have hinside := m.byte_write_inside (64 * line) 64 (maskLine (BitVec.ofNat 512 (m.read (64 * line) 64)) x mask).toNat _ hlt
    rw [← ha, byte_eq_extractLsb', extractLsb'_maskLine _ _ _ hlt, extractLsb'_read hlt, ← ha] at hinside
    rw [hinside]
    simp [hline]
  · rw [if_neg (fun h => hline h.1), Memory.byte_write_outside _ _ _ _ _ (by omega)]

end Sys2Proof.Machine
end

section
/-! Accesses to the scratchpad and to settled lines (spec 04 R81; 05 R112; 10 R208, R211, R221, R227, R231): the bytes that they read and change, and the settling
of O14 and O18. -/

namespace Sys2Proof

theorem mem_of_kget {α : Type} {m : List (Nat × α)} {k : Nat} {v : α} (h : kget m k = some v) : (k, v) ∈ m := by
  induction m with
  | nil => cases h
  | cons x m ih =>
    obtain ⟨j, w⟩ := x
    rw [kget] at h
    split at h
    · next hj => cases h; subst hj; exact List.mem_cons_self
    · exact List.mem_cons_of_mem _ (ih h)

theorem mem_kset {α : Type} {m : List (Nat × α)} {k : Nat} {v : α} {x : Nat × α} (h : x ∈ kset m k v) : x = (k, v) ∨ x ∈ m := by
  induction m with
  | nil => exact .inl (List.mem_singleton.1 h)
  | cons y m ih =>
    rw [kset] at h
    split at h
    · exact List.mem_cons.1 h
    · split at h
      · exact (List.mem_cons.1 h).imp_right (List.mem_cons_of_mem _)
      · obtain rfl | h := List.mem_cons.1 h
        · exact .inr List.mem_cons_self
        · exact (ih h).imp_right (List.mem_cons_of_mem _)

theorem mem_nadd (l : List Nat) (k : Nat) : k ∈ nadd l k := by
  induction l with
  | nil => exact List.mem_singleton_self k
  | cons j l ih =>
    rw [nadd]
    split
    · exact List.mem_cons_self
    · split
      · next h => rw [h]; exact List.mem_cons_self
      · exact List.mem_cons_of_mem _ ih

end Sys2Proof

namespace Sys2Proof.Machine
open Sys2Proof.Claims

/-! ### Scratchpads (R208, R210) -/

theorem State.getCore_modCore_ne (s : State) (n j : Nat) (f : Core → Core) (h : j ≠ n) : (s.modCore n f).getCore j = s.getCore j :=
  State.getCore_setCore_ne s n j _ h

/-- A change of a core that leaves its scratchpad leaves every scratchpad. -/
theorem State.scratch_modCore {f : Core → Core} (hf : ∀ c, (f c).scratch = c.scratch) (s : State) (n core : Nat) :
    ((s.modCore n f).getCore core).scratch = (s.getCore core).scratch := by
  by_cases h : core = n
  · rw [h, State.getCore_modCore_self, hf]
  · rw [State.getCore_modCore_ne s n core f h]

theorem State.sameMemory_modCore {f : Core → Core} (hf : ∀ c, (f c).scratch = c.scratch) (s : State) (n : Nat) : s.SameMemory (s.modCore n f) :=
  ⟨fun _ => rfl, fun core a => by rw [State.scratch_modCore hf]⟩

theorem scratchLoadBy_reads (s : State) (k off n : Nat) : (s.scratchLoadBy k off n).1 =
    ((s.getCore (k / 64)).scratch.read off n, (s.getCore (k / 64)).scratchPoison (lineOf off)) := rfl

theorem State.sameMemory_scratchLoadBy (s : State) (k off n : Nat) : s.SameMemory (s.scratchLoadBy k off n).2 := by
  refine State.SameMemory.trans (t := s.modCtx k _) ⟨fun _ => rfl, fun _ _ => rfl⟩ (State.sameMemory_modCore ?_ _ _)
  exact fun _ => rfl

theorem State.scratch_scratchStoreBy (s : State) (k off n v : Nat) (p : Bool) :
    ((s.scratchStoreBy k off n v p).getCore (k / 64)).scratch = (s.getCore (k / 64)).scratch.write off n v := by
  rw [State.scratchStoreBy, State.scratchStore, State.getCore_modCore_self, State.getCore_modCtx]

theorem State.getCore_scratchStoreBy_ne (s : State) (k off n v : Nat) (p : Bool) {core : Nat} (h : core ≠ k / 64) :
    (s.scratchStoreBy k off n v p).getCore core = s.getCore core := by
  rw [State.scratchStoreBy, State.scratchStore, State.getCore_modCore_ne _ _ _ _ h, State.getCore_modCtx]

/-! ### Slices without older copies (R211) -/

/-- No slice holds a copy older than device memory. -/
def State.NoOldCopy (s : State) : Prop := ∀ x ∈ s.behind, x.2.dirty = true

theorem State.dropBehind_newer {s : State} (h : s.NoOldCopy) (line : Nat) : ∃ l, s.dropBehind line = { s with behind := l } := by
  unfold State.dropBehind
  split
  · exact ⟨_, rfl⟩
  · next b hb => exact ⟨_, if_pos (h _ (mem_of_kget hb))⟩

/-- A slice that gives up a line then writes it back and changes no byte. -/
theorem State.trimSlice_newer {s : State} (h : s.NoOldCopy) (line : Nat) : ∃ l n, s.trimSlice line = { s with behind := l, fresh := n } := by
  unfold State.trimSlice
  dsimp only
  split
  · exact ⟨_, _, rfl⟩
  · split
    · exact ⟨_, _, rfl⟩
    · next x _ _ =>
      obtain ⟨l, hl⟩ := State.dropBehind_newer (s := { s with fresh := s.fresh + 1 }) h x.1
      exact ⟨l, s.fresh + 1, hl⟩

theorem State.settle_none {s : State} {line : Nat} (h : kget s.behind line = none) : s.settle line = s := by
  unfold State.settle; rw [h]

/-- What a store to a line of memory changes besides the slices. -/
theorem State.storeLine_newer {s : State} (h : s.NoOldCopy) (pa n v : Nat) (p wt : Bool) (hline : kget s.behind (lineOf pa) = none) : ∃ l m,
    s.storeLine pa n v p wt = { s with
      mem := s.mem.write pa n v
      poison := setPois s.poison (lineOf pa) (poisAfter (s.linePois (lineOf pa)) n p)
      behind := l
      fresh := m } := by
  unfold State.storeLine
  dsimp only
  rw [State.settle_none hline]
  split
  · exact ⟨_, _, rfl⟩
  · split
    · exact ⟨_, _, rfl⟩
    · refine State.trimSlice_newer (s := { s with mem := _, poison := _, behind := _ }) (fun x hx => ?_) _
      obtain rfl | hx := mem_kset hx
      · rfl
      · exact h x hx

end Sys2Proof.Machine

namespace Sys2Proof.Claims
open Sys2Proof.Machine

/-! ### Settled lines (R221, R227) -/

section
variable {s : State} {pa key : Nat} {write : Bool} (hs : Settled s pa key write)
include hs

/-- No write of an engine to the line is without its place. -/
theorem Settled.not_early {e : Early} (he : e ∈ s.early) (b : Bool) : (e.line == lineOf pa && b) = false := by
  obtain ⟨-, -, -, hearly⟩ := hs
  rw [beq_false_of_ne (hearly e he), Bool.false_and]

theorem Settled.placeOverdue : s.placeOverdue (lineOf pa) = s := State.placeThose_none fun _ he => hs.not_early he _

theorem Settled.placeSeen (k : Nat) : s.placeSeen k (lineOf pa) = s := by
  unfold State.placeSeen
  split
  · rfl
  · exact State.placeThose_none fun _ he => hs.not_early he _

theorem Settled.observe (k : Nat) : s.observe k (lineOf pa) = s := by
  unfold State.observe State.observeBy
  split
  · rfl
  · have hmap (tag : Nat) : s.early.map (fun e => if e.line == lineOf pa && s.seesEarly k e && !e.seenBy tag then
        { e with observed := kset e.observed tag false } else e) = s.early := by
      refine (List.map_congr_left fun e he => ?_).trans (List.map_id _)
      rw [Bool.and_assoc, hs.not_early he]; rfl
    rw [hmap]

theorem Settled.overlaid (k : Nat) (d : VReg × Bool) : s.overlaid k (lineOf pa) key d = d := by
  have hnone : s.early.filter (fun e => e.line == lineOf pa && s.seesEarly k e) = [] := by
    rw [List.filter_eq_nil_iff]
    intro e he
    rw [hs.not_early he]; decide
  rw [State.overlaid, State.overlaidBy, hnone]; rfl

theorem Settled.seen (d : VReg) : s.seen (lineOf pa) key d = d := by
  obtain ⟨-, -, hkey, -⟩ := hs
  rw [State.seen, reciphered, if_pos hkey]

/-- Nothing is to be done before a store to the line. -/
theorem Settled.readied (k : Nat) (hw : write = true) :
    (((s.placeOverdue (lineOf pa)).placeSeen k (lineOf pa)).fill (lineOf pa) true).rekey (lineOf pa) key = s := by
  subst hw
  rw [hs.placeOverdue, hs.placeSeen]
  obtain ⟨hfill, -, hkey, -⟩ := hs
  rw [hfill, State.rekey, if_pos hkey]

end

end Sys2Proof.Claims

namespace Sys2Proof.Machine
open Sys2Proof.Claims

/-! ### Loads (R221) -/

theorem State.sameMemory_fillL1 (s : State) (core : Nat) (x : L1Copy) : s.SameMemory (s.fillL1 core x) := by
  unfold State.fillL1
  dsimp only
  split
  · refine State.sameMemory_modCore ?_ s core
    exact fun _ => rfl
  · refine State.sameMemory_modCore (s := { s with fresh := s.fresh + 1 }) ?_ core
    exact fun _ => rfl

/-- A coherent load of a settled line that no copy in the core's L1 stands before. -/
theorem coLoad_settled {s : State} {k pa key : Nat} (hs : Settled s pa key false) (hl1 : ∀ c ∈ (s.getCore (k / 64)).l1, c.line ≠ lineOf pa) (l1 : Bool) :
    (s.coLoad k pa l1 key).1 = (s.lineData (lineOf pa), s.linePois (lineOf pa)) ∧ s.SameMemory (s.coLoad k pa l1 key).2 := by
  have hready : (((s.placeOverdue (lineOf pa)).fill (lineOf pa) false).settle (lineOf pa)).observe k (lineOf pa) = s := by
    have hobserve := hs.observe k
    rw [hs.placeOverdue]
    obtain ⟨hfill, hbehind, -, -⟩ := hs
    rw [hfill, State.settle_none hbehind, hobserve]
  have hcopy : s.l1Copy (k / 64) (lineOf pa) (s.getCtx k).lt = none := by
    refine List.find?_eq_none.2 fun c hc => ?_
    rw [beq_false_of_ne (hl1 c hc)]; simp
  unfold State.coLoad
  dsimp only
  rw [hready, hcopy, ite_self, hs.seen, hs.overlaid]
  refine ⟨rfl, ?_⟩
  dsimp only
  split
  · exact State.SameMemory.trans ⟨fun _ => rfl, fun _ _ => rfl⟩ (State.sameMemory_fillL1 _ _ _)
  · exact ⟨fun _ => rfl, fun _ _ => rfl⟩

/-! ### Stores (R221, R231) -/

/-- A coherent store to a settled line changes its bytes and the line's poison, and of the contexts its own. -/
theorem coStore_settled {s : State} {k pa key : Nat} (hs : Settled s pa key true) (hnew : s.NoOldCopy) (n v : Nat) (p wt : Bool) :
    let t := s.coStore k pa n v p wt true key
    t.mem = s.mem.write pa n v ∧ t.poison = setPois s.poison (lineOf pa) (poisAfter (s.linePois (lineOf pa)) n p) ∧
      (∀ core, (t.getCore core).scratch = (s.getCore core).scratch) ∧ ∀ j, j ≠ k → t.getCtx j = s.getCtx j := by
  have hready := hs.readied k rfl
  obtain ⟨-, hbehind, -, -⟩ := hs
  unfold State.coStore
  dsimp only
  rw [hready, if_pos rfl]
  obtain ⟨l, m, hstore⟩ := State.storeLine_newer (s := (s.remember k (lineOf pa)).setCtx k _) hnew pa n v p wt hbehind
  rw [hstore]
  refine ⟨rfl, rfl, fun core => State.scratch_modCore ?_ _ _ core, fun j hj => State.getCtx_setCtx_ne _ k j _ hj⟩
  exact fun _ => rfl

/-! ### Stores of blocks (R112) -/

/-- A masked store to a settled line is a store of the line with the bytes picked replaced. -/
theorem storeMasked_settled {s : State} {k pa key : Nat} (hs : Settled s pa key true) (l1 wt : Bool) (x : VReg) (mask : BitVec 64) (pois : Bool) :
    s.storeMasked k (.coherent pa l1 wt key) x mask pois =
      s.coStore k (64 * lineOf pa) 64 (maskLine (s.lineData (lineOf pa)) x mask).toNat (maskPoison (s.linePois (lineOf pa)) pois mask) wt true key := by
  rw [State.storeMasked, hs.readied k rfl]

theorem lineOf_mul (line : Nat) : lineOf (64 * line) = line := Nat.mul_div_cancel_left line (by decide)

/-- A line that takes poisoned data is poisoned. -/
theorem mem_setPois_poisAfter (l : List Nat) (line : Nat) (old : Bool) (n : Nat) : line ∈ setPois l line (poisAfter old n true) := mem_nadd l line

end Sys2Proof.Machine

namespace Sys2Proof.Claims
open Sys2Proof.Machine

/-- The first byte of a settled line is as settled as any. -/
theorem Settled.lineStart {s : State} {pa key : Nat} {write : Bool} (hs : Settled s pa key write) : Settled s (64 * lineOf pa) key write := by
  rw [Settled, lineOf_mul]; exact hs

/-- Settles O14: nothing is to be done before a load of a settled line, and no copy answers it. -/
theorem loadAccessReadsMemory : Obligations.LoadAccessReadsMemory := by
  unfold Obligations.LoadAccessReadsMemory
  refine fun s k n => ⟨fun off => ⟨scratchLoadBy_reads s k off n, s.sameMemory_scratchLoadBy k off n⟩, fun pa l1 wt key hs hn hl1 => ?_⟩
  obtain ⟨hread, hsame⟩ := coLoad_settled hs hl1 l1
  refine ⟨?_, hsame⟩
  have hbytes : lineBytes (s.lineData (lineOf pa)) (pa % 64) n = s.mem.read pa n := by
    rw [State.lineData, lineBytes_read hn, lineOf, Nat.div_add_mod]
  rw [State.loadAt]
  dsimp only
  rw [hread, hbytes]; rfl

theorem scratchStore_bytes (s : State) (k off n v : Nat) (pois : Bool) : let t := s.storeAt k (.scratch off) n v pois
    (∀ a, t.mem.byte a = s.mem.byte a) ∧
    (∀ core a, core ≠ k / 64 ∨ a < off ∨ off + n ≤ a → (t.getCore core).scratch.byte a = (s.getCore core).scratch.byte a) ∧
    (∀ j, j < n → (t.getCore (k / 64)).scratch.byte (off + j) = BitVec.ofNat 8 (v / 256 ^ j)) := by
  have hwrite := s.scratch_scratchStoreBy k off n v pois
  refine ⟨fun _ => rfl, fun core a h => ?_, fun j hj => (congrArg (Memory.byte · _) hwrite).trans (Memory.byte_write_inside _ off n v j hj)⟩
  by_cases hc : core = k / 64
  · subst hc
    exact (congrArg (Memory.byte · a) hwrite).trans (Memory.byte_write_outside _ off n v a (h.resolve_left (fun h => h rfl)))
  · exact congrArg (fun c : Core => c.scratch.byte a) (s.getCore_scratchStoreBy_ne k off n v pois hc)

theorem coStore_bytes {s : State} {k pa key : Nat} (hs : Settled s pa key true) (hnew : s.NoOldCopy) (l1 wt : Bool) (n v : Nat) (pois : Bool) :
    let t := s.storeAt k (.coherent pa l1 wt key) n v pois
    (∀ a, a < pa ∨ pa + n ≤ a → t.mem.byte a = s.mem.byte a) ∧
    (∀ core a, (t.getCore core).scratch.byte a = (s.getCore core).scratch.byte a) ∧
    (∀ j, j < n → t.mem.byte (pa + j) = BitVec.ofNat 8 (v / 256 ^ j)) ∧
    (pois = true → lineOf pa ∈ t.poison) ∧ (∀ j, j ≠ k → t.getCtx j = s.getCtx j) ∧
    SameRegisters (s.getCtx k) (t.getCtx k) := by
  obtain ⟨hmem, hpoison, hscratch, hctx⟩ := coStore_settled hs hnew (k := k) n v pois wt
  obtain ⟨-, -, hregs⟩ := s.undisturbed_coStore k pa n v pois wt key
  refine ⟨fun a ha => ?_, fun core a => congrArg (Memory.byte · a) (hscratch core), fun j hj => ?_, fun hp => ?_, hctx, hregs k⟩
  · exact (congrArg (Memory.byte · a) hmem).trans (Memory.byte_write_outside _ pa n v a ha)
  · exact (congrArg (Memory.byte · _) hmem).trans (Memory.byte_write_inside _ pa n v j hj)
  · subst hp
    exact hpoison ▸ mem_setPois_poisAfter ..

theorem scratchMasked_bytes (s : State) (k off : Nat) (x : VReg) (mask : BitVec 64) (pois : Bool) :
    let t := s.storeMasked k (.scratch off) x mask pois
    (∀ a, t.mem.byte a = s.mem.byte a) ∧
    (∀ core a, core ≠ k / 64 ∨ a / 64 ≠ off / 64 ∨ mask.getLsbD (a % 64) = false →
      (t.getCore core).scratch.byte a = (s.getCore core).scratch.byte a) ∧
    (∀ j, j < 64 → mask.getLsbD j = true → (t.getCore (k / 64)).scratch.byte (off / 64 * 64 + j) = x.extractLsb' (8 * j) 8) := by
  have hbyte (a : Nat) : ((s.storeMasked k (.scratch off) x mask pois).getCore (k / 64)).scratch.byte a = _ :=
    (congrArg (Memory.byte · a) (s.scratch_scratchStoreBy k (64 * lineOf off) 64 _ _)).trans (byte_write_masked _ (lineOf off) x mask a)
  refine ⟨fun _ => rfl, fun core a h => ?_, fun j hj hm => ?_⟩
  · by_cases hc : core = k / 64
    · subst hc
      rw [hbyte, if_neg]
      rintro ⟨hline, hm⟩
      obtain h | h | h := h
      · exact h rfl
      · exact h hline
      · rw [hm] at h; cases h
    · exact congrArg (fun c : Core => c.scratch.byte a) (s.getCore_scratchStoreBy_ne k (64 * lineOf off) 64 _ _ hc)
  · have hline : (off / 64 * 64 + j) / 64 = lineOf off := by rw [lineOf]; omega
    have hoff : (off / 64 * 64 + j) % 64 = j := by omega
    rw [hbyte, hline, hoff, if_pos ⟨rfl, hm⟩]

theorem coMasked_bytes {s : State} {k pa key : Nat} (hs : Settled s pa key true) (hnew : s.NoOldCopy) (l1 wt : Bool) (x : VReg) (mask : BitVec 64)
    (pois : Bool) : let t := s.storeMasked k (.coherent pa l1 wt key) x mask pois
    (∀ a, a / 64 ≠ lineOf pa ∨ mask.getLsbD (a % 64) = false → t.mem.byte a = s.mem.byte a) ∧
    (∀ core a, (t.getCore core).scratch.byte a = (s.getCore core).scratch.byte a) ∧
    (∀ j, j < 64 → mask.getLsbD j = true → t.mem.byte (64 * lineOf pa + j) = x.extractLsb' (8 * j) 8) ∧
    (pois = true → lineOf pa ∈ t.poison) ∧ SameRegisters (s.getCtx k) (t.getCtx k) := by
  dsimp only
  rw [storeMasked_settled hs]
  obtain ⟨hmem, hpoison, hscratch, -⟩ := coStore_settled hs.lineStart hnew (k := k) 64 (maskLine (s.lineData (lineOf pa)) x mask).toNat
    (maskPoison (s.linePois (lineOf pa)) pois mask) wt
  obtain ⟨-, -, hregs⟩ := s.undisturbed_coStore k (64 * lineOf pa) 64 (maskLine (s.lineData (lineOf pa)) x mask).toNat
    (maskPoison (s.linePois (lineOf pa)) pois mask) wt key
  have hbyte (a : Nat) := (congrArg (Memory.byte · a) hmem).trans (byte_write_masked s.mem (lineOf pa) x mask a)
  refine ⟨fun a h => ?_, fun core a => congrArg (Memory.byte · a) (hscratch core), fun j hj hm => ?_, fun hp => ?_, hregs k⟩
  · rw [hbyte, if_neg]
    rintro ⟨hline, hm⟩
    obtain h | h := h
    · exact h hline
    · rw [hm] at h; cases h
  · have hline : (64 * lineOf pa + j) / 64 = lineOf pa := by omega
    have hoff : (64 * lineOf pa + j) % 64 = j := by omega
    rw [hbyte, hline, hoff, if_pos ⟨rfl, hm⟩]
  · subst hp
    rw [hpoison, lineOf_mul]
    exact mem_setPois_poisAfter ..

/-- Settles O18: the access alone writes, so each part reads its bytes back and every other byte as it was. -/
theorem storeAccessChangesItsBytesAlone : Obligations.StoreAccessChangesItsBytesAlone := by
  unfold Obligations.StoreAccessChangesItsBytesAlone
  exact fun s k n v pois => ⟨fun off => scratchStore_bytes s k off n v pois, fun pa l1 wt key hs hnew _ => coStore_bytes hs hnew l1 wt n v pois,
    fun off x mask => scratchMasked_bytes s k off x mask pois, fun pa l1 wt key x mask hs hnew => coMasked_bytes hs hnew l1 wt x mask pois⟩

end Sys2Proof.Claims
end

section
/-! The predicate instructions (spec 02 R34; 05 R94, R95, R104), and the settling of O27. -/

namespace Sys2Proof

theorem feed_done {p : Prefixes} {ends : Bool} {w : Word} {i : Instr} (h : feed p ends w = .done i) : decodeWord p.imms w = some i := by
  unfold feed at h
  dsimp only at h
  split_ifs at h
  split at h
  · cases h
  · next hi => rw [hi, Fed.done.inj h]

/-- The word of a term that is not well-formed is no instruction. -/
theorem decode_ill {w : Word} {i : Instr} (hraw : rawWord [] w = some i) (hwf : i.wf = false) : decode [w] = none := by
  have hword : decodeWord [] w = none := by rw [decodeWord, hraw, Option.filter_some, hwf]; rfl
  rw [decode, decodeFrom]
  split
  · rfl
  · next hdone => cases hword.symm.trans (feed_done hdone)
  · rfl

end Sys2Proof

namespace Sys2Proof.Machine
open Sys2Proof.Claims

/-! ### The lowest one bit (R104) -/

/-- Bit `k` of a predicate is its lowest one. -/
def LowestAt (x : Dword) (k : Nat) : Prop := k < 64 ∧ x.getLsbD k = true ∧ ∀ i, i < k → x.getLsbD i = false

theorem lowestAt_trailingZeros {x : Dword} (hx : x ≠ 0) : LowestAt x (trailingZeros x) := by
  rw [trailingZeros, rangeFrom_eq_range]
  cases hfind : (List.range 64).find? x.getLsbD with
  | none =>
    refine absurd (BitVec.eq_of_getLsbD_eq fun i hi => ?_) hx
    simpa using List.find?_eq_none.1 hfind i (List.mem_range.2 hi)
  | some k =>
    obtain ⟨hk, hlt, hbelow⟩ := List.find?_range_eq_some.1 hfind
    exact ⟨List.mem_range.1 hlt, hk, fun i hi => by simpa using hbelow i hi⟩

section
variable {x : Dword} {k : Nat} (h : LowestAt x k)
include h

theorem LowestAt.all_zero (j : Nat) : (List.range j).all (fun i => !x.getLsbD i) = decide (j ≤ k) := by
  obtain ⟨-, hk, hbelow⟩ := h
  rw [Bool.eq_iff_iff, List.all_eq_true, decide_eq_true_iff]
  refine ⟨fun hall => Nat.not_lt.1 fun hlt => ?_, fun hle i hi => ?_⟩
  · simpa [hk] using hall k (List.mem_range.2 hlt)
  · rw [hbelow i (Nat.lt_of_lt_of_le (List.mem_range.1 hi) hle), Bool.not_false]

theorem LowestAt.isLowest_eq (j : Nat) : isLowest x j = decide (k = j) := by
  rw [isLowest, h.all_zero]
  obtain ⟨-, hk, hbelow⟩ := h
  rcases Nat.lt_trichotomy j k with hlt | rfl | hgt
  · rw [hbelow j hlt, Bool.false_and, decide_eq_false (Nat.ne_of_gt hlt)]
  · rw [hk, Bool.true_and, decide_eq_true (Nat.le_refl j), decide_eq_true rfl]
  · rw [decide_eq_false (Nat.not_le.2 hgt), Bool.and_false, decide_eq_false (Nat.ne_of_lt hgt)]

end

theorem getLsbD_lowestOne (x : Dword) {j : Nat} (hj : j < 64) : (lowestOne x).getLsbD j = isLowest x j := by
  unfold lowestOne
  split
  · next hx => simp [hx, isLowest]
  · next hx => rw [(lowestAt_trailingZeros hx).isLowest_eq, BitVec.getLsbD_ofNat, decide_eq_true hj, Bool.true_and, Nat.testBit_two_pow]

/-- The bits below the lowest one; all 64 where there is none. -/
theorem getLsbD_lowestOne_sub_one (x : Dword) {j : Nat} (hj : j < 64) :
    (lowestOne x - 1).getLsbD j = (List.range (j + 1)).all (fun k => !x.getLsbD k) := by
  unfold lowestOne
  split
  · next hx =>
    have hones : (0 - 1 : Dword) = BitVec.allOnes 64 := by decide
    rw [hones, BitVec.getLsbD_allOnes, decide_eq_true hj, hx]
    simp
  · next hx =>
    obtain ⟨hk, -, -⟩ := lowestAt_trailingZeros hx
    have hbelow : BitVec.ofNat 64 (2 ^ trailingZeros x) - 1 = lanesBelow (trailingZeros x) := by
      rw [lanesBelow]
      exact BitVec.ofNat_sub_ofNat_of_le _ _ (by decide) Nat.one_le_two_pow
    rw [hbelow, getLsbD_lanesBelow _ _ hj, (lowestAt_trailingZeros hx).all_zero]
    exact decide_eq_decide.2 Nat.lt_iff_add_one_le

/-! ### Completing with a predicate -/

theorem plain_setP {i : Instr} {s : State} {d : PReg} {v : Dword} (hd : d ≠ 0) (h : exec i s = .next (s.modCx (fun c => c.setP d v)).retire) :
    ∃ t, Plain i s t [] [] [d] ∧ t.cx.p d = v :=
  plainFrom_setP (m := fun s => (.ok (), (s.modCx (fun c => c.setP d v)).retire)) h hd rfl

/-- The same, of a predicate given bit by bit. -/
theorem plain_setP_bits {i : Instr} {s : State} {d : PReg} {v : Dword} {f : Nat → Bool} (hd : d ≠ 0)
    (h : exec i s = .next (s.modCx (fun c => c.setP d v)).retire) (hv : ∀ j, j < 64 → v.getLsbD j = f j) :
    ∃ t, Plain i s t [] [] [d] ∧ ∀ j, j < 64 → (t.cx.p d).getLsbD j = f j := by
  obtain ⟨t, hplain, rfl⟩ := plain_setP hd h
  exact ⟨t, hplain, hv⟩

theorem exec_pcnt {s : State} {a : Reg} (d : PReg) (hp : s.cx.sp a = false) :
    exec (.pcnt d a) s = .next (s.modCx (fun c => c.setP d (lanesBelow (min (s.cx.s a).toNat 64)))).retire :=
  finish_ok _ _ _ (by rw [Exec.bind_ok (cx_run s), hp, Exec.bind_ok (guardPoison_false s), Exec.bind_ok (modCx_run ..), retireE_run]; rfl)

theorem pcnt_poisoned {s : State} {a : Reg} (d : PReg) (hp : s.cx.sp a = true) : TrapsPoison (.pcnt d a) s :=
  trapsPoison_of_error rfl (by rw [Exec.bind_ok (cx_run s), hp, Exec.bind_error (guardPoison_true s)])

/-! ### p0 as destination (R9, R34) -/

theorem rawWord_predicate_p0 (a b : PReg) : ∀ i ∈ [Instr.pand 0 a b, .por 0 a b, .pxor 0 a b, .pnot 0 a, .pfirst 0 a, .pbrk 0 a],
    rawWord [] i.word = some i ∧ i.prefixes = [] ∧ i.wf = false := by
  revert a b
  decide +kernel

theorem rawWord_pcnt_p0 (r : Reg) : rawWord [] (Instr.pcnt 0 r).word = some (.pcnt 0 r) := by
  revert r
  decide +kernel

end Sys2Proof.Machine

namespace Sys2Proof.Claims
open Sys2Proof.Machine

/-- Settles O27: `LowestAt` gives the bits of pfirst and pbrk, and a word that names p0 as its destination reads as a term that is not well-formed. -/
theorem predicateResults : Obligations.PredicateResults := by
  unfold Obligations.PredicateResults
  refine fun s => ⟨fun d a b hd => ⟨plain_setP hd rfl, plain_setP hd rfl, plain_setP hd rfl⟩, fun d a hd => ⟨plain_setP hd rfl, ?_, ?_⟩,
    fun d a hd hp => ?_, fun d a hp => pcnt_poisoned d hp, fun d a => ?_, fun a b i hi => ?_, fun r => ?_⟩
  · exact plain_setP_bits hd rfl fun j hj => getLsbD_lowestOne _ hj
  · exact plain_setP_bits hd rfl fun j hj => getLsbD_lowestOne_sub_one _ hj
  · refine plain_setP_bits hd (exec_pcnt d hp) fun j hj => ?_
    rw [getLsbD_lanesBelow _ _ hj, decide_eq_decide, Nat.lt_min, and_iff_left hj]
  · refine ⟨_, plain_setS _ s d _ _ rfl, ?_⟩
    rw [count_bits, State.cx_retire, State.cx_modCx]
    exact holds_setS ..
  · obtain ⟨hraw, hprefixes, hwf⟩ := rawWord_predicate_p0 a b i hi
    rw [encode, hprefixes]
    exact decode_ill hraw hwf
  · exact decode_ill (rawWord_pcnt_p0 r) rfl

end Sys2Proof.Claims
end

section
/-! Instructions that move lanes (spec 01 R50, R51; 05 R95, R97, R105; 06 R136), and the settling of O28. -/

namespace Sys2Proof.Machine
open Sys2Proof.Claims

/-! ### Lanes of a list (R50) -/

theorem lane_lt (w : Nat) (v : VReg) (i : Nat) : lane w v i < 2 ^ w := Nat.mod_lt _ (Nat.two_pow_pos w)

/-- The lanes of a vector made from a list: those beyond the list are 0. -/
theorem lane_ofLanesV_getD (w : Nat) {xs : List Nat} (hw : w * xs.length ≤ 512) (i : Nat) : lane w (ofLanesV w xs) i = xs.getD i 0 % 2 ^ w := by
  by_cases hi : i < xs.length
  · rw [lane_ofLanesV w xs hw i hi, List.getD_eq_getElem _ _ hi]
  · have hlt : ofLanes w xs < 2 ^ (w * i) :=
      Nat.lt_of_lt_of_le (ofLanes_lt w xs) (Nat.pow_le_pow_right (by decide) (Nat.mul_le_mul_left w (Nat.not_lt.1 hi)))
    rw [lane, ofLanesV, toNat_ofLanes hw, Nat.div_eq_of_lt hlt, List.getD_eq_default _ _ (Nat.not_lt.1 hi)]

/-- A vector given lane by lane. -/
theorem lane_ofLanesV_range {w : Nat} {f : Nat → Nat} (hf : ∀ j, f j < 2 ^ w) {i : Nat} (hi : i < 512 / w) :
    lane w (ofLanesV w ((rangeFrom 0 (512 / w)).map f)) i = f i := by
  rw [rangeFrom_eq_range, lane_ofLanesV_getD w (by simpa using Nat.mul_div_le 512 w)]
  simp [hi, Nat.mod_eq_of_lt (hf i)]

/-- The lanes of a vector that are active, moved to the front. -/
theorem lane_compressed (w : Nat) (g : Dword) (v : VReg) (j : Nat) :
    lane w (ofLanesV w (((rangeFrom 0 (512 / w)).filter (active g)).map (lane w v))) j =
      (((List.range (512 / w)).filter g.getLsbD)[j]?.map (lane w v)).getD 0 := by
  have hlen : w * (((rangeFrom 0 (512 / w)).filter (active g)).map (lane w v)).length ≤ 512 := by
    refine Nat.le_trans (Nat.mul_le_mul_left w ?_) (Nat.mul_div_le 512 w)
    rw [List.length_map, rangeFrom_eq_range]
    exact (List.length_filter_le ..).trans_eq List.length_range
  have hactive : active g = g.getLsbD := rfl
  rw [lane_ofLanesV_getD w hlen, rangeFrom_eq_range, hactive, List.getD_eq_getElem?_getD, List.getElem?_map]
  cases ((List.range (512 / w)).filter g.getLsbD)[j]? with
  | none => exact Nat.zero_mod _
  | some k => exact lane_mod w v k

/-! ### Completing with lanes moved -/

section
variable {i : Instr} {s : State} {m : Exec Unit} (he : exec i s = finish m s) {d : Reg} {srcs : List Reg} {w : Nat} {p : Bool}
include he

/-- An instruction that writes a vector, whose lanes are `f`. -/
theorem putsVector {v : VReg} {f : Nat → Nat} (hm : m s = (.ok (), (s.setCx ((s.cx.popPorts srcs).setV d v p)).retire))
    (hf : ∀ j, j < 512 / w → lane w v j = f j) : ∃ t, PlainFrom i s (s.cx.popPorts srcs) t [] [d] [] ∧ HoldsV t.cx d w f p := by
  obtain ⟨t, hplain, hholds⟩ := plainFrom_setV he hm
  refine ⟨t, hplain, fun hport => ?_⟩
  obtain ⟨rfl, hp⟩ := hholds hport
  exact ⟨hf, hp⟩

/-- One that writes the lanes of a vector where they are active. -/
theorem putsActive {g : PReg} {f : Nat → Nat} (hf : ∀ j, f j < 2 ^ w)
    (hm : m s = (.ok (), (s.setCx ((s.cx.popPorts srcs).setV d (maskLanes w (s.cx.p g) (s.cx.v d) f) (maskPois (512 / w) (s.cx.p g) p (s.cx.vp d)))).retire)) :
    ∃ t, PlainFrom i s (s.cx.popPorts srcs) t [] [d] [] ∧ HoldsV t.cx d w (fun j => if (s.cx.p g).getLsbD j then f j else lane w (s.cx.v d) j)
      (p || (s.cx.vp d && !(List.range (512 / w)).all (s.cx.p g).getLsbD)) := by
  rw [maskPois, allActive_eq_range] at hm
  refine putsVector he hm fun j hj => lane_ofLanesV_range (fun j => ?_) hj
  split
  · exact hf j
  · exact lane_lt ..

/-- One that writes a scalar register. -/
theorem plainFrom_setS {c : Context} {v : Dword} (hm : m s = (.ok (), (s.setCx (c.setS d v p)).retire)) :
    ∃ t, PlainFrom i s c t [d] [] [] ∧ Holds t.cx d v p := by
  refine ⟨_, plainFrom_of_keeps he hm (c.keeps_setS d v p) (c.cr_setS d v p), ?_⟩
  rw [State.cx_changed]
  exact holds_setS ..

end

/-! ### Each instruction (R97, R105) -/

section
variable (s : State) (d a b : Reg) (g : PReg) (t : ETy)

theorem vbcast_completes : ∃ q, Plain (.vbcast d a g t) s q [] [d] [] ∧
    HoldsV q.cx d t.width (fun j => if (s.cx.p g).getLsbD j then (s.cx.s a).toNat % 2 ^ t.width else lane t.width (s.cx.v d) j)
      (s.cx.sp a || (s.cx.vp d && !(List.range (512 / t.width)).all (s.cx.p g).getLsbD)) := by
  have he : exec (.vbcast d a g t) s = execVbcast d a g t s := rfl
  refine putsActive (srcs := []) he (fun _ => Nat.mod_lt _ (Nat.two_pow_pos _)) ?_
  rw [Exec.bind_ok (cx_run s), Exec.bind_ok (modCx_run ..), retireE_run]
  rfl

theorem vins_completes (hp : s.cx.sp b = false) : ∃ q, Plain (.vins d a b g t) s q [] [d] [] ∧
    HoldsV q.cx d t.width (fun j => if j = (s.cx.s b).toNat ∧ (s.cx.p g).getLsbD j = true then (s.cx.s a).toNat % 2 ^ t.width
      else lane t.width (s.cx.v d) j) (s.cx.sp a || s.cx.vp d) := by
  refine putsVector (srcs := []) rfl
    (by rw [Exec.bind_ok (cx_run s), hp, Exec.bind_ok (guardPoison_false s), Exec.bind_ok (modCx_run ..), retireE_run]; rfl) fun j hj => ?_
  rw [lane_ofLanesV_range (fun j => ?_) hj]
  · by_cases h : j = (s.cx.s b).toNat
    · subst h
      simp [hj, active]
    · simp [h]
  · split
    · exact Nat.mod_lt _ (Nat.two_pow_pos _)
    · exact lane_lt ..

theorem vins_poisoned (hp : s.cx.sp b = true) : TrapsPoison (.vins d a b g t) s :=
  trapsPoison_of_error rfl (by rw [Exec.bind_ok (cx_run s), hp, Exec.bind_error (guardPoison_true s)])

variable {s a} {x : VReg × Bool} (hx : sourceOf s.cx a = some x)
include hx

theorem vext_completes (hp : s.cx.sp b = false) : ∃ q, PlainFrom (.vext d a b t) s (s.cx.popPorts [a]) q [d] [] [] ∧
    Holds q.cx d (let v := if (s.cx.s b).toNat < 512 / t.width then lane t.width x.1 (s.cx.s b).toNat else 0
      if t.isFloat then BitVec.ofNat 64 v else BitVec.ofInt 64 (signedLane t.width v)) x.2 := by
  refine plainFrom_setS rfl ?_
  rw [Exec.bind_ok (srcV_run hx), Exec.bind_ok (cx_run s), hp, Exec.bind_ok (guardPoison_false s), Exec.bind_ok (modCx_run ..), retireE_run,
    signedOf_eq_signedLane]
  rfl

theorem vext_poisoned (hp : s.cx.sp b = true) : TrapsPoison (.vext d a b t) s :=
  trapsPoison_of_error rfl (by rw [Exec.bind_ok (srcV_run hx), Exec.bind_ok (cx_run s), hp, Exec.bind_error (guardPoison_true s)])

theorem vslide_completes (hp : s.cx.sp b = false) : ∃ q, PlainFrom (.vslide d a b g t) s (s.cx.popPorts [a]) q [] [d] [] ∧
    HoldsV q.cx d t.width (fun j => if (s.cx.p g).getLsbD j then
        (let k : Int := j + (s.cx.s b).toInt
         if 0 ≤ k ∧ k < (512 / t.width : Nat) then lane t.width x.1 k.toNat else 0) else lane t.width (s.cx.v d) j)
      (x.2 || (s.cx.vp d && !(List.range (512 / t.width)).all (s.cx.p g).getLsbD)) := by
  refine putsActive rfl (fun j => ?_) ?_
  · dsimp only
    split
    · exact lane_lt ..
    · exact Nat.two_pow_pos _
  · rw [Exec.bind_ok (srcV_run hx), Exec.bind_ok (cx_run s), hp, Exec.bind_ok (guardPoison_false s), Exec.bind_ok (modCx_run ..), retireE_run,
      State.modCx_eq_setCx, hp, Bool.or_false]

theorem vslide_poisoned (hp : s.cx.sp b = true) : TrapsPoison (.vslide d a b g t) s :=
  trapsPoison_of_error rfl (by rw [Exec.bind_ok (srcV_run hx), Exec.bind_ok (cx_run s), hp, Exec.bind_error (guardPoison_true s)])

theorem vcompress_completes : ∃ q, PlainFrom (.vcompress d a g t) s (s.cx.popPorts [a]) q [] [d] [] ∧
    HoldsV q.cx d t.width (fun j => (((List.range (512 / t.width)).filter (s.cx.p g).getLsbD)[j]?.map (lane t.width x.1)).getD 0) x.2 :=
  putsVector rfl (by rw [Exec.bind_ok (srcV_run hx), Exec.bind_ok (cx_run s), Exec.bind_ok (modCx_run ..), retireE_run]; rfl)
    fun j _ => lane_compressed ..

variable {b} {y : VReg × Bool} (hy : sourceOf s.cx b = some y)
include hy

theorem vsel_completes : ∃ q, PlainFrom (.vsel d a b g t) s (s.cx.popPorts [a, b]) q [] [d] [] ∧
    HoldsV q.cx d t.width (fun j => lane t.width (if (s.cx.p g).getLsbD j then x.1 else y.1) j) (x.2 || y.2) :=
  putsVector rfl (by rw [Exec.bind_ok (srcV_run hx), Exec.bind_ok (srcV_run hy), Exec.bind_ok (cx_run s), Exec.bind_ok (modCx_run ..), retireE_run]; rfl)
    fun _ hj => lane_ofLanesV_range (fun _ => lane_lt ..) hj

theorem vperm_completes (hp : y.2 = false) : ∃ q, PlainFrom (.vperm d a b g t) s (s.cx.popPorts [a, b]) q [] [d] [] ∧
    HoldsV q.cx d t.width (fun j => if (s.cx.p g).getLsbD j then lane t.width x.1 (lane t.width y.1 j % (512 / t.width)) else lane t.width (s.cx.v d) j)
      (x.2 || (s.cx.vp d && !(List.range (512 / t.width)).all (s.cx.p g).getLsbD)) :=
  putsActive rfl (fun _ => lane_lt ..) (by
    rw [Exec.bind_ok (srcV_run hx), Exec.bind_ok (srcV_run hy), hp, Exec.bind_ok (guardPoison_false s), Exec.bind_ok (cx_run s), Exec.bind_ok (modCx_run ..),
      retireE_run, Bool.or_false]
    rfl)

theorem vperm_poisoned (hp : y.2 = true) : TrapsPoison (.vperm d a b g t) s :=
  trapsPoison_of_error rfl (by rw [Exec.bind_ok (srcV_run hx), Exec.bind_ok (srcV_run hy), hp, Exec.bind_error (guardPoison_true s)])

end

end Sys2Proof.Machine

namespace Sys2Proof.Claims
open Sys2Proof.Machine

/-- Settles O28, instruction by instruction. -/
theorem laneMovementResults : Obligations.LaneMovementResults := by
  unfold Obligations.LaneMovementResults
  exact fun s d a b g t => ⟨vbcast_completes s d a g t, vins_completes s d a b g t,
    fun x y hx hy => ⟨vsel_completes d g t hx hy, vperm_completes d g t hx hy⟩,
    fun x hx => ⟨vext_completes d b t hx, vslide_completes d b g t hx, vcompress_completes d g t hx⟩, vins_poisoned s d a b g t,
    fun x hx hp => ⟨vext_poisoned d b t hx hp, vslide_poisoned d b g t hx hp⟩, fun x y hx hy => vperm_poisoned d g t hx hy⟩

end Sys2Proof.Claims
end

section
/-! Vector loads and gathers (spec 01 R21; 05 R95, R100, R102, R112; 06 R136): their checks, what follows their lanes with the ports that they pop, and the settling of O30. -/

namespace Sys2Proof.Machine
open Sys2Proof.Claims

/-! ### The checks of lanes (R21, R100) -/

theorem Exec.bind_congr {α β : Type} {m m' : Exec α} {s u : State} (h : m s = m' u) (f : α → Exec β) : (m >>= f) s = (m' >>= f) u := by
  rw [Exec.bind_run, Exec.bind_run, h]

theorem soundPlaces_state (l : List (Dword × Except Byte Place)) (s : State) : ∃ r, soundPlaces l s = (r, s) := by
  unfold soundPlaces
  cases firstCause cPAGE l with
  | some va => exact ⟨_, rfl⟩
  | none => cases firstCause cACCESS l <;> exact ⟨_, rfl⟩

/-- The translations that `checkPlaces` makes, one after another. -/
def translateAll (acc : Access) (n : Nat) (vas : List Dword) : Exec (List (Dword × Except Byte Place)) :=
  vas.mapM (fun va => do return (va, ← tryTranslate va acc n))

theorem checkPlaces_eq (acc : Access) (n : Nat) (vas : List Dword) : checkPlaces vas acc n = translateAll acc n vas >>= soundPlaces := rfl

/-- Translating addresses answers for all of them, and changes no register. -/
theorem translateAll_run (acc : Access) (n : Nat) (vas : List Dword) (s : State) : ∃ l u, translateAll acc n vas s = (.ok l, u) ∧ s.Undisturbed u := by
  induction vas generalizing s with
  | nil => exact ⟨[], s, rfl, .refl s⟩
  | cons va vas ih =>
    let r := s.translate (.ctx s.cur) s.coreNum s.cx.space va acc n
    have htry : tryTranslate va acc n s = (.ok r.1, r.2) := rfl
    have hstep : s.Undisturbed r.2 := State.undisturbed_translate rfl
    obtain ⟨l, u, hrest, hu⟩ := ih r.2
    refine ⟨(va, r.1) :: l, u, ?_, hstep.trans hu⟩
    rw [translateAll, List.mapM_cons, bind_assoc, Exec.bind_ok htry, pure_bind]
    exact Exec.bind_ok hrest _

/-- The checks of lanes change no register. -/
theorem laneChecks_undisturbed {addrs : List (Nat × Dword)} {acc : Access} {n : Nat} {s u : State} {ls : List (Nat × Dword × Place)}
    (h : laneChecks addrs acc n s = (.ok ls, u)) : s.Undisturbed u := by
  obtain ⟨l, v, hmap, hv⟩ := translateAll_run acc n (addrs.map (·.2)) s
  obtain ⟨r, hsound⟩ := soundPlaces_state l v
  have hplaces : checkPlaces (addrs.map (·.2)) acc n s = (r, v) := by rw [checkPlaces_eq, Exec.bind_ok hmap, hsound]
  rw [laneChecks, Exec.bind_run, hplaces] at h
  cases r with
  | error e => cases h
  | ok ps =>
    cases h
    exact hv

/-! ### Registers that the popping of ports leaves (R136) -/

section
variable (c : Context) (r : Reg) (rs : List Reg)

theorem Context.p_popPort (g : PReg) : (c.popPort r).p g = c.p g := by unfold Context.popPort; split <;> rfl
theorem Context.v_popPort (d : Reg) : (c.popPort r).v d = c.v d := by unfold Context.popPort; split <;> rfl
theorem Context.vp_popPort (d : Reg) : (c.popPort r).vp d = c.vp d := by unfold Context.popPort; split <;> rfl

theorem Context.p_popPorts (g : PReg) : (c.popPorts rs).p g = c.p g :=
  List.foldlRecOn rs.eraseDups Context.popPort (motive := fun x : Context => x.p g = c.p g) rfl fun x hx r _ => (x.p_popPort r g).trans hx
theorem Context.v_popPorts (d : Reg) : (c.popPorts rs).v d = c.v d :=
  List.foldlRecOn rs.eraseDups Context.popPort (motive := fun x : Context => x.v d = c.v d) rfl fun x hx r _ => (x.v_popPort r d).trans hx
theorem Context.vp_popPorts (d : Reg) : (c.popPorts rs).vp d = c.vp d :=
  List.foldlRecOn rs.eraseDups Context.popPort (motive := fun x : Context => x.vp d = c.vp d) rfl fun x hx r _ => (x.vp_popPort r d).trans hx

end

/-- The state once an instruction has popped the ports that it reads. -/
def State.popped (s : State) (pops : List Reg) : State := s.modCx (fun c => c.popPorts pops)

/-- What is read after lanes have been loaded and ports popped is what was read before. -/
theorem State.LanesUndisturbed.reads_popped {s v : State} (h : s.LanesUndisturbed v) (pops : List Reg) :
    (∀ g, (v.popped pops).cx.p g = s.cx.p g) ∧ ∀ d, (v.popped pops).cx.v d = s.cx.v d ∧ (v.popped pops).cx.vp d = s.cx.vp d := by
  obtain ⟨hpreds, hvecs⟩ := SameLanes.read h.2.2
  rw [State.popped, State.cx_modCx]
  exact ⟨fun g => (Context.p_popPorts ..).trans (hpreds g),
    fun d => ⟨(Context.v_popPorts ..).trans (hvecs d).1, (Context.vp_popPorts ..).trans (hvecs d).2⟩⟩

/-! ### What a load leaves, whole or cut short (R95, R101) -/

section
variable (v : State) (w : Nat) (d : Reg) (g : PReg) (cut : Option Nat) (r : VReg × Bool)

theorem lanesUsed_none (m : Dword) : lanesUsed m none = m.getLsbD := funext fun _ => Bool.and_true _

theorem getLsbD_lanesUsed (m : Dword) (k : Nat) {j : Nat} (hj : j < 64) : (m &&& lanesBelow k).getLsbD j = lanesUsed m (some k) j := by
  rw [BitVec.getLsbD_and, getLsbD_lanesBelow k j hj]
  rfl

theorem from_loaded_used : From v (v.loaded w d g cut r) [] [d] (if cut.isSome then [g] else []) := by
  cases cut with
  | none => exact from_loaded v w d g r
  | some k => exact from_loaded_cut v w d g r k

theorem holdsV_loaded_used (hw : 512 / w ≤ 64) : HoldsV (v.loaded w d g cut r).cx d w
    (fun j => if lanesUsed (v.cx.p g) cut j then lane w r.1 j else lane w (v.cx.v d) j)
    (r.2 || (v.cx.vp d && !(List.range (512 / w)).all (lanesUsed (v.cx.p g) cut))) := by
  cases cut with
  | none =>
    rw [lanesUsed_none]
    exact holdsV_loaded v w d g r
  | some k =>
    intro hport
    obtain ⟨-, ⟨-, -, -, hrest⟩, -⟩ := from_loaded_cut v w d g r k
    rw [Context.portOf_congr hrest d] at hport
    have hused {j : Nat} (hj : j < 512 / w) := getLsbD_lanesUsed (v.cx.p g) k (Nat.lt_of_lt_of_le hj hw)
    have hall : allActive (512 / w) (v.cx.p g &&& lanesBelow k) = (List.range (512 / w)).all (lanesUsed (v.cx.p g) (some k)) := by
      rw [allActive_eq_range, Bool.eq_iff_iff, List.all_eq_true, List.all_eq_true]
      exact forall₂_congr fun j hj => by rw [hused (List.mem_range.1 hj)]
    have hcx : (v.loaded w d g (some k) r).cx.v d = (v.cx.withLanes w d (v.cx.p g &&& lanesBelow k) r).v d ∧
        (v.loaded w d g (some k) r).cx.vp d = (v.cx.withLanes w d (v.cx.p g &&& lanesBelow k) r).vp d := by
      simp [State.loaded, Context.loaded]
    rw [hcx.1, hcx.2, Context.withLanes, Context.v_setV_self _ _ _ _ hport, Context.vp_setV_self _ _ _ _ hport, maskPois, hall]
    exact ⟨fun j hj => by rw [lane_maskLanes w _ _ _ j hj, hused hj], rfl⟩

/-- The load of a vector ends by popping its ports and putting its lanes. -/
theorem putLoaded_popping {p : LanePlan} (hp : p.todo = []) (pops : List Reg) :
    putLoaded w d pops g p v = (.ok (), (v.popped pops).loaded w d g p.cut (p.acc, p.pois)) := by
  rw [putLoaded, hp, if_neg (by decide), Exec.bind_ok (cx_run v), Exec.bind_ok (modCx_run ..), State.popped, State.loaded, State.modCx_modCx]
  cases hcut : p.cut with
  | none =>
    dsimp only
    rw [retireE_run]
    refine congrArg (fun t : State => (Except.ok (), t.retire)) (State.modCx_congr ?_)
    rw [Context.loaded, Context.withLanes, Context.p_popPorts, Context.v_popPorts, Context.vp_popPorts]
  | some k =>
    dsimp only
    rw [Exec.bind_ok (modCx_run ..), State.modCx_modCx, retireE_run]
    refine congrArg (fun t : State => (Except.ok (), t.retire)) (State.modCx_congr ?_)
    rw [Context.loaded, Context.withLanes, Context.p_popPorts, Context.v_popPorts, Context.vp_popPorts]

theorem putLoaded_stopped {p : LanePlan} (hp : p.todo ≠ []) (pops : List Reg) : putLoaded w d pops g p v = (.ok (), v) := by
  rw [putLoaded, if_pos (by simpa using hp)]
  rfl

/-- Where there is no port to pop, none is popped. -/
theorem State.loaded_popped_nil : (v.popped []).loaded w d g cut r = v.loaded w d g cut r := by
  rw [State.popped, State.loaded, State.modCx_modCx]
  rfl

end

/-! ### A load's lanes, and what follows them with the ports popped (R112, R136) -/

section
variable {i : Instr} {s u : State} {m : Exec Unit} (he : exec i s = finish m s) {w : Nat} {d : Reg} {g : PReg} {pops : List Reg}
  {done : VReg × Bool → State → State → Prop}
include he

/-- Lanes loaded one by one, and put with the last of them: `done` may lean on registers as they were, and where no lane lies in device space on all else of the contexts but
the logical times. -/
theorem loadsOn {p : LanePlan} (hp : p.store = false) (hm : m s = (runLanes p >>= putLoaded w d pops g) u)
    (hdone : ∀ r v, u.LanesUndisturbed v → (NoDevice p.todo → u.Undisturbed v) → done r v ((v.popped pops).loaded w d g p.cut r)) :
    ∃ t, exec i s = .next t ∧ LoadsOn u t p (fun r v => done r v t) := by
  obtain ⟨k, f, htakes, hrun⟩ := runLanes_load hp u
  have hfresh : u.Undisturbed { u with fresh := f } := .of_control (u.control_fresh f)
  rw [Exec.bind_ok hrun] at hm
  cases hdrop : p.todo.drop k with
  | nil =>
    have hall : p.todo.take k = p.todo := by simpa [hdrop] using List.take_append_drop k p.todo
    rw [LanePlan.leaves_done hdrop, putLoaded_popping _ _ _ _ hdrop] at hm
    refine ⟨_, he.trans (finish_ok m s _ hm), k, f, htakes, fun _ => ?_, fun y rest hrest => by cases hdrop.symm.trans hrest⟩
    exact hdone _ _ (hfresh.lanes.trans (lanesUndisturbed_loadedLanes ..)) fun hno => hfresh.trans (undisturbed_loadedLanes _ _ _ _ (hall.symm ▸ hno))
  | cons y rest =>
    rw [LanePlan.leaves_midway hdrop, putLoaded_stopped _ _ _ _ (hdrop.trans_ne (List.cons_ne_nil y rest))] at hm
    refine ⟨_, he.trans (finish_ok m s _ hm), k, f, htakes, fun hk => ?_, fun y' rest' hrest => ?_⟩
    · cases hdrop.symm.trans (List.drop_eq_nil_of_le (Nat.le_of_eq hk.symm))
    · rw [LanePlan.loaded, hrest]

/-- Lanes loaded by a load that begins: a block as one access, else one by one. -/
theorem loadsLanes_popping {ea : Dword} {n : Nat} {ls : List (Nat × Dword × Place)} (hm : m s = (loadLanes ea n none ls >>= putLoaded w d pops g) u)
    (hdone : ∀ r v, u.LanesUndisturbed v → (NoDevice ls → u.Undisturbed v) → done r v ((v.popped pops).loaded w d g none r)) :
    LoadsLanes i s u ea n none ls done := by
  unfold LoadsLanes
  cases hb : wholeBlock ea ls with
  | none => exact loadsOn he (p := begun n ls false (0, false) none) rfl (hm.trans (Exec.bind_congr (loadLanes_lanes hb) _)) hdone
  | some p =>
    obtain ⟨t, ht⟩ := finish_next m s
    refine ⟨t, he.trans ht, fun hheld => ?_⟩
    have hput := hm.trans ((Exec.bind_ok (loadLanes_block hb hheld) _).trans (putLoaded_popping _ _ _ _ rfl pops))
    obtain rfl := Host.Outcome.next.inj (ht.symm.trans (finish_ok m s _ hput))
    exact hdone _ _ (u.lanesUndisturbed_loadAt u.cur p.block 64) fun _ => u.undisturbed_loadAt u.cur 64 (wholeBlock_device hb)

end

/-! ### The computations of the loads (R100, R102) -/

section
variable {s u : State} {w n : Nat} {d a b : Reg} {g : PReg} {pops : List Reg} {ls : List (Nat × Dword × Place)}

theorem loadFrom_begins (hplan : s.cx.plan = none) (m : Exec LanePlan) : loadFrom w d pops g m s = (m >>= putLoaded w d pops g) s := by
  rw [loadFrom, Exec.bind_ok (cx_run s), hplan]

theorem loadFrom_goesOn {p : LanePlan} (hplan : s.cx.plan = some p) (m : Exec LanePlan) :
    loadFrom w d pops g m s = (runLanes p >>= putLoaded w d pops g) s := by
  rw [loadFrom, Exec.bind_ok (cx_run s), hplan]

theorem beginLoad_run {ea : Dword} {addrs : List (Nat × Dword)} (hl : laneChecks addrs .load n s = (.ok ls, u)) :
    beginLoad ea n addrs false s = loadLanes ea n none ls u := by
  rw [beginLoad, Exec.bind_ok hl, Exec.bind_ok (guardPoison_false u)]

/-- The computation of `vld`. -/
def vldE (d a : Reg) (g : PReg) (z : Size) (off : BitVec 11) : Exec Unit :=
  loadFrom (8 * z.bytes) d [] g (do
    let c ← cx
    let ea := vectorEA c a off
    guardTrap (ea.toNat % z.bytes = 0) cALIGN ea
    beginLoad ea z.bytes (laneAddrs (64 / z.bytes) (c.p g) (fun i => ea + BitVec.ofNat 64 (i * z.bytes))) (c.sp a))

theorem exec_vld (d a : Reg) (g : PReg) (z : Size) (off : BitVec 11) (s : State) : exec (.vld d a g z off) s = finish (vldE d a g z off) s := rfl

/-- The computation of `vgather` once its index vector is there. -/
def vgatherE (d a b : Reg) (g : PReg) (t : ETy) (y : VReg × Bool) : Exec Unit :=
  loadFrom t.width d [b] g (do
    let c ← cx
    guardTrap ((c.s a).toNat % (t.width / 8) = 0) cALIGN (c.s a)
    beginLoad 1 (t.width / 8) (laneAddrs (64 / (t.width / 8)) (c.p g) (gatherAddr t.width (c.s a) y.1)) (c.sp a || y.2))

theorem exec_vgather {y : VReg × Bool} (hy : sourceOf s.cx b = some y) (d a : Reg) (g : PReg) (t : ETy) :
    exec (.vgather d a b g t) s = finish (vgatherE d a b g t y) s := finish_congr (Exec.bind_ok (srcV_run hy) _)

variable (hplan : s.cx.plan = none) (hp : s.cx.sp a = false)
include hplan hp

theorem vldE_run {z : Size} {off : BitVec 11} (halign : (vectorEA s.cx a off).toNat % z.bytes = 0)
    (hl : laneChecks (vectorLanes s a g z off) .load z.bytes s = (.ok ls, u)) :
    vldE d a g z off s = (loadLanes (vectorEA s.cx a off) z.bytes none ls >>= putLoaded (8 * z.bytes) d [] g) u := by
  rw [vldE, loadFrom_begins hplan]
  refine Exec.bind_congr ?_ _
  rw [Exec.bind_ok (cx_run s), decide_eq_true halign, Exec.bind_ok (guardTrap_true ..), hp]
  exact beginLoad_run hl

theorem vgatherE_run {t : ETy} {y : VReg × Bool} (hy : y.2 = false) (halign : (s.cx.s a).toNat % (t.width / 8) = 0)
    (hl : laneChecks (laneAddrs (64 / (t.width / 8)) (s.cx.p g) (gatherAddr t.width (s.cx.s a) y.1)) .load (t.width / 8) s = (.ok ls, u)) :
    vgatherE d a b g t y s = (loadLanes 1 (t.width / 8) none ls >>= putLoaded t.width d [b] g) u := by
  rw [vgatherE, loadFrom_begins hplan]
  refine Exec.bind_congr ?_ _
  rw [Exec.bind_ok (cx_run s), decide_eq_true halign, Exec.bind_ok (guardTrap_true ..), hp, hy]
  exact beginLoad_run hl

end

/-- A vector load that has stopped between two lanes goes on with those that are left. -/
theorem exec_vectorLoad_goesOn {i : Instr} {s : State} {d : Reg} {g : PReg} {w : Nat} {pops : List Reg} {p : LanePlan} (hi : vectorLoad i = some (d, g, w, pops))
    (hplan : s.cx.plan = some p) (hready : ∀ r ∈ pops, (sourceOf s.cx r).isSome = true) :
    ∃ m, exec i s = finish m s ∧ m s = (runLanes p >>= putLoaded w d pops g) s := by
  unfold vectorLoad at hi
  split at hi <;> cases hi
  case h_1 | h_2 => exact ⟨_, rfl, loadFrom_goesOn hplan _⟩
  case h_3 =>
    obtain ⟨y, hy⟩ := Option.isSome_iff_exists.1 (hready _ List.mem_cons_self)
    exact ⟨_, exec_vgather hy .., loadFrom_goesOn hplan _⟩

theorem lanes_le_64 (t : ETy) : 512 / t.width ≤ 64 := by cases t <;> decide

theorem vectorLoad_lanes {i : Instr} {d : Reg} {g : PReg} {w : Nat} {pops : List Reg} (hi : vectorLoad i = some (d, g, w, pops)) : 512 / w ≤ 64 := by
  unfold vectorLoad at hi
  split at hi <;> cases hi
  case h_1 | h_2 => exact (lanes_of_size _).trans_le (Nat.div_le_self 64 _)
  case h_3 => exact lanes_le_64 _

/-- What a load holds in its destination, said of the state before its lanes. -/
theorem holdsV_loaded_popped {s v : State} (h : s.LanesUndisturbed v) (pops : List Reg) {w : Nat} (hw : 512 / w ≤ 64) (d : Reg) (g : PReg) (cut : Option Nat)
    (r : VReg × Bool) : HoldsV ((v.popped pops).loaded w d g cut r).cx d w
      (fun j => if lanesUsed (s.cx.p g) cut j then lane w r.1 j else lane w (s.cx.v d) j)
      (r.2 || (s.cx.vp d && !(List.range (512 / w)).all (lanesUsed (s.cx.p g) cut))) := by
  obtain ⟨hpreds, hvecs⟩ := h.reads_popped pops
  have hholds := holdsV_loaded_used (v.popped pops) w d g cut r hw
  rwa [hpreds g, (hvecs d).1, (hvecs d).2] at hholds

end Sys2Proof.Machine

namespace Sys2Proof.Claims
open Sys2Proof.Machine

/-- Settles O30: whether it begins or goes on, a load ends with `putLoaded`, which leaves the lanes used of what has been loaded. -/
theorem vectorLoadsComplete : Obligations.VectorLoadsComplete := by
  unfold Obligations.VectorLoadsComplete
  refine fun s => ⟨fun hplan => ⟨fun d a g z off ls u halign hl hp => ?_, fun d a b g t y ls u hy halign hl hp hyp => ?_⟩,
    fun i d g w pops p hi hplan hload hready => ?_⟩
  · have hu := laneChecks_undisturbed hl
    refine loadsLanes_popping (exec_vld d a g z off s) (vldE_run hplan hp halign hl) fun r v hv hdev => ?_
    have hholds := holdsV_loaded_popped (hu.lanes.trans hv) [] ((lanes_of_size z).trans_le (Nat.div_le_self 64 _)) d g none r
    rw [lanesUsed_none, lanes_of_size] at hholds
    rw [State.loaded_popped_nil] at hholds ⊢
    exact ⟨from_loaded .., fun hno => (hu.trans (hdev hno)).cx, hholds⟩
  · have hu := laneChecks_undisturbed hl
    refine loadsLanes_popping (exec_vgather hy d a g t) (vgatherE_run hplan hp hyp halign hl) fun r v hv hdev => ?_
    have hholds := holdsV_loaded_popped (hu.lanes.trans hv) [b] (lanes_le_64 t) d g none r
    rw [lanesUsed_none] at hholds
    exact ⟨from_loaded .., fun hno => (hu.trans (hdev hno)).cx, hholds⟩
  · obtain ⟨m, he, hm⟩ := exec_vectorLoad_goesOn hi hplan hready
    refine loadsOn he hload hm fun r v hv hdev => ⟨from_loaded_used .., fun hno => (hdev hno).cx, holdsV_loaded_popped hv pops (vectorLoad_lanes hi) d g p.cut r,
      fun hg k hcut j hj => ?_⟩
    have hpred := p_loaded_cut (v.popped pops) w d g r k hg j hj
    rwa [(hv.reads_popped pops).1 g, ← hcut] at hpred

end Sys2Proof.Claims
end

section
/-! Vector stores and scatters (spec 05 R95, R100, R102, R112; 06 R136; 07 R154, R230): the lanes stored as the statements' `LanesStored` has them, a block as one access, and the settling
of O32. -/

namespace Sys2Proof.Machine
open Sys2Proof.Claims

/-! ### The checks of a store's lanes (R100, R152) -/

section
variable {addrs : List (Nat × Dword)} {n : Nat} {s u : State}

theorem laneTimed_ok (h : ∀ x ∈ addrs, timedOk s.cx x.2 n = true) : laneTimed addrs n s = (.ok (), s) := by
  have hall : ∃ r, addrs.mapM (fun x => guardTimed x.2 n) s = (.ok r, s) := by
    induction addrs with
    | nil => exact ⟨[], rfl⟩
    | cons x addrs ih =>
      obtain ⟨hx, haddrs⟩ := List.forall_mem_cons.1 h
      obtain ⟨r, hr⟩ := ih haddrs
      exact ⟨() :: r, by rw [List.mapM_cons, Exec.bind_ok (guardTimed_ok hx), Exec.bind_ok hr, Exec.pure_run]⟩
  obtain ⟨r, hr⟩ := hall
  exact Exec.bind_ok hr _

theorem storeChecks_run {ls : List (Nat × Dword × Place)} (hl : laneChecks addrs .store n s = (.ok ls, u)) (h : ∀ x ∈ addrs, timedOk s.cx x.2 n = true) :
    storeChecks addrs n false s = (.ok ls, u) := by
  have hu : laneTimed addrs n u = (.ok (), u) := laneTimed_ok fun x hx => (timedOk_congr (laneChecks_undisturbed hl).cx ..).trans (h x hx)
  rw [storeChecks, Exec.bind_ok hl, Exec.bind_ok hu, Exec.bind_ok (guardPoison_false u), Exec.pure_run]

end

/-! ### Lanes stored in order (R112, R154) -/

/-- The undo copy of a lane is the one that the statements describe. -/
theorem logLane_of_undoCopied {u w : State} {p q : LanePlan} {va : Dword} (h : UndoCopied u p va w q) : logLane p va u = (.ok q, w) := by
  have hcond : (u.cx.firing.isNone || inScratch va || (p.vals.isEmpty && p.logged.contains (va.toNat / 64))) = true ↔
      u.cx.firing = none ∨ inScratch va = true ∨ p.vals = [] ∧ va.toNat / 64 ∈ p.logged := by simp [or_assoc]
  unfold UndoCopied at h
  rw [logLane, Exec.bind_ok (cx_run u)]
  split at h
  · next hskip =>
    obtain ⟨rfl, rfl⟩ := h
    rw [if_pos (hcond.2 hskip), Exec.pure_run]
  · next hcopy =>
    obtain ⟨hlog, rfl⟩ := h
    rw [if_neg (mt hcond.1 hcopy), Exec.bind_ok hlog, Exec.pure_run]

/-- It does not depend on which lanes are left. -/
theorem undoCopied_with_todo {u w : State} {p q : LanePlan} {va : Dword} (h : UndoCopied u p va w q) (todo : List (Nat × Dword × Place)) :
    UndoCopied u { p with todo := todo } va w { q with todo := todo } := by
  unfold UndoCopied at h ⊢
  split at h
  · next hskip =>
    obtain ⟨rfl, rfl⟩ := h
    rw [if_pos hskip]
    exact ⟨rfl, rfl⟩
  · next hcopy =>
    obtain ⟨hlog, rfl⟩ := h
    rw [if_neg hcopy]
    exact ⟨hlog, rfl⟩

section
variable {ls : List (Nat × Dword × Place)} {p q : LanePlan} {u x : State} (h : LanesStored ls p u q x)
include h

/-- The lanes of a store made one by one are those of `LanesStored`. -/
theorem foldlM_storeLane (todo : List (Nat × Dword × Place)) : ls.foldlM storeLane { p with todo := todo } u = (.ok { q with todo := todo }, x) := by
  induction ls generalizing p u with
  | nil =>
    obtain ⟨rfl, rfl⟩ := h
    rfl
  | cons y ys ih =>
    obtain ⟨w, p', hundo, hrest⟩ := h
    have hlane : storeLane { p with todo := todo } y u = (.ok { p' with todo := todo, back := false },
        w.storeAt w.cur y.2.2 p.bytes (p.value y.1).1 (p.value y.1).2) := by
      rw [storeLane, Exec.bind_ok (logLane_of_undoCopied (undoCopied_with_todo hundo todo)), Exec.bind_ok (storeE_run ..), Exec.pure_run]
      rfl
    rw [List.foldlM_cons, Exec.bind_ok hlane]
    exact ih hrest

/-- Outside a firing stores of lanes change no register, where none lies in device space. -/
theorem undisturbed_of_lanesStored (hdev : NoDevice ls) (hf : u.cx.firing = none) : u.Undisturbed x := by
  induction ls generalizing p u with
  | nil =>
    obtain ⟨-, rfl⟩ := h
    exact .refl _
  | cons y ys ih =>
    obtain ⟨w, p', hundo, hrest⟩ := h
    unfold UndoCopied at hundo
    rw [if_pos (.inl hf)] at hundo
    obtain ⟨rfl, -⟩ := hundo
    have hstore := w.undisturbed_storeAt w.cur p.bytes (p.value y.1).1 (p.value y.1).2 (hdev y List.mem_cons_self)
    exact hstore.trans (ih hrest (fun z hz => hdev z (List.mem_cons_of_mem _ hz)) ((congrArg Context.firing hstore.cx :).trans hf))

end

/-- A store after some of its lanes: it has made its last, or is to go on with those that are left. -/
theorem runLanes_store {p : LanePlan} (hp : p.store = true) (s : State) : ∃ m f, Takes s p m ∧ ∀ q x, LanesStored (p.todo.take m) p { s with fresh := f } q x →
    runLanes p s = (.ok { q with todo := p.todo.drop m },
      if (p.todo.drop m).isEmpty then x else x.beginWait (.lanes { q with todo := p.todo.drop m })) := by
  obtain ⟨m, f, htakes, hrun⟩ := takeLanes_run p s
  refine ⟨m, f, htakes, fun q x hstored => ?_⟩
  have hlen : (p.todo.take m).length = m := List.length_take_of_le htakes.1
  rw [runLanes, Exec.bind_ok hrun, if_pos hp, hlen, Exec.bind_ok (foldlM_storeLane hstored _)]
  dsimp only
  split
  · rw [Exec.pure_run]
  · rw [Exec.bind_ok (Exec.modify_run ..), Exec.pure_run]

/-! ### A block stored as one access (R112) -/

theorem getLsbD_laneMask (n : Nat) (g : Dword) {j : Nat} (hj : j < 64) : (laneMask n g).getLsbD j = g.getLsbD (j / n) := by
  have hfold (l : List Nat) : l.foldr (fun i (m : Nat) => 2 * m + if active g (i / n) then 1 else 0) 0 =
      ofLanes 1 (l.map (fun i => if g.getLsbD (i / n) then 1 else 0)) := by
    induction l with
    | nil => rfl
    | cons i l ih =>
      rw [List.foldr_cons, ih, List.map_cons, ofLanes, active]
      split <;> omega
  rw [laneMask, hfold, rangeFrom_eq_range, getLsbD_ofLanes_bits (fun i => g.getLsbD (i / n)) 64 j hj, decide_eq_true hj, Bool.true_and]

theorem State.undisturbed_storeMasked (s : State) (k : Nat) (p : Place) (v : VReg) (mask : BitVec 64) (pois : Bool) :
    s.Undisturbed (s.storeMasked k p v mask pois) := by
  cases p with
  | scratch off => exact s.undisturbed_scratchStoreBy ..
  | coherent pa l1 wt key =>
    have hready := ((s.undisturbed_placeOverdue (lineOf pa)).trans (State.undisturbed_placeSeen _ k (lineOf pa))).then_control
      ((State.control_rekey _ (lineOf pa) key).trans (State.control_fill _ (lineOf pa) true))
    exact hready.trans (State.undisturbed_coStore ..)
  | uncached pa key => exact .refl s
  | device pa => exact .refl s

/-- A lane of a store that nothing holds back stalls for no plane and for no frame, and stores to no word that an engine is to write. -/
theorem guardPlane_of_laneHeld {s : State} {core n : Nat} {p : Place} (h : s.laneHeld core n true p = false) : guardPlane p true s = (.ok (), s) := by
  simp only [State.laneHeld, Bool.or_eq_false_iff, Bool.true_and, Option.isSome_eq_false_iff, Option.isNone_iff_eq_none] at h
  obtain ⟨⟨hplane, hframe⟩, -⟩ := h
  rw [guardPlane, Exec.bind_ok (Exec.get_run s), hplane, hframe]
  rfl

theorem wordsFree_of_laneHeld_store {s : State} {n : Nat} {p : Place} (h : s.laneHeld s.coreNum n true p = false) : wordsFree s p n = true := by
  simp only [State.laneHeld, Bool.or_eq_false_iff] at h
  cases p with
  | scratch off => exact congrArg (! ·) h.2
  | _ => rfl

theorem mapM_waitSpWords_free {s : State} {n : Nat} (ls : List (Nat × Dword × Place)) (h : ∀ x ∈ ls, wordsFree s x.2.2 n = true) :
    ∃ r, ls.mapM (fun x => waitSpWords x.2.2 n) s = (.ok r, s) := by
  induction ls with
  | nil => exact ⟨[], rfl⟩
  | cons y ls ih =>
    obtain ⟨hy, hls⟩ := List.forall_mem_cons.1 h
    obtain ⟨r, hr⟩ := ih hls
    exact ⟨() :: r, by rw [List.mapM_cons, Exec.bind_ok (waitSpWords_ok hy), Exec.bind_ok hr, Exec.pure_run]⟩

/-- What `vst` does once its checks have passed: a block stored as one access, else the lanes that it is to store one by one. -/
def storeBlock (ea : Dword) (n : Nat) (g : Dword) (v : VReg × Bool) (ls : List (Nat × Dword × Place)) : Exec (Option (List (Nat × Dword × Place))) :=
  match ls with
  | (_, _, p0) :: _ =>
    if ea.toNat % 64 = 0 ∧ p0.oneBlock then do
      guardPlane p0 true
      let _ ← ls.mapM (fun x => waitSpWords x.2.2 n)
      logStore ea 64
      modify (fun s => s.storeMasked s.cur p0 v.1 (laneMask n g) v.2)
      return none
    else return some ls
  | [] => return some ls

section
variable {ea : Dword} {ls : List (Nat × Dword × Place)} (n : Nat) (g : Dword) (v : VReg × Bool)

theorem storeBlock_block {u w : State} {p : Place} (hb : wholeBlock ea ls = some p) (h : ∀ x ∈ ls, u.laneHeld u.coreNum n true x.2.2 = false)
    (hlog : logStore ea 64 u = (.ok (), w)) : storeBlock ea n g v ls u = (.ok none, w.storeMasked w.cur p v.1 (laneMask n g) v.2) := by
  cases ls with
  | nil => cases hb
  | cons y ls =>
    obtain ⟨i, va, p0⟩ := y
    obtain ⟨hif, rfl⟩ : (ea.toNat % 64 = 0 ∧ p0.oneBlock = true) ∧ p0 = p := by simpa [wholeBlock] using hb
    obtain ⟨r, hr⟩ := mapM_waitSpWords_free ((i, va, p0) :: ls) fun x hx => wordsFree_of_laneHeld_store (h x hx)
    simp only [storeBlock]
    rw [if_pos hif, Exec.bind_ok (guardPlane_of_laneHeld (h _ List.mem_cons_self)), Exec.bind_ok hr, Exec.bind_ok hlog, Exec.bind_ok (Exec.modify_run ..),
      Exec.pure_run]

theorem storeBlock_lanes (hb : wholeBlock ea ls = none) (u : State) : storeBlock ea n g v ls u = (.ok (some ls), u) := by
  cases ls with
  | nil => rfl
  | cons y ls =>
    obtain ⟨i, va, p0⟩ := y
    have hif : ¬ (ea.toNat % 64 = 0 ∧ p0.oneBlock = true) := fun hif => by simp [wholeBlock, hif] at hb
    simp only [storeBlock]
    rw [if_neg hif, Exec.pure_run]

end

/-- Where the first address is at no block's, there is no block. -/
theorem wholeBlock_unaligned {ea : Dword} (h : ea.toNat % 64 ≠ 0) (ls : List (Nat × Dword × Place)) : wholeBlock ea ls = none := by
  cases ls with
  | nil => rfl
  | cons y ls => exact if_neg fun hif => h hif.1

/-! ### A store's lanes, and what follows them (R112, R136) -/

/-- What follows the checks of a vector store, and the block if it has stored one: the lanes left, or its end. -/
def storeRest (n : Nat) (pops : List Reg) (v : VReg × Bool) : Option (List (Nat × Dword × Place)) → Exec Unit
  | some l => goOnStoring pops (begun n l true v none)
  | none => do
    modCx (fun c => c.popPorts pops)
    retireE

theorem storeRest_none (n : Nat) (pops : List Reg) (v : VReg × Bool) (x : State) : storeRest n pops v none x = (.ok (), (x.popped pops).retire) := by
  rw [storeRest, Exec.bind_ok (modCx_run ..), retireE_run]
  rfl

section
variable {s : State} {n : Nat} {pops : List Reg} {v : VReg × Bool}

theorem storeFrom_begins (hplan : s.cx.plan = none) (m : Exec (Option (List (Nat × Dword × Place)))) :
    storeFrom n pops v m s = (m >>= storeRest n pops v) s := by
  rw [storeFrom, Exec.bind_ok (cx_run s), hplan]
  refine congrFun (congrArg (m >>= ·) (funext fun l => ?_)) s
  cases l <;> rfl

theorem storeFrom_goesOn {p : LanePlan} (hplan : s.cx.plan = some p) (m : Exec (Option (List (Nat × Dword × Place)))) :
    storeFrom n pops v m s = goOnStoring pops p s := by
  rw [storeFrom, Exec.bind_ok (cx_run s), hplan]

end

section
variable {i : Instr} {s u : State} {m : Exec Unit} (he : exec i s = finish m s) {pops : List Reg} {done : State → State → Prop}
include he

/-- Lanes stored one by one, after the last of which the instruction completes: `done` may lean, outside a firing and where no lane lies in device space, on
all of the contexts but the logical times. -/
theorem storesOn {p : LanePlan} (hp : p.store = true) (hm : m s = goOnStoring pops p u)
    (hdone : ∀ x, (NoDevice p.todo → u.cx.firing = none → u.Undisturbed x) → done x (x.popped pops).retire) :
    ∃ t, exec i s = .next t ∧ StoresOn u t p (fun x => done x t) := by
  obtain ⟨t, ht⟩ := finish_next m s
  obtain ⟨k, f, htakes, hrun⟩ := runLanes_store hp u
  refine ⟨t, he.trans ht, k, f, htakes, fun q x hstored => ?_⟩
  rw [goOnStoring, Exec.bind_ok (hrun q x hstored)] at hm
  have hends {v : State} (hv : m s = (.ok (), v)) : t = v := Host.Outcome.next.inj (ht.symm.trans (finish_ok m s v hv))
  refine ⟨fun hk => ?_, fun y rest hdrop => ?_⟩
  · have hnone : p.todo.drop k = [] := List.drop_eq_nil_of_le (Nat.le_of_eq hk.symm)
    have hall : p.todo.take k = p.todo := List.take_of_length_le (Nat.le_of_eq hk.symm)
    simp only [hnone, List.isEmpty_nil, if_true] at hm
    rw [hends (hm.trans (storeRest_none 0 pops (0, false) x))]
    have hfresh : u.Undisturbed { u with fresh := f } := .of_control (u.control_fresh f)
    rw [hall] at hstored
    exact hdone x fun hdev hf => hfresh.trans (undisturbed_of_lanesStored hstored hdev hf)
  · simp only [hdrop, List.isEmpty_cons, Bool.false_eq_true, if_false] at hm
    exact hends hm

/-- Lanes stored by a store that begins: a block as one access, else one by one. -/
theorem storesLanes {ea g : Dword} {n : Nat} {v : VReg × Bool} {ls : List (Nat × Dword × Place)} (hm : m s = (storeBlock ea n g v ls >>= storeRest n pops v) u)
    (hdone : ∀ x, (NoDevice ls → u.cx.firing = none → u.Undisturbed x) → done x (x.popped pops).retire) : StoresLanes i s u ea g n v ls done := by
  unfold StoresLanes
  cases hb : wholeBlock ea ls with
  | none => exact storesOn he (p := begun n ls true v none) rfl (hm.trans (Exec.bind_ok (storeBlock_lanes n g v hb u) _)) hdone
  | some p =>
    obtain ⟨t, ht⟩ := finish_next m s
    refine ⟨t, he.trans ht, fun hheld w hlog => ⟨laneMask n g, fun j hj => getLsbD_laneMask n g hj, ?_⟩⟩
    have hend := hm.trans ((Exec.bind_ok (storeBlock_block n g v hb hheld hlog) _).trans (storeRest_none ..))
    obtain rfl := Host.Outcome.next.inj (ht.symm.trans (finish_ok m s _ hend))
    refine hdone _ fun _ hf => ?_
    obtain rfl : u = w := (Prod.mk.inj ((logStore_plain hf).symm.trans hlog)).2
    exact u.undisturbed_storeMasked ..

end

/-! ### The computations of the stores (R100, R102) -/

section
variable {s u : State} {b : Reg} {v : VReg × Bool} {ls : List (Nat × Dword × Place)}

/-- The computation of `vst` once its source is there. -/
def vstE (b a : Reg) (g : PReg) (z : Size) (off : BitVec 11) (v : VReg × Bool) : Exec Unit :=
  storeFrom z.bytes [b] v (do
    let c ← cx
    let ea := vectorEA c a off
    guardTrap (ea.toNat % z.bytes = 0) cALIGN ea
    let ls ← storeChecks (laneAddrs (64 / z.bytes) (c.p g) (fun i => ea + BitVec.ofNat 64 (i * z.bytes))) z.bytes (c.sp a)
    storeBlock ea z.bytes (c.p g) v ls)

theorem exec_vst (hv : sourceOf s.cx b = some v) (a : Reg) (g : PReg) (z : Size) (off : BitVec 11) :
    exec (.vst b a g z off) s = finish (vstE b a g z off v) s := finish_congr (Exec.bind_ok (srcV_run hv) _)

/-- The computation of `vscatter` once its source and its index vector are there. -/
def vscatterE (d a b : Reg) (g : PReg) (t : ETy) (v y : VReg × Bool) : Exec Unit :=
  storeFrom (t.width / 8) [d, b] v (do
    let c ← cx
    guardTrap ((c.s a).toNat % (t.width / 8) = 0) cALIGN (c.s a)
    return some (← storeChecks (laneAddrs (64 / (t.width / 8)) (c.p g) (gatherAddr t.width (c.s a) y.1)) (t.width / 8) (c.sp a || y.2)))

theorem exec_vscatter {d : Reg} {y : VReg × Bool} (hv : sourceOf s.cx d = some v) (hy : sourceOf s.cx b = some y) (a : Reg) (g : PReg) (t : ETy) :
    exec (.vscatter d a b g t) s = finish (vscatterE d a b g t v y) s :=
  finish_congr ((Exec.bind_ok (srcV_run hv) _).trans (Exec.bind_ok (srcV_run hy) _))

variable {a : Reg} (hplan : s.cx.plan = none) (hp : s.cx.sp a = false)
include hplan hp

theorem vstE_run {g : PReg} {z : Size} {off : BitVec 11} (halign : (vectorEA s.cx a off).toNat % z.bytes = 0)
    (hl : laneChecks (vectorLanes s a g z off) .store z.bytes s = (.ok ls, u)) (ht : ∀ x ∈ vectorLanes s a g z off, timedOk s.cx x.2 z.bytes = true) :
    vstE b a g z off v s = (storeBlock (vectorEA s.cx a off) z.bytes (s.cx.p g) v ls >>= storeRest z.bytes [b] v) u := by
  rw [vstE, storeFrom_begins hplan]
  refine Exec.bind_congr ?_ _
  rw [Exec.bind_ok (cx_run s), decide_eq_true halign, Exec.bind_ok (guardTrap_true ..), hp]
  exact Exec.bind_ok (storeChecks_run hl ht) _

theorem vscatterE_run {d : Reg} {g : PReg} {t : ETy} {y : VReg × Bool} (hy : y.2 = false) (halign : (s.cx.s a).toNat % (t.width / 8) = 0)
    (hl : laneChecks (laneAddrs (64 / (t.width / 8)) (s.cx.p g) (gatherAddr t.width (s.cx.s a) y.1)) .store (t.width / 8) s = (.ok ls, u))
    (ht : ∀ x ∈ laneAddrs (64 / (t.width / 8)) (s.cx.p g) (gatherAddr t.width (s.cx.s a) y.1), timedOk s.cx x.2 (t.width / 8) = true) :
    vscatterE d a b g t v y s = (storeBlock 1 (t.width / 8) 0 v ls >>= storeRest (t.width / 8) [d, b] v) u := by
  rw [vscatterE, storeFrom_begins hplan]
  refine Exec.bind_congr ?_ _
  rw [Exec.bind_ok (cx_run s), decide_eq_true halign, Exec.bind_ok (guardTrap_true ..), hp, hy, storeBlock_lanes _ _ _ (wholeBlock_unaligned (by decide) ls)]
  exact Exec.bind_ok (storeChecks_run hl ht) _

end

/-- A vector store that has stopped between two lanes goes on with those that are left. -/
theorem exec_vectorStore_goesOn {i : Instr} {s : State} {b : Reg} {pops : List Reg} {p : LanePlan} (hi : vectorStore i = some (b, pops))
    (hplan : s.cx.plan = some p) (hready : ∀ r ∈ pops, (sourceOf s.cx r).isSome = true) : ∃ m, exec i s = finish m s ∧ m s = goOnStoring pops p s := by
  unfold vectorStore at hi
  split at hi <;> cases hi
  case h_1 =>
    obtain ⟨v, hv⟩ := Option.isSome_iff_exists.1 (hready _ List.mem_cons_self)
    exact ⟨_, exec_vst hv .., storeFrom_goesOn hplan _⟩
  case h_2 =>
    obtain ⟨hd, hb⟩ := List.forall_mem_cons.1 hready
    obtain ⟨v, hv⟩ := Option.isSome_iff_exists.1 hd
    obtain ⟨y, hy⟩ := Option.isSome_iff_exists.1 (hb _ List.mem_cons_self)
    exact ⟨_, exec_vscatter hv hy .., storeFrom_goesOn hplan _⟩

/-- A store outside a firing changes no register, where its checks have changed none and its lanes none after them. -/
theorem sameRegisters_of_lanes {s u x : State} {ls : List (Nat × Dword × Place)} (hu : s.Undisturbed u)
    (hx : NoDevice ls → u.cx.firing = none → u.Undisturbed x) (hdev : NoDevice ls) (hf : s.cx.firing = none) : SameRegisters s.cx x.cx :=
  (hu.trans (hx hdev ((congrArg Context.firing hu.cx :).trans hf))).cx

end Sys2Proof.Machine

namespace Sys2Proof.Claims
open Sys2Proof.Machine

/-- Settles O32: whether it begins or goes on, a store ends with its lanes as `LanesStored` has them, or with its block. -/
theorem vectorStoresComplete : Obligations.VectorStoresComplete := by
  unfold Obligations.VectorStoresComplete
  dsimp only
  refine fun s => ⟨fun hplan => ⟨fun b a g z off v ls u hv halign hl ht hp => ?_, fun d a b g t v y ls u hv hy halign hl ht hp hyp => ?_⟩,
    fun i b pops v p hi hplan hstore _ hready => ?_⟩
  · exact storesLanes (exec_vst hv a g z off) (vstE_run hplan hp halign hl ht) fun x hx =>
      ⟨from_retire _, sameRegisters_of_lanes (laneChecks_undisturbed hl) hx⟩
  · exact storesLanes (exec_vscatter hv hy a g t) (vscatterE_run hplan hp hyp halign hl ht) fun x hx =>
      ⟨from_retire _, sameRegisters_of_lanes (laneChecks_undisturbed hl) hx⟩
  · obtain ⟨m, he, hm⟩ := exec_vectorStore_goesOn hi hplan hready
    exact storesOn he hstore hm fun x hx => ⟨from_retire _, sameRegisters_of_lanes (.refl s) hx⟩

end Sys2Proof.Claims
end

section
/-! SUPPORT. Checks that several instructions share and SendREQ (spec 06 R133; 07 R152; 08 R177, R180; 19 R343): what each answers where it passes and where it does not. -/

namespace Sys2Proof.Machine
open Sys2Proof.Claims

/-! ### Checks -/

theorem guardUntimed_run (s : State) : guardUntimed s = if s.cx.firing.isSome then (.error (.trap cTIMEDWR 0), s) else (.ok (), s) := by
  rw [guardUntimed, Exec.bind_ok (cx_run s), guardTrap_run, Context.timed]
  cases s.cx.firing <;> rfl

theorem guardIll_run (ok : Bool) (s : State) : guardIll ok s = if ok then (.ok (), s) else (.error (.trap cILL s.wordValue), s) := by
  rw [guardIll, Exec.bind_ok (Exec.get_run s), guardTrap_run]

theorem waitEngines_quiet {s : State} (h : unitsQuiet s .fpm = true) : waitEngines s = (.ok (), s) := by
  obtain ⟨hmat, hsp⟩ := Bool.and_eq_true_iff.1 h
  rw [all_slot_ne_eq_not_any, Bool.not_eq_true'] at hmat hsp
  rw [waitEngines, Exec.bind_ok (Exec.get_run s), hmat, hsp]
  rfl

theorem poisonBlock_run (b : Reg) (s : State) : poisonBlock b s = (.ok (), s.modCx (fun c => c.poisonIf (s.cx.blockP b != 0))) := rfl

/-! ### An instruction that has changed the state and goes on -/

theorem goes_on {i : Instr} {s u : State} {m : Exec Unit} (he : exec i s = finish m s) (hm : m s = (.ok (), u.retire)) : ∃ t, exec i s = .next t ∧ From u t [] [] [] :=
  ⟨_, he.trans (finish_ok m s _ hm), from_retire u⟩

theorem goes_on_setS {i : Instr} {s u : State} {m : Exec Unit} {d : Reg} {v : Dword} {p : Bool} (he : exec i s = finish m s)
    (hm : m s = (.ok (), (u.modCx (fun c => c.setS d v p)).retire)) : ∃ t, exec i s = .next t ∧ From u t [d] [] [] ∧ Holds t.cx d v p := by
  refine ⟨_, he.trans (finish_ok m s _ hm), from_setS u d v p, ?_⟩
  rw [State.cx_retire, State.cx_modCx]
  exact holds_setS ..

/-! ### Changes of a region beside those of a context -/

@[simp] theorem State.cx_modRegion (s : State) (q : Nat) (f : Region → Region) : (s.modRegion q f).cx = s.cx := by
  unfold State.modRegion; split <;> rfl
@[simp] theorem State.cx_owing (s : State) (l : Nat) (dst : BitVec 40) : (owing s l dst).cx = s.cx := s.cx_modRegion ..
theorem State.modRegion_modCx (s : State) (q : Nat) (f : Context → Context) (g : Region → Region) :
    (s.modCx f).modRegion q g = (s.modRegion q g).modCx f := by
  have hr : (s.modCx f).getRegion? q = s.getRegion? q := rfl
  unfold State.modRegion
  rw [hr]
  split <;> rfl

/-! ### SendREQ (R133, R177) -/

/-- SendREQ has no room: the send queue, the in-flight table or the landing slots are full. -/
def NoRoom (s : State) (event : Bool) : Prop :=
  16 ≤ s.cx.sendq.length ∨ (event = true ∧ 64 ≤ s.co.flight.length) ∨ ∀ j, j < 16 → vget s.cx.landing j none ≠ none

/-- How many cycles a packet has stalled, this one counted. -/
def State.sendStall (s : State) (event : Bool) (ep : BitVec 40) : Nat :=
  match s.cx.wait with
  | none => 1
  | some w => if w.kind = .send event ep then s.cycle - w.since + 1 else 1

/-- The lowest landing slot that is free. -/
theorem Context.freeLanding_eq_some {c : Context} {l : Nat} (hl : l < 16) (hfree : vget c.landing l none = none)
    (hlow : ∀ j, j < l → vget c.landing j none ≠ none) : c.freeLanding = some l := by
  rw [Context.freeLanding, rangeFrom_eq_range, List.find?_range_eq_some]
  refine ⟨by simp [hfree], by simpa using hl, fun j hj => ?_⟩
  simpa [Option.isSome_iff_ne_none] using hlow j hj
theorem Context.freeLanding_eq_none {c : Context} (h : ∀ j, j < 16 → vget c.landing j none ≠ none) : c.freeLanding = none := by
  rw [Context.freeLanding, rangeFrom_eq_range, List.find?_range_eq_none]
  exact fun j hj => by simpa [Option.isSome_iff_ne_none] using h j hj

theorem sendRoom_ok {s : State} {event : Bool} {l : Nat} (h : Room s event l) (ep : BitVec 40) : sendRoom event ep s = (.ok l, s) := by
  obtain ⟨hq, hflight, hl, hfree, hlow⟩ := h
  have hroom : ¬ (s.cx.sendq.length ≥ 16 ∨ (event = true ∧ s.co.flight.length ≥ flightMax)) := by
    rintro (hfull | ⟨he, hfull⟩)
    · exact Nat.not_le.2 hq hfull
    · exact Nat.not_le.2 (hflight he) hfull
  rw [sendRoom, Exec.bind_ok (Exec.get_run s)]
  dsimp only
  rw [if_neg hroom, Context.freeLanding_eq_some hl hfree hlow]
  rfl

theorem sendRoom_full {s : State} {event : Bool} (h : NoRoom s event) (ep : BitVec 40) : sendRoom event ep s =
    (.error (if s.cx.cr.sqlim.toNat ≤ s.sendStall event ep then .trap cSQFULL (BitVec.setWidth 64 ep) else .wait (.send event ep)), s) := by
  have hnone : (if s.cx.sendq.length ≥ 16 ∨ (event = true ∧ s.co.flight.length ≥ flightMax) then none else s.cx.freeLanding) = none := by
    split
    · rfl
    · next hroom =>
      obtain hq | hflight | hheld := h
      · exact absurd (.inl hq) hroom
      · exact absurd (.inr hflight) hroom
      · exact Context.freeLanding_eq_none hheld
  rw [sendRoom, Exec.bind_ok (Exec.get_run s)]
  dsimp only
  rw [hnone, State.sendStall]
  rcases s.cx.wait with _ | w
  · dsimp only
    rw [Nat.sub_self]
    split <;> rfl
  · by_cases hk : w.kind = .send event ep
    · simp only [if_pos hk]
      split <;> rfl
    · simp only [if_neg hk, Nat.sub_self]
      split <;> rfl

/-- An instruction that stops where SendREQ has no room waits, or traps SQFULL. -/
theorem stallsFull_of_error {i : Instr} {s u v : State} {m : Exec Unit} {event : Bool} {ep : BitVec 40} (he : exec i s = finish m s)
    (hv : s.undone v = s.undone u) (hm : ∀ e, sendRoom event ep u = (.error e, u) → m s = (.error e, v)) : StallsFull i s u event ep := by
  intro hfull
  have hstop := hm _ (sendRoom_full hfull ep)
  refine ⟨fun hlt => ?_, fun hle => ?_⟩
  · have hlt' : ¬ u.cx.cr.sqlim.toNat ≤ u.sendStall event ep := Nat.not_le.2 hlt
    rw [if_neg hlt'] at hstop
    rw [he, finish_error m s v _ hstop, hv]
    rfl
  · have hle' : u.cx.cr.sqlim.toNat ≤ u.sendStall event ep := hle
    rw [if_pos hle'] at hstop
    have htraps := trapsAfter_of_error he hstop (by decide) (.inl (by decide))
    rw [TrapsAfter, hv] at htraps
    exact htraps

theorem sendReq_ok {s : State} {l : Nat} (h : Room s false l) (dst : BitVec 40) (tag : Byte) (reply : Bool) (body : BitVec 4 → Body) :
    sendReq dst tag reply body s =
      (.ok (), (owing s l dst).modCx (fun c => queued c l tag reply (reqPacket s dst (body (BitVec.ofNat 4 l))))) := by
  rw [sendReq, Exec.bind_ok (sendRoom_ok h dst), Exec.bind_ok (Exec.get_run s), Exec.bind_ok (Exec.modify_run ..)]
  rfl
theorem sendReq_error {s u : State} {e : Stop} {dst : BitVec 40} (h : sendRoom false dst s = (.error e, u)) (tag : Byte) (reply : Bool)
    (body : BitVec 4 → Body) : sendReq dst tag reply body s = (.error e, u) := Exec.bind_error h _

/-- An instruction whose packet has room puts it into the send queue. -/
theorem sends_of_ok {i : Instr} {s : State} {m : Exec Unit} {l : Nat} {dst : BitVec 40} {c : Context} (he : exec i s = finish m s)
    (hm : m s = (.ok (), ((owing s l dst).modCx (fun _ => c)).retire)) : Sends i s l dst c := goes_on he hm

end Sys2Proof.Machine
end

section
/-! `send`, `sendv` and `reply` (spec 06 R133 to R136; 08 R183, R185), and the settling of O36. -/

namespace Sys2Proof.Machine
open Sys2Proof.Claims

/-- The endpoint, the operation tag and the wish for a reply that a header word names (R135). -/
def wordEp (x : Dword) : BitVec 40 := x.extractLsb' 0 40
def wordTag (x : Dword) : Byte := x.extractLsb' 40 8

/-- The message that `send` puts into a landing slot's packet. -/
def State.sendBody (s : State) (a b : Reg) (l : BitVec 4) : Body :=
  .message { hdr := header 0 (wordTag (s.cx.s a)) 0 ((s.cx.s a).getLsbD 48) l s.ownEp, data := s.cx.block b, pois := s.cx.blockP b }

theorem exec_send_run (a b : Reg) (s : State) : ∃ m, exec (.send a b) s = finish m s ∧ m s =
    if s.cx.firing.isSome then (.error (.trap cTIMEDWR 0), s)
    else if s.cx.sp a then (.error (.trap cPOISON 0), s)
    else (sendReq (wordEp (s.cx.s a)) (wordTag (s.cx.s a)) ((s.cx.s a).getLsbD 48) (s.sendBody a b) >>= fun _ => retireE) s := by
  refine ⟨_, rfl, ?_⟩
  rw [Exec.bind_ok (Exec.get_run s), Exec.bind_run, guardUntimed_run]
  split
  · rfl
  · rw [Exec.andThen_ok, Exec.bind_run, guardPoison_run]
    split <;> rfl

theorem exec_sendv_run (a b : Reg) (s : State) : ∃ m, exec (.sendv a b) s = finish m s ∧
    (s.cx.firing.isSome = true → m s = (.error (.trap cTIMEDWR 0), s)) ∧
    ∀ v, s.cx.firing = none → s.cx.sp a = false → sourceOf s.cx b = some v → m s =
      (sendReq (wordEp (s.cx.s a)) (wordTag (s.cx.s a)) false (fun l => .vector (wordTag (s.cx.s a)) l v.1 v.2) >>= fun _ =>
        modCx (fun c => c.popPort b) >>= fun _ => retireE) s := by
  refine ⟨_, rfl, fun hf => ?_, fun v hf hp hv => ?_⟩
  · rw [Exec.bind_error]
    rw [guardUntimed_run, if_pos hf]
  · have hpass : guardUntimed s = (.ok (), s) := by rw [guardUntimed_run, hf]; rfl
    rw [Exec.bind_ok hpass, Exec.bind_ok (cx_run s), hp, Exec.bind_ok (guardPoison_false s), Exec.bind_ok (srcV_run hv)]
    rfl

/-- The packet that carries a reply (R185). -/
def State.replyPacket (s : State) (a b : Reg) : Packet :=
  { net := .rpl, src := s.ownEp, dst := wordEp (s.cx.s a), rcb := s.cx.rgn, lt := s.cx.lt, body := .reply (answerTo s a b) }

theorem exec_reply_run (a b : Reg) (s : State) : ∃ m, exec (.reply a b) s = finish m s ∧ m s =
    if s.cx.firing.isSome then (.error (.trap cTIMEDWR 0), s)
    else if (s.cx.s a).extractLsb' 46 2 ≠ 0 ∨ (s.cx.s a).getLsbD 45 = false then (.ok (), s.retire)
    else if s.cx.sp a then (.error (.trap cPOISON 0), s)
    else (.ok (), (s.push [s.replyPacket a b]).retire) := by
  refine ⟨_, rfl, ?_⟩
  rw [Exec.bind_ok (Exec.get_run s), Exec.bind_run, guardUntimed_run]
  split
  · rfl
  · rw [Exec.andThen_ok]
    dsimp only
    split
    · rfl
    · rw [Exec.bind_run, guardPoison_run]
      split <;> rfl

end Sys2Proof.Machine

namespace Sys2Proof.Claims
open Sys2Proof.Machine

theorem send_sends {s : State} {a : Reg} (b : Reg) {l : Nat} (hf : s.cx.firing = none) (hp : s.cx.sp a = false) (hroom : Room s false l) :
    Sends (.send a b) s l (wordEp (s.cx.s a)) (queued s.cx l (wordTag (s.cx.s a)) ((s.cx.s a).getLsbD 48)
      (reqPacket s (wordEp (s.cx.s a)) (s.sendBody a b (BitVec.ofNat 4 l)))) := by
  obtain ⟨m, he, hm⟩ := exec_send_run a b s
  rw [hf, hp] at hm
  refine sends_of_ok he (hm.trans ((Exec.bind_ok (sendReq_ok hroom ..) _).trans ?_))
  rw [retireE_run, State.modCx_eq_setCx, State.cx_owing]
  rfl

theorem sendv_sends {s : State} {a b : Reg} {l : Nat} {v : VReg × Bool} (hf : s.cx.firing = none) (hp : s.cx.sp a = false) (hroom : Room s false l)
    (hv : sourceOf s.cx b = some v) : Sends (.sendv a b) s l (wordEp (s.cx.s a)) ((queued s.cx l (wordTag (s.cx.s a)) false
      (reqPacket s (wordEp (s.cx.s a)) (.vector (wordTag (s.cx.s a)) (BitVec.ofNat 4 l) v.1 v.2))).popPort b) := by
  obtain ⟨m, he, -, hm⟩ := exec_sendv_run a b s
  refine sends_of_ok he ((hm v hf hp hv).trans ((Exec.bind_ok (sendReq_ok hroom ..) _).trans ?_))
  rw [Exec.bind_ok (modCx_run ..), retireE_run, State.modCx_modCx, State.modCx_eq_setCx, State.cx_owing]
  rfl

/-- Settles O36: SendREQ is `sendReq_ok` where there is room and `stallsFull_of_error` where there is none. -/
theorem messagesAreSent : Obligations.MessagesAreSent := by
  unfold Obligations.MessagesAreSent
  intro s a b
  obtain ⟨send, hsend, hsendRun⟩ := exec_send_run a b s
  obtain ⟨sendv, hsendv, hsendvTimed, hsendvRun⟩ := exec_sendv_run a b s
  obtain ⟨reply, hreply, hreplyRun⟩ := exec_reply_run a b s
  refine ⟨fun l hf hp hroom => ⟨send_sends b hf hp hroom, fun v hv => sendv_sends hf hp hroom hv⟩, fun hf => ⟨fun hnone => ?_, fun hkind hasks hp => ?_⟩,
    fun hf => ⟨?_, ?_, ?_⟩, fun hf hp => ⟨?_, fun hv => ?_⟩⟩
  · rw [hf, if_pos hnone] at hreplyRun
    exact ⟨_, plain_retire _ s (hreply.trans (finish_ok _ _ _ hreplyRun))⟩
  · have hreplies : ¬ ((s.cx.s a).extractLsb' 46 2 ≠ 0 ∨ (s.cx.s a).getLsbD 45 = false) := by simp only [hkind, hasks]; decide
    rw [hf, hp] at hreplyRun
    exact goes_on hreply (hreplyRun.trans (if_neg hreplies))
  · rw [if_pos hf] at hsendRun
    exact traps_of_error hsend hsendRun (by decide) (by decide)
  · exact traps_of_error hsendv (hsendvTimed hf) (by decide) (by decide)
  · rw [if_pos hf] at hreplyRun
    exact traps_of_error hreply hreplyRun (by decide) (by decide)
  · rw [hf, hp] at hsendRun
    exact stallsFull_of_error hsend rfl fun e hfull => hsendRun.trans (Exec.bind_error (sendReq_error hfull ..) _)
  · obtain ⟨v, hv⟩ := Option.ne_none_iff_exists'.1 hv
    exact stallsFull_of_error hsendv rfl fun e hfull => (hsendvRun v hf hp hv).trans (Exec.bind_error (sendReq_error hfull ..) _)

end Sys2Proof.Claims
end

section
/-! `spawn` and `callat` (spec 06 R124, R134; 08 R177 to R179), and the settling of O33. -/

namespace Sys2Proof.Machine
open Sys2Proof.Claims

/-! ### What a region has on a core after a change of it -/

theorem State.getWork_modWork_self {s : State} {q : Nat} (h : (s.getRegion? q).isSome = true) (core : Nat) (f : Work → Work) :
    (s.modWork q core f).getWork q core = f (s.getWork q core) := by
  obtain ⟨r, hr⟩ := Option.isSome_iff_exists.1 h
  have hmod : s.modWork q core f = s.setRegion q { r with work := kset r.work core (f (kgetD r.work core (r.freshWork core))) } := by
    rw [State.modWork, State.modRegion, hr]
  rw [hmod, State.getWork, State.getRegion_setRegion_self, State.getWork, hr]
  exact kgetD_kset_self ..

/-! ### Handing over a task -/

/-- The running context once it has consumed the poison of a block that lands where no poison bit is (R95). -/
def State.blockTaken (s : State) (b : Reg) : State := s.modCx (fun c => c.poisonIf (s.cx.blockP b != 0))

/-- What poison consumed leaves of a context. -/
theorem Context.poisonIf_frame (c : Context) (p : Bool) :
    (c.poisonIf p).rgn = c.rgn ∧ (c.poisonIf p).inc = c.inc ∧ (c.poisonIf p).lt = c.lt ∧ (c.poisonIf p).sendq = c.sendq ∧
      (c.poisonIf p).landing = c.landing ∧ (c.poisonIf p).wait = c.wait ∧ (c.poisonIf p).cr.sqlim = c.cr.sqlim := by
  cases p <;> exact ⟨rfl, rfl, rfl, rfl, rfl, rfl, rfl⟩

/-- The task that `spawn` and `callat` make (R178, R179). -/
def State.taskMade (s : State) (a b : Reg) : Task := { pc := s.cx.s a, args := s.cx.block b, lt := s.cx.lt }

theorem exec_spawn_run (a b : Reg) (s : State) : ∃ m, exec (.spawn a b) s = finish m s ∧ m s =
    if (s.cx.s a).extractLsb' 0 2 = 0 then
      if s.cx.firing.isSome then (.error (.trap cTIMEDWR 0), s)
      else if (s.getWork s.cx.rgn s.coreNum).deque.length < 256 then
        if s.cx.sp a then (.error (.trap cPOISON 0), s)
        else (.ok (), ((s.blockTaken b).modWork s.cx.rgn s.coreNum (fun w => { w with deque := s.taskMade a b :: w.deque })).retire)
      else (.error (.trap cRESOURCE 256), s)
    else (.error (.trap cALIGN (s.cx.s a)), s) := by
  refine ⟨_, rfl, ?_⟩
  rw [Exec.bind_ok (Exec.get_run s), Exec.bind_run, guardTrap_run]
  simp only [beq_iff_eq]
  split
  · rw [Exec.andThen_ok, Exec.bind_run, guardUntimed_run]
    split
    · rfl
    · rw [Exec.andThen_ok, Exec.bind_run, guardTrap_run]
      simp only [decide_eq_true_eq]
      split
      · rw [Exec.andThen_ok, Exec.bind_run, guardPoison_run]
        split <;> rfl
      · rfl
  · rfl

/-- The endpoint of the core that `callat` sends its task to (R179). -/
def coreOfEp (ep : BitVec 40) : BitVec 40 := ep.extractLsb' 18 22 ++ 0#18

theorem exec_callat_run (d a b : Reg) (s : State) : ∃ m, exec (.callat d a b) s = finish m s ∧ m s =
    if (s.cx.s a).extractLsb' 0 2 = 0 then
      if s.cx.firing.isSome then (.error (.trap cTIMEDWR 0), s)
      else if epPkg (wordEp (s.cx.s d)) = s.pkgNum ∧ s.takesWork s.cx.rgn (epCore (wordEp (s.cx.s d))) = true then
        if s.cx.sp d || s.cx.sp a then (.error (.trap cPOISON 0), s)
        else (sendReq (coreOfEp (wordEp (s.cx.s d))) (wordTag (s.cx.s d)) true
          (fun l => .task { pc := s.cx.s a, args := s.cx.block b } (wordTag (s.cx.s d)) l) >>= fun _ => retireE) (s.blockTaken b)
      else (.error (.trap cRESOURCE (BitVec.setWidth 64 (wordEp (s.cx.s d)))), s)
    else (.error (.trap cALIGN (s.cx.s a)), s) := by
  refine ⟨_, rfl, ?_⟩
  rw [Exec.bind_ok (Exec.get_run s), Exec.bind_run, guardTrap_run]
  simp only [beq_iff_eq]
  split
  · rw [Exec.andThen_ok, Exec.bind_run, guardUntimed_run]
    split
    · rfl
    · rw [Exec.andThen_ok, Exec.bind_run, guardTrap_run]
      simp only [Bool.and_eq_true, beq_iff_eq]
      split
      next hto =>
        refine Eq.trans ?_ (if_pos hto).symm
        rw [Exec.andThen_ok, Exec.bind_run, guardPoison_run]
        split
        · rfl
        · rw [Exec.andThen_ok, Exec.bind_ok (poisonBlock_run b s)]
          rfl
      next hto =>
        exact (if_neg hto).symm
  · rfl

/-! ### SendREQ after the block's poison has been consumed -/

theorem State.cx_blockTaken (s : State) (b : Reg) : (s.blockTaken b).cx = s.cx.poisonIf (s.cx.blockP b != 0) := s.cx_modCx _

theorem State.undone_blockTaken (s : State) (b : Reg) : s.undone (s.blockTaken b) = s.undone s := by
  have hlt : (s.blockTaken b).cx.lt = s.cx.lt := by
    rw [State.cx_blockTaken, (s.cx.poisonIf_frame _).2.2.1]
  calc s.undone (s.blockTaken b) = State.raiseTime s (.ctx s.cur) (s.blockTaken b).cx.lt := State.undone_of_regions rfl
    _ = s := State.raiseTime_le (Nat.le_of_eq hlt)
    _ = s.undone s := s.undone_self.symm

/-- SendREQ's room turns on four fields of the running context. -/
theorem sendRoom_modCx {s : State} {f : Context → Context} (hq : (f s.cx).sendq = s.cx.sendq) (hl : (f s.cx).landing = s.cx.landing)
    (hw : (f s.cx).wait = s.cx.wait) (hlim : (f s.cx).cr.sqlim = s.cx.cr.sqlim) (event : Bool) (ep : BitVec 40) :
    sendRoom event ep (s.modCx f) = ((sendRoom event ep s).1, s.modCx f) := by
  have hfree : (f s.cx).freeLanding = s.cx.freeLanding := by rw [Context.freeLanding, hl, Context.freeLanding]
  have hco : (s.modCx f).co = s.co := rfl
  have hcycle : (s.modCx f).cycle = s.cycle := rfl
  rw [sendRoom, Exec.bind_ok (Exec.get_run s), Exec.bind_ok (Exec.get_run (s.modCx f))]
  dsimp only
  rw [State.cx_modCx, hq, hfree, hw, hlim, hco, hcycle]
  rcases (if s.cx.sendq.length ≥ 16 ∨ (event = true ∧ s.co.flight.length ≥ flightMax) then none else s.cx.freeLanding) with _ | l
  · rcases s.cx.wait with _ | w
    · dsimp only
      split <;> rfl
    · by_cases hk : w.kind = .send event ep
      · simp only [if_pos hk]
        split <;> rfl
      · simp only [if_neg hk]
        split <;> rfl
  · rfl

theorem sendRoom_blockTaken {s : State} {ep : BitVec 40} {e : Stop} (h : sendRoom false ep s = (.error e, s)) (b : Reg) :
    sendRoom false ep (s.blockTaken b) = (.error e, s.blockTaken b) := by
  obtain ⟨-, -, -, hq, hl, hw, hlim⟩ := s.cx.poisonIf_frame (s.cx.blockP b != 0)
  exact (sendRoom_modCx (f := fun c => c.poisonIf (s.cx.blockP b != 0)) hq hl hw hlim false ep).trans (by rw [h]; rfl)

end Sys2Proof.Machine

namespace Sys2Proof.Claims
open Sys2Proof.Machine

theorem room_blockTaken {s : State} {l : Nat} (h : Room s false l) (b : Reg) : Room (s.blockTaken b) false l := by
  obtain ⟨-, -, -, hq, hl, -, -⟩ := s.cx.poisonIf_frame (s.cx.blockP b != 0)
  rw [Room, State.cx_blockTaken, hq, hl]
  exact h

/-- What `callat` sends is sent from the context that has consumed the block's poison. -/
theorem callat_sends {d a b : Reg} {s : State} {l : Nat} (halign : (s.cx.s a).extractLsb' 0 2 = 0) (hf : s.cx.firing = none)
    (hto : epPkg (wordEp (s.cx.s d)) = s.pkgNum ∧ s.takesWork s.cx.rgn (epCore (wordEp (s.cx.s d))) = true) (hd : s.cx.sp d = false)
    (ha : s.cx.sp a = false) (hroom : Room s false l) :
    Sends (.callat d a b) s l (coreOfEp (wordEp (s.cx.s d))) (queued (s.cx.poisonIf (s.cx.blockP b != 0)) l (wordTag (s.cx.s d)) true
      (reqPacket s (coreOfEp (wordEp (s.cx.s d))) (.task { pc := s.cx.s a, args := s.cx.block b } (wordTag (s.cx.s d)) (BitVec.ofNat 4 l)))) := by
  obtain ⟨m, he, hm⟩ := exec_callat_run d a b s
  rw [if_pos halign, hf, if_pos hto, hd, ha] at hm
  refine sends_of_ok he (hm.trans ((Exec.bind_ok (sendReq_ok (room_blockTaken hroom b) ..) _).trans ?_))
  obtain ⟨hrgn, hinc, hlt, -⟩ := s.cx.poisonIf_frame (s.cx.blockP b != 0)
  have hep : (s.blockTaken b).ownEp = s.ownEp := by rw [State.ownEp, State.cx_blockTaken, hinc]; rfl
  have how : owing (s.blockTaken b) l (coreOfEp (wordEp (s.cx.s d))) = (owing s l (coreOfEp (wordEp (s.cx.s d)))).blockTaken b := by
    rw [owing, State.cx_blockTaken, hrgn, hep, State.blockTaken, State.modRegion_modCx, State.blockTaken, State.cx_owing]
    rfl
  rw [how, retireE_run, State.blockTaken, State.modCx_modCx, State.modCx_eq_setCx, State.cx_owing, reqPacket, hep, State.cx_blockTaken, hrgn, hlt]
  rfl

/-- Settles O33: a task goes to the core's deque (`State.getWork_modWork_self`) or, through SendREQ, to another core. -/
theorem spawnAndCallatHandOverTasks : Obligations.SpawnAndCallatHandOverTasks := by
  unfold Obligations.SpawnAndCallatHandOverTasks
  intro s d a b
  obtain ⟨spawn, hspawn, hspawnRun⟩ := exec_spawn_run a b s
  obtain ⟨callat, hcallat, hcallatRun⟩ := exec_callat_run d a b s
  refine ⟨fun halign hf hroom ha => ?_, fun halign => ⟨?_, ?_⟩, fun halign hf => ⟨?_, ?_⟩, fun halign hf hfull => ?_,
    fun l halign hf hpkg htakes hd ha hroom => callat_sends halign hf ⟨hpkg, htakes⟩ hd ha hroom, fun halign hf hpkg htakes hd ha => ?_,
    fun halign hf hnot => ?_⟩
  · rw [if_pos halign, hf, if_pos hroom, ha] at hspawnRun
    exact ⟨_, hspawn.trans (finish_ok _ _ _ hspawnRun), from_retire _, fun hr => congrArg Work.deque
      (State.getWork_modWork_self (s := s.blockTaken b) hr s.coreNum (fun w => { w with deque := s.taskMade a b :: w.deque }))⟩
  · exact traps_of_error hspawn (hspawnRun.trans (if_neg halign)) (by decide) (by decide)
  · exact traps_of_error hcallat (hcallatRun.trans (if_neg halign)) (by decide) (by decide)
  · rw [if_pos halign, if_pos hf] at hspawnRun
    exact traps_of_error hspawn hspawnRun (by decide) (by decide)
  · rw [if_pos halign, if_pos hf] at hcallatRun
    exact traps_of_error hcallat hcallatRun (by decide) (by decide)
  · rw [if_pos halign, hf, if_neg (Nat.not_lt.2 hfull)] at hspawnRun
    exact traps_of_error hspawn hspawnRun (by decide) (by decide)
  · have hto : epPkg (wordEp (s.cx.s d)) = s.pkgNum ∧ s.takesWork s.cx.rgn (epCore (wordEp (s.cx.s d))) = true := ⟨hpkg, htakes⟩
    rw [if_pos halign, hf, if_pos hto, hd, ha] at hcallatRun
    exact stallsFull_of_error hcallat (s.undone_blockTaken b) fun e hfull =>
      hcallatRun.trans (Exec.bind_error (sendReq_error (sendRoom_blockTaken hfull b) ..) _)
  · have hto : ¬ (epPkg (wordEp (s.cx.s d)) = s.pkgNum ∧ s.takesWork s.cx.rgn (epCore (wordEp (s.cx.s d))) = true) := by
      rintro ⟨hpkg, htakes⟩
      exact Bool.noConfusion ((hnot hpkg).symm.trans htakes)
    rw [if_pos halign, hf, if_neg hto] at hcallatRun
    exact traps_of_error hcallat hcallatRun (by decide) (by decide)

end Sys2Proof.Claims
end

section
/-! `bind`, `unbind`, `poll`, `recv` and `wait` (spec 06 R136; 08 R175, R186 to R189), and the settling of O37. -/

namespace Sys2Proof.Machine
open Sys2Proof.Claims

/-! ### Blocks of four registers (R175) -/

theorem Context.keeps_setBlock (c : Context) (d : Reg) (v : BitVec 256) (p : BitVec 4) : c.Keeps (c.setBlock d v p) (blockRegs d) [] [] :=
  (((c.keeps_setS d _ _).trans (Context.keeps_setS _ (d + 1) _ _)).trans (Context.keeps_setS _ (d + 2) _ _)).trans (Context.keeps_setS _ (d + 3) _ _)

@[simp] theorem Context.cr_setBlock (c : Context) (d : Reg) (v : BitVec 256) (p : BitVec 4) : (c.setBlock d v p).cr = c.cr := by simp [setBlock]

/-- The registers of a destination block are four registers other than s0, and a register outside the block is none of them. -/
theorem blockRegs_apart {d b : Reg} (h : destBlockOk d b = true) :
    (d ≠ 0 ∧ d + 1 ≠ 0 ∧ d + 2 ≠ 0 ∧ d + 3 ≠ 0) ∧ (d ≠ d + 1 ∧ d ≠ d + 2 ∧ d ≠ d + 3 ∧ d + 1 ≠ d + 2 ∧ d + 1 ≠ d + 3 ∧ d + 2 ≠ d + 3) ∧
      b ∉ blockRegs d := by
  simp only [destBlockOk, blockOk, Bool.and_eq_true, beq_iff_eq, bne_iff_ne] at h
  obtain ⟨⟨halign, h0⟩, hb⟩ := h
  have hmod : d.toNat % 4 = 0 := by simpa using congrArg BitVec.toNat halign
  have hlt : ∀ n : Nat, n < 4 → (d.toNat + n) % 32 = d.toNat + n := by omega
  refine ⟨⟨h0, ?_, ?_, ?_⟩, ⟨?_, ?_, ?_, ?_, ?_, ?_⟩, fun hmem => hb (BitVec.eq_of_toNat_eq ?_)⟩
  any_goals bv_omega
  have hcases : b = d ∨ b = d + 1 ∨ b = d + 2 ∨ b = d + 3 := by simpa [blockRegs] using hmem
  obtain rfl | rfl | rfl | rfl := hcases
  · rfl
  all_goals
    simp only [BitVec.extractLsb'_toNat, Nat.shiftRight_eq_div_pow]
    bv_omega

/-- The context that has taken a message: its data in a block of registers, its header in a single one (R175). -/
def Context.withMessage (c : Context) (d b : Reg) (m : Message) : Context := (c.setS b m.hdr false).setBlock d m.data m.pois

theorem Context.keeps_withMessage (c : Context) (d b : Reg) (m : Message) : c.Keeps (c.withMessage d b m) (b :: blockRegs d) [] [] :=
  (c.keeps_setS b _ _).trans (Context.keeps_setBlock _ d _ _)
@[simp] theorem Context.cr_withMessage (c : Context) (d b : Reg) (m : Message) : (c.withMessage d b m).cr = c.cr := by simp [withMessage]

/-- A word of four dwords, and one of four bits, put together from its parts. -/
theorem dwords_append (v : BitVec 256) : v.extractLsb' 192 64 ++ v.extractLsb' 128 64 ++ v.extractLsb' 64 64 ++ v.extractLsb' 0 64 = v := by
  refine BitVec.eq_of_getLsbD_eq fun i hi => ?_
  simp only [BitVec.getLsbD_append, BitVec.getLsbD_extractLsb']
  grind
theorem bits_append (p : BitVec 4) :
    BitVec.ofBool (p.getLsbD 3) ++ BitVec.ofBool (p.getLsbD 2) ++ BitVec.ofBool (p.getLsbD 1) ++ BitVec.ofBool (p.getLsbD 0) = p := by
  revert p
  decide

theorem Context.block_setBlock_self {d b : Reg} (h : destBlockOk d b = true) (c : Context) (v : BitVec 256) (p : BitVec 4) :
    (c.setBlock d v p).block d = v := by
  obtain ⟨⟨h0, h1, h2, h3⟩, ⟨h01, h02, h03, h12, h13, h23⟩, -⟩ := blockRegs_apart h
  refine Eq.trans ?_ (dwords_append v)
  simp only [block, setBlock, Context.s_setS_self _ _ _ _ h3, Context.s_setS_ne _ _ _ _ _ h23, Context.s_setS_ne _ _ _ _ _ h13,
    Context.s_setS_ne _ _ _ _ _ h03, Context.s_setS_self _ _ _ _ h2, Context.s_setS_ne _ _ _ _ _ h12, Context.s_setS_ne _ _ _ _ _ h02,
    Context.s_setS_self _ _ _ _ h1, Context.s_setS_ne _ _ _ _ _ h01, Context.s_setS_self _ _ _ _ h0]
theorem Context.blockP_setBlock_self {d b : Reg} (h : destBlockOk d b = true) (c : Context) (v : BitVec 256) (p : BitVec 4) :
    (c.setBlock d v p).blockP d = p := by
  obtain ⟨⟨h0, h1, h2, h3⟩, ⟨h01, h02, h03, h12, h13, h23⟩, -⟩ := blockRegs_apart h
  refine Eq.trans ?_ (bits_append p)
  simp only [blockP, setBlock, Context.sp_setS_self _ _ _ _ h3, Context.sp_setS_ne _ _ _ _ _ h23, Context.sp_setS_ne _ _ _ _ _ h13,
    Context.sp_setS_ne _ _ _ _ _ h03, Context.sp_setS_self _ _ _ _ h2, Context.sp_setS_ne _ _ _ _ _ h12, Context.sp_setS_ne _ _ _ _ _ h02,
    Context.sp_setS_self _ _ _ _ h1, Context.sp_setS_ne _ _ _ _ _ h01, Context.sp_setS_self _ _ _ _ h0]

theorem holdsMessage_withMessage (c : Context) {d b : Reg} (h : destBlockOk d b = true) (m : Message) (a : Dword) :
    HoldsMessage ((c.withMessage d b m).advance a) d b m := by
  obtain ⟨-, -, hout⟩ := blockRegs_apart h
  obtain ⟨hkeeps, -⟩ := Context.keeps_setBlock (c.setS b m.hdr false) d m.data m.pois
  obtain ⟨hs, hp⟩ := hkeeps b hout
  obtain ⟨hhdr, hclean⟩ := holds_setS c b m.hdr false a
  refine ⟨?_, ?_, ?_, ?_⟩
  · exact Eq.trans (by simp [Context.block, Context.withMessage]) (Context.block_setBlock_self h (c.setS b m.hdr false) m.data m.pois)
  · exact Eq.trans (by simp [Context.blockP, Context.withMessage]) (Context.blockP_setBlock_self h (c.setS b m.hdr false) m.data m.pois)
  · rw [Context.s_advance] at hhdr ⊢
    exact hs.trans hhdr
  · rw [Context.sp_advance] at hclean ⊢
    exact hp.trans hclean

/-- An instruction that takes a message and goes on. -/
theorem takesMessage {i : Instr} {s : State} {m : Exec Unit} {c : Context} {d b : Reg} {msg : Message} (h : destBlockOk d b = true)
    (he : exec i s = finish m s) (hm : m s = (.ok (), (s.setCx (c.withMessage d b msg)).retire)) :
    ∃ t, PlainFrom i s c t (b :: blockRegs d) [] [] ∧ HoldsMessage t.cx d b msg := by
  refine ⟨_, plainFrom_of_keeps he hm (c.keeps_withMessage d b msg) (c.cr_withMessage d b msg), ?_⟩
  rw [State.cx_changed]
  exact holdsMessage_withMessage c h msg _

/-! ### Ports (R186) -/

/-- The ports once one is bound to a tag: another that had it is unbound. -/
def Context.bindPort (c : Context) (p : BitVec 2) (tag : Byte) : Context :=
  { c with ports := vset (c.ports.map (fun q => match q with
      | none => none
      | some x => if x.tag = tag then none else some x)) p.toNat (some { tag := tag, fifo := [] }) }

theorem Context.port_bindPort (c : Context) (p : BitVec 2) (tag : Byte) {j : Nat} (hj : j < 4) : vget (c.bindPort p tag).ports j none =
    if j = p.toNat then some { tag := tag, fifo := [] } else (vget c.ports j none).bind (fun x => if x.tag = tag then none else some x) := by
  rw [bindPort]
  split
  next hp =>
    subst hp
    exact vget_vset_self _ _ _ _ p.isLt
  next hp =>
    rw [vget_vset_ne _ _ _ _ _ hp, vget, vget, dif_pos hj, dif_pos hj, Vector.getElem_map]
    cases c.ports[j] <;> rfl

theorem exec_unbind (p : BitVec 2) (s : State) :
    exec (.unbind p) s = finish (modCx (fun c => { c with ports := vset c.ports p.toNat none }) >>= fun _ => retireE) s := rfl

theorem unbind_plainFrom (p : BitVec 2) (s : State) : ∃ t, PlainFrom (.unbind p) s { s.cx with ports := vset s.cx.ports p.toNat none } t [] [] [] := by
  have hm : (modCx (fun c => { c with ports := vset c.ports p.toNat none }) >>= fun _ => retireE) s =
      (.ok (), (s.setCx { s.cx with ports := vset s.cx.ports p.toNat none }).retire) := by
    rw [Exec.bind_ok (modCx_run ..)]
    rfl
  exact ⟨_, plainFrom_of_keeps (exec_unbind p s) hm (Context.Keeps.refl _) rfl⟩

theorem exec_bind_run (p : BitVec 2) (a : Reg) (s : State) : ∃ m, exec (.bind p a) s = finish m s ∧ m s =
    if s.cx.sp a then (.error (.trap cPOISON 0), s) else (.ok (), (s.setCx (s.cx.bindPort p ((s.cx.s a).extractLsb' 0 8))).retire) := by
  refine ⟨_, rfl, ?_⟩
  rw [Exec.bind_ok (cx_run s), Exec.bind_run, guardPoison_run]
  split <;> rfl

theorem exec_poll (d : Reg) (s : State) : exec (.poll d) s = .next (s.modCx (fun c => c.setS d (BitVec.ofNat 64
    (s.cx.portBits * 2 ^ 24 + s.cx.landingsHeld * 2 ^ 16 + s.cx.landingsReady * 2 ^ 8 + s.cx.inbox.length)) false)).retire := by
  change execPoll d s = _
  rw [execPoll]
  exact congrArg (fun t : State => Host.Outcome.next t.retire) (State.modCx_congr rfl)

/-! ### Messages and answers taken (R187, R189) -/

theorem exec_recv_run (d b : Reg) (s : State) : ∃ m, exec (.recv d b) s = finish m s ∧
    (s.cx.inbox = [] → m s = (.error (.wait .inbox), s)) ∧
    ∀ msg ms, s.cx.inbox = msg :: ms → m s = (.ok (), (s.setCx (({ s.cx with inbox := ms }.lifted msg.lt).withMessage d b msg)).retire) := by
  refine ⟨_, rfl, fun h => ?_, fun msg ms h => ?_⟩
  · rw [Exec.bind_ok (cx_run s), h]
    rfl
  · rw [Exec.bind_ok (cx_run s), h]
    rfl

/-- The stop of `wait` for an answer that its selector matches. -/
def waitsFor (sel : Dword) : Stop := .wait (.reply (sel.getLsbD 8) (sel.extractLsb' 0 8))

theorem exec_wait_run (d a b : Reg) (s : State) (ha : s.cx.sp a = false) : ∃ m, exec (.wait d a b) s = finish m s ∧
    (∀ i o msg, firstAnswer (s.cx.matching (s.cx.s a)) = some (i, o, msg) → m s =
      (.ok (), (s.setCx (({ s.cx with landing := vset s.cx.landing i none }.lifted msg.lt).withMessage d b msg)).retire)) ∧
    (firstAnswer (s.cx.matching (s.cx.s a)) = none → m s =
      if (s.cx.matching (s.cx.s a)).isEmpty then (.ok (), (s.setCx (s.cx.withMessage d b { hdr := 0, data := 0, pois := 0 })).retire)
      else (.error (waitsFor (s.cx.s a)), s)) := by
  refine ⟨_, rfl, fun i o msg h => ?_, fun h => ?_⟩
  · rw [Exec.bind_ok (cx_run s), ha, Exec.bind_ok (guardPoison_false s)]
    dsimp only
    rw [h]
    rfl
  · rw [Exec.bind_ok (cx_run s), ha, Exec.bind_ok (guardPoison_false s)]
    rw [h]
    by_cases hnil : (s.cx.matching (s.cx.s a)).isEmpty = true
    · rw [if_pos hnil, if_pos hnil]
      rfl
    · rw [if_neg hnil, if_neg hnil]
      rfl

theorem firstAnswer_eq_none {ls : List (Nat × Landing)} (h : ∀ x ∈ ls, x.2.answer = none) : firstAnswer ls = none := by
  induction ls with
  | nil => rfl
  | cons x ls ih =>
    obtain ⟨hx, hls⟩ := List.forall_mem_cons.1 h
    rw [firstAnswer, hx]
    exact ih hls

end Sys2Proof.Machine

namespace Sys2Proof.Claims
open Sys2Proof.Machine

/-- Settles O37: what has arrived is taken into a block and a register (`takesMessage`), or the instruction waits. -/
theorem messagesAreReceived : Obligations.MessagesAreReceived := by
  unfold Obligations.MessagesAreReceived
  intro s
  refine ⟨fun p a ha => ?_, fun p => unbind_plainFrom p s, fun d => ?_, fun d b hd => ⟨fun h => ?_, fun msg ms h => ?_, fun a ha => ?_⟩⟩
  · obtain ⟨m, he, hm⟩ := exec_bind_run p a s
    rw [ha] at hm
    exact ⟨_, _, plainFrom_of_keeps he hm (Context.Keeps.refl _) rfl, rfl, fun j hj => Context.port_bindPort s.cx p _ hj⟩
  · refine ⟨_, plain_setS _ s d _ false (exec_poll d s), ?_⟩
    rw [State.cx_retire, State.cx_modCx]
    exact holds_setS ..
  · obtain ⟨m, he, hm, -⟩ := exec_recv_run d b s
    exact waits_of_error he (hm h)
  · obtain ⟨m, he, -, hm⟩ := exec_recv_run d b s
    exact takesMessage hd he (hm msg ms h)
  · obtain ⟨m, he, hanswer, hnone⟩ := exec_wait_run d a b s ha
    refine ⟨fun i o msg h => takesMessage hd he (hanswer i o msg h), fun h => ?_, fun h hall => ?_⟩
    · rw [h] at hnone
      exact takesMessage hd he (hnone rfl)
    · refine waits_of_error he ((hnone (firstAnswer_eq_none hall)).trans (if_neg ?_))
      rwa [List.isEmpty_iff]

end Sys2Proof.Claims
end

section
/-! `yield`, and `halt` in the S context (spec 06 R116; 07 R152; 08 R180, R181), and the settling of O35. -/

namespace Sys2Proof.Machine
open Sys2Proof.Claims

/-- What going on leaves of a context: all but its pc, its loop count and its wait. -/
theorem Context.kept_advance {α : Type} (f : Context → α) (hf : ∀ x : Context, f x.rest = f x) (c : Context) (a : Dword) : f (c.advance a) = f c :=
  (hf _).symm.trans ((congrArg f (c.rest_advance a)).trans (hf c))

/-- The check that an instruction stands outside a firing (R152). -/
theorem guardIll_untimed {s : State} (h : s.cx.firing = none) : guardIll (!s.cx.timed) s = (.ok (), s) := by
  rw [guardIll_run, Context.timed, h]
  rfl
theorem guardIll_timed {s : State} (h : s.cx.firing.isSome = true) : guardIll (!s.cx.timed) s = (.error (.trap cILL s.wordValue), s) := by
  rw [guardIll_run, Context.timed, h]
  rfl

/-! ### `halt` in the S context (R180) -/

/-- The S context parked: its inbox empty, its ports unbound. -/
def Context.parkedAtHalt (c : Context) : Context :=
  { c with inbox := [], ports := Vector.replicate 4 none, slot := .parkedWaiting, wait := none }

/-- The core of the S context once the answers of the halt are in the mesh and no work for it is noted. -/
def State.supervisorDone (s : State) (value : Dword) (pois : Bool) : State :=
  (s.push (s.callerReply s.cur value pois ++ s.staleReplies s.cur)).modCo (fun co => { co with supWork := false })

theorem State.endTask_super {s : State} (h : s.cx.mode = .super) (value : Dword) (pois : Bool) (succ : Option Task) :
    s.endTask value pois succ = ((s.supervisorDone value pois).modCx Context.parkedAtHalt).retire := by
  rw [State.endTask, h]
  rfl

theorem exec_halt_run (s : State) : ∃ m, exec .halt s = finish m s ∧
    (s.cx.firing = none → unitsQuiet s .fpm = true → m s = (.ok (), s.endTask 0 false none)) ∧
    (s.cx.firing.isSome = true → m s = (.error (.trap cILL s.wordValue), s)) := by
  refine ⟨_, rfl, fun hf hq => ?_, fun hf => ?_⟩
  · rw [Exec.bind_ok (cx_run s), Exec.bind_ok (guardIll_untimed hf), Exec.bind_ok (waitEngines_quiet hq)]
    rfl
  · rw [Exec.bind_ok (cx_run s), Exec.bind_error (guardIll_timed hf)]

/-! ### `yield` (R181) -/

/-- The positions are held and the dealer has work, so that a U context gives way. -/
def State.givesWay (s : State) : Prop := s.cx.mode = .user ∧ 4 ≤ s.held s.coreNum ∧ s.yieldWork s.cx.rgn s.coreNum = true

theorem exec_yield_run (s : State) : ∃ m, exec .yield s = finish m s ∧
    (s.cx.firing = none → s.givesWay → m s = (.ok (), s.retire.modCx (fun c => { c with slot := .parkedReady }))) ∧
    (s.cx.firing = none → ¬ s.givesWay → m s = (.ok (), s.retire)) ∧
    (s.cx.firing.isSome = true → m s = (.error (.trap cILL s.wordValue), s)) := by
  have hgives : s.givesWay ↔ (s.cx.mode == .user && decide (4 ≤ s.held s.coreNum) && s.yieldWork s.cx.rgn s.coreNum) = true := by
    simp [State.givesWay, and_assoc]
  refine ⟨_, rfl, fun hf hwork => ?_, fun hf hwork => ?_, fun hf => ?_⟩
  · rw [Exec.bind_ok (Exec.get_run s), Exec.bind_ok (guardIll_untimed hf), Exec.bind_ok (retireE_run s),
      if_pos (hgives.1 hwork)]
    rfl
  · rw [Exec.bind_ok (Exec.get_run s), Exec.bind_ok (guardIll_untimed hf), Exec.bind_ok (retireE_run s),
      if_neg fun h => hwork (hgives.2 h)]
    rfl
  · rw [Exec.bind_ok (Exec.get_run s), Exec.bind_error (guardIll_timed hf)]

end Sys2Proof.Machine

namespace Sys2Proof.Claims
open Sys2Proof.Machine

theorem halt_parks {s : State} (hsuper : s.cx.mode = .super) (hf : s.cx.firing = none) (hq : unitsQuiet s .fpm = true) : ∃ t, exec .halt s = .next t ∧
    t.cx.slot = .parkedWaiting ∧ t.cx.inbox = [] ∧ t.cx.landing = s.cx.landing ∧ (∀ j, j < 4 → vget t.cx.ports j none = none) ∧
    t.cx.pc = (s.cx.after s.lastWord).1 ∧ (∀ r, t.cx.s r = s.cx.s r ∧ t.cx.v r = s.cx.v r) ∧ (∀ a, t.mem.byte a = s.mem.byte a) ∧
    ∀ j, j ≠ s.cur → t.getCtx j = s.getCtx j := by
  obtain ⟨m, he, hm, -⟩ := exec_halt_run s
  have hcx : ((s.supervisorDone 0 false).modCx Context.parkedAtHalt).retire.cx = s.cx.parkedAtHalt.advance s.lastWord := by
    rw [State.cx_retire, State.cx_modCx]
    rfl
  have hkept {α : Type} (f : Context → α) (hf : ∀ x : Context, f x.rest = f x) : f (s.cx.parkedAtHalt.advance s.lastWord) = f s.cx.parkedAtHalt :=
    Context.kept_advance f hf _ _
  rw [State.endTask_super hsuper] at hm
  refine ⟨_, he.trans (finish_ok m s _ (hm hf hq)), ?_⟩
  rw [hcx]
  refine ⟨hkept Context.slot fun _ => rfl, hkept Context.inbox fun _ => rfl, hkept Context.landing fun _ => rfl, fun j hj => ?_, Context.pc_advance .., fun r =>
    ⟨Context.s_advance .., Context.v_advance ..⟩, fun _ => rfl, (State.onlyContext_retire (s.supervisorDone 0 false) _).1⟩
  have hports : (s.cx.parkedAtHalt.advance s.lastWord).ports = Vector.replicate 4 none := hkept Context.ports fun _ => rfl
  rw [hports, vget, dif_pos hj]
  exact Vector.getElem_replicate hj

/-- A U context that gives way is as one that goes on, but for its slot. -/
theorem yield_gives_way (s : State) (slot : SlotState) : let t := s.retire.modCx (fun c => { c with slot := slot })
    s.OnlyContext t s.cur ∧ s.Retired s.cx t ∧ s.cx.Keeps { t.cx with slot := s.cx.slot } [] [] [] ∧ t.cx.slot = slot := by
  have hcx : (s.retire.modCx (fun c => { c with slot := slot })).cx = { s.cx.advance s.lastWord with slot := slot } := by
    rw [State.cx_modCx, State.cx_retire]
  have hslot : (s.cx.advance s.lastWord).slot = s.cx.slot := Context.kept_advance Context.slot (fun _ => rfl) ..
  have hback : { s.cx.advance s.lastWord with slot := s.cx.slot } = s.cx.advance s.lastWord := by rw [← hslot]
  obtain ⟨-, hkeeps, hretired⟩ := from_retire s
  rw [State.cx_retire] at hkeeps
  rw [State.Retired, State.cx_retire] at hretired
  refine ⟨?_, ?_, ?_, ?_⟩
  · exact ⟨fun j h => (State.getCtx_modCx_ne s.retire j _ h).trans (State.getCtx_retire_ne s j h), ⟨fun _ => rfl, fun _ _ => rfl⟩, rfl⟩
  · rw [State.Retired, hcx]
    exact hretired
  · rw [hcx]
    rwa [← hback] at hkeeps
  · rw [hcx]

/-- Settles O35: the S context parks (`halt_parks`); a U context that yields goes on, but for its slot where it gives way (`yield_gives_way`). -/
theorem yieldAndSupervisorHalt : Obligations.YieldAndSupervisorHalt := by
  unfold Obligations.YieldAndSupervisorHalt
  intro s
  obtain ⟨m, he, hgives, hgoes, hill⟩ := exec_yield_run s
  refine ⟨fun hsuper hf hq => halt_parks hsuper hf hq, fun hf hsuper => ?_, fun hf huser hslot => ?_, fun hf => traps_of_error he (hill hf) (by decide) (by decide)⟩
  · have hnot : ¬ s.givesWay := by
      rintro ⟨huser, -⟩
      exact Mode.noConfusion (hsuper.symm.trans huser)
    exact ⟨_, plain_retire _ s (he.trans (finish_ok _ _ _ (hgoes hf hnot)))⟩
  · by_cases hway : 4 ≤ s.held s.coreNum ∧ s.yieldWork s.cx.rgn s.coreNum = true
    · rw [if_pos hway]
      exact ⟨_, he.trans (finish_ok _ _ _ (hgives hf ⟨huser, hway⟩)), yield_gives_way s .parkedReady⟩
    · rw [if_neg hway]
      have hnot : ¬ s.givesWay := fun ⟨_, h⟩ => hway h
      obtain ⟨hexec, honly, hkeeps, hretired⟩ := plain_retire _ s (he.trans (finish_ok _ _ _ (hgoes hf hnot)))
      have hkept : s.retire.cx.slot = s.cx.slot := by
        rw [State.cx_retire]
        exact Context.kept_advance Context.slot (fun _ => rfl) ..
      have hback : { s.retire.cx with slot := s.cx.slot } = s.retire.cx := by rw [← hkept]
      rw [← hback] at hkeeps
      exact ⟨_, hexec, honly, hretired, hkeeps, hkept.trans hslot⟩

end Sys2Proof.Claims
end

section
/-! SUPPORT. Computations that leave the lanes: accesses of a context change of it at most logical times and control registers (spec 10 R217; 11 R221). -/

namespace Sys2Proof.Machine
open Sys2Proof.Claims

/-- A computation leaves the running context its registers, ports and mode, whatever it answers. -/
def LeavesLanes {α : Type} (m : Exec α) : Prop := ∀ s : State, s.LanesUndisturbed (m s).2

theorem LeavesLanes.of_state {α : Type} {m : Exec α} (h : ∀ s, (m s).2 = s) : LeavesLanes m := fun s => by
  rw [h s]
  exact (State.Undisturbed.refl s).lanes
theorem leavesLanes_pure {α : Type} (a : α) : LeavesLanes (pure a) := .of_state fun _ => rfl
theorem leavesLanes_throw {α : Type} (e : Stop) : LeavesLanes (throw e : Exec α) := .of_state fun _ => rfl
theorem LeavesLanes.bind {α β : Type} {m : Exec α} {f : α → Exec β} (hm : LeavesLanes m) (hf : ∀ a, LeavesLanes (f a)) : LeavesLanes (m >>= f) := fun s => by
  have hstep := hm s
  rw [Exec.bind_run]
  rcases hms : m s with ⟨_ | a, t⟩ <;> rw [hms] at hstep
  · exact hstep
  · exact hstep.trans (hf a t)
theorem LeavesLanes.mapM {α β : Type} {f : α → Exec β} (hf : ∀ a, LeavesLanes (f a)) (l : List α) : LeavesLanes (l.mapM f) := by
  induction l with
  | nil => exact leavesLanes_pure []
  | cons a l ih =>
    rw [List.mapM_cons]
    exact (hf a).bind fun _ => ih.bind fun _ => leavesLanes_pure _

theorem leavesLanes_guardPlane (p : Place) (write : Bool) : LeavesLanes (guardPlane p write) := .of_state fun s => by
  rw [guardPlane, Exec.bind_ok (Exec.get_run s)]
  split
  · rfl
  · split
    · cases s.frameDue p <;> rfl
    · rfl
theorem leavesLanes_tryTranslate (va : Dword) (acc : Access) (n : Nat) : LeavesLanes (tryTranslate va acc n) := fun _ =>
  (State.undisturbed_translate rfl).lanes
theorem leavesLanes_translateT (va : Dword) (acc : Access) (n : Nat) : LeavesLanes (translateT va acc n) := by
  refine (leavesLanes_tryTranslate va acc n).bind fun r => ?_
  rcases r with c | p
  · exact leavesLanes_throw _
  · exact (leavesLanes_guardPlane p _).bind fun _ => leavesLanes_pure p
theorem leavesLanes_waitSpWords (p : Place) (n : Nat) : LeavesLanes (waitSpWords p n) := .of_state fun s => by
  rw [waitSpWords, Exec.bind_ok (Exec.get_run s)]
  repeat' split
  all_goals rfl
theorem leavesLanes_loadE (p : Place) (n : Nat) : LeavesLanes (loadE p n) := fun s => s.lanesUndisturbed_loadAt s.cur p n

theorem leavesLanes_soundPlaces (l : List (Dword × Except Byte Place)) : LeavesLanes (soundPlaces l) := .of_state fun s => by
  obtain ⟨r, hr⟩ := soundPlaces_state l s
  rw [hr]
theorem leavesLanes_placesT (vas : List Dword) (acc : Access) (n : Nat) : LeavesLanes (placesT vas acc n) := by
  refine LeavesLanes.bind (LeavesLanes.bind ?_ fun l => leavesLanes_soundPlaces l) fun ps => ?_
  · exact .mapM (fun va => (leavesLanes_tryTranslate va acc n).bind fun r => leavesLanes_pure (va, r)) vas
  · exact (LeavesLanes.mapM (fun p => leavesLanes_guardPlane p acc.writes) ps).bind fun _ => leavesLanes_pure ps

/-- A load of words that the scratchpad may hold back. -/
theorem leavesLanes_wordAt (p : Place) (n : Nat) : LeavesLanes (waitSpWords p n >>= fun _ => loadE p n) :=
  (leavesLanes_waitSpWords p n).bind fun _ => leavesLanes_loadE p n

theorem leavesLanes_loadDwords (k : Nat) (va : Dword) : LeavesLanes (loadDwords k va) := by
  induction k generalizing va with
  | zero => exact leavesLanes_pure _
  | succ k ih =>
    refine (leavesLanes_translateT va .load 8).bind fun p => (leavesLanes_waitSpWords p 8).bind fun _ => (leavesLanes_loadE p 8).bind fun x => ?_
    exact (ih (va + 8)).bind fun r => leavesLanes_pure _

theorem leavesLanes_loadBarRecord (va : Dword) : LeavesLanes (loadBarRecord va) :=
  (leavesLanes_placesT _ .load 8).bind fun ps => (LeavesLanes.mapM (fun p => leavesLanes_wordAt p 8) ps).bind fun _ =>
    (leavesLanes_loadDwords _ _).bind fun _ => leavesLanes_pure _

/-- Which firing runs does not change. -/
theorem LeavesLanes.firing_eq {α : Type} {m : Exec α} (hm : LeavesLanes m) {s u : State} {r : Except Stop α} (h : m s = (r, u)) : u.cx.firing = s.cx.firing := by
  have hsame := hm s
  rw [h] at hsame
  obtain ⟨-, -, hcx⟩ := hsame
  exact (congrArg Context.firing hcx :)

end Sys2Proof.Machine
end

section
/-! Barriers and chains (spec 06 R137 to R139; 08 R197 to R201), and the settling of O40. -/

namespace Sys2Proof.Machine
open Sys2Proof.Claims

/-! ### A barrier of a region -/

/-- A change of a barrier turns on what it makes of the barrier that is there. -/
theorem State.modBarrier_congr {s : State} {rcb n : Nat} {f g : Barrier → Barrier} (h : f (s.barrier rcb n) = g (s.barrier rcb n)) :
    s.modBarrier rcb n f = s.modBarrier rcb n g := by
  unfold State.barrier at h
  unfold State.modBarrier State.modRegion
  cases hr : s.getRegion? rcb with
  | none => rfl
  | some r =>
    rw [hr] at h
    exact congrArg (fun b => s.setRegion rcb { r with barriers := kset r.barriers n b }) h

theorem State.barrier_modBarrier_self {s : State} {rcb : Nat} (h : (s.getRegion? rcb).isSome = true) (n : Nat) (f : Barrier → Barrier) :
    (s.modBarrier rcb n f).barrier rcb n = f (s.barrier rcb n) := by
  obtain ⟨r, hr⟩ := Option.isSome_iff_exists.1 h
  have hmod : s.modBarrier rcb n f = s.setRegion rcb { r with barriers := kset r.barriers n (f (kgetD r.barriers n Barrier.reset)) } := by
    rw [State.modBarrier, State.modRegion, hr]
  rw [hmod, State.barrier, State.getRegion_setRegion_self, State.barrier, hr]
  exact kgetD_kset_self ..

theorem State.modBarrier_modCx (s : State) (rcb n : Nat) (f : Context → Context) (g : Barrier → Barrier) :
    (s.modCx f).modBarrier rcb n g = (s.modBarrier rcb n g).modCx f := s.modRegion_modCx ..
@[simp] theorem State.cx_modBarrier (s : State) (rcb n : Nat) (g : Barrier → Barrier) : (s.modBarrier rcb n g).cx = s.cx := s.cx_modRegion ..

/-- A barrier with members is one of a region that exists. -/
theorem State.region_of_member {s : State} {rcb n m : Nat} (h : m ∈ (s.barrier rcb n).members) : (s.getRegion? rcb).isSome = true := by
  unfold State.barrier at h
  cases hr : s.getRegion? rcb with
  | none =>
    rw [hr] at h
    exact absurd h List.not_mem_nil
  | some r => rfl

theorem Barrier.members_arrive (b : Barrier) (core lt : Nat) : (b.arrive core lt).members = b.members := by unfold Barrier.arrive; dsimp only; split <;> rfl
theorem Barrier.partials_arrive (b : Barrier) (core lt : Nat) : (b.arrive core lt).partials = b.partials := by unfold Barrier.arrive; dsimp only; split <;> rfl

/-! ### Arrivals (R137, R197, R199) -/

/-- The running context arrived at a barrier. -/
def State.arrivedAt (s : State) (n : Nat) : State :=
  (s.modBarrier s.cx.rgn n (fun b => b.arrive s.coreNum s.cx.lt)).modCx (fun c => { c with arrivals := kset c.arrivals n (s.barrier s.cx.rgn n).phase })

theorem guardArrival_passes {s : State} {a : Reg} {chain : Bool} (hf : s.cx.firing = none)
    (hmem : s.coreNum ∈ (s.barrier s.cx.rgn (barrierOf (s.cx.s a))).members)
    (hone : chain = true → (s.barrier s.cx.rgn (barrierOf (s.cx.s a))).perCore = 1) (hp : s.cx.sp a = false) :
    guardArrival a chain s = (.ok (barrierOf (s.cx.s a)), s) := by
  have hunt : guardUntimed s = (.ok (), s) := by rw [guardUntimed_run, hf]; rfl
  have hcheck : ((s.barrier s.cx.rgn (barrierOf (s.cx.s a))).members.contains s.coreNum &&
      (!chain || (s.barrier s.cx.rgn (barrierOf (s.cx.s a))).perCore == 1)) = true := by
    rw [List.contains_iff_mem.2 hmem]
    cases chain
    · rfl
    · rw [hone rfl]; rfl
  rw [guardArrival, Exec.bind_ok (Exec.get_run s), Exec.bind_ok hunt, hcheck, Exec.bind_ok (guardTrap_true ..), hp, Exec.bind_ok (guardPoison_false s)]
  rfl

theorem arriveE_run (n : Nat) (s : State) : arriveE n s =
    if (s.barrier s.cx.rgn n).perCore ≤ kgetD (s.barrier s.cx.rgn n).arrived s.coreNum 0 then (.error (.wait (.room n)), s)
    else (.ok (s.barrier s.cx.rgn n).phase, s.arrivedAt n) := by
  rw [arriveE, Exec.bind_ok (Exec.get_run s)]
  dsimp only
  split <;> rfl

/-! ### `bar.wait` (R200) -/

theorem exec_barWait_run {s : State} {a : Reg} (hf : s.cx.firing = none) (hp : s.cx.sp a = false) : ∃ m, exec (.barWait a) s = finish m s ∧
    (kget s.cx.arrivals (barrierOf (s.cx.s a)) = none → m s = (.ok (), s.retire)) ∧
    ∀ ph, kget s.cx.arrivals (barrierOf (s.cx.s a)) = some ph → m s =
      if (s.barrier s.cx.rgn (barrierOf (s.cx.s a))).phase = ph then (.error (.wait (.phase (barrierOf (s.cx.s a)))), s)
      else (.ok (), (s.setCx (s.cx.lifted (s.barrier s.cx.rgn (barrierOf (s.cx.s a))).phaseLt)).retire) := by
  have hunt : guardUntimed s = (.ok (), s) := by rw [guardUntimed_run, hf]; rfl
  refine ⟨_, rfl, fun h => ?_, fun ph h => ?_⟩
  · rw [Exec.bind_ok hunt, Exec.bind_ok (Exec.get_run s), hp, Exec.bind_ok (guardPoison_false s)]
    dsimp only
    rw [h]
    rfl
  · rw [Exec.bind_ok hunt, Exec.bind_ok (Exec.get_run s), hp, Exec.bind_ok (guardPoison_false s)]
    dsimp only
    rw [h]
    dsimp only
    split <;> rfl

/-! ### `bar.cfg` (R198) -/

theorem Context.poisonIf_setS (c : Context) (d : Reg) (v : Dword) (p b : Bool) : (c.setS d v p).poisonIf b = (c.poisonIf b).setS d v p := by
  cases b
  · rfl
  · unfold Context.setS
    split <;> rfl
theorem Context.addFlags_setS (c : Context) (d : Reg) (v : Dword) (p : Bool) (f : FpFlags) : (c.setS d v p).addFlags f = (c.addFlags f).setS d v p := by
  unfold Context.setS
  split <;> rfl

/-- The barrier that a configuration record installs. -/
def Barrier.configured (x : Barrier) (h : BarRecord) (ws : List Nat) : Barrier :=
  { x with members := h.members ws, perCore := h.c, op := h.op, ty := h.ty }

/-- `bar.cfg` answers where it installs nothing; a poisoned record is consumed. -/
def State.refusesBarrier (w : State) (d : Reg) (v : Dword) (bad : Bool) : State := (w.modCx (fun c => c.poisonIf bad)).modCx (fun c => c.setS d v false)

theorem State.refusesBarrier_eq (w : State) (d : Reg) (v : Dword) (bad : Bool) :
    w.modCx (fun c => (c.setS d v false).poisonIf bad) = w.refusesBarrier d v bad :=
  (State.modCx_congr (Context.poisonIf_setS ..)).trans (State.modCx_modCx ..).symm

theorem exec_barCfg_run {s w : State} {a b : Reg} {h : BarRecord} {ws : List Nat} {bad : Bool} {r : Region} (d : Reg) (hf : s.cx.firing = none)
    (halign : (s.cx.s b).extractLsb' 0 3 = 0) (hload : loadBarRecord (s.cx.s b) s = (.ok (h, ws, bad), w)) (ha : s.cx.sp a = false)
    (hb : s.cx.sp b = false) (hr : s.getRegion? s.cx.rgn = some r) : ∃ m, exec (.barCfg d a b) s = finish m s ∧ m s =
      if (s.barrier s.cx.rgn (barrierOf (s.cx.s a))).arrived ≠ [] then (.ok (), (w.refusesBarrier d 1 bad).retire)
      else if bad || !s.barOk r h (h.members ws) then (.ok (), (w.refusesBarrier d 2 bad).retire)
      else (.ok (), ((w.modBarrier s.cx.rgn (barrierOf (s.cx.s a)) (fun x => x.configured h ws)).modCx (fun c => c.setS d 0 false)).retire) := by
  have hunt : guardUntimed w = (.ok (), w) := by
    rw [guardUntimed_run, (leavesLanes_loadBarRecord _).firing_eq hload, hf]
    rfl
  have hcheck : ((s.cx.s b).extractLsb' 0 3 == 0) = true := by rw [halign]; rfl
  refine ⟨_, rfl, ?_⟩
  rw [Exec.bind_ok (Exec.get_run s), hcheck, Exec.bind_ok (guardTrap_true ..), Exec.bind_ok hload]
  dsimp only
  rw [Exec.bind_ok hunt, ha, hb, Bool.or_self, Exec.bind_ok (guardPoison_false w), hr]
  rw [← State.refusesBarrier_eq, ← State.refusesBarrier_eq]
  dsimp only
  split
  · rfl
  · split <;> rfl

/-! ### Chains (R139, R201) -/

/-- A barrier once a partial of a phase has been forwarded to the next member of its chain, where there is one. -/
def Barrier.forwarded (b : Barrier) (next : Option Nat) (ph : BitVec 32) (v : Dword) (p : Bool) (lt : Nat) : Barrier :=
  match next with
  | none => b
  | some m => { b with partials := kset b.partials (partialKey m ph) (ph, v, p, lt) }

/-- The state once a member's result has been forwarded: by the chain that it joined, and by the barrier as it is now. -/
def State.forwarded (s : State) (n : Nat) (ch : Chain) (ph : BitVec 32) (v : Dword) (p : Bool) (lt : Nat) : State :=
  s.modBarrier s.cx.rgn n (fun b => b.forwarded ch.next ph v p lt)
def State.forwards (s : State) (rcb n core : Nat) (ph : BitVec 32) (v : Dword) (p : Bool) (lt : Nat) : State :=
  s.modBarrier rcb n (fun b => b.forwarded (b.next core) ph v p lt)

theorem State.forwarded_eq {s : State} {n core : Nat} {ch : Chain} (h : (s.barrier s.cx.rgn n).next core = ch.next) (ph : BitVec 32) (v : Dword)
    (p : Bool) (lt : Nat) : s.forwarded n ch ph v p lt = s.forwards s.cx.rgn n core ph v p lt := State.modBarrier_congr (by rw [h])

theorem chainResult_run (n : Nat) (d : Reg) (ph : BitVec 32) (ch : Chain) (v : Dword) (p : Bool) (fl : FpFlags) (s : State) :
    chainResult n d ph ch v p fl s = (.ok (), ((s.forwarded n ch ph v p s.cx.lt).modCx (fun c => (c.addFlags fl).setS d v p)).retire) := by
  rw [chainResult, Exec.bind_ok (Exec.modify_run ..), Exec.bind_ok (modCx_run ..), retireE_run]
  exact congrArg (fun t : State => ((.ok (), t.retire) : Except Stop Unit × State)) (State.modCx_congr (Context.addFlags_setS ..))

/-- The state once a member has taken its predecessor's partial. -/
def State.partialTaken (s : State) (rcb n core : Nat) (ph : BitVec 32) : State :=
  s.modBarrier rcb n (fun b => { b with partials := kdel b.partials (partialKey core ph) })

/-- The state of a later member once it has taken its predecessor's partial, with the logical time of that. -/
def State.partialLifted (s : State) (n : Nat) (ph : BitVec 32) (lt : Nat) : State :=
  (s.partialTaken s.cx.rgn n s.coreNum ph).modCx (fun c => c.lifted lt)

theorem chainTake_none {n : Nat} {s : State} {ph : BitVec 32} (h : kget (s.barrier s.cx.rgn n).partials (partialKey s.coreNum ph) = none) (d : Reg)
    (own : Dword) (pois : Bool) (ch : Chain) : chainTake n d own pois ph ch s = (.ok (), s.beginWait (.chain n d own pois ph ch)) := by
  rw [chainTake, Exec.bind_ok (Exec.get_run s)]
  dsimp only
  rw [h]
  rfl

theorem chainTake_some {n : Nat} {s : State} {ph : BitVec 32} {x : BitVec 32 × Dword × Bool × Nat}
    (h : kget (s.barrier s.cx.rgn n).partials (partialKey s.coreNum ph) = some x) (d : Reg) (own : Dword) (pois : Bool) (ch : Chain) :
    chainTake n d own pois ph ch s =
      chainResult n d ph ch (chainOp ch.ty ch.op x.2.1 own).1 (x.2.2.1 || pois) (chainOp ch.ty ch.op x.2.1 own).2
        (s.partialLifted n ph x.2.2.2) := by
  obtain ⟨ph', v, p, lt⟩ := x
  rw [chainTake, Exec.bind_ok (Exec.get_run s)]
  dsimp only
  rw [h]
  dsimp only
  rw [Exec.bind_ok (Exec.modify_run ..), Exec.bind_ok (modCx_run ..)]
  rfl

theorem anyBefore_iff {ms : List Nat} {core : Nat} : ms.any (fun m => decide (m < core)) = true ↔ ∃ m ∈ ms, m < core := by simp

theorem State.barrier_arrivedAt {s : State} {n : Nat} (h : s.coreNum ∈ (s.barrier s.cx.rgn n).members) :
    (s.arrivedAt n).barrier s.cx.rgn n = (s.barrier s.cx.rgn n).arrive s.coreNum s.cx.lt :=
  State.barrier_modBarrier_self (State.region_of_member h) n _
@[simp] theorem State.rgn_arrivedAt (s : State) (n : Nat) : (s.arrivedAt n).cx.rgn = s.cx.rgn := by
  rw [State.arrivedAt, State.cx_modCx, State.cx_modBarrier]
  rfl
@[simp] theorem State.lt_arrivedAt (s : State) (n : Nat) : (s.arrivedAt n).cx.lt = s.cx.lt := by rw [State.arrivedAt, State.cx_modCx, State.cx_modBarrier]
@[simp] theorem State.coreNum_modRegion (s : State) (q : Nat) (f : Region → Region) : (s.modRegion q f).coreNum = s.coreNum := by
  unfold State.modRegion; split <;> rfl
@[simp] theorem State.coreNum_arrivedAt (s : State) (n : Nat) : (s.arrivedAt n).coreNum = s.coreNum := s.coreNum_modRegion ..

/-- An arrival leaves the partials of the chain, and who its next member is. -/
theorem State.partials_arrivedAt {s : State} {n : Nat} (h : s.coreNum ∈ (s.barrier s.cx.rgn n).members) :
    ((s.arrivedAt n).barrier s.cx.rgn n).partials = (s.barrier s.cx.rgn n).partials := by
  rw [State.barrier_arrivedAt h, Barrier.partials_arrive]
theorem State.next_arrivedAt {s : State} {n : Nat} (h : s.coreNum ∈ (s.barrier s.cx.rgn n).members) (core : Nat) :
    ((s.arrivedAt n).barrier s.cx.rgn n).next core = (s.barrier s.cx.rgn n).next core := by
  rw [State.barrier_arrivedAt h, Barrier.next, Barrier.members_arrive, Barrier.next]
theorem State.region_arrivedAt {s : State} {n : Nat} (h : s.coreNum ∈ (s.barrier s.cx.rgn n).members) :
    ((s.arrivedAt n).getRegion? s.cx.rgn).isSome = true := by
  refine State.region_of_member (n := n) (m := s.coreNum) ?_
  rw [State.barrier_arrivedAt h, Barrier.members_arrive]
  exact h

theorem State.rgn_partialLifted (s : State) (n : Nat) (ph : BitVec 32) (lt : Nat) : (s.partialLifted n ph lt).cx.rgn = s.cx.rgn := by
  rw [State.partialLifted, State.cx_modCx, State.partialTaken, State.cx_modBarrier]
  rfl
theorem State.lt_partialLifted (s : State) (n : Nat) (ph : BitVec 32) (lt : Nat) : (s.partialLifted n ph lt).cx.lt = max s.cx.lt lt := by
  rw [State.partialLifted, State.cx_modCx, State.partialTaken, State.cx_modBarrier]
  rfl
theorem State.next_partialLifted {s : State} (h : (s.getRegion? s.cx.rgn).isSome = true) (n : Nat) (ph : BitVec 32) (lt core : Nat) :
    ((s.partialLifted n ph lt).barrier s.cx.rgn n).next core = (s.barrier s.cx.rgn n).next core := by
  have hbarrier : (s.partialLifted n ph lt).barrier s.cx.rgn n =
      { s.barrier s.cx.rgn n with partials := kdel (s.barrier s.cx.rgn n).partials (partialKey s.coreNum ph) } :=
    State.barrier_modBarrier_self h n (fun b => { b with partials := kdel b.partials (partialKey s.coreNum ph) })
  rw [hbarrier]
  rfl
theorem State.forwards_partialLifted (s : State) (n : Nat) (ph ph' : BitVec 32) (lt lt' rcb core : Nat) (v : Dword) (p : Bool) :
    (s.partialLifted n ph lt).forwards rcb n core ph' v p lt' =
      ((s.partialTaken s.cx.rgn n s.coreNum ph).forwards rcb n core ph' v p lt').modCx (fun c => c.lifted lt) :=
  State.modBarrier_modCx ..

theorem exec_chred_run {s : State} {a b : Reg} (d : Reg) (hf : s.cx.firing = none) (hp : s.cx.sp b = false) (hw : s.cx.wait = none)
    (hmem : s.coreNum ∈ (s.barrier s.cx.rgn (barrierOf (s.cx.s b))).members) (hone : (s.barrier s.cx.rgn (barrierOf (s.cx.s b))).perCore = 1)
    (hfirst : kgetD (s.barrier s.cx.rgn (barrierOf (s.cx.s b))).arrived s.coreNum 0 = 0) : ∃ m, exec (.chred d a b) s = finish m s ∧ m s =
    if (s.barrier s.cx.rgn (barrierOf (s.cx.s b))).members.any (fun m => decide (m < s.coreNum)) then
      chainTake (barrierOf (s.cx.s b)) d (s.cx.s a) (s.cx.sp a) (s.barrier s.cx.rgn (barrierOf (s.cx.s b))).phase
        ((s.barrier s.cx.rgn (barrierOf (s.cx.s b))).chainOf s.coreNum) (s.arrivedAt (barrierOf (s.cx.s b)))
    else chainResult (barrierOf (s.cx.s b)) d (s.barrier s.cx.rgn (barrierOf (s.cx.s b))).phase
        ((s.barrier s.cx.rgn (barrierOf (s.cx.s b))).chainOf s.coreNum)
        (chainFirst (s.barrier s.cx.rgn (barrierOf (s.cx.s b))).ty (s.cx.s a)) (s.cx.sp a) 0 (s.arrivedAt (barrierOf (s.cx.s b))) := by
  have hroom : ¬ (s.barrier s.cx.rgn (barrierOf (s.cx.s b))).perCore ≤ kgetD (s.barrier s.cx.rgn (barrierOf (s.cx.s b))).arrived s.coreNum 0 := by
    rw [hone, hfirst]
    decide
  have harrive := arriveE_run (barrierOf (s.cx.s b)) s
  rw [if_neg hroom] at harrive
  refine ⟨_, rfl, ?_⟩
  rw [Exec.bind_ok (cx_run s), hw]
  dsimp only [Option.map]
  rw [Exec.bind_ok (guardArrival_passes hf hmem (fun _ => hone) hp), Exec.bind_ok (Exec.get_run s), Exec.bind_ok harrive]
  split <;> rfl

/-- The first member of an f32 chain gives the low word of its value. -/
theorem chainFirst_eq (ty : Nat) (x : Dword) : chainFirst ty x = if ty = 2 then x &&& 0xFFFF_FFFF else x := by
  unfold chainFirst
  split
  · refine BitVec.eq_of_toNat_eq ?_
    rw [BitVec.toNat_and]
    have hlow := Nat.and_two_pow_sub_one_eq_mod x.toNat 32
    simp at hlow ⊢
    omega
  · rfl

end Sys2Proof.Machine

namespace Sys2Proof.Claims
open Sys2Proof.Machine

section
variable {s : State} {d a b : Reg}

theorem barArr_goes (hf : s.cx.firing = none) (hp : s.cx.sp a = false)
    (hmem : s.coreNum ∈ (s.barrier s.cx.rgn (barrierOf (s.cx.s a))).members) : ∃ m, exec (.barArr d a) s = finish m s ∧
    m s = if (s.barrier s.cx.rgn (barrierOf (s.cx.s a))).perCore ≤ kgetD (s.barrier s.cx.rgn (barrierOf (s.cx.s a))).arrived s.coreNum 0 then
        (.error (.wait (.room (barrierOf (s.cx.s a)))), s)
      else (.ok (), ((s.arrivedAt (barrierOf (s.cx.s a))).modCx (fun c =>
        c.setS d (BitVec.setWidth 64 (s.barrier s.cx.rgn (barrierOf (s.cx.s a))).phase) false)).retire) := by
  refine ⟨_, rfl, ?_⟩
  rw [Exec.bind_ok (guardArrival_passes hf hmem (fun h => Bool.noConfusion h) hp), Exec.bind_run, arriveE_run]
  split <;> rfl

end

section
variable {s : State} {d a b : Reg} (hf : s.cx.firing = none) (hp : s.cx.sp b = false) (hw : s.cx.wait = none)
  (hmem : s.coreNum ∈ (s.barrier s.cx.rgn (barrierOf (s.cx.s b))).members) (hone : (s.barrier s.cx.rgn (barrierOf (s.cx.s b))).perCore = 1)
  (hzero : kgetD (s.barrier s.cx.rgn (barrierOf (s.cx.s b))).arrived s.coreNum 0 = 0)
include hf hp hw hmem hone hzero

/-- The first member forwards and answers its own value. -/
theorem chred_first (hfirst : ∀ m ∈ (s.barrier s.cx.rgn (barrierOf (s.cx.s b))).members, s.coreNum ≤ m) : ∃ t, exec (.chred d a b) s = .next t ∧
    From ((s.arrivedAt (barrierOf (s.cx.s b))).forwards s.cx.rgn (barrierOf (s.cx.s b)) s.coreNum (s.barrier s.cx.rgn (barrierOf (s.cx.s b))).phase
      (chainFirst (s.barrier s.cx.rgn (barrierOf (s.cx.s b))).ty (s.cx.s a)) (s.cx.sp a) s.cx.lt) t [d] [] [] ∧
    Holds t.cx d (chainFirst (s.barrier s.cx.rgn (barrierOf (s.cx.s b))).ty (s.cx.s a)) (s.cx.sp a) := by
  obtain ⟨m, he, hm⟩ := exec_chred_run (a := a) d hf hp hw hmem hone hzero
  have hnone : ¬ (s.barrier s.cx.rgn (barrierOf (s.cx.s b))).members.any (fun m => decide (m < s.coreNum)) = true := by
    rw [anyBefore_iff]
    rintro ⟨m, hm, hlt⟩
    exact Nat.not_lt.2 (hfirst m hm) hlt
  have hnext := State.next_arrivedAt hmem s.coreNum
  rw [if_neg hnone, chainResult_run, State.forwarded_eq (core := s.coreNum) (by rwa [s.rgn_arrivedAt]), s.rgn_arrivedAt, s.lt_arrivedAt] at hm
  refine goes_on_setS he (hm.trans ?_)
  simp only [Context.addFlags_zero]

/-- A later member takes its predecessor's partial; it forwards and answers the combination. -/
theorem chred_later (hlater : ∃ m ∈ (s.barrier s.cx.rgn (barrierOf (s.cx.s b))).members, m < s.coreNum) {x : BitVec 32 × Dword × Bool × Nat}
    (hx : kget (s.barrier s.cx.rgn (barrierOf (s.cx.s b))).partials (partialKey s.coreNum (s.barrier s.cx.rgn (barrierOf (s.cx.s b))).phase) = some x)
    {v : Dword × FpFlags} (hv : chainOp (s.barrier s.cx.rgn (barrierOf (s.cx.s b))).ty (s.barrier s.cx.rgn (barrierOf (s.cx.s b))).op x.2.1 (s.cx.s a) = v) :
    ∃ t, exec (.chred d a b) s = .next t ∧
    From ((((s.arrivedAt (barrierOf (s.cx.s b))).partialTaken s.cx.rgn (barrierOf (s.cx.s b)) s.coreNum (s.barrier s.cx.rgn (barrierOf (s.cx.s b))).phase).forwards
      s.cx.rgn (barrierOf (s.cx.s b)) s.coreNum (s.barrier s.cx.rgn (barrierOf (s.cx.s b))).phase v.1 (x.2.2.1 || s.cx.sp a) (max s.cx.lt x.2.2.2)).modCx
        (fun c => (c.lifted x.2.2.2).addFlags v.2)) t [d] [] [] ∧
    Holds t.cx d v.1 (x.2.2.1 || s.cx.sp a) := by
  obtain ⟨m, he, hm⟩ := exec_chred_run (a := a) d hf hp hw hmem hone hzero
  rw [if_pos (anyBefore_iff.2 hlater), chainTake_some (x := x)] at hm
  · have hregion : ((s.arrivedAt (barrierOf (s.cx.s b))).getRegion? (s.arrivedAt (barrierOf (s.cx.s b))).cx.rgn).isSome = true := by
      rw [s.rgn_arrivedAt]
      exact State.region_arrivedAt hmem
    rw [chainResult_run, State.forwarded_eq (core := s.coreNum), State.rgn_partialLifted, State.lt_partialLifted, State.forwards_partialLifted,
      s.rgn_arrivedAt, s.lt_arrivedAt, s.coreNum_arrivedAt, State.modCx_modCx, ← State.modCx_modCx _ _ (fun c => c.setS d _ _)] at hm
    · subst hv
      exact goes_on_setS he hm
    · rw [State.rgn_partialLifted, State.next_partialLifted hregion, s.rgn_arrivedAt]
      exact State.next_arrivedAt hmem s.coreNum
  · rw [s.rgn_arrivedAt, s.coreNum_arrivedAt, State.partials_arrivedAt hmem]
    exact hx

/-- A later member waits for its predecessor's partial. -/
theorem chred_waits (hlater : ∃ m ∈ (s.barrier s.cx.rgn (barrierOf (s.cx.s b))).members, m < s.coreNum)
    (hx : kget (s.barrier s.cx.rgn (barrierOf (s.cx.s b))).partials (partialKey s.coreNum (s.barrier s.cx.rgn (barrierOf (s.cx.s b))).phase) = none) :
    exec (.chred d a b) s = .next ((s.arrivedAt (barrierOf (s.cx.s b))).beginWait (.chain (barrierOf (s.cx.s b)) d (s.cx.s a) (s.cx.sp a)
      (s.barrier s.cx.rgn (barrierOf (s.cx.s b))).phase ((s.barrier s.cx.rgn (barrierOf (s.cx.s b))).chainOf s.coreNum))) := by
  obtain ⟨m, he, hm⟩ := exec_chred_run (a := a) d hf hp hw hmem hone hzero
  rw [if_pos (anyBefore_iff.2 hlater), chainTake_none] at hm
  · exact he.trans (finish_ok _ _ _ hm)
  · rw [s.rgn_arrivedAt, s.coreNum_arrivedAt, State.partials_arrivedAt hmem]
    exact hx

end

/-- Settles O40: an arrival is `arriveE_run`; a member of a chain forwards and answers its own value (`chred_first`) or the combination with its predecessor's
(`chred_later`). -/
theorem barriersAndChains : Obligations.BarriersAndChains := by
  unfold Obligations.BarriersAndChains
  intro s hf
  refine ⟨fun d a hp hmem => ⟨fun hroom => ?_, fun hfull => ?_⟩, fun a hp => ⟨fun h => ?_, fun ph h hover => ?_, fun h => ?_⟩,
    fun d a b h ws bad w r halign hload ha hb hr => ⟨fun h => ?_, fun hnone hbad => ?_, fun hnone hok => ?_⟩,
    fun d a b hp hw hmem hone hzero => ⟨fun hfirst => ?_, fun hlater => ⟨fun ph x p lt hx => ?_, fun hx => ?_⟩⟩⟩
  · obtain ⟨m, he, hm⟩ := barArr_goes (d := d) hf hp hmem
    exact goes_on_setS he (hm.trans (if_neg (Nat.not_le.2 hroom)))
  · obtain ⟨m, he, hm⟩ := barArr_goes (d := d) hf hp hmem
    exact waits_of_error he (hm.trans (if_pos hfull))
  · obtain ⟨m, he, hm, -⟩ := exec_barWait_run hf hp
    exact ⟨_, plain_retire _ s (he.trans (finish_ok _ _ _ (hm h)))⟩
  · obtain ⟨m, he, -, hm⟩ := exec_barWait_run hf hp
    exact ⟨_, plainFrom_of_keeps he ((hm ph h).trans (if_neg hover)) (Context.Keeps.refl _) rfl⟩
  · obtain ⟨m, he, -, hm⟩ := exec_barWait_run hf hp
    exact waits_of_error he ((hm _ h).trans (if_pos rfl))
  · obtain ⟨m, he, hm⟩ := exec_barCfg_run d hf halign hload ha hb hr
    exact goes_on_setS he (hm.trans (if_pos h))
  · obtain ⟨m, he, hm⟩ := exec_barCfg_run d hf halign hload ha hb hr
    exact goes_on_setS he ((hm.trans (if_neg (not_not.2 hnone))).trans (if_pos hbad))
  · obtain ⟨m, he, hm⟩ := exec_barCfg_run d hf halign hload ha hb hr
    exact goes_on_setS he ((hm.trans (if_neg (not_not.2 hnone))).trans (if_neg (by rw [hok]; decide)))
  · rw [← chainFirst_eq]
    exact chred_first hf hp hw hmem hone hzero hfirst
  · exact chred_later hf hp hw hmem hone hzero hlater hx rfl
  · exact chred_waits hf hp hw hmem hone hzero hlater hx

end Sys2Proof.Claims
end

section
/-! `esend`, `defer`, `defer.n` and `kwait` (spec 07 R143, R146, R152, R154, R164, R167; 08 R177, R190, R193, R194), and the settling of O38. -/

namespace Sys2Proof.Machine
open Sys2Proof.Claims

/-! ### The dealer's accesses on the instruction's behalf (R148) -/

theorem afterDealer_run {s t : State} (h : t.faulted s.cx.rgn = s.faulted s.cx.rgn) : afterDealer t s = (.ok (), t) := by
  rw [afterDealer, Exec.bind_ok (Exec.get_run s), Exec.bind_ok (Exec.set_run ..), h, Bool.and_not_self]
  rfl

/-! ### An event sent (R164, R177, R190) -/

theorem sendEventE_ok {w : State} {l : Nat} (hroom : Room w true l) (h : Nat × Nat) (e : Event) :
    sendEventE (corePt h.1 h.2) e w = (.ok (), eventQueued w h l e) := by
  rw [sendEventE, Exec.bind_ok (sendRoom_ok hroom _), Exec.bind_ok (Exec.get_run w),
    Exec.bind_ok (Exec.modify_run ..), Exec.bind_ok (Exec.modify_run ..)]
  rfl

theorem State.firing_eventQueued (w : State) (h : Nat × Nat) (l : Nat) (e : Event) : (eventQueued w h l e).cx.firing = w.cx.firing := by
  unfold eventQueued
  dsimp only
  rw [State.cx_modCx]
  split <;> rfl

theorem advanceSerial_task {w : State} (hf : w.cx.firing = none) (serial : BitVec 32) :
    advanceSerial serial w = (.ok (), w.modCo (fun c => { c with serial := serial + 1 })) := by
  rw [advanceSerial, Exec.bind_ok (cx_run w), hf]
  rfl
theorem advanceSerial_firing {w : State} {f : Firing} (hf : w.cx.firing = some f) (serial : BitVec 32)
    (hsound : (w.dealerStore w.cx.rgn w.coreNum (f.desc + 0x1C) 4 (serial + 1).toNat false).faulted w.cx.rgn = w.faulted w.cx.rgn) :
    advanceSerial serial w = (.ok (), w.dealerStore w.cx.rgn w.coreNum (f.desc + 0x1C) 4 (serial + 1).toNat false) := by
  rw [advanceSerial, Exec.bind_ok (cx_run w), hf]
  exact (Exec.bind_ok (Exec.get_run w) _).trans (afterDealer_run hsound)

/-- What `esend` does once it has the source of its event. -/
def sendsFrom (s : State) (d a b : Reg) (h : Nat × Nat) (src : BitVec 48 × BitVec 32) : Exec Unit := do
  guardPoison (s.cx.sp d || s.cx.sp a)
  let c ← cx
  sendEventE (corePt h.1 h.2)
    { time := s.cx.s a, hix := (s.cx.s d).extractLsb' 48 16, dst := (s.cx.s d).extractLsb' 0 48, cancel := false, src := src.1, serial := src.2,
      payload := s.cx.block b, poison := s.cx.blockP b != 0, lt := c.lt }
  advanceSerial src.2
  retireE

theorem exec_esend_run {s u : State} {d a : Reg} (b : Reg) {h : Nat × Nat} (hhome : resolveHome ((s.cx.s d).extractLsb' 0 48) s = (.ok h, u)) :
    ∃ m, exec (.esend d a b) s = finish m s ∧ m s = (eventSource ((s.cx.s d).extractLsb' 0 48) (s.cx.s a) >>= sendsFrom s d a b h) u :=
  ⟨_, rfl, (Exec.bind_ok (cx_run s) _).trans ((Exec.bind_ok hhome _).trans rfl)⟩

theorem sendsFrom_ok {s w v : State} {d a b : Reg} {h : Nat × Nat} {src : BitVec 48 × BitVec 32} {l : Nat} (hd : s.cx.sp d = false) (ha : s.cx.sp a = false)
    (hroom : Room w true l) (hserial : advanceSerial src.2 (eventQueued w h l (eventOf s w d a b src)) = (.ok (), v)) :
    sendsFrom s d a b h src w = (.ok (), v.retire) := by
  rw [sendsFrom, hd, ha, Bool.or_self, Exec.bind_ok (guardPoison_false w), Exec.bind_ok (cx_run w), Exec.bind_ok (sendEventE_ok hroom h _)]
  exact Exec.bind_ok hserial _

theorem sendsFrom_error {s w : State} {d a : Reg} {h : Nat × Nat} {e : Stop} (hd : s.cx.sp d = false) (ha : s.cx.sp a = false)
    (hfull : sendRoom true (corePt h.1 h.2) w = (.error e, w)) (b : Reg) (src : BitVec 48 × BitVec 32) : sendsFrom s d a b h src w = (.error e, w) := by
  rw [sendsFrom, hd, ha, Bool.or_self, Exec.bind_ok (guardPoison_false w), Exec.bind_ok (cx_run w)]
  exact Exec.bind_error (Exec.bind_error hfull _) _

/-! ### The source of an event (R146, R167, R190) -/

/-- Whether KILN has passed a time. -/
def State.kilnPassed (u : State) (time : Dword) : Bool := time.ult (u.crRead u.cur .kiln) || u.crRead u.cur .kiln == BitVec.allOnes 64

theorem eventSource_task {u : State} {time : Dword} (hf : u.cx.firing = none) (hfloor : u.floorHolds time = false) (dst : BitVec 48) :
    eventSource dst time u = if u.kilnPassed time then (.error (.trap cCAUSAL time), u) else (.ok (u.taskSource, u.co.serial), u) := by
  rw [eventSource, Exec.bind_ok (Exec.get_run u)]
  dsimp only
  rw [hf]
  dsimp only
  rw [hfloor]
  rw [if_neg Bool.false_ne_true, Exec.bind_run, guardTrap_run, State.kilnPassed]
  cases (time.ult (u.crRead u.cur .kiln) || u.crRead u.cur .kiln == BitVec.allOnes 64) <;> rfl

section
variable {u : State} {time : Dword} {f : Firing} (hf : u.cx.firing = some f)
include hf

theorem eventSource_beforeLvt (h : time.ult u.cx.cr.lvt = true) (dst : BitVec 48) : eventSource dst time u = (.error (.trap cCAUSAL time), u) := by
  rw [eventSource, Exec.bind_ok (Exec.get_run u)]
  dsimp only
  rw [hf]
  dsimp only
  rw [h]
  rfl

/-- The load of the firing's actor's SERIAL by the dealer. -/
def State.serialLoad (u : State) (f : Firing) : (Nat × Bool) × State := u.dealerLoad u.cx.rgn u.coreNum (f.desc + 0x1C) 4

/-- An event that its own actor would get too late: at no later place in its order than the event that fires (R190). -/
def sentLate (f : Firing) (dst : BitVec 48) (time : Dword) (serial : BitVec 32) : Bool :=
  dst == f.event.dst && decide (eventKey time dst serial ≤ evKey f.event)

theorem eventSource_firing (h : time.ult u.cx.cr.lvt = false) (hsound : (u.serialLoad f).2.faulted u.cx.rgn = u.faulted u.cx.rgn) (dst : BitVec 48) :
    eventSource dst time u =
      if sentLate f dst time (BitVec.ofNat 32 (u.serialLoad f).1.1) then (.error (.trap cCAUSAL time), (u.serialLoad f).2)
      else (appendUnit (.sent time dst (BitVec.ofNat 32 (u.serialLoad f).1.1)) >>= fun _ => pure (f.event.dst, BitVec.ofNat 32 (u.serialLoad f).1.1))
        (u.serialLoad f).2 := by
  have hload : dealerLoadE (f.desc + 0x1C) 4 u = (.ok (u.serialLoad f).1.1, (u.serialLoad f).2) :=
    (Exec.bind_ok (Exec.get_run u) _).trans (Exec.bind_ok (afterDealer_run hsound) _)
  rw [eventSource, Exec.bind_ok (Exec.get_run u)]
  dsimp only
  rw [hf]
  dsimp only
  rw [h, Bool.not_false, Exec.bind_ok (guardTrap_true ..), Exec.bind_ok hload, Exec.bind_run, guardTrap_run]
  change Exec.andThen (if (!sentLate f dst time _) = true then _ else _) _ = _
  cases sentLate f dst time (BitVec.ofNat 32 (u.serialLoad f).1.1) <;> rfl

end

/-! ### Deferred actions (R193) -/

theorem guardIll_inFiring {s : State} (h : s.cx.firing.isSome = true) : guardIll s.cx.timed s = (.ok (), s) := by
  rw [guardIll_run, Context.timed, h]
  rfl
theorem guardIll_outside {s : State} (h : s.cx.firing = none) : guardIll s.cx.timed s = (.error (.trap cILL s.wordValue), s) := by
  rw [guardIll_run, Context.timed, h]
  rfl

theorem exec_defer_run (k : Size) (a b : Reg) (s : State) : ∃ m, exec (.defer k a b) s = finish m s ∧
    (s.cx.firing = none → m s = (.error (.trap cILL s.wordValue), s)) ∧
    ∀ w, s.cx.firing.isSome = true → (s.cx.s a).toNat % k.bytes = 0 → canonical (s.cx.s a) = true → s.cx.sp a = false →
      appendUnit (.write k (s.cx.s a) (BitVec.ofNat 64 ((s.cx.s b).toNat % 2 ^ (8 * k.bytes))) (s.cx.sp b)) s = (.ok (), w) → m s = (.ok (), w.retire) := by
  refine ⟨_, rfl, fun hf => ?_, fun w hf halign hcan hp happ => ?_⟩
  · exact (Exec.bind_ok (cx_run s) _).trans (Exec.bind_error (guardIll_outside hf) _)
  · rw [Exec.bind_ok (cx_run s), Exec.bind_ok (guardIll_inFiring hf), decide_eq_true halign, Exec.bind_ok (guardTrap_true ..), hcan,
      Exec.bind_ok (guardTrap_true ..), Exec.bind_ok happ, hp, Exec.bind_ok (guardPoison_false w)]
    rfl

theorem exec_deferN_run (a : Reg) (s : State) : ∃ m, exec (.deferN a) s = finish m s ∧
    (s.cx.firing = none → m s = (.error (.trap cILL s.wordValue), s)) ∧
    ∀ w, s.cx.firing.isSome = true → appendUnit (.notice (s.cx.s a)) s = (.ok (), w) →
      m s = (.ok (), (w.modCx (fun c => c.poisonIf (s.cx.sp a))).retire) := by
  refine ⟨_, rfl, fun hf => ?_, fun w hf happ => ?_⟩
  · exact (Exec.bind_ok (cx_run s) _).trans (Exec.bind_error (guardIll_outside hf) _)
  · rw [Exec.bind_ok (cx_run s), Exec.bind_ok (guardIll_inFiring hf), Exec.bind_ok happ]
    rfl

/-! ### `kwait` (R194) -/

theorem exec_kwait_run (a : Reg) (s : State) : ∃ m, exec (.kwait a) s = finish m s ∧ m s =
    if s.cx.firing.isSome && !(s.cx.s a).ult s.cx.cr.lvt then (.error (.trap cCAUSAL (s.cx.s a)), s)
    else if s.cx.sp a then (.error (.trap cPOISON 0), s)
    else if s.kilnPassed (s.cx.s a) then (.ok (), (s.setCx (s.cx.lifted (s.readTime .kiln))).retire)
    else (.error (.wait (.kiln (s.cx.s a))), s) := by
  refine ⟨_, rfl, ?_⟩
  rw [Exec.bind_ok (Exec.get_run s), Exec.bind_run, guardTrap_run, Context.timed]
  cases s.cx.firing.isSome && !(s.cx.s a).ult s.cx.cr.lvt
  · rw [Bool.not_false, if_pos rfl, Exec.andThen_ok, Exec.bind_run, guardPoison_run, if_neg Bool.false_ne_true]
    split
    · rfl
    · rw [Exec.andThen_ok, State.kilnPassed]
      split <;> rfl
  · rfl

end Sys2Proof.Machine

namespace Sys2Proof.Claims
open Sys2Proof.Machine

section
variable {s u : State} {d a b : Reg} {h : Nat × Nat} (hhome : resolveHome ((s.cx.s d).extractLsb' 0 48) s = (.ok h, u))
include hhome

/-- An `esend` whose source is `src`, obtained in `w`, waits or traps SQFULL without room. -/
theorem esend_stalls {w : State} {src : BitVec 48 × BitVec 32} (hsrc : eventSource ((s.cx.s d).extractLsb' 0 48) (s.cx.s a) u = (.ok src, w))
    (hd : s.cx.sp d = false) (ha : s.cx.sp a = false) : StallsFull (.esend d a b) s w true (corePt h.1 h.2) := by
  obtain ⟨m, he, hm⟩ := exec_esend_run (a := a) b hhome
  exact stallsFull_of_error he rfl fun e hfull => hm.trans ((Exec.bind_ok hsrc _).trans (sendsFrom_error hd ha hfull b src))

/-- It sends its event, and then SERIAL advances. -/
theorem esend_sends {w v : State} {src : BitVec 48 × BitVec 32} {l : Nat} (hsrc : eventSource ((s.cx.s d).extractLsb' 0 48) (s.cx.s a) u = (.ok src, w))
    (hd : s.cx.sp d = false) (ha : s.cx.sp a = false) (hroom : Room w true l)
    (hserial : advanceSerial src.2 (eventQueued w h l (eventOf s w d a b src)) = (.ok (), v)) :
    ∃ t, exec (.esend d a b) s = .next t ∧ From v t [] [] [] := by
  obtain ⟨m, he, hm⟩ := exec_esend_run (a := a) b hhome
  exact goes_on he (hm.trans ((Exec.bind_ok hsrc _).trans (sendsFrom_ok hd ha hroom hserial)))

/-- It traps CAUSAL where its source does. -/
theorem esend_causal {w : State} (hsrc : eventSource ((s.cx.s d).extractLsb' 0 48) (s.cx.s a) u = (.error (.trap cCAUSAL (s.cx.s a)), w)) :
    TrapsAfter (.esend d a b) s w cCAUSAL (s.cx.s a) := by
  obtain ⟨m, he, hm⟩ := exec_esend_run (a := a) b hhome
  exact trapsAfter_of_error he (hm.trans (Exec.bind_error hsrc _)) (by decide) (.inl (by decide))

end

/-- Settles O38: `esend` by the source of its event, outside a firing (`eventSource_task`) and in one (`eventSource_firing`). -/
theorem eventsAndDeferredActions : Obligations.EventsAndDeferredActions := by
  unfold Obligations.EventsAndDeferredActions
  intro s
  refine ⟨fun d a b h u hhome => ⟨fun hf hfloor => ?_, fun f hf => ⟨fun hlate => ?_, fun hlvt hsound => ?_⟩⟩, fun hf => ⟨fun k a b w halign hcan hp happ => ?_,
    fun a w happ => ?_⟩, fun hf => ⟨fun k a b => ?_, fun a => ?_⟩, fun a hf hlvt => ?_, fun a hin hp => ?_⟩
  · have hsrc := eventSource_task hf hfloor (dst := (s.cx.s d).extractLsb' 0 48) (time := s.cx.s a)
    refine ⟨fun hlate => esend_causal hhome (hsrc.trans (if_pos hlate)), fun hearly hd ha l hroom => ?_, fun hearly hd ha => ?_⟩
    · exact esend_sends hhome (hsrc.trans (if_neg (ne_true_of_eq_false hearly))) hd ha hroom (advanceSerial_task ((u.firing_eventQueued ..).trans hf) _)
    · exact esend_stalls hhome (hsrc.trans (if_neg (ne_true_of_eq_false hearly))) hd ha
  · exact esend_causal hhome (eventSource_beforeLvt hf hlate _)
  · have hsrc := eventSource_firing hf hlvt hsound ((s.cx.s d).extractLsb' 0 48)
    refine ⟨fun hlate => esend_causal hhome (hsrc.trans (if_pos hlate)), fun hearly hd ha w happ => ?_⟩
    replace hsrc := (hsrc.trans (if_neg (ne_true_of_eq_false hearly))).trans (Exec.bind_ok happ _)
    refine ⟨esend_stalls hhome hsrc hd ha, fun l hfw hroom hstore => ?_⟩
    exact esend_sends hhome hsrc hd ha hroom (advanceSerial_firing ((w.firing_eventQueued ..).trans hfw) _ hstore)
  · obtain ⟨m, he, -, hm⟩ := exec_defer_run k a b s
    exact goes_on he (hm w hf halign hcan hp happ)
  · obtain ⟨m, he, -, hm⟩ := exec_deferN_run a s
    exact goes_on he (hm w hf happ)
  · obtain ⟨m, he, hm, -⟩ := exec_defer_run k a b s
    exact traps_of_error he (hm hf) (by decide) (by decide)
  · obtain ⟨m, he, hm, -⟩ := exec_deferN_run a s
    exact traps_of_error he (hm hf) (by decide) (by decide)
  · obtain ⟨m, he, hm⟩ := exec_kwait_run a s
    rw [hf, hlvt] at hm
    exact traps_of_error he hm (by decide) (by decide)
  · obtain ⟨m, he, hm⟩ := exec_kwait_run a s
    have hpass : ¬ (s.cx.firing.isSome && !(s.cx.s a).ult s.cx.cr.lvt) = true := by
      rcases hin with hf | hlvt
      · simp [hf]
      · simp [hlvt]
    rw [if_neg hpass, hp, if_neg Bool.false_ne_true] at hm
    exact ⟨fun hpassed => ⟨_, plainFrom_of_keeps he (hm.trans (if_pos hpassed)) (Context.Keeps.refl _) rfl⟩,
      fun hnot => waits_of_error he (hm.trans (if_neg (ne_true_of_eq_false hnot)))⟩

end Sys2Proof.Claims
end

section
/-! What the dealer starts, steals and releases (spec 06 R121, R127, R128, R130; 07 R150, R153; 08 R180; 20 R354), and the settling of O48. -/

namespace Sys2Proof.Machine
open Sys2Proof.Claims

/-! ### Starts (R127, R150, R354) -/

section
variable {s : State} {core q k : Nat} {r : Region} (hplace : s.startPlace core = some (q, r, k)) (hevents : s.candidates q core = [])
include hplace hevents

theorem execTaskStart_starts {t : CallTask} {w : Work} (hsaved : s.resumable q r core = none) (htask : (s.getWork q core).nextTask = some (t, w)) :
    exec (.taskStart core) s =
      .next (((((s.endPause core).modWork q core (fun _ => w)).comeBack q).serve q core).startCtx q core k t.task t.caller) := by
  change execTaskStart core s = _
  rw [execTaskStart, hplace]
  dsimp only
  rw [hevents, hsaved, if_neg (by decide), htask]

theorem execSavedContextResume_resumes {x : Saved} (hsaved : s.resumable q r core = some x) (hsound : ∀ y ∈ s.regions, s.resumeFails y.2 = none) :
    exec (.savedContextResume core) s = .next (if r.colive = 0 then (((s.endPause core).comeBack q).serve q core).resumeIn q core k r x
      else ((s.endPause core).comeBack q).resumeAll q r) := by
  have hnone : s.regions.find? (fun x => x.2.cores.contains core && (s.resumeFails x.2).isSome) = none := by
    rw [List.find?_eq_none]
    intro y hy
    simp [hsound y hy]
  change execSavedContextResume core s = _
  rw [execSavedContextResume, hnone]
  dsimp only
  rw [hplace]
  dsimp only
  rw [hevents, if_neg (by decide), hsaved]

end

theorem execSavedContextResume_fails {s : State} {core : Nat} {y : Nat × Region} {v : Byte}
    (hy : s.regions.find? (fun x => x.2.cores.contains core && (s.resumeFails x.2).isSome) = some y) (hv : s.resumeFails y.2 = some v) :
    exec (.savedContextResume core) s = .next (s.endRegion y.1 v) := by
  change execSavedContextResume core s = _
  rw [execSavedContextResume, hy]
  dsimp only
  rw [hv]
  rfl

section
variable {s : State} {core q : Nat} {r : Region} {e : Event} {moved : Bool} (hshut : (s.getCore core).shut = false) (hpick : s.pick core = some q)
  (hr : (s.endPause core).getRegion? q = some r) (hchoose : (s.endPause core).choose q core = some (e, moved))
include hshut hpick hr hchoose

theorem execFiringStart_empty (hnone : ((s.endPause core).handlerOf q core e).1.2 ≤ e.hix.toNat) :
    exec (.firingStart core) s = .next ((s.endPause core).fire q core none e false) := by
  change execFiringStart core s = _
  rw [execFiringStart, hshut, if_neg (by decide), hpick]
  dsimp only
  rw [hr, hchoose]
  dsimp only
  rw [if_pos hnone]

theorem execFiringStart_starts {k : Nat} (hsome : e.hix.toNat < ((s.endPause core).handlerOf q core e).1.2) (hheld : (s.endPause core).held core < 4)
    (hready : (s.endPause core).lowestReady core = none) (hslot : (s.endPause core).freeSlot q r core = some k) :
    exec (.firingStart core) s = .next ((s.endPause core).fire q core (some k) e moved) := by
  have hnot : ¬ ((s.endPause core).held core < 4 ∧ ((s.endPause core).lowestReady core).isSome = true) := by
    rw [hready]
    exact fun h => Bool.noConfusion h.2
  change execFiringStart core s = _
  rw [execFiringStart, hshut, if_neg (by decide), hpick]
  dsimp only
  rw [hr, hchoose]
  dsimp only
  rw [if_neg (Nat.not_le.2 hsome), if_neg hnot, if_pos hheld, hslot]

end

/-! ### A slot that is held for its tags (R153, R180) -/

theorem tagsDone_iff (c : Context) : tagsDone c = true ↔ ¬ c.tags.toList.any (fun t => decide (t.pending ≠ 0)) = true := by
  rw [tagsDone, Bool.not_eq_true, List.any_eq_false, List.all_eq_true]
  simp only [beq_iff_eq, decide_eq_true_eq, ne_eq, not_not]

/-- Every tag done, the slot of a context that has ended is free, or its successor starts in it. -/
theorem State.releaseSlot_done {s : State} {core slot : Nat} (h : tagsDone (s.getCtx (ctxKey core slot)) = true) (rcb : Nat) :
    s.releaseSlot rcb core slot none =
      ((s.modCtx (ctxKey core slot) (fun c => { c with slot := .free, cr := { c.cr with region := 0 } })).emptyShapes core).afterEnd core ∧
    ∀ t, s.releaseSlot rcb core slot (some t) = if s.held core < 4 then s.startCtx rcb core slot t none
      else (s.startCtx rcb core slot t none).modCtx (ctxKey core slot) (fun c => { c with slot := .parkedReady }) :=
  ⟨if_neg ((tagsDone_iff _).1 h), fun _ => if_neg ((tagsDone_iff _).1 h)⟩

theorem execTagHoldRelease_draining {s : State} {core slot : Nat} {succ : Option Task} (h : (s.getCtx (ctxKey core slot)).slot = .draining succ) :
    exec (.tagHoldRelease core slot) s = .next (s.releaseSlot ((s.getCore core).serving.getD 0) core slot succ) := by
  change execTagHoldRelease core slot s = _
  rw [execTagHoldRelease, h]

/-! ### Stealing (R130) -/

theorem reqBlocked_iff (s : State) (p : Packet) : s.reqBlocked p = true ↔ ¬ Unblocked s p := by
  unfold State.reqBlocked Unblocked
  cases (s.getCore (epCore p.dst)).reqHeld with
  | none => simp
  | some q =>
    simp only [Option.some.injEq, forall_eq', Bool.and_eq_true, bne_iff_ne, not_or, Bool.not_eq_false]
    exact and_congr_left' ne_comm
theorem reqBlocked_of_unblocked {s : State} {p : Packet} (h : Unblocked s p) : ¬ s.reqBlocked p = true := fun hb => (reqBlocked_iff s p).1 hb h

/-- How far a core's pass for a region has come. -/
def State.stealIndex (s : State) (core q : Nat) : Nat := if (s.getCore core).steal.rcb = q then (s.getCore core).steal.index else 0

theorem execStealProbe_probes {s : State} {core q : Nat} {r : Region} (h : s.mayProbe core = some (q, r)) : exec (.stealProbe core) s =
    .next ((s.setCore core { (s.getCore core) with steal := { rcb := q, index := s.stealIndex core q, asked := true, paused := none } }).push
      [{ net := .req, src := s.coreEp core, rcb := q, body := .probe,
         dst := s.coreEp (r.cores.getD (victim r.cores.length (r.cores.findIdx (· == core)) r.seed (s.stealIndex core q)) 0) }]) := by
  change execStealProbe core s = _
  rw [execStealProbe, h]
  rfl

theorem execStealProbeReceive_answers {s : State} {p : Packet} (h : Unblocked s p) : exec (.stealProbeReceive p) s =
    .next (({ s with net := s.net.erase p }.modWork p.rcb (epCore p.dst) (fun w => { w with deque := w.deque.dropLast })).push
      [{ net := .rpl, src := p.dst, dst := p.src, rcb := p.rcb, body := .probeAnswer (s.getWork p.rcb (epCore p.dst)).deque.getLast? }]) := by
  change execStealProbeReceive p s = _
  rw [execStealProbeReceive, if_neg (reqBlocked_of_unblocked h)]

section
variable {s : State} {p : Packet} (hopen : (s.getCore (epCore p.dst)).sealed = none)
include hopen

theorem execStealProbeAnswer_task {t : Task} (hbody : p.body = .probeAnswer (some t)) : exec (.stealProbeAnswer p) s =
    .next (({ s with net := s.net.erase p }.setCore (epCore p.dst) { (s.getCore (epCore p.dst)) with
      steal := { rcb := p.rcb, index := 0, asked := false, paused := none } }).modWork p.rcb (epCore p.dst) (fun w => { w with stolen := w.stolen ++ [t] })) := by
  have hseal : ¬ ({ s with net := s.net.erase p }.getCore (epCore p.dst)).sealed.isSome = true := by
    rw [show ({ s with net := s.net.erase p } : State).getCore (epCore p.dst) = s.getCore (epCore p.dst) from rfl, hopen]
    decide
  change execStealProbeAnswer p s = _
  rw [execStealProbeAnswer, if_neg hseal, hbody]
  rfl

theorem execStealProbeAnswer_last {r : Region} (hbody : p.body = .probeAnswer none) (hr : s.getRegion? p.rcb = some r)
    (hlast : r.cores.length ≤ (s.getCore (epCore p.dst)).steal.index + 2) : exec (.stealProbeAnswer p) s =
    .next ({ s with net := s.net.erase p }.setCore (epCore p.dst) { (s.getCore (epCore p.dst)) with
      steal := { rcb := p.rcb + 1, index := 0, asked := false, paused := some (s.cycle + 1024) } }) := by
  have hseal : ¬ ({ s with net := s.net.erase p }.getCore (epCore p.dst)).sealed.isSome = true := by
    rw [show ({ s with net := s.net.erase p } : State).getCore (epCore p.dst) = s.getCore (epCore p.dst) from rfl, hopen]
    decide
  have hpass : ¬ (s.getCore (epCore p.dst)).steal.index + 1 + 1 < r.cores.length := Nat.not_lt.2 hlast
  change execStealProbeAnswer p s = _
  rw [execStealProbeAnswer, if_neg hseal, hbody, hr]
  dsimp only [Option.map, Option.getD]
  rw [show ({ s with net := s.net.erase p } : State).getCore (epCore p.dst) = s.getCore (epCore p.dst) from rfl, if_neg hpass]

end

theorem execStealPauseExpiry_over {s : State} {core t : Nat} (hpaused : (s.getCore core).steal.paused = some t) (hover : t ≤ s.cycle ∨ s.pick core ≠ none) :
    exec (.stealPauseExpiry core) s = .next (s.endPause core) := by
  have hdone : s.pauseOver core = true := by
    rw [State.pauseOver, hpaused]
    simpa [Option.isSome_iff_ne_none] using hover
  change execStealPauseExpiry core s = _
  rw [execStealPauseExpiry, if_pos hdone]

end Sys2Proof.Machine

namespace Sys2Proof.Claims
open Sys2Proof.Machine

/-- Settles O48, each step by the lemma about its clause. -/
theorem dealerStartsWork : Obligations.DealerStartsWork := by
  unfold Obligations.DealerStartsWork
  intro s core
  refine ⟨fun q r k hplace hevents => ⟨fun t w hsaved htask => execTaskStart_starts hplace hevents hsaved htask, fun x hsaved hsound =>
      execSavedContextResume_resumes hplace hevents hsaved hsound⟩,
    fun y v hy hv => execSavedContextResume_fails hy hv,
    fun q r e moved hshut hpick hr hchoose => ⟨fun hnone => execFiringStart_empty hshut hpick hr hchoose hnone, fun k hsome hheld hready hslot =>
      execFiringStart_starts hshut hpick hr hchoose hsome hheld hready hslot⟩,
    fun slot succ hslot hdone => ?_, fun q r h => execStealProbe_probes h, fun p h => execStealProbeReceive_answers h, fun p hp hopen => ?_,
    fun t hpaused hover => execStealPauseExpiry_over hpaused hover⟩
  · refine (execTagHoldRelease_draining hslot).trans (congrArg _ ?_)
    obtain ⟨hfree, hstarts⟩ := State.releaseSlot_done hdone ((s.getCore core).serving.getD 0)
    cases succ with
    | none => exact hfree
    | some t => exact hstarts t
  · subst hp
    exact ⟨fun t hbody => execStealProbeAnswer_task hopen hbody, fun r hbody hr hlast => execStealProbeAnswer_last hopen hbody hr hlast⟩

end Sys2Proof.Claims
end

section
/-! Packets that land, and the send queues (spec 06 R125, R132 to R136; 08 R177, R184, R185, R201; 11 R221; 19 R337), and the settling of O49. -/

namespace Sys2Proof.Machine
open Sys2Proof.Claims

/-! ### A packet at the core that it is for (R132 to R134, R337) -/

section
variable {s : State} {p : Packet}

theorem not_toSealed_of_open (h : ToOpenCore s p) : ¬ s.toSealed p = true := by
  rw [State.toSealed, h.2]
  exact Bool.false_ne_true
theorem not_elsewhere_of_open (h : ToOpenCore s p) : ¬ epPkg p.dst ≠ s.pkgNum := not_not.2 h.1

theorem landReq_blocked (hpkg : epPkg p.dst = s.pkgNum) (h : ¬ Unblocked s p) (land : State → State) : s.landReq p land = s := by
  rw [State.landReq, if_neg (not_not.2 hpkg), if_pos ((reqBlocked_iff s p).2 h)]
theorem landReq_sealed (hpkg : epPkg p.dst = s.pkgNum) (h : Unblocked s p) (hsealed : s.toSealed p = true) (land : State → State) :
    s.landReq p land = (s.takeOff p).push (s.sealedErrors p) := by
  rw [State.landReq, if_neg (not_not.2 hpkg), if_neg (reqBlocked_of_unblocked h), if_pos hsealed]
theorem landReq_stale (hto : ToOpenCore s p) (h : Unblocked s p) (hgone : s.reaches p = false) (land : State → State) :
    s.landReq p land = (s.takeOff p).push (errorFor 1 p) := by
  rw [State.landReq, if_neg (not_elsewhere_of_open hto), if_neg (reqBlocked_of_unblocked h), if_neg (not_toSealed_of_open hto), hgone]
  rfl
theorem landReq_lands (hto : ToOpenCore s p) (h : Unblocked s p) (hlive : s.reaches p = true) (land : State → State) : s.landReq p land = land s := by
  rw [State.landReq, if_neg (not_elsewhere_of_open hto), if_neg (reqBlocked_of_unblocked h), if_neg (not_toSealed_of_open hto), hlive]
  rfl

/-- An answer lands in the context that it is for; it counts for its region until the landing slot is answered (R140). -/
theorem landRpl_lands (hto : ToOpenCore s p) (hlive : s.reaches p = true) (i : BitVec 4) (land : Context → Context) : s.landRpl p i land =
    if (((s.takeOff p).modCtx (dstKey p) land).getCtx (dstKey p)).awaits i then (s.takeOff p).modCtx (dstKey p) land
    else ((s.takeOff p).modCtx (dstKey p) land).answered p.dst i := by
  have hhere : ¬ (s.toSealed p || !s.reaches p) = true := by
    rw [hlive, Bool.not_true, Bool.or_false]
    exact not_toSealed_of_open hto
  rw [State.landRpl, if_neg (not_elsewhere_of_open hto), if_neg hhere]

end

/-! ### Each packet -/

section
variable {s : State} {p : Packet}

/-- A message put into the inbox that it is for, with its acknowledgement where no reply will answer it. -/
def State.messageLands (p : Packet) (m : Message) (s : State) : State :=
  if (s.getCtx (dstKey p)).inbox.length ≥ 16 then s.holdReq p
  else
    let t := (s.takeOff p).modCtx (dstKey p) (fun c => { c with inbox := c.inbox ++ [{ m with lt := p.lt }], latch := true })
    if m.hdr.getLsbD 45 then t else t.push [ackOf p (m.hdr.extractLsb' 40 4)]

theorem exec_messageArrival {m : Message} (h : p.body = .message m) : exec (.messageArrival p) s = .next (s.landReq p (State.messageLands p m)) := by
  change execMessageArrival p s = _
  rw [execMessageArrival, h]
  rfl

/-- A vector put into the port that its tag is bound to. -/
def State.vectorLands (p : Packet) (tag : Byte) (rs : BitVec 4) (v : VReg) (b : Bool) (s : State) : State :=
  match (s.getCtx (dstKey p)).portWith tag with
  | none => (s.takeOff p).push (errorFor 3 p)
  | some (i, q) =>
    if q.fifo.length ≥ 4 then s.holdReq p
    else ((s.takeOff p).modCtx (dstKey p) (fun c => { c with
      ports := vset c.ports i (some { q with fifo := q.fifo ++ [(v, b, p.lt)] }), latch := true })).push [ackOf p rs]

theorem exec_portPacketArrival {tag : Byte} {rs : BitVec 4} {v : VReg} {b : Bool} (h : p.body = .vector tag rs v b) :
    exec (.portPacketArrival p) s = .next (s.landReq p (State.vectorLands p tag rs v b)) := by
  change execPortPacketArrival p s = _
  rw [execPortPacketArrival, h]
  rfl

theorem exec_callatTaskArrival {t : Task} {tag : Byte} {rs : BitVec 4} (h : p.body = .task t tag rs) (hto : ToOpenCore s p) (hfree : Unblocked s p) :
    exec (.callatTaskArrival p) s = .next (if s.taskQueue (epCore p.dst) ≥ 64 then s.holdReq p
      else (s.takeOff p).modWork p.rcb (epCore p.dst) (fun w => { w with
        taskq := w.taskq ++ [{ task := { t with lt := p.lt }, caller := some { ep := p.src, tag := tag, rslot := rs } }] })) := by
  change execCallatTaskArrival p s = _
  rw [execCallatTaskArrival, h]
  dsimp only
  rw [if_neg (not_elsewhere_of_open hto), if_neg (reqBlocked_of_unblocked hfree), if_neg (not_toSealed_of_open hto)]

theorem exec_replyArrival {m : Message} (h : p.body = .reply m) :
    exec (.replyArrival p) s = .next (s.landRpl p (answerSlot m) (fun c => c.answer { m with lt := p.lt } true)) := by
  change execReplyArrival p s = _
  rw [execReplyArrival, h]
theorem exec_errorReply {m : Message} (h : p.body = .error m none) :
    exec (.errorReply p) s = .next (s.landRpl p (answerSlot m) (fun c => c.answer { m with lt := p.lt } false)) := by
  change execErrorReply p s = _
  rw [execErrorReply, h]
theorem exec_ackArrival {rs : BitVec 4} (h : p.body = .ack rs) : exec (.ackArrival p) s = .next (s.landRpl p rs (fun c => c.freeSlotAt rs)) := by
  change execAckArrival p s = _
  rw [execAckArrival, h]

/-- A landing slot that has been freed awaits nothing. -/
theorem awaits_freeSlotAt (c : Context) (rs : BitVec 4) : (c.freeSlotAt rs).awaits rs = false := by
  rw [Context.awaits, Context.freeSlotAt, vget_vset_self _ _ _ _ rs.isLt]

end

/-! ### The send queues (R133, R177) -/

theorem exec_sendQueueDrain {s : State} {core slot : Nat} {q : Packet} {qs : List Packet} (h : (s.getCtx (ctxKey core slot)).sendq = q :: qs) :
    exec (.sendQueueDrain core slot) s = .next ((s.modCtx (ctxKey core slot) (fun c => { c with sendq := qs })).push [q]) := by
  change execSendQueueDrain core slot s = _
  rw [execSendQueueDrain, h]

theorem exec_sendStallTimeout {s : State} {core slot : Nat} {w : Wait} {ep : BitVec 40} (hlive : (s.getCtx (ctxKey core slot)).live = true)
    (hin : (s.getCtx (ctxKey core slot)).inTrap = false) (htrapped : (s.getCtx (ctxKey core slot)).trapped = none)
    (howed : s.unitsOwed core slot = false) (hover : s.stallOver (s.getCtx (ctxKey core slot)) core = some (w, ep)) :
    exec (.sendStallTimeout core slot) s = .next (s.takeTrap (ctxKey core slot) cSQFULL (BitVec.setWidth 64 ep) w.grp.first (pfxOf w.grp)) := by
  change execSendStallTimeout core slot s = _
  rw [execSendStallTimeout, hlive, hin, htrapped, howed, hover]
  rfl

theorem exec_chredPartialArrival {s t : State} {core slot : Nat} {w : Wait} {n : Nat} {d : Reg} {own : Dword} {b : Bool} {ph : BitVec 32} {ch : Chain}
    (hwait : (s.getCtx (ctxKey core slot)).wait = some w) (hkind : w.kind = .chain n d own b ph ch) (hready : s.waitReady (ctxKey core slot) w = true)
    (htake : chainTake n d own b ph ch { s with cur := ctxKey core slot, grp := w.grp } = (.ok (), t)) :
    exec (.chredPartialArrival core slot) s = .next t := by
  change execChredPartialArrival core slot s = _
  rw [execChredPartialArrival, hwait]
  dsimp only
  rw [hkind]
  dsimp only
  rw [if_pos hready]
  exact finish_ok _ _ _ htake

end Sys2Proof.Machine

namespace Sys2Proof.Claims
open Sys2Proof.Machine

/-- Settles O49: a REQ packet by `landReq_lands` and what keeps it from landing, an answer by `landRpl_lands`. -/
theorem packetsLand : Obligations.PacketsLand := by
  unfold Obligations.PacketsLand
  intro s p
  refine ⟨fun m hbody hpkg hblocked => ?_, fun m hbody hto hfree hlive => ?_, fun m hbody hto hfree hgone => ?_, fun m hbody hpkg hfree hsealed => ?_,
    fun tag rs v b i q hbody hto hfree hlive hport => ?_, fun t tag rs hbody hto hfree => ?_, fun hto hlive => ⟨fun m b i hbody hi => ?_, fun rs hbody => ?_⟩,
    fun core slot => ⟨fun q qs h => exec_sendQueueDrain h, fun w ep hlive hin htrapped howed hover => exec_sendStallTimeout hlive hin htrapped howed hover,
      fun w n d own b ph ch t hwait hkind hready htake => exec_chredPartialArrival hwait hkind hready htake⟩, rfl⟩
  · exact (exec_messageArrival hbody).trans (congrArg _ (landReq_blocked hpkg hblocked _))
  · have hlands := (exec_messageArrival hbody).trans (congrArg _ (landReq_lands hto hfree hlive (State.messageLands p m)))
    exact ⟨fun hfull => hlands.trans (congrArg _ (if_pos hfull)), fun hroom => hlands.trans (congrArg _ (if_neg (Nat.not_le.2 hroom)))⟩
  · exact (exec_messageArrival hbody).trans (congrArg _ (landReq_stale hto hfree hgone _))
  · exact (exec_messageArrival hbody).trans (congrArg _ (landReq_sealed hpkg hfree hsealed _))
  · have hlands := (exec_portPacketArrival hbody).trans (congrArg _ (landReq_lands hto hfree hlive (State.vectorLands p tag rs v b)))
    have hport' : (s.getCtx (dstKey p)).portWith tag = some (i, q) := hport
    rw [State.vectorLands, hport'] at hlands
    exact ⟨fun hfull => hlands.trans (congrArg _ (if_pos hfull)), fun hroom => hlands.trans (congrArg _ (if_neg (Nat.not_le.2 hroom)))⟩
  · have hlands := exec_callatTaskArrival hbody hto hfree
    exact ⟨fun hfull => hlands.trans (congrArg _ (if_pos hfull)), fun hroom => hlands.trans (congrArg _ (if_neg (Nat.not_le.2 hroom)))⟩
  · subst hi
    cases b with
    | true => exact (exec_replyArrival hbody).trans (congrArg _ (landRpl_lands hto hlive ..))
    | false => exact (exec_errorReply hbody).trans (congrArg _ (landRpl_lands hto hlive ..))
  · refine (exec_ackArrival hbody).trans (congrArg _ ((landRpl_lands hto hlive ..).trans (if_neg ?_)))
    rw [State.getCtx_modCtx_self, awaits_freeSlotAt]
    exact Bool.false_ne_true

end Sys2Proof.Claims
end

section
/-! SUPPORT. What the end of a U context leaves (spec 06 R126, R129; 07 R153; 08 R180; 19 R343). -/

namespace Sys2Proof.Machine
open Sys2Proof.Claims

/-! ### What cores share -/

/-- Memory, the mesh, the contexts and the regions, which the release of a core's resources leaves. -/
def State.shared (s : State) : Memory × List Packet × List (Nat × Context) × List (Nat × Region) := (s.mem, s.net, s.ctxs, s.regions)

theorem State.shared_modCore (s : State) (n : Nat) (f : Core → Core) : (s.modCore n f).shared = s.shared := rfl
theorem State.shared_emptyShapes (s : State) (core : Nat) : (s.emptyShapes core).shared = s.shared := by
  unfold State.emptyShapes; split <;> rfl
theorem State.shared_afterEnd (s : State) (core : Nat) : (s.afterEnd core).shared = s.shared := by
  unfold State.afterEnd; split <;> rfl

/-- A state leaves another's memory, mesh, regions and contexts, but for one context, which is `d`. -/
structure State.Leaves (s t : State) (k : Nat) (d : Context) : Prop where
  mem : t.mem = s.mem
  net : t.net = s.net
  region : ∀ q, t.getRegion? q = s.getRegion? q
  self : t.getCtx k = d
  other : ∀ j, j ≠ k → t.getCtx j = s.getCtx j

theorem State.leaves_of_shared {s t : State} {k : Nat} {d : Context} (h : t.shared = (s.setCtx k d).shared) : s.Leaves t k d := by
  have hctxs : t.ctxs = (s.setCtx k d).ctxs := congrArg (fun x => x.2.2.1) h
  have hregions : t.regions = s.regions := congrArg (fun x => x.2.2.2) h
  have hget (j : Nat) : t.getCtx j = (s.setCtx k d).getCtx j := by rw [State.getCtx, hctxs, State.getCtx]
  exact ⟨congrArg (fun x => x.1) h, congrArg (fun x => x.2.1) h, fun q => by rw [State.getRegion?, hregions, State.getRegion?],
    (hget k).trans (State.getCtx_setCtx_self ..), fun j hj => (hget j).trans (State.getCtx_setCtx_ne s k j d hj)⟩

theorem State.Leaves.modCtx {s t : State} {k : Nat} {d : Context} (h : s.Leaves t k d) (f : Context → Context) : s.Leaves (t.modCtx k f) k (f d) :=
  ⟨h.mem, h.net, h.region, (State.getCtx_modCtx_self t k f).trans (congrArg f h.self), fun j hj => (State.getCtx_modCtx_ne t k j f hj).trans (h.other j hj)⟩

/-! ### A region changed -/

@[simp] theorem State.mem_modRegion (s : State) (q : Nat) (f : Region → Region) : (s.modRegion q f).mem = s.mem := by
  unfold State.modRegion; split <;> rfl
@[simp] theorem State.net_modRegion (s : State) (q : Nat) (f : Region → Region) : (s.modRegion q f).net = s.net := by
  unfold State.modRegion; split <;> rfl
@[simp] theorem State.getCtx_modRegion (s : State) (q : Nat) (f : Region → Region) (k : Nat) : (s.modRegion q f).getCtx k = s.getCtx k := by
  unfold State.modRegion; split <;> rfl
theorem State.getRegion_modRegion_self (s : State) (q : Nat) (f : Region → Region) : (s.modRegion q f).getRegion? q = (s.getRegion? q).map f := by
  unfold State.modRegion
  cases hr : s.getRegion? q with
  | none => exact hr
  | some r => exact State.getRegion_setRegion_self ..

/-! ### The context gone, its slot not yet released (R129, R180, R343) -/

/-- The running context of a task ended and its status collected; its send queue and its answers are in the mesh. -/
def State.taskEnded (s : State) (value : Dword) (pois : Bool) : State :=
  ((s.collect s.cur).endCtx s.cur).push (s.callerReply s.cur value pois ++ s.staleReplies s.cur)

theorem ctxKey_cur (s : State) : ctxKey s.coreNum s.slotNum = s.cur := by
  unfold ctxKey State.coreNum State.slotNum
  omega

theorem State.endTask_user {s : State} (h : s.cx.mode = .user) (value : Dword) (pois : Bool) (succ : Option Task) :
    s.endTask value pois succ = (s.taskEnded value pois).releaseSlot s.cx.rgn s.coreNum s.slotNum succ := by
  rw [State.endTask, h]
  rfl

section
variable (s : State) (value : Dword) (pois : Bool)

theorem State.mem_taskEnded : (s.taskEnded value pois).mem = s.mem := by
  simp [State.taskEnded, State.endCtx, State.endTime, State.collect]
theorem State.net_taskEnded :
    (s.taskEnded value pois).net = s.net ++ s.cx.sendq ++ (s.callerReply s.cur value pois ++ s.staleReplies s.cur) := by
  simp [State.taskEnded, State.endCtx, State.endTime, State.collect, State.push, State.cx]
theorem State.getCtx_taskEnded_self : (s.taskEnded value pois).getCtx s.cur = s.cx.ended := by
  simp [State.taskEnded, State.endCtx, State.collect, State.cx]
theorem State.getCtx_taskEnded_ne {j : Nat} (h : j ≠ s.cur) : (s.taskEnded value pois).getCtx j = s.getCtx j := by
  simp [State.taskEnded, State.endCtx, State.endTime, State.collect, State.getCtx_setCtx_ne _ _ _ _ h]

/-- The region's logical time follows the context's, and its status has CHKINT's low bits. -/
theorem State.getRegion_taskEnded : (s.taskEnded value pois).getRegion? s.cx.rgn = (s.getRegion? s.cx.rgn).map (fun r =>
    { r with status := r.status ||| s.cx.cr.chkint.extractLsb' 0 2, lt := max r.lt (max s.cx.lt s.cx.cmdLt) }) := by
  have hcx : (s.collect s.cur).getCtx s.cur = s.cx := s.getCtx_modRegion ..
  have hregion : (s.taskEnded value pois).getRegion? s.cx.rgn = ((s.collect s.cur).endTime s.cx).getRegion? s.cx.rgn := by
    rw [State.taskEnded, State.endCtx, hcx]
    rfl
  have hcollect : (s.collect s.cur).getRegion? s.cx.rgn =
      (s.getRegion? s.cx.rgn).map (fun r => { r with status := r.status ||| s.cx.cr.chkint.extractLsb' 0 2 }) :=
    State.getRegion_modRegion_self s s.cx.rgn _
  rw [hregion, State.endTime, State.getRegion_modRegion_self, hcollect, Option.map_map]
  rfl

end

/-! ### A successor (R126, R180) -/

/-- The context of a task that starts where the context `c` was. -/
def startedContext (s : State) (r : Region) (rcb : Nat) (c : Context) (t : Task) : Context :=
  { (Context.reset .user).setBlock 4 t.args 0 with
    slot := .issuing, inc := c.inc + 1, pc := codeAddr t.pc, held := s.cycle, lt := t.lt, caller := none, start := t, twin := rcb / 2 ^ 64,
    cr := r.startCr rcb }

theorem State.startCtx_some {s : State} {rcb : Nat} {r : Region} (hr : s.getRegion? rcb = some r) (core slot : Nat) (t : Task) :
    s.startCtx rcb core slot t none = (s.setCtx (ctxKey core slot) (startedContext s r rcb (s.getCtx (ctxKey core slot)) t)).modCore core
      (fun co => { co with gated := [] }) := by
  rw [State.startCtx, hr]
  rfl

theorem Context.sp_setS_clean {c : Context} {q : Reg} (h : c.sp q = false) (r : Reg) (v : Dword) : (c.setS r v false).sp q = false := by
  by_cases hq : q = r
  · subst hq
    by_cases h0 : q = 0
    · subst h0; exact h
    · exact c.sp_setS_self q v false h0
  · exact (c.sp_setS_ne r q v false hq).trans h

/-- A new context holds its arguments in s4 to s7, and 0 and no poison in every other register. -/
theorem registers_startedContext (s : State) (r : Region) (rcb : Nat) (c : Context) (t : Task) :
    (startedContext s r rcb c t).block 4 = t.args ∧ (∀ q, q ∉ [4, 5, 6, 7] → (startedContext s r rcb c t).s q = 0) ∧
      ∀ q, (startedContext s r rcb c t).v q = 0 ∧ (startedContext s r rcb c t).vp q = false ∧ (startedContext s r rcb c t).sp q = false := by
  obtain ⟨hs, hv, -, -⟩ := (Context.reset .user).keeps_setBlock 4 t.args 0
  have hclean (q : Reg) : (Context.reset .user).sp q = false := by simp [Context.sp, Context.reset]
  refine ⟨Context.block_setBlock_self (b := 0) (by decide) _ _ _, fun q hq => (hs q hq).1.trans ?_, fun q => ⟨?_, ?_, ?_⟩⟩
  · simp [Context.s, Context.reset]
  · exact (hv q fun h => absurd h List.not_mem_nil).1.trans (by simp [Context.v, Context.reset])
  · exact (hv q fun h => absurd h List.not_mem_nil).2.trans (by simp [Context.vp, Context.reset])
  · exact Context.sp_setS_clean (Context.sp_setS_clean (Context.sp_setS_clean (Context.sp_setS_clean (hclean q) ..) ..) ..) ..

/-! ### The slot (R126, R153, R180) -/

section
variable {s : State} {value : Dword} {pois : Bool}

/-- What an end leaves, by what the release of its slot makes of the context there. -/
theorem ended_of_leaves {t : State} {succ : Option Task} {d : Context} (ht : (s.taskEnded value pois).Leaves t s.cur d)
    (hheld : tagsDone s.cx = false → d.slot = .draining succ ∧ d.inc = s.cx.inc ∧ d.firing = none)
    (hfree : tagsDone s.cx = true → succ = none → d.slot = .free ∧ d.inc = s.cx.inc ∧ d.cr.region = 0 ∧ d.firing = none)
    (hnext : tagsDone s.cx = true → ∀ τ, succ = some τ → (s.getRegion? s.cx.rgn).isSome = true →
      d.slot = (if ((s.collect s.cur).endCtx s.cur).held s.coreNum < 4 then .issuing else .parkedReady) ∧ d.inc = s.cx.inc + 1 ∧ d.mode = .user ∧
      d.pc = codeAddr τ.pc ∧ d.block 4 = τ.args ∧ (∀ r, r ∉ [4, 5, 6, 7] → d.s r = 0) ∧ (∀ r, d.v r = 0 ∧ d.vp r = false ∧ d.sp r = false) ∧
      d.cr.region = BitVec.ofNat 64 s.cx.rgn) : Ended s t value pois succ := by
  obtain ⟨hmem, hnet, hregion, hself, hother⟩ := ht
  refine ⟨fun a => ?_, fun j hj => (hother j hj).trans (s.getCtx_taskEnded_ne value pois hj), hnet.trans (s.net_taskEnded value pois), ?_, ?_, ?_, fun r hr => ?_⟩
  · rw [hmem, s.mem_taskEnded]
  · rw [hself]; exact hheld
  · rw [hself]; exact hfree
  · rw [hself]; exact hnext
  · rw [hregion, s.getRegion_taskEnded, hr]
    rfl

/-- The context that has ended, its slot not yet released. -/
theorem getCtx_key_taskEnded : (s.taskEnded value pois).getCtx (ctxKey s.coreNum s.slotNum) = s.cx.ended := by
  rw [ctxKey_cur, State.getCtx_taskEnded_self]

/-- A successor starts where the context was, if the region is there still. -/
theorem startCtx_leaves (s : State) (τ : Task) : ∃ d,
    (s.taskEnded value pois).Leaves ((s.taskEnded value pois).startCtx s.cx.rgn s.coreNum s.slotNum τ none) s.cur d ∧
    ((s.getRegion? s.cx.rgn).isSome = true → ∃ r, d = startedContext (s.taskEnded value pois) r s.cx.rgn s.cx.ended τ) := by
  have hregion := s.getRegion_taskEnded value pois
  cases hr : s.getRegion? s.cx.rgn with
  | none =>
    rw [hr] at hregion
    refine ⟨s.cx.ended, ?_, fun h => absurd h (by decide)⟩
    rw [State.startCtx, hregion]
    exact ⟨rfl, rfl, fun _ => rfl, s.getCtx_taskEnded_self value pois, fun _ _ => rfl⟩
  | some r =>
    rw [hr] at hregion
    obtain ⟨r', hr'⟩ : ∃ r', (s.taskEnded value pois).getRegion? s.cx.rgn = some r' := ⟨_, hregion⟩
    refine ⟨startedContext (s.taskEnded value pois) r' s.cx.rgn s.cx.ended τ, ?_, fun _ => ⟨r', rfl⟩⟩
    rw [State.startCtx_some hr', getCtx_key_taskEnded, ctxKey_cur]
    exact State.leaves_of_shared (State.shared_modCore ..)

/-- The end of a task in user mode leaves what R180 says. -/
theorem endTask_ended (hmode : s.cx.mode = .user) (value : Dword) (pois : Bool) (succ : Option Task) : Ended s (s.endTask value pois succ) value pois succ := by
  rw [State.endTask_user hmode]
  cases hdone : tagsDone s.cx with
  | false =>
    have hpending : ((s.taskEnded value pois).getCtx (ctxKey s.coreNum s.slotNum)).tags.toList.any (fun t => decide (t.pending ≠ 0)) = true := by
      rw [getCtx_key_taskEnded]
      by_contra h
      exact ne_true_of_eq_false hdone ((tagsDone_iff _).2 h)
    have hrelease : (s.taskEnded value pois).releaseSlot s.cx.rgn s.coreNum s.slotNum succ = _ := if_pos hpending
    rw [hrelease]
    refine ended_of_leaves (d := { s.cx.ended with slot := .draining succ }) (State.leaves_of_shared ?_) (fun _ => ⟨rfl, rfl, rfl⟩)
      (fun h => absurd (hdone.symm.trans h) (by decide)) (fun h => absurd (hdone.symm.trans h) (by decide))
    rw [State.shared_emptyShapes, State.modCtx, getCtx_key_taskEnded, ctxKey_cur]
  | true =>
    have hended : tagsDone ((s.taskEnded value pois).getCtx (ctxKey s.coreNum s.slotNum)) = true := by
      rw [getCtx_key_taskEnded]
      exact hdone
    obtain ⟨hfree, hstarts⟩ := State.releaseSlot_done hended s.cx.rgn
    cases succ with
    | none =>
      rw [hfree]
      refine ended_of_leaves (d := { s.cx.ended with slot := .free, cr := { s.cx.ended.cr with region := 0 } }) (State.leaves_of_shared ?_)
        (fun h => absurd (hdone.symm.trans h) (by decide)) (fun _ _ => ⟨rfl, rfl, rfl, rfl⟩) (fun _ τ h => nomatch h)
      rw [State.shared_afterEnd, State.shared_emptyShapes, State.modCtx, getCtx_key_taskEnded, ctxKey_cur]
    | some τ =>
      obtain ⟨d, hd, hstarted⟩ := startCtx_leaves (value := value) (pois := pois) s τ
      have hheld : (s.taskEnded value pois).held s.coreNum = ((s.collect s.cur).endCtx s.cur).held s.coreNum := rfl
      have hholds (slot : SlotState) (hslot : slot = if ((s.collect s.cur).endCtx s.cur).held s.coreNum < 4 then .issuing else .parkedReady)
          {t : State} {e : Context} (ht : (s.taskEnded value pois).Leaves t s.cur e) (he : (s.getRegion? s.cx.rgn).isSome = true → ∃ r,
            e = { startedContext (s.taskEnded value pois) r s.cx.rgn s.cx.ended τ with slot := slot }) : Ended s t value pois (some τ) := by
        refine ended_of_leaves ht (fun h => absurd (hdone.symm.trans h) (by decide)) (fun _ h => nomatch h) fun _ σ hσ hregion => ?_
        obtain rfl := Option.some.inj hσ
        obtain ⟨r, rfl⟩ := he hregion
        obtain ⟨hargs, hzero, hclean⟩ := registers_startedContext (s.taskEnded value pois) r s.cx.rgn s.cx.ended τ
        exact ⟨hslot, rfl, rfl, rfl, hargs, hzero, hclean, rfl⟩
      rw [hstarts, hheld, ctxKey_cur]
      split
      next hlt => exact hholds .issuing (if_pos hlt).symm hd hstarted
      next hlt =>
        refine hholds .parkedReady (if_neg hlt).symm (hd.modCtx _) fun hregion => ?_
        obtain ⟨r, rfl⟩ := hstarted hregion
        exact ⟨r, rfl⟩

end

end Sys2Proof.Machine
end

section
/-! SUPPORT. What the operations of memory leave of the regions (spec 07 R148; 10 R210 to R231; 21 R363, R365, R380; 22 R386 to R397): what a region has on each core. -/

namespace Sys2Proof.Machine
open Sys2Proof.Claims

/-- What every region has on every core. -/
def State.works (s : State) : Nat → Nat → Work := fun q core => s.getWork q core

/-! ### Lines and their copies -/

theorem State.works_leases (s : State) (l : List (Nat × (Nat × Nat))) : { s with leases := l }.works = s.works := rfl
@[simp] theorem State.works_modDom (s : State) (f : Domain → Domain) : (s.modDom f).works = s.works := rfl
@[simp] theorem State.works_setCopy (s : State) (pkg line : Nat) (c : Option CopyState) : (s.setCopy pkg line c).works = s.works := rfl
@[simp] theorem State.works_setX (s : State) (line : Nat) (b : Bool) : (s.setX line b).works = s.works := rfl
@[simp] theorem State.works_setD (s : State) (line : Nat) (b : Bool) : (s.setD line b).works = s.works := rfl
@[simp] theorem State.works_setDir (s : State) (line : Nat) (st : DirState) (o : Nat) (l : List Nat) : (s.setDir line st o l).works = s.works := rfl
@[simp] theorem State.works_freeDir (s : State) (line : Nat) : (s.freeDir line).works = s.works := rfl
@[simp] theorem State.works_raiseRH (s : State) (pkg line : Nat) : (s.raiseRH pkg line).works = s.works := by
  simp [State.raiseRH, apply_ite State.works]

@[simp] theorem State.works_settle (s : State) (line : Nat) : (s.settle line).works = s.works := by
  unfold State.settle
  repeat' split
  all_goals rfl
@[simp] theorem State.works_dropBehind (s : State) (line : Nat) : (s.dropBehind line).works = s.works := by
  unfold State.dropBehind
  repeat' split
  all_goals rfl
@[simp] theorem State.works_maybeWriteBack (s : State) (line : Nat) : (s.maybeWriteBack line).works = s.works := by
  unfold State.maybeWriteBack
  repeat' split
  all_goals rfl
@[simp] theorem State.works_rekey (s : State) (line key : Nat) : (s.rekey line key).works = s.works := by
  unfold State.rekey
  split <;> rfl
@[simp] theorem State.works_trimSlice (s : State) (line : Nat) : (s.trimSlice line).works = s.works := by
  unfold State.trimSlice
  dsimp only
  split
  · rfl
  · split
    · rfl
    · exact State.works_dropBehind _ _
@[simp] theorem State.works_storeLine (s : State) (pa n v : Nat) (p wt : Bool) : (s.storeLine pa n v p wt).works = s.works := by
  refine Eq.trans ?_ (s.works_settle (lineOf pa))
  unfold State.storeLine
  dsimp only
  split
  · rfl
  · split
    · rfl
    · exact State.works_trimSlice _ _
@[simp] theorem State.works_storeDeviceMem (s : State) (pa n v : Nat) (p : Bool) : (s.storeDeviceMem pa n v p).works = s.works := by
  refine Eq.trans ?_ (s.works_maybeWriteBack (lineOf pa))
  unfold State.storeDeviceMem
  dsimp only
  split
  · rfl
  · exact State.works_trimSlice _ _

/-! ### Copies between packages -/

@[simp] theorem State.works_giveUp (s : State) (line pkg : Nat) : (s.giveUp line pkg).works = s.works := by
  unfold State.giveUp
  split <;> simp
theorem State.works_giveUpAll (s : State) (line : Nat) (l : List Nat) : (l.foldl (fun (t : State) p => t.giveUp line p) s).works = s.works :=
  foldl_keeps State.works (fun t p => t.works_giveUp line p) l s
@[simp] theorem State.works_arrive (s : State) (line : Nat) (d : VReg) (p : Bool) : (s.arrive line d p).works = s.works :=
  (State.works_leases _ _).trans (s.works_storeLine _ _ _ _ _)
@[simp] theorem State.works_arriveFree (s : State) (line : Nat) : (s.arriveFree line).works = s.works := State.works_arrive ..
@[simp] theorem State.works_receive (s : State) (line pkg : Nat) : (s.receive line pkg).works = s.works := by
  simp [State.receive, apply_ite State.works]
@[simp] theorem State.works_writtenHome (s : State) (line : Nat) (d : Bool) : (s.writtenHome line d).works = s.works := by
  simp [State.writtenHome, apply_ite State.works]
@[simp] theorem State.works_wrote (s : State) (line o : Nat) : (s.wrote line o).2.works = s.works := by
  unfold State.wrote
  split <;> rfl
@[simp] theorem State.works_ownerDirty (s : State) (line : Nat) (e : DirEntry) : (s.ownerDirty line e).2.works = s.works := by
  unfold State.ownerDirty
  split <;> simp
@[simp] theorem State.works_recallLine (s : State) (line : Nat) (e : DirEntry) : (s.recallLine line e).works = s.works := by
  simp [State.recallLine, State.works_giveUpAll, apply_ite State.works]
@[simp] theorem State.works_makeRoom (s : State) (line : Nat) : (s.makeRoom line).works = s.works := by
  unfold State.makeRoom
  split <;> simp
@[simp] theorem State.works_grantFromHome (s : State) (line r : Nat) (st : DirState) : (s.grantFromHome line r st).works = s.works := by
  simp [State.grantFromHome]
@[simp] theorem State.works_getS (s : State) (line r : Nat) : (s.getS line r).works = s.works := by
  unfold State.getS
  dsimp only
  repeat' split
  all_goals simp
@[simp] theorem State.works_getM (s : State) (line r : Nat) : (s.getM line r).works = s.works := by
  unfold State.getM
  dsimp only
  repeat' split
  all_goals simp [State.works_giveUpAll]
@[simp] theorem State.works_fill (s : State) (line : Nat) (w : Bool) : (s.fill line w).works = s.works := by
  simp [State.fill, apply_ite State.works]

/-! ### Agents, and writes that take their places (R222, R227, R402) -/

@[simp] theorem State.works_frameFirst (s : State) (pa : Nat) : (s.frameFirst pa).works = s.works := by
  unfold State.frameFirst
  repeat' split
  all_goals rfl
@[simp] theorem State.works_raiseAgent (s : State) (ag t : Nat) : (s.raiseAgent ag t).works = s.works := by
  unfold State.raiseAgent
  split <;> rfl

/-- A change of a region that leaves what it has on its cores, and where its saggars lie. -/
theorem State.works_modRegion (s : State) (q : Nat) {f : Region → Region} (hf : ∀ r core, kgetD (f r).work core ((f r).freshWork core) =
    kgetD r.work core (r.freshWork core)) : (s.modRegion q f).works = s.works := by
  funext q' core
  unfold State.modRegion
  cases hr : s.getRegion? q with
  | none => rfl
  | some r =>
    by_cases hq : q' = q
    · subst hq
      simp only [State.works, State.getWork, State.getRegion_setRegion_self, hr]
      exact hf r core
    · have hother : (s.setRegion q (f r)).getRegion? q' = s.getRegion? q' := kget_kset_ne _ _ _ _ hq
      simp only [State.works, State.getWork, hother]
@[simp] theorem State.works_endRegion (s : State) (q : Nat) (reason : Byte) : (s.endRegion q reason).works = s.works := s.works_modRegion q fun _ _ => rfl
@[simp] theorem State.works_noteTime (s : State) (ctx : Nat) (inc : BitVec 12) (rcb t : Nat) : (s.noteTime ctx inc rcb t).works = s.works :=
  State.works_modRegion _ rcb fun _ _ => rfl
@[simp] theorem State.works_placeWrite (s : State) (e : Early) : (s.placeWrite e).works = s.works := by
  unfold State.placeWrite
  rw [State.works_noteTime]
  refine (State.works_storeLine ..).trans ?_
  simp
@[simp] theorem State.works_placeThose (s : State) (pick : Early → Bool) : (s.placeThose pick).works = s.works :=
  foldl_keeps State.works State.works_placeWrite _ _
@[simp] theorem State.works_placeFor (s : State) (core line : Nat) : (s.placeFor core line).works = s.works := by
  simp [State.placeFor, apply_ite State.works]

/-! ### Translation by a core's own agent (R216 to R220) -/

theorem State.works_walkLoad (s : State) (core pa : Nat) : (s.walkLoad (.hw core) pa).2.works = s.works := by
  unfold State.walkLoad
  dsimp only
  split
  · rfl
  · refine (State.works_raiseAgent ..).trans ?_
    simp [State.placeAgent]
theorem State.works_walkFrom (core asid : Nat) (va : Dword) (left : Nat) (s : State) (table : Nat) :
    (s.walkFrom (.hw core) asid va left table).2.works = s.works := by
  induction left generalizing s table with
  | zero => rfl
  | succ left ih =>
    have hload := s.works_walkLoad core (table + 8 * walkIndex (3 - left) va)
    unfold State.walkFrom
    dsimp only
    split
    · exact hload
    · split
      · split
        · exact hload
        · exact (ih _ _).trans hload
      · split <;> exact hload
theorem State.works_walk (s : State) (core : Nat) (sp : Space) (va : Dword) : (s.walk (.hw core) sp va).2.works = s.works := by
  unfold State.walk
  split
  · rfl
  · exact State.works_walkFrom core sp.asid.toNat va 4 s _
@[simp] theorem State.works_trimTlb (s : State) (h : TlbHolder) (cap : Nat) : (s.trimTlb h cap).works = s.works := by
  unfold State.trimTlb
  dsimp only
  repeat' split
  all_goals rfl
@[simp] theorem State.works_cacheLeaf (s : State) (core : Nat) (sp : Space) (va leaf : Dword) (lvl : Nat) :
    (s.cacheLeaf core sp va leaf lvl).works = s.works := by
  unfold State.cacheLeaf
  dsimp only
  rw [State.works_trimTlb, State.works_trimTlb, State.works_trimTlb]
  rfl
@[simp] theorem State.works_uncache (s : State) (core : Nat) (sp : Space) (va : Dword) : (s.uncache core sp va).works = s.works := rfl
@[simp] theorem State.works_noteAffine (s : State) (b n : Nat) (a : Bool) : (s.noteAffine b n a).works = s.works := by
  unfold State.noteAffine
  repeat' split
  all_goals rfl
theorem State.works_leafFor (s : State) (core : Nat) (sp : Space) (va : Dword) : (s.leafFor (.hw core) core sp va).2.works = s.works := by
  have hwalk := s.works_walk core sp va
  unfold State.leafFor
  generalize s.walk (.hw core) sp va = w at hwalk ⊢
  have hdrawn (n : Nat) : { w.2 with fresh := n }.works = s.works := hwalk
  dsimp only
  split
  · rfl
  · split
    · rfl
    · split
      · dsimp only
        rw [State.works_cacheLeaf]
        exact hdrawn _
      · exact hdrawn _
theorem State.works_translate (s : State) (core : Nat) (sp : Space) (va : Dword) (acc : Access) (n : Nat) :
    (s.translate (.hw core) core sp va acc n).2.works = s.works := by
  have hleaf := s.works_leafFor core sp va
  change (s.translateLeaf (.hw core) core sp va acc n).2.works = s.works
  unfold State.translateLeaf
  dsimp only
  split
  · rfl
  · split
    · rfl
    · split
      · split <;> rfl
      · split
        · exact hleaf
        · split
          · exact hleaf
          · exact (State.works_noteAffine ..).trans hleaf

/-! ### Stores of the hardware (R148, R221, R228, R363) -/

@[simp] theorem State.works_hwPut (s : State) (ag pa n v : Nat) (p wt : Bool) (key : Option Nat) : (s.hwPut ag pa n v p wt key).works = s.works := by
  unfold State.hwPut
  dsimp only
  split
  · rfl
  · rw [State.works_leases, State.works_raiseAgent, State.works_storeLine]
    simp
@[simp] theorem State.works_uncachedStore (s : State) (pa n v : Nat) (p : Bool) (key : Nat) : (s.uncachedStore pa n v p key).works = s.works := by
  unfold State.uncachedStore
  split
  · rfl
  · simp

end Sys2Proof.Machine
end

section
/-! SUPPORT. What a store of the dealer leaves: the contexts, but for their logical times, and what the regions have on their cores (spec 07 R148; 21 R363). -/

namespace Sys2Proof.Machine
open Sys2Proof.Claims

/-- The same instruction runs, of every context at most the logical times have changed, and what the regions have on their cores is as it was. -/
def State.Unstirred (s u : State) : Prop := s.Undisturbed u ∧ u.works = s.works

theorem State.Unstirred.of_control {s u : State} (hcontrol : u.control = s.control) (hworks : u.works = s.works) : s.Unstirred u :=
  ⟨.of_control hcontrol, hworks⟩
theorem State.Unstirred.refl (s : State) : s.Unstirred s := .of_control rfl rfl
theorem State.Unstirred.trans {s t u : State} (h : s.Unstirred t) (h' : t.Unstirred u) : s.Unstirred u :=
  ⟨State.Undisturbed.trans h.1 h'.1, h'.2.trans h.2⟩

/-! ### Stores of the hardware (R221, R228) -/

theorem State.undisturbed_hwPut (s : State) (ag pa n v : Nat) (p wt : Bool) (key : Option Nat) : s.Undisturbed (s.hwPut ag pa n v p wt key) := by
  unfold State.hwPut
  dsimp only
  split
  · exact .of_control rfl
  · refine (s.undisturbed_placeFor ag (lineOf pa)).then_control ?_
    rw [State.control_leases, State.control_raiseAgent, State.control_storeLine]
    simp
theorem State.unstirred_hwPut (s : State) (ag pa n v : Nat) (p wt : Bool) (key : Option Nat) : s.Unstirred (s.hwPut ag pa n v p wt key) :=
  ⟨s.undisturbed_hwPut ag pa n v p wt key, s.works_hwPut ag pa n v p wt key⟩

/-! ### Device space without the context windows (R363, R365, R378, R380) -/

theorem State.unstirred_putDesc (s : State) (q : Queue) (off : Nat) (v : Dword) : s.Unstirred (s.putDesc q off v) := s.unstirred_hwPut ..
theorem State.unstirred_raiseIrq (s : State) (i : IrqSource) : s.Unstirred (s.raiseIrq i) := by
  unfold State.raiseIrq
  split <;> exact .of_control rfl rfl
theorem State.unstirred_stopQueue (s : State) (n : Nat) (addr : Dword) (fcode : Nat) : s.Unstirred (s.stopQueue n addr fcode) := by
  unfold State.stopQueue
  split
  · exact .refl s
  next q _ =>
    have hdesc := ((s.unstirred_putDesc q 0x20 addr).trans (State.unstirred_putDesc _ q 0x28 (BitVec.ofNat 64 fcode))).trans
      (State.unstirred_putDesc _ q 0x18 1)
    dsimp only
    split
    · exact (hdesc.trans (State.unstirred_raiseIrq _ .endpoint)).trans (.of_control rfl rfl)
    · exact hdesc.trans (.of_control rfl rfl)
theorem State.unstirred_doorbellTail (s : State) (n : Nat) (v : Dword) : s.Unstirred (s.doorbellTail n v) := by
  unfold State.doorbellTail
  split
  · exact .refl s
  next q _ =>
    have htail : s.Unstirred { s with queues := kset s.queues n { q with tail := v.toNat } } := .of_control rfl rfl
    dsimp only
    split
    · exact htail
    · split
      · exact htail
      · exact htail.trans (State.unstirred_stopQueue ..)
theorem State.unstirred_doorbellReset (s : State) (n : Nat) (v : Dword) : s.Unstirred (s.doorbellReset n v) := by
  unfold State.doorbellReset
  split
  · exact .refl s
  next q _ =>
    split
    · have hreset := (s.unstirred_putDesc q 0x18 0).trans (u := { s.putDesc q 0x18 0 with
        queues := kset (s.putDesc q 0x18 0).queues n { q with
          stopped := false, levels := [], waiting := none, head := (s.dwordAt (q.desc + 0x10)).toNat } }) (.of_control rfl rfl)
      dsimp only
      split
      · exact hreset
      · exact hreset.trans (State.unstirred_stopQueue ..)
    · exact .refl s
theorem State.unstirred_commit (s : State) : s.Unstirred s.commit := by
  unfold State.commit
  dsimp only
  repeat' split
  all_goals exact .of_control rfl rfl
theorem State.unstirred_endpointWrite (s : State) (off : Nat) (v : Dword) : s.Unstirred (s.endpointWrite off v) := by
  unfold State.endpointWrite
  dsimp only
  split
  · split <;> exact .of_control rfl rfl
  · split
    · split
      · exact s.unstirred_commit
      · exact .refl s
    · repeat' split
      all_goals exact .of_control rfl rfl

/-- Outside supervisor mode device space has no context windows (R356). -/
theorem not_window_of_deviceOk {pa : Nat} (h : deviceOk pa false = true) : pa % 2 ^ 44 / 2 ^ 40 ≠ 1 := by
  intro hwindow
  unfold deviceOk at h
  dsimp only at h
  rw [hwindow] at h
  exact absurd h (by simp)

theorem State.unstirred_deviceWrite (s : State) {pa : Nat} (h : deviceOk pa false = true) (v : Dword) : s.Unstirred (s.deviceWrite pa v) := by
  unfold State.deviceWrite
  dsimp only
  split
  · exact .of_control rfl rfl
  · split
    next hwindow => exact absurd hwindow (not_window_of_deviceOk h)
    · split
      · exact s.unstirred_doorbellTail ..
      · split
        · exact s.unstirred_doorbellReset ..
        · exact .refl s
    · exact s.unstirred_endpointWrite ..
    · exact .of_control rfl rfl

/-! ### Stores by virtual address (R82, R208, R217) -/

theorem deviceOk_of_placeAt {s : State} {pa cl key n pa' : Nat} {wt super : Bool} {acc : Access}
    (h : s.placeAt pa cl wt key acc n super = .ok (.device pa')) : deviceOk pa' super = true := by
  unfold State.placeAt at h
  dsimp only at h
  split at h
  · cases h
  · split at h
    · cases h
    · split at h
      · cases h
      · split at h
        · split at h
          · cases h
          · split at h
            · cases h
            · split at h
              next hok => cases h; exact hok
              next => cases h
        · split at h <;> cases h

theorem deviceOk_of_translate {s : State} {ag : Agent} {core n pa : Nat} {sp : Space} {va : Dword} {acc : Access} (hphys : sp.physical = false)
    (h : (s.translate ag core sp va acc n).1 = .ok (.device pa)) : deviceOk pa sp.super = true := by
  change (s.translateLeaf ag core sp va acc n).1.1 = _ at h
  unfold State.translateLeaf at h
  rw [hphys] at h
  dsimp only at h
  split at h
  next hfalse => exact absurd hfalse (by decide)
  next =>
    split at h
    · cases h
    · split at h
      · split at h <;> cases h
      · split at h
        · cases h
        · split at h
          next => cases h
          next leaf lvl _ p hplace =>
            cases h
            unfold State.leafPlace at hplace
            split at hplace
            · cases hplace
            · exact deviceOk_of_placeAt hplace

theorem State.unstirred_translate (s : State) (core : Nat) (sp : Space) (va : Dword) (acc : Access) (n : Nat) :
    s.Unstirred (s.translate (.hw core) core sp va acc n).2 :=
  ⟨s.undisturbed_translateLeaf .., s.works_translate ..⟩

theorem State.unstirred_scratchStore (s : State) (core off n v : Nat) (p : Bool) (t : Nat) : s.Unstirred (s.scratchStore core off n v p t) :=
  .of_control rfl rfl
theorem State.unstirred_raiseAgent (s : State) (ag t : Nat) : s.Unstirred (s.raiseAgent ag t) :=
  .of_control (s.control_raiseAgent ag t) (s.works_raiseAgent ag t)
theorem State.unstirred_spHolds (s : State) (core off n : Nat) : s.Unstirred (s.spHolds core off n) := by
  unfold State.spHolds
  split <;> exact .of_control rfl rfl

/-- A store in a region's own translation, which is that of user mode. -/
theorem State.unstirred_spaceStore (s : State) (core : Nat) (r : Region) (va : Dword) (n v : Nat) (p : Bool) :
    s.Unstirred (s.spaceStore core r.space va n v p).2 := by
  have htranslate := s.unstirred_translate core r.space va .store n
  unfold State.spaceStore
  dsimp only
  split
  · exact htranslate
  · exact ((htranslate.trans (State.unstirred_spHolds ..)).trans (State.unstirred_raiseAgent ..)).trans (State.unstirred_scratchStore ..)
  · exact htranslate.trans (State.unstirred_hwPut ..)
  · exact htranslate.trans ⟨State.undisturbed_uncachedStore .., State.works_uncachedStore ..⟩
  next hdevice => exact htranslate.trans (State.unstirred_deviceWrite _ (deviceOk_of_translate rfl hdevice) _)

theorem State.unstirred_endRegion (s : State) (q : Nat) (reason : Byte) : s.Unstirred (s.endRegion q reason) :=
  .of_control (State.control_modRegion ..) (s.works_endRegion q reason)

theorem State.unstirred_dealerStore (s : State) (q core va n v : Nat) (p : Bool) : s.Unstirred (s.dealerStore q core va n v p) := by
  unfold State.dealerStore
  split
  · exact .refl s
  next r _ =>
    have hstore := s.unstirred_spaceStore core r (BitVec.ofNat 64 va) n v p
    dsimp only
    split
    · exact hstore
    · exact hstore.trans (State.unstirred_endRegion ..)

end Sys2Proof.Machine
end

section
/-! The ends of tasks and firings (spec 06 R126, R129; 07 R153; 08 R180, R182, R192; 19 R343), and the settling of O34. -/

namespace Sys2Proof.Claims
open Sys2Proof.Machine

/-! ### What the end of a firing leaves (R153, R192) -/

/-- What a firing's end makes of the work of its core: its record DONE, its SUIT and KWIN in force. -/
def firingDone (c : Context) (f : Firing) (w : Work) : Work :=
  { (w.modRecord f.record (fun r => { r with done := true })) with suit := c.cr.suit, kwin := c.cr.kwin, lastHandler := some c.start.pc }

theorem done_of_mem_firingDone {c : Context} {f : Firing} {w : Work} {r : Record} (h : r ∈ (firingDone c f w).records) (haddr : r.addr = f.record) :
    r.done = true := by
  obtain ⟨r', -, rfl⟩ := List.mem_map.1 h
  by_cases hr' : r'.addr = f.record
  · rw [if_pos hr']
  · rw [if_neg hr'] at haddr
    exact absurd haddr hr'

/-- Behind the change of its core's work, a firing's end only stores and notes a time. -/
theorem unstirred_endFiring (s : State) (f : Firing) : (s.modWork s.cx.rgn s.coreNum (firingDone s.cx f)).Unstirred (s.endFiring f) := by
  unfold State.endFiring
  dsimp only
  refine .trans ?_ (State.unstirred_raiseAgent ..)
  refine .trans ?_ (State.unstirred_dealerStore ..)
  split
  · exact .refl _
  · exact State.unstirred_dealerStore ..

theorem mode_endFiring (s : State) (f : Firing) : (s.endFiring f).cx.mode = s.cx.mode := by
  have hwork : s.Undisturbed (s.modWork s.cx.rgn s.coreNum (firingDone s.cx f)) := .of_control (State.control_modRegion ..)
  have hsame : timesOf s.cx (s.endFiring f).cx = s.cx := (hwork.trans (unstirred_endFiring s f).1).cx
  have hmode := congrArg Context.mode hsame
  exact hmode

theorem getWork_endFiring {s : State} (h : (s.getRegion? s.cx.rgn).isSome = true) (f : Firing) :
    (s.endFiring f).getWork s.cx.rgn s.coreNum = firingDone s.cx f (s.getWork s.cx.rgn s.coreNum) :=
  (congrFun (congrFun (unstirred_endFiring s f).2 s.cx.rgn) s.coreNum).trans (State.getWork_modWork_self h s.coreNum (firingDone s.cx f))

/-! ### The instructions that end a context -/

theorem exec_tret_run (a : Reg) (s : State) : ∃ m, exec (.tret a) s = finish m s ∧
    (s.cx.firing = none → unitsQuiet s .fpm = true → m s = (.ok (), s.endTask (s.cx.s a) (s.cx.sp a) none)) ∧
    (s.cx.firing.isSome = true → m s = (.error (.trap cILL s.wordValue), s)) := by
  refine ⟨_, rfl, fun hf hq => ?_, fun hf => ?_⟩
  · rw [Exec.bind_ok (cx_run s), Exec.bind_ok (guardIll_untimed hf), Exec.bind_ok (waitEngines_quiet hq)]
    rfl
  · rw [Exec.bind_ok (cx_run s), Exec.bind_error (guardIll_timed hf)]

/-- `halt.r` in a firing, and outside one its checks, one after another. -/
theorem exec_haltR_run (a : Reg) (s : State) : ∃ m, exec (.haltR a) s = finish m s ∧
    (s.cx.firing.isSome = true → m s = (.error (.trap cILL s.wordValue), s)) ∧
    (s.cx.firing = none →
      (s.cx.mode = .super → m s = (.error (.trap cILL s.wordValue), s)) ∧
      (s.cx.mode = .user → (s.cx.s a).extractLsb' 0 2 ≠ 0 → m s = (.error (.trap cALIGN (s.cx.s a)), s)) ∧
      (s.cx.mode = .user → (s.cx.s a).extractLsb' 0 2 = 0 → s.cx.sp a = true → m s = (.error (.trap cPOISON 0), s)) ∧
      (s.cx.mode = .user → (s.cx.s a).extractLsb' 0 2 = 0 → s.cx.sp a = false → unitsQuiet s .fpm = true →
        m s = (.ok (), s.endTask 0 false (some { pc := s.cx.s a, args := s.cx.block 4 })))) := by
  have hill (h : s.cx.mode = .super) : guardIll (s.cx.mode == .user) s = (.error (.trap cILL s.wordValue), s) := by rw [guardIll_run, h]; rfl
  have hpass (h : s.cx.mode = .user) : guardIll (s.cx.mode == .user) s = (.ok (), s) := by rw [guardIll_run, h]; rfl
  have halign (h : (s.cx.s a).extractLsb' 0 2 = 0) : guardTrap ((s.cx.s a).extractLsb' 0 2 == 0) cALIGN (s.cx.s a) s = (.ok (), s) := by
    rw [guardTrap_run, if_pos (beq_iff_eq.2 h)]
  have hunaligned (h : (s.cx.s a).extractLsb' 0 2 ≠ 0) :
      guardTrap ((s.cx.s a).extractLsb' 0 2 == 0) cALIGN (s.cx.s a) s = (.error (.trap cALIGN (s.cx.s a)), s) := by
    rw [guardTrap_run, if_neg fun h' => h (beq_iff_eq.1 h')]
  refine ⟨_, rfl, fun hf => ?_, fun hf => ⟨fun hm => ?_, fun hm ha => ?_, fun hm ha hp => ?_, fun hm ha hp hq => ?_⟩⟩
  · rw [Exec.bind_ok (cx_run s), Exec.bind_error (guardIll_timed hf)]
  · rw [Exec.bind_ok (cx_run s), Exec.bind_ok (guardIll_untimed hf), Exec.bind_error (hill hm)]
  · rw [Exec.bind_ok (cx_run s), Exec.bind_ok (guardIll_untimed hf), Exec.bind_ok (hpass hm), Exec.bind_error (hunaligned ha)]
  · rw [Exec.bind_ok (cx_run s), Exec.bind_ok (guardIll_untimed hf), Exec.bind_ok (hpass hm), Exec.bind_ok (halign ha), hp]
    rfl
  · rw [Exec.bind_ok (cx_run s), Exec.bind_ok (guardIll_untimed hf), Exec.bind_ok (hpass hm), Exec.bind_ok (halign ha), hp,
      Exec.bind_ok (guardPoison_false s), Exec.bind_ok (waitEngines_quiet hq)]
    rfl

theorem exec_fend_run (s : State) : ∃ m, exec .fend s = finish m s ∧
    (s.cx.firing = none → m s = (.error (.trap cILL s.wordValue), s)) ∧
    (∀ f, s.cx.firing = some f → unitsQuiet s .fpm = true → m s = (.ok (), (s.endFiring f).endTask 0 false none)) := by
  refine ⟨_, rfl, fun hf => ?_, fun f hf hq => ?_⟩
  · rw [Exec.bind_ok (cx_run s), hf]
    exact guardIll_run false s
  · rw [Exec.bind_ok (cx_run s), hf]
    dsimp only
    rw [Exec.bind_ok (waitEngines_quiet hq)]
    rfl

/-- Settles O34: an end leaves what R180 says (`endTask_ended`), and a firing's end only its own changes beside (`unstirred_endFiring`). -/
theorem tasksAndFiringsEnd : Obligations.TasksAndFiringsEnd := by
  unfold Obligations.TasksAndFiringsEnd
  refine ⟨fun s a hf => ?_, fun s huser hq => ⟨fun hf => ?_, fun f hf => ?_⟩⟩
  · obtain ⟨haltR, he, -, hout⟩ := exec_haltR_run a s
    obtain ⟨hsuper, halign, hpoison, -⟩ := hout hf
    exact ⟨fun hm => traps_of_error he (hsuper hm) (by decide) (by decide), fun hm ha => traps_of_error he (halign hm ha) (by decide) (by decide),
      fun hm ha hp => trapsPoison_of_error he (hpoison hm ha hp)⟩
  · obtain ⟨halt, hhalt, hhaltRun, -⟩ := exec_halt_run s
    obtain ⟨fend, hfend, hfendIll, -⟩ := exec_fend_run s
    refine ⟨⟨_, hhalt.trans (finish_ok _ _ _ (hhaltRun hf hq)), endTask_ended huser ..⟩, fun a => ?_, fun a ha hp => ?_,
      traps_of_error hfend (hfendIll hf) (by decide) (by decide)⟩
    · obtain ⟨tret, htret, htretRun, -⟩ := exec_tret_run a s
      exact ⟨_, htret.trans (finish_ok _ _ _ (htretRun hf hq)), endTask_ended huser ..⟩
    · obtain ⟨haltR, hhaltR, -, hout⟩ := exec_haltR_run a s
      obtain ⟨-, -, -, hends⟩ := hout hf
      exact ⟨_, hhaltR.trans (finish_ok _ _ _ (hends huser ha hp hq)), endTask_ended huser ..⟩
  · have htimed : s.cx.firing.isSome = true := by rw [hf]; rfl
    obtain ⟨halt, hhalt, -, hhaltIll⟩ := exec_halt_run s
    obtain ⟨fend, hfend, -, hfendRun⟩ := exec_fend_run s
    refine ⟨traps_of_error hhalt (hhaltIll htimed) (by decide) (by decide), fun a => ⟨?_, ?_⟩,
      ⟨_, hfend.trans (finish_ok _ _ _ (hfendRun f hf hq)), endTask_ended ((mode_endFiring s f).trans huser) .., fun hregion => ?_⟩⟩
    · obtain ⟨haltR, hhaltR, hill, -⟩ := exec_haltR_run a s
      exact traps_of_error hhaltR (hill htimed) (by decide) (by decide)
    · obtain ⟨tret, htret, -, hill⟩ := exec_tret_run a s
      exact traps_of_error htret (hill htimed) (by decide) (by decide)
    · rw [getWork_endFiring hregion f]
      exact ⟨rfl, rfl, rfl, fun r hr haddr => done_of_mem_firingDone hr haddr⟩

end Sys2Proof.Claims
end

section
/-! Actors created and moved (spec 07 R144, R152; 08 R195, R196), and the settling of O39. -/

namespace Sys2Proof.Machine
open Sys2Proof.Claims

/-! ### Accesses leave the running context the running one -/

theorem State.cur_windowStore (s : State) (core slot off : Nat) (x : Dword) : (s.windowStore core slot off x).2.cur = s.cur := by
  unfold State.windowStore
  split
  · rfl
  · dsimp only
    split <;> rfl
theorem State.cur_deviceWrite (s : State) (pa : Nat) (v : Dword) : (s.deviceWrite pa v).cur = s.cur := by
  unfold State.deviceWrite
  dsimp only
  split
  · rfl
  · split
    · split <;> exact s.cur_windowStore ..
    · split
      · exact (s.unstirred_doorbellTail ..).1.1
      · split
        · exact (s.unstirred_doorbellReset ..).1.1
        · rfl
    · exact (s.unstirred_endpointWrite ..).1.1
    · rfl
theorem State.cur_storeAt (s : State) (k : Nat) (p : Place) (n v : Nat) (pois : Bool) : (s.storeAt k p n v pois).cur = s.cur := by
  cases p with
  | device pa => exact s.cur_deviceWrite pa _
  | _ => exact (s.undisturbed_storeAt k n v pois (by simp)).1
theorem State.cur_entryNow (s : State) (p : Place) : (s.entryNow p).2.cur = s.cur := by
  cases p with
  | coherent pa l1 wt key => exact (s.lanesUndisturbed_loadAt s.cur (.coherent pa false wt key) 8).1
  | _ => exact (s.lanesUndisturbed_loadAt ..).1

/-! ### `acre` (R195) -/

/-- A descriptor once a home and an empty NEWEST have been written into it. -/
def State.homed (w : State) (p : Place) (home : Nat) : State :=
  (w.storeAt w.cur (p.plus 0x18) 8 home false).storeAt w.cur (p.plus 0x30) 8 0 false

theorem State.cur_homed (w : State) (p : Place) (home : Nat) : (w.homed p home).cur = w.cur := (State.cur_storeAt ..).trans (State.cur_storeAt ..)

theorem exec_acre_run {s w : State} {d a b : Reg} {p q : Place} (hchecks : acreChecks d a b s = (.ok (p, q), w)) :
    ∃ m, exec (.acre d a b) s = finish m s ∧
      let x := w.homed p (s.pkgNum % 256 * 2 ^ 24 + ((s.cx.s b).extractLsb' 0 14).toNat)
      ((x.entryNow q).1 = 0 → m s = (.ok (), ((x.entryNow q).2.storeAt w.cur q 8 (s.cx.s a).toNat false).retire)) := by
  refine ⟨_, rfl, fun hempty => ?_⟩
  rw [Exec.bind_ok hchecks, Exec.bind_ok (storeE_run ..), Exec.bind_ok (storeE_run ..), State.cur_storeAt, Exec.bind_ok (Exec.get_run _),
    Exec.bind_ok (Exec.set_run ..)]
  change (guardTrap (((w.homed p _).entryNow q).1 == 0) _ _ >>= _) _ = _
  rw [hempty, beq_self_eq_true, Exec.bind_ok (guardTrap_true ..), Exec.bind_ok (storeE_run ..), retireE_run, ← State.homed, State.cur_entryNow,
    State.cur_homed]

/-! ### The reads that resolve an actor (R144) -/

/-- Which context runs does not change. -/
theorem LeavesLanes.cur_eq {α : Type} {m : Exec α} (hm : LeavesLanes m) {s u : State} {r : Except Stop α} (h : m s = (r, u)) : u.cur = s.cur := by
  have hsame := hm s
  rw [h] at hsame
  exact hsame.1

theorem leavesLanes_loadAddr (va : Dword) (n : Nat) : LeavesLanes (loadAddr va n) :=
  (leavesLanes_translateT va .load n).bind fun p => leavesLanes_wordAt p n
theorem leavesLanes_findDescriptor (actor : BitVec 48) : LeavesLanes (findDescriptor actor) := by
  refine LeavesLanes.bind (.of_state fun _ => rfl) fun s => (leavesLanes_loadAddr _ _).bind fun n => ?_
  dsimp only
  split
  · exact leavesLanes_pure _
  · exact (leavesLanes_loadAddr _ _).bind fun _ => leavesLanes_pure _

/-- An actor's descriptor resolved is one found. -/
theorem findDescriptor_of_descriptorOf {actor : BitVec 48} {s u : State} {desc : Nat} (h : descriptorOf actor s = (.ok desc, u)) :
    findDescriptor actor s = (.ok (.ok desc), u) := by
  rw [descriptorOf, Exec.bind_run] at h
  rcases hfind : findDescriptor actor s with ⟨_ | _ | d, t⟩ <;> rw [hfind] at h <;> cases h
  rfl

/-! ### `arehome` (R196) -/

/-- A move completes once every core of the scope has been told, and waits until then. -/
def rehomeTold (soc : Nat) (actor : BitVec 48) : Exec Unit := do
  if (← get).moveOpen soc actor then modify (fun s => s.beginWait (.rehome actor)) else retireE

theorem rehomeTold_run (soc : Nat) (actor : BitVec 48) (s : State) :
    rehomeTold soc actor s = (.ok (), if s.moveOpen soc actor then s.beginWait (.rehome actor) else s.retire) := by
  rw [rehomeTold, Exec.bind_ok (Exec.get_run s)]
  split <;> rfl

/-- The load of an actor's home from its descriptor, if one has been found. -/
def homeWord (f : Except Dword Nat) : Exec (Nat × Bool) :=
  match f with
  | .ok d => loadAddr (BitVec.ofNat 64 (d + 0x18)) 8
  | .error _ => pure (0, false)

theorem leavesLanes_homeWord (f : Except Dword Nat) : LeavesLanes (homeWord f) := by
  cases f with
  | ok d => exact leavesLanes_loadAddr _ _
  | error _ => exact leavesLanes_pure _

/-- What `arehome` does once it has read the home of its actor, whose descriptor it has looked for. -/
def rehomesFrom (s : State) (a b : Reg) (f : Except Dword Nat) (word : Nat × Bool) : Exec Unit := do
  let actor := (s.cx.s a).extractLsb' 0 48
  let new := ((s.cx.s b).extractLsb' 0 14).toNat
  guardUntimed
  let d ← orDesc f
  guardTrap (s.qualifiesFor s.cx.rgn new) cRESOURCE (BitVec.ofNat 64 new)
  guardPoison (s.cx.sp a || s.cx.sp b)
  if homeOfWord word.1 = (s.pkgNum, new) then retireE
  else
    modify (fun t => t.moveTo s.cx.rgn actor d (homeOfWord word.1) new t.coreNum)
    rehomeTold (s.socOf s.cx.rgn) actor

theorem exec_arehome_run (a b : Reg) (s : State) : ∃ m, exec (.arehome a b) s = finish m s ∧
    (s.cx.wait.map Wait.kind = some (.rehome ((s.cx.s a).extractLsb' 0 48)) →
      m s = rehomeTold (s.socOf s.cx.rgn) ((s.cx.s a).extractLsb' 0 48) s) ∧
    ∀ f u word w, s.cx.wait = none → findDescriptor ((s.cx.s a).extractLsb' 0 48) s = (.ok f, u) → homeWord f u = (.ok word, w) →
      m s = rehomesFrom s a b f word w := by
  refine ⟨_, rfl, fun hwait => ?_, fun f u word w hwait hfind hword => ?_⟩
  · rw [Exec.bind_ok (Exec.get_run s)]
    dsimp only
    rw [if_pos hwait]
    rfl
  · rw [Exec.bind_ok (Exec.get_run s)]
    dsimp only
    rw [hwait, if_neg (by simp), Exec.bind_ok hfind]
    cases f <;> exact Exec.bind_ok hword _

section
variable {s u w : State} {a : Reg} {f : Except Dword Nat} {word : Nat × Bool}
  (hfind : findDescriptor ((s.cx.s a).extractLsb' 0 48) s = (.ok f, u)) (hword : homeWord f u = (.ok word, w))
include hfind hword

/-- The reads of a resolution are the instruction's own: it is one of the same core, and they end no firing. -/
theorem coreNum_of_resolution : w.coreNum = s.coreNum :=
  congrArg (fun k => k / 64) (((leavesLanes_homeWord f).cur_eq hword).trans ((leavesLanes_findDescriptor _).cur_eq hfind))
theorem firing_of_resolution : w.cx.firing = s.cx.firing :=
  ((leavesLanes_homeWord f).firing_eq hword).trans ((leavesLanes_findDescriptor _).firing_eq hfind)

theorem rehomesFrom_timed (hf : s.cx.firing.isSome = true) (b : Reg) : rehomesFrom s a b f word w = (.error (.trap cTIMEDWR 0), w) := by
  refine Exec.bind_error ?_ _
  rw [guardUntimed_run, firing_of_resolution hfind hword, if_pos hf]

theorem guardUntimed_of_resolution (hf : s.cx.firing = none) : guardUntimed w = (.ok (), w) := by
  rw [guardUntimed_run, firing_of_resolution hfind hword, hf]
  rfl

end

section
variable {s u w : State} {a : Reg} {word : Nat × Bool} (hf : s.cx.firing = none)
include hf

theorem rehomesFrom_unnamed {v : Dword} (b : Reg) (hfind : findDescriptor ((s.cx.s a).extractLsb' 0 48) s = (.ok (.error v), u))
    (hword : homeWord (.error v) u = (.ok word, w)) : rehomesFrom s a b (.error v) word w = (.error (.trap cDESC v), w) := by
  rw [rehomesFrom, Exec.bind_ok (guardUntimed_of_resolution hfind hword hf)]
  rfl

theorem rehomesFrom_found {desc : Nat} {b : Reg} (hfind : findDescriptor ((s.cx.s a).extractLsb' 0 48) s = (.ok (.ok desc), u))
    (hword : homeWord (.ok desc) u = (.ok word, w)) (hqual : s.qualifiesFor s.cx.rgn ((s.cx.s b).extractLsb' 0 14).toNat = true)
    (ha : s.cx.sp a = false) (hb : s.cx.sp b = false) : rehomesFrom s a b (.ok desc) word w =
      if homeOfWord word.1 = (s.pkgNum, ((s.cx.s b).extractLsb' 0 14).toNat) then (.ok (), w.retire)
      else rehomeTold (s.socOf s.cx.rgn) ((s.cx.s a).extractLsb' 0 48)
        (w.moveTo s.cx.rgn ((s.cx.s a).extractLsb' 0 48) desc (homeOfWord word.1) ((s.cx.s b).extractLsb' 0 14).toNat s.coreNum) := by
  rw [rehomesFrom, Exec.bind_ok (guardUntimed_of_resolution hfind hword hf), Exec.bind_ok (show orDesc (.ok desc) w = (.ok desc, w) from rfl), hqual,
    Exec.bind_ok (guardTrap_true ..), ha, hb, Bool.or_self, Exec.bind_ok (guardPoison_false w), ← coreNum_of_resolution hfind hword]
  split <;> rfl

end

end Sys2Proof.Machine

namespace Sys2Proof.Claims
open Sys2Proof.Machine

/-- Settles O39: `acre` by what its passed checks leave to write (`exec_acre_run`), `arehome` by what its reads find (`rehomesFrom_found`, `rehomesFrom_unnamed`). -/
theorem actorsAreCreatedAndMoved : Obligations.ActorsAreCreatedAndMoved := by
  unfold Obligations.ActorsAreCreatedAndMoved
  intro s
  refine ⟨fun d a b p q w hchecks hempty => ?_, fun a b desc u hf hwait hdesc hqual ha hb word w hload => ?_, fun a b f u hwait hfind =>
    ⟨fun v hv => ?_, fun desc word w hd hf hload => ?_⟩, fun a b x hwait hkind htold => ?_⟩
  · obtain ⟨m, he, hm⟩ := exec_acre_run hchecks
    exact goes_on he (hm hempty)
  · obtain ⟨m, he, -, hm⟩ := exec_arehome_run a b s
    have hfind := findDescriptor_of_descriptorOf hdesc
    replace hm := (hm (.ok desc) u word w hwait hfind hload).trans (rehomesFrom_found hf hfind hload hqual ha hb)
    refine ⟨fun hhome => goes_on he (hm.trans (if_pos hhome)), fun haway => ?_⟩
    exact he.trans (finish_ok m s _ ((hm.trans (if_neg haway)).trans (rehomeTold_run ..)))
  · subst hv
    obtain ⟨m, he, -, hm⟩ := exec_arehome_run a b s
    replace hm := hm (.error v) u (0, false) u hwait hfind rfl
    exact ⟨fun hf => trapsAfter_of_error he (hm.trans (rehomesFrom_timed hfind rfl hf b)) (by decide) (.inl (by decide)),
      fun hf => trapsAfter_of_error he (hm.trans (rehomesFrom_unnamed hf b hfind rfl)) (by decide) (.inl (by decide))⟩
  · subst hd
    obtain ⟨m, he, -, hm⟩ := exec_arehome_run a b s
    exact trapsAfter_of_error he ((hm (.ok desc) u word w hwait hfind hload).trans (rehomesFrom_timed hfind hload hf b)) (by decide) (.inl (by decide))
  · obtain ⟨m, he, hm, -⟩ := exec_arehome_run a b s
    have hkind' : s.cx.wait.map Wait.kind = some (.rehome ((s.cx.s a).extractLsb' 0 48)) := by rw [hwait, ← hkind]; rfl
    refine ⟨_, plain_retire _ s (he.trans (finish_ok m s _ ((hm hkind').trans ?_)))⟩
    rw [rehomeTold_run, htold]
    rfl

end Sys2Proof.Claims
end

section
/-! Events, sweeps and the end of regions (spec 06 R140; 07 R149, R161, R163 to R168; 08 R191, R196; 09 R202; 19 R337, R339, R343, R344; 21 R372), and the settling of O50. -/

namespace Sys2Proof.Machine
open Sys2Proof.Claims

/-! ### Events at the core that they are for (R149, R161, R191) -/

theorem exec_eventArrival {s : State} {p : Packet} {e : Event} {rs : Option (BitVec 4)} {id : Nat} (hbody : p.body = .event e rs id) (h : e.cancel = false) :
    exec (.eventArrival p) s = .next (s.landEvent p e rs id State.arriveEvent) := by
  change execEventArrival p s = _
  rw [execEventArrival, hbody]
  dsimp only
  rw [h, if_neg Bool.false_ne_true]
theorem exec_cancelArrival {s : State} {p : Packet} {e : Event} {rs : Option (BitVec 4)} {id : Nat} (hbody : p.body = .event e rs id) (h : e.cancel = true) :
    exec (.cancelArrival p) s = .next (s.landEvent p e rs id State.arriveCancel) := by
  change execCancelArrival p s = _
  rw [execCancelArrival, hbody]
  dsimp only
  rw [h, if_pos rfl]

section
variable {s u : State} {p : Packet} {e : Event} {home : Nat × Nat} (hto : ToOpenCore s p) (hfree : Unblocked s p)
  (hhome : (s.takeOff p).homeNow (s.hostRegion p.rcb (epCore p.dst)) (epCore p.dst) e.dst.toNat = (home, u))
include hto hfree hhome

/-- At the core of its actor's home it is filed and acknowledged. -/
theorem landEvent_files (hhere : home = (s.pkgNum, epCore p.dst)) (rs : Option (BitVec 4)) (id : Nat) (file : State → Nat → Nat → Event → State) :
    s.landEvent p e rs id file =
      (file (if epPkg p.src = s.pkgNum then u else u.pushedElsewhere (s.socOf (s.hostRegion p.rcb (epCore p.dst))))
        (s.hostRegion p.rcb (epCore p.dst)) (epCore p.dst) e).push [eventAckOf p rs id] := by
  rw [State.landEvent, if_neg (not_elsewhere_of_open hto), if_neg (reqBlocked_of_unblocked hfree), if_neg (not_toSealed_of_open hto)]
  dsimp only
  rw [hhome]
  exact if_pos hhere

/-- At any other core it is sent on to that of the home. -/
theorem landEvent_forwards (haway : home ≠ (s.pkgNum, epCore p.dst)) (rs : Option (BitVec 4)) (id : Nat) (file : State → Nat → Nat → Event → State) :
    s.landEvent p e rs id file = u.push [{ p with dst := corePt home.1 home.2 }] := by
  rw [State.landEvent, if_neg (not_elsewhere_of_open hto), if_neg (reqBlocked_of_unblocked hfree), if_neg (not_toSealed_of_open hto)]
  dsimp only
  rw [hhome]
  exact if_neg haway

end

/-! ### The in-flight table, and actor-home caches (R164, R196, R337, R339) -/

/-- An entry of the in-flight table acknowledged at the clock of its society's sweeps. -/
def State.acknowledged (s : State) (f : Flight) : Flight :=
  { f with acked := some (s.clock (((kget s.socs f.soc).map Society.scope).getD .package)), refused := none }

theorem exec_inFlightAck {s : State} {p : Packet} {id : Nat} (hbody : p.body = .eventAck none id) (hpkg : epPkg p.dst = s.pkgNum) :
    exec (.inFlightAck p) s = .next ((s.takeOff p).modCore (epCore p.dst) (fun co => co.modFlight id s.acknowledged)) := by
  change execInFlightAck p s = _
  rw [execInFlightAck, hbody]
  dsimp only
  rw [if_neg (not_not.2 hpkg)]
  rfl

/-- Taking a packet out of the mesh leaves the in-flight table of its core. -/
theorem State.flight_takeOff (s : State) (p : Packet) : ((s.takeOff p).getCore (epCore p.dst)).flight = (s.getCore (epCore p.dst)).flight := by
  unfold State.takeOff
  dsimp only
  split
  · rw [State.getCore_modCore_self]
    rfl
  · rfl

/-- A core whose actor-home cache has dropped a line. -/
def Core.forgetHome (key : Nat) (c : Core) : Core := { c with homes := kdel c.homes key }

theorem exec_homeCacheInvalidate {s : State} {p : Packet} {a : BitVec 48} (hbody : p.body = .homeInvalidate a)
    (hnone : ∀ f ∈ (s.getCore (epCore p.dst)).flight, f.event.dst = a → f.refused = none) : exec (.homeCacheInvalidate p) s =
      .next ((s.takeOff p).modCore (epCore p.dst) (Core.forgetHome (homeKey (s.socOf p.rcb) a.toNat))) := by
  have hdue : ((((s.takeOff p).modCore (epCore p.dst) (Core.forgetHome (homeKey (s.socOf p.rcb) a.toNat))).getCore (epCore p.dst)).flight.filter
      (fun f => f.event.dst == a && f.refused.isSome)) = [] := by
    rw [State.getCore_modCore_self, show (Core.forgetHome _ _).flight = _ from s.flight_takeOff p, List.filter_eq_nil_iff]
    intro f hf
    simpa using hnone f hf
  change execHomeCacheInvalidate p s = _
  rw [execHomeCacheInvalidate, hbody]
  exact congrArg (fun l => Host.Outcome.next (List.foldl (fun (t : State) f => t.resend (epCore p.dst) f) _ l)) hdue

theorem exec_sealedEventResend {s : State} {core id t : Nat} {f : Flight} (hfind : (s.getCore core).flight.find? (fun f => f.id == id) = some f)
    (hrefused : f.refused = some t) (hover : t + 4096 ≤ s.cycle) : exec (.sealedEventResend core id) s = .next (s.resend core f) := by
  have hdue : s.resendDue f = true := by
    rw [State.resendDue, hrefused]
    exact decide_eq_true hover
  change execSealedEventResend core id s = _
  rw [execSealedEventResend, hfind]
  dsimp only
  rw [if_pos hdue]

/-! ### Sweeps (R163 to R168, R202) -/

/-- Whether a society's first push lies before the start of its next sweep, which publishes only then (R202). -/
def Society.pushedByNext (so : Society) : Bool :=
  match so.pushed with
  | none => false
  | some t => decide (t < so.next)

/-- A core whose in-flight table has freed a society's entries that were acknowledged before the start of a sweep (R164). -/
def Core.freeFlights (soc start : Nat) (c : Core) : Core :=
  { c with flight := c.flight.filter (fun f => !(f.soc == soc && (match f.acked with | none => false | some t => decide (t < start)))) }

section
variable {s : State} {soc : Nat} {so : Society} (hsoc : kget s.socs soc = some so)
include hsoc

theorem State.modSoc_known (f : Society → Society) : s.modSoc soc f = { s with socs := kset s.socs soc (f so) } := by
  rw [State.modSoc, hsoc]

theorem exec_sweepStart (hidle : so.sweep = none) (hnext : so.next ≤ s.clock so.scope) :
    exec (.sweepStart soc) s = .next { s with socs := kset s.socs soc { so with
      sweep := some { scope := so.scope, start := so.next, publishes := so.pushedByNext, holds := so.pushedByNext, lost := false, samples := [] }
      next := (s.clock so.scope / sweepPeriod so.scope + 1) * sweepPeriod so.scope
      other := none } } := by
  have hdue : s.sweepDue so = true := by
    rw [State.sweepDue, hidle]
    exact decide_eq_true hnext
  change execSweepStart soc s = _
  rw [execSweepStart, hsoc]
  exact (if_pos hdue).trans (congrArg _ (State.modSoc_known hsoc _))

/-- The oldest published value that has still to reach a core reaches it. -/
theorem State.kilnArrives_oldest {core : Nat} {x : Nat × Dword} (h : so.arriving.find? (fun x => x.1 == core) = some x) :
    s.kilnArrives soc core = { s with socs := kset s.socs soc { so with arriving := so.arriving.erase x } }.kilnAt soc x.2 core := by
  rw [State.kilnArrives, hsoc, Option.map_some, Option.getD_some, h]
  dsimp only
  rw [State.modSoc_known hsoc]

variable {w : Sweep} (hsweep : so.sweep = some w)
include hsweep

theorem exec_sweepSample {core : Nat} (hcore : core ∈ s.sampleCores soc) (hnew : kget w.samples core = none)
    (hwave : w.start + sweepDelay w.scope ≤ s.clock w.scope) : exec (.sweepSample soc core) s =
      .next ({ s with socs := kset s.socs soc { so with sweep := some { w with samples := kset w.samples core (s.localFloor soc core w.start) } } }.modCore core
        (Core.freeFlights soc w.start)) := by
  have hdue : (s.sampleDue so core && (s.sampleCores soc).contains core) = true := by
    rw [State.sampleDue, hsweep]
    dsimp only
    rw [hnew, decide_eq_true hwave, List.contains_iff_mem.2 hcore]
    rfl
  change execSweepSample soc core s = _
  rw [execSweepSample, hsoc]
  dsimp only
  rw [hsweep]
  dsimp only
  rw [if_pos hdue, State.modSoc_known hsoc]
  rfl

variable (hinstant : w.start + sweepPublish w.scope ≤ s.clock w.scope)
include hinstant

theorem exec_kilnPublish (hpublishes : w.publishes = true) (hall : ∀ c ∈ s.sampleCores soc, (kget w.samples c).isSome = true)
    (hrest : s.awaitsOthers so = false) :
    let least := leastTime (w.samples.map (fun x => x.2.toNat) ++ (so.other.map BitVec.toNat).toList)
    let kiln := if so.kiln.ult least then least else so.kiln
    exec (.kilnPublish soc) s = .next { s with socs := kset s.socs soc { so with
      sweep := none, kiln := kiln, arriving := so.arriving ++ (s.coresOf soc).map (fun c => (c, kiln)) } } := by
  have hdue : s.publishDue soc so = true := by
    rw [State.publishDue, hsweep]
    dsimp only
    rw [hpublishes, decide_eq_true hinstant, List.all_eq_true.2 hall, hrest]
    rfl
  change execKilnPublish soc s = _
  rw [execKilnPublish, hsoc]
  dsimp only
  rw [hsweep]
  dsimp only
  rw [if_pos hdue, State.modSoc_known hsoc]

theorem exec_unpublishedSweepInstant (hsilent : w.publishes = false) :
    exec (.unpublishedSweepInstant soc) s = .next { s with socs := kset s.socs soc { so with sweep := none } } := by
  have hdue : s.unpublishedDue w = true := by
    rw [State.unpublishedDue, hsilent]
    exact decide_eq_true hinstant
  change execUnpublishedSweepInstant soc s = _
  rw [execUnpublishedSweepInstant, hsoc]
  dsimp only
  rw [hsweep]
  dsimp only
  rw [if_pos hdue, State.modSoc_known hsoc]

end

/-! ### The end of a region (R140, R343, R344, R372) -/

section
variable {s : State} {rcb : Nat} {r : Region} (hr : s.getRegion? rcb = some r) (hrun : r.running = true)
include hrun

/-- No lost plane keeps a write of the region's commands from its place (R396). -/
theorem State.endDue_placed (hplaced : ∀ e ∈ s.early, e.rcb = rcb → s.heldUp e.line true = false) : s.endDue rcb r = match r.fault with
    | some _ => (r.stopping && s.tasksSettled rcb) || ((s.liveIn rcb).isEmpty && !s.drainingIn rcb)
    | none => s.quietRegion rcb r := by
  have hnone : s.early.any (fun e => e.rcb == rcb && s.heldUp e.line true) = false := by
    rw [List.any_eq_false]
    intro e he
    simpa using hplaced e he
  rw [State.endDue, hrun, hnone]
  rfl

include hr

theorem exec_regionDoneReport_quiet (hplaced : ∀ e ∈ s.early, e.rcb = rcb → s.heldUp e.line true = false) (hfault : r.fault = none)
    (hquiet : s.quietRegion rcb r = true) : exec (.regionDoneReport rcb) s = .next (s.finishRegion rcb r (statusReason r.status)) := by
  have hdue := State.endDue_placed hrun hplaced
  rw [hfault] at hdue
  change execRegionDoneReport rcb s = _
  rw [execRegionDoneReport, hr]
  dsimp only
  rw [hdue.trans hquiet, if_neg (by decide), hfault]

theorem exec_regionDoneReport_stopped {f : Byte} (hplaced : ∀ e ∈ s.early, e.rcb = rcb → s.heldUp e.line true = false) (hfault : r.fault = some f)
    (hstop : r.stopping = true) (hsettled : s.tasksSettled rcb = true) : exec (.regionDoneReport rcb) s =
      .next (if (s.clearRegion rcb).drainingIn rcb then s.clearRegion rcb else (s.clearRegion rcb).finishRegion rcb r (some f)) := by
  have hdue : s.endDue rcb r = true := by
    rw [State.endDue_placed hrun hplaced, hfault]
    dsimp only
    rw [hstop, hsettled]
    rfl
  change execRegionDoneReport rcb s = _
  rw [execRegionDoneReport, hr]
  dsimp only
  rw [hdue, if_neg (by decide), hfault]

theorem exec_regionStop : exec (.regionStop rcb) s = .next (r.cores.foldl (fun (t : State) c => t.requestYield rcb c)
    (s.modRegion rcb (fun r => { r with fault := some (r.fault.getD 0x12) }))) := by
  change execRegionStop rcb s = _
  rw [execRegionStop, hr]
  dsimp only
  rw [hrun, if_neg (by decide)]

end

end Sys2Proof.Machine

namespace Sys2Proof.Claims
open Sys2Proof.Machine

/-- Settles O50, each step by the lemma about its clause; an event's by where its actor lives (`landEvent_files`, `landEvent_forwards`). -/
theorem eventsSweepsAndRegions : Obligations.EventsSweepsAndRegions := by
  unfold Obligations.EventsSweepsAndRegions
  intro s
  refine ⟨fun p e rs id u hbody hto hfree hhome => ⟨fun hevent => ?_, fun hcancel => ?_⟩, fun p e rs id u pkg home hbody hto hfree hhome haway => ?_,
    fun p id hbody hpkg => exec_inFlightAck hbody hpkg, fun p a hbody hnone => exec_homeCacheInvalidate hbody hnone,
    fun core id f t hfind hrefused hover => exec_sealedEventResend hfind hrefused hover,
    fun soc so hsoc => ⟨exec_sweepStart hsoc, fun w core hsweep => exec_sweepSample hsoc hsweep,
      fun w hsweep hinstant => ⟨exec_kilnPublish hsoc hsweep hinstant, exec_unpublishedSweepInstant hsoc hsweep hinstant⟩,
      fun core kiln => State.kilnArrives_oldest hsoc⟩,
    fun rcb r hr hrun hplaced => ⟨exec_regionDoneReport_quiet hr hrun hplaced, fun f => exec_regionDoneReport_stopped hr hrun hplaced,
      exec_regionStop hr hrun⟩⟩
  · exact (exec_eventArrival hbody hevent).trans (congrArg _ (landEvent_files hto hfree hhome rfl ..))
  · exact (exec_cancelArrival hbody hcancel).trans (congrArg _ (landEvent_files hto hfree hhome rfl ..))
  · cases hcancel : e.cancel with
    | false => exact (exec_eventArrival hbody hcancel).trans (congrArg _ (landEvent_forwards hto hfree hhome haway ..))
    | true => exact (exec_cancelArrival hbody hcancel).trans (congrArg _ (landEvent_forwards hto hfree hhome haway ..))

end Sys2Proof.Claims
end

section
/-! SUPPORT. Every step keeps the memories canonical (log 3): `State.Canon` speaks of memory, of the cores' scratchpads and of
the checkpoint's images, so an operation that writes none of them keeps it by `rfl`, and the few that do write them by the laws of
`Memory`. One lemma per operation, in the order of the model; a composed operation chains its parts' lemmas in the order in which
it performs them. The option keeps the default proofs of the first lemmas (`by rfl`) from waiting for the kernel in a thread each. -/

namespace Sys2Proof.Machine

set_option Elab.async false

section
variable {s t : State}

/-- A core, held or reset, has its scratchpad in canonical form. -/
theorem State.Canon.getCore {n : Nat} (h : s.Canon) : (s.getCore n).Canon := by
  obtain ⟨-, hcores, -⟩ := h
  unfold State.getCore kgetD
  cases hn : kget s.cores n with
  | none => rfl
  | some c => exact hcores (n, c) (mem_of_kget hn)

theorem State.Canon.write {a n v : Nat} (h : s.Canon) : (s.mem.write a n v).wf = true := Memory.wf_write _ _ _ _ h.1

/-- What leaves memory, the cores and the checkpoint alone keeps the canonical form. -/
theorem State.Canon.same (h : s.Canon) (hmem : t.mem = s.mem := by rfl) (hcores : t.cores = s.cores := by rfl)
    (hckpt : t.ckpt = s.ckpt := by rfl) :
    t.Canon := by
  obtain ⟨hm, hc, hk⟩ := h
  exact ⟨hmem ▸ hm, hcores ▸ hc, hckpt ▸ hk⟩

theorem State.Canon.withLeases {l : List (Nat × (Nat × Nat))} (h : s.Canon) : State.Canon { s with leases := l } := h
theorem State.Canon.withFlash {f : Flash} (h : s.Canon) : State.Canon { s with flash := f } := h

/-- What writes memory keeps it where what it writes is canonical. -/
theorem State.Canon.withMem (h : s.Canon) (hmem : t.mem.wf = true) (hcores : t.cores = s.cores := by rfl)
    (hckpt : t.ckpt = s.ckpt := by rfl) :
    t.Canon := by
  obtain ⟨-, hc, hk⟩ := h
  exact ⟨hmem, hcores ▸ hc, hckpt ▸ hk⟩

/-- What writes cores keeps it where their scratchpads are canonical. -/
theorem State.Canon.withCores (h : s.Canon) (hcores : ∀ x ∈ t.cores, x.2.Canon) (hmem : t.mem = s.mem := by rfl)
    (hckpt : t.ckpt = s.ckpt := by rfl) :
    t.Canon := by
  obtain ⟨hm, -, hk⟩ := h
  exact ⟨hmem ▸ hm, hcores, hckpt ▸ hk⟩

/-- A change of every core that leaves the scratchpads alone. -/
theorem State.Canon.mapCores {f : Nat × Core → Nat × Core} (h : s.Canon) (hf : ∀ x, (f x).2.scratch = x.2.scratch) :
    ∀ x ∈ s.cores.map f, x.2.Canon := by
  obtain ⟨-, hc, -⟩ := h
  intro x hx
  obtain ⟨y, hy, rfl⟩ := List.mem_map.1 hx
  have hy := hc y hy
  unfold Core.Canon at hy ⊢
  rwa [hf y]

theorem State.Canon.setCore {n : Nat} {c : Core} (h : s.Canon) (hc : c.Canon) : (s.setCore n c).Canon :=
  h.withCores fun x hx => by
    obtain rfl | hx := mem_kset hx
    · exact hc
    · exact h.2.1 x hx

theorem State.Canon.modCore {n : Nat} {f : Core → Core} (h : s.Canon) (hf : ∀ c, (f c).scratch = c.scratch := by exact fun _ => rfl) :
    (s.modCore n f).Canon :=
  h.setCore (by
    have hcore := h.getCore (n := n)
    unfold Core.Canon at hcore ⊢
    rwa [hf])

theorem State.Canon.modCo {f : Core → Core} (h : s.Canon) (hf : ∀ c, (f c).scratch = c.scratch := by exact fun _ => rfl) :
    (s.modCo f).Canon := h.modCore hf

theorem State.Canon.ite {c : Prop} {_ : Decidable c} (hs : s.Canon) (ht : t.Canon) : (if c then s else t).Canon := by split <;> assumption

theorem State.Canon.foldl {α : Type} {f : State → α → State} {l : List α} (h : s.Canon) (hf : ∀ t a, t.Canon → (f t a).Canon) :
    (l.foldl f s).Canon := by
  induction l generalizing s with
  | nil => exact h
  | cons a l ih => exact ih (hf s a h)
end

/-- What an instruction or step answers has its memories in canonical form, where it is a state. -/
def CanonNext (o : Host.Outcome State Fault Refusal) : Prop :=
  match o with
  | .next t => t.Canon
  | _ => True

theorem CanonNext.ite {o p : Host.Outcome State Fault Refusal} {c : Prop} {_ : Decidable c} (ho : CanonNext o) (hp : CanonNext p) :
    CanonNext (if c then o else p) := by
  split <;> assumption

/-- A computation keeps the canonical form. -/
def KeepsCanon {ε α : Type} (m : ExceptT ε (StateM State) α) : Prop := ∀ s : State, s.Canon → (m s).2.Canon

section
variable {ε α β : Type}

theorem KeepsCanon.pure {a : α} : KeepsCanon (pure a : ExceptT ε (StateM State) α) := fun _ h => h
theorem KeepsCanon.throw {e : ε} : KeepsCanon (throw e : ExceptT ε (StateM State) α) := fun _ h => h
theorem KeepsCanon.throw_bind {e : ε} {f : α → ExceptT ε (StateM State) β} : KeepsCanon (MonadExcept.throw e >>= f) := fun _ h => h

/-- A sequence of computations that keep the canonical form keeps it, also where the first one stops. -/
theorem KeepsCanon.bind {m : ExceptT ε (StateM State) α} {f : α → ExceptT ε (StateM State) β} (hm : KeepsCanon m)
    (hf : ∀ a, KeepsCanon (f a)) :
    KeepsCanon (m >>= f) := by
  intro s h
  have hstep := hm s h
  change ((ExceptT.bind m f) s).2.Canon
  simp only [ExceptT.bind, ExceptT.mk, StateT.bind, ExceptT.bindCont, Bind.bind]
  rcases hms : m s with ⟨_ | a, t⟩ <;> rw [hms] at hstep
  · exact hstep
  · exact hf a t hstep

theorem KeepsCanon.get_bind {f : State → ExceptT ε (StateM State) α} (hf : ∀ s, s.Canon → KeepsCanon (f s)) : KeepsCanon (get >>= f) :=
    fun s h => hf s h s h

theorem KeepsCanon.set {t : State} (h : t.Canon) : KeepsCanon (set t : ExceptT ε (StateM State) PUnit) := fun _ _ => h

theorem KeepsCanon.modify {f : State → State} (hf : ∀ s, s.Canon → (f s).Canon) : KeepsCanon (modify f : ExceptT ε (StateM State) PUnit) :=
    fun s h => hf s h

theorem KeepsCanon.ite {m m' : ExceptT ε (StateM State) α} {c : Prop} {_ : Decidable c} (h : KeepsCanon m) (h' : KeepsCanon m') :
    KeepsCanon (if c then m else m') := by
  split <;> assumption

theorem KeepsCanon.mapM {f : α → ExceptT ε (StateM State) β} {l : List α} (hf : ∀ a, KeepsCanon (f a)) : KeepsCanon (l.mapM f) := by
  induction l with
  | nil => exact KeepsCanon.pure
  | cons a l ih =>
    rw [List.mapM_cons]
    exact (hf a).bind fun _ => ih.bind fun _ => KeepsCanon.pure

theorem KeepsCanon.foldlM {f : β → α → ExceptT ε (StateM State) β} {l : List α} {b : β} (hf : ∀ b a, KeepsCanon (f b a)) :
    KeepsCanon (l.foldlM f b) := by
  induction l generalizing b with
  | nil => exact KeepsCanon.pure
  | cons a l ih =>
    rw [List.foldlM_cons]
    exact (hf b a).bind fun _ => ih
end

/-! ### The shared operations over contexts, cores and registers -/
section
variable {s : State} {core k rcb : Nat} {c : Context} {f : Context → Context} {r : Region} {e : TrapEntry} {cause : Byte}

theorem State.Canon.setCtx (h : s.Canon) : (s.setCtx k c).Canon := h
theorem State.Canon.modCtx (h : s.Canon) : (s.modCtx k f).Canon := h.setCtx
theorem State.Canon.setCx (h : s.Canon) : (s.setCx c).Canon := h.setCtx
theorem State.Canon.modCx (h : s.Canon) : (s.modCx f).Canon := h.setCx
theorem State.Canon.setRegion (h : s.Canon) : (s.setRegion rcb r).Canon := h

theorem State.Canon.modRegion {f : Region → Region} (h : s.Canon) : (s.modRegion rcb f).Canon := by
  unfold State.modRegion
  repeat' split
  exacts [h, h.setRegion]

theorem State.Canon.modWork {f : Work → Work} (h : s.Canon) : (s.modWork rcb core f).Canon := h.modRegion
theorem State.Canon.retire (h : s.Canon) : s.retire.Canon := h.modCx
theorem State.Canon.goto {t : Dword} (h : s.Canon) : (s.goto t).Canon := h.modCx
theorem State.Canon.push {ps : List Packet} (h : s.Canon) : (s.push ps).Canon := h
theorem State.Canon.endRegion {reason : Byte} (h : s.Canon) : (s.endRegion rcb reason).Canon := h.modRegion
theorem State.Canon.emptyShapes (h : s.Canon) : (s.emptyShapes core).Canon := State.Canon.ite h.modCore h
theorem State.Canon.endTime (h : s.Canon) : (s.endTime c).Canon := h.modRegion
theorem State.Canon.endCtx (h : s.Canon) : (s.endCtx k).Canon := h.endTime.setCtx.push

theorem State.Canon.moveReserved (h : s.Canon) : (s.moveReserved rcb core r).Canon :=
    State.Canon.ite h (State.Canon.ite h.setRegion h.endRegion)

theorem State.Canon.sealRegion {lt : Nat} (h : s.Canon) : (s.sealRegion core lt rcb r).Canon := by
  unfold State.sealRegion
  dsimp only
  split
  · split
    · exact State.Canon.endRegion (State.Canon.ite h.modWork.push.endRegion h.modWork.push)
    · split
      · exact h.modWork.push.endRegion
      · exact h.modWork.push
  · refine State.Canon.moveReserved ?_
    split
    · exact State.Canon.endRegion (State.Canon.ite h.modWork.push.endRegion h.modWork.push)
    · split
      · exact h.modWork.push.endRegion
      · exact h.modWork.push

theorem State.Canon.sealNow (h : s.Canon) : (s.sealNow core).Canon := by
  have hsealing (agents : List (Nat × Nat)) {c : Core} (hc : c.Canon) : ({ s with agents := agents }.setCore core c).Canon :=
    State.Canon.setCore h.same hc
  refine State.Canon.push (State.Canon.foldl (State.Canon.foldl (hsealing _ h.getCore) fun t x ht => ?_) fun _ _ ht => ht.endCtx)
  split
  exacts [ht, ht.sealRegion]

theorem State.Canon.seal (h : s.Canon) : (s.seal core).Canon := State.Canon.ite h (State.Canon.ite h.sealNow (h.setCore h.getCore))
theorem State.Canon.enterS {slot : Nat} (h : s.Canon) : (s.enterS core slot e).Canon := h.modCtx
theorem State.Canon.trapToS (h : s.Canon) : (s.trapToS k e).Canon := State.Canon.ite h.modCtx.enterS h.modCtx

theorem State.Canon.takeTrap {value : Dword} {addr : Dword} {pfx : Dword} (h : s.Canon) : (s.takeTrap k cause value addr pfx).Canon :=
  State.Canon.ite h.setCtx (State.Canon.ite h.trapToS (State.Canon.ite h.seal h.enterS))

theorem State.Canon.eretS (h : s.Canon) : s.eretS.Canon := by
  have hreleased : State.Canon { s with cores := releaseSeals s.coreNum s.cores } := h.withCores (h.mapCores fun _ => rfl)
  unfold State.eretS
  dsimp only
  split
  · exact hreleased.modCx.goto.modCx
  · exact hreleased.modCx.modCtx.retire.modCx

theorem State.Canon.eretU (h : s.Canon) : s.eretU.Canon := h.modCx.goto
theorem keepsCanon_guardTrap {ok : Bool} {v : Dword} : KeepsCanon (guardTrap ok cause v) := KeepsCanon.ite KeepsCanon.pure KeepsCanon.throw
theorem keepsCanon_guardPoison {bad : Bool} : KeepsCanon (guardPoison bad) := KeepsCanon.ite KeepsCanon.throw KeepsCanon.pure
theorem keepsCanon_draw : KeepsCanon draw := KeepsCanon.get_bind fun _ hs => (KeepsCanon.set hs.same).bind fun _ => KeepsCanon.pure
theorem keepsCanon_cx : KeepsCanon cx := KeepsCanon.get_bind fun _ _ => KeepsCanon.pure
theorem keepsCanon_modCx : KeepsCanon (modCx f) := KeepsCanon.modify fun _ hs => hs.modCx
end

/-! ### Lines of memory (spec 10 R211, R221, R231; 11 R240, R241) -/
section
variable {s : State} {line n pa v : Nat} {p : Bool}

theorem State.Canon.settle (h : s.Canon) : (s.settle line).Canon := by
  unfold State.settle
  repeat' split
  exacts [h, h, h, h.withMem h.write]

theorem State.Canon.dropBehind (h : s.Canon) : (s.dropBehind line).Canon := by
  unfold State.dropBehind
  repeat' split
  exacts [h, h, h.withMem h.write]

theorem State.Canon.trimSlice (h : s.Canon) : (s.trimSlice line).Canon := by
  unfold State.trimSlice
  dsimp only
  repeat' split
  exacts [h, h, h.same.dropBehind]

theorem State.Canon.storeLine {wt : Bool} (h : s.Canon) : (s.storeLine pa n v p wt).Canon := by
  unfold State.storeLine
  dsimp only
  split
  · exact h.settle.withMem h.settle.write
  · split
    · exact h.settle.withMem h.settle.write
    · exact State.Canon.trimSlice (h.settle.withMem h.settle.write)

theorem State.Canon.writeBack (h : s.Canon) : (s.writeBack line).Canon := by
  unfold State.writeBack
  repeat' split
  exacts [h, h, h]

theorem State.Canon.maybeWriteBack (h : s.Canon) : (s.maybeWriteBack line).Canon := by
  unfold State.maybeWriteBack
  repeat' split
  exacts [h, h, h, h]

theorem State.Canon.rekey {key : Nat} (h : s.Canon) : (s.rekey line key).Canon := State.Canon.ite h (h.withMem h.write)

theorem State.Canon.storeDeviceMem (h : s.Canon) : (s.storeDeviceMem pa n v p).Canon :=
    State.Canon.ite h.maybeWriteBack.same h.maybeWriteBack.same.trimSlice

theorem State.Canon.windowStore {core : Nat} {slot : Nat} {off : Nat} {x : Dword} (h : s.Canon) :
    (s.windowStore core slot off x).2.Canon := by
  unfold State.windowStore
  dsimp only
  repeat' split
  exacts [h, h.setCtx, h]
end

/-! ### The switch planes and their directory (spec 22 R386 to R394) -/
section
variable {s : State} {ag k line n o pa pkg r t v : Nat} {b p : Bool} {st : DirState} {e : DirEntry} {pick : Early → Bool} {a : Agent}

theorem State.Canon.modDom {f : Domain → Domain} (h : s.Canon) : (s.modDom f).Canon := h
theorem State.Canon.setCopy {c : Option CopyState} (h : s.Canon) : (s.setCopy pkg line c).Canon := h.modDom
theorem State.Canon.setX (h : s.Canon) : (s.setX line b).Canon := h.modDom
theorem State.Canon.setD (h : s.Canon) : (s.setD line b).Canon := h.modDom
theorem State.Canon.setDir {sharers : List Nat} (h : s.Canon) : (s.setDir line st o sharers).Canon := h.modDom
theorem State.Canon.freeDir (h : s.Canon) : (s.freeDir line).Canon := h.modDom
theorem State.Canon.raiseRH (h : s.Canon) : (s.raiseRH pkg line).Canon := State.Canon.ite h.modDom h

theorem State.Canon.giveUp (h : s.Canon) : (s.giveUp line pkg).Canon := by
  unfold State.giveUp
  repeat' split
  exacts [h, h.raiseRH.setCopy]

theorem State.Canon.arrive {data : VReg} {pois : Bool} (h : s.Canon) : (s.arrive line data pois).Canon := h.storeLine.withLeases
theorem State.Canon.arriveFree (h : s.Canon) : (s.arriveFree line).Canon := h.same.arrive

theorem State.Canon.receive (h : s.Canon) : (s.receive line pkg).Canon :=
    State.Canon.ite (State.Canon.modDom (State.Canon.ite h.arrive h.arriveFree)) h

theorem State.Canon.writtenHome {dirty : Bool} (h : s.Canon) : (s.writtenHome line dirty).Canon :=
    State.Canon.ite h (State.Canon.ite h.arriveFree h.arrive)

theorem State.Canon.wrote (h : s.Canon) : (s.wrote line o).2.Canon := by
  unfold State.wrote
  repeat' split
  exacts [h, h]

theorem State.Canon.ownerDirty (h : s.Canon) : (s.ownerDirty line e).2.Canon := by
  unfold State.ownerDirty
  repeat' split
  exacts [h, h.wrote, h, h]

theorem State.Canon.recallLine (h : s.Canon) : (s.recallLine line e).Canon :=
  State.Canon.freeDir (State.Canon.setD (State.Canon.setX (State.Canon.foldl
    (State.Canon.ite h.ownerDirty.writtenHome h.ownerDirty) fun _ _ ht => ht.giveUp)))

theorem State.Canon.makeRoom (h : s.Canon) : (s.makeRoom line).Canon := by
  unfold State.makeRoom
  repeat' split
  exacts [h, h.recallLine]

theorem State.Canon.grantFromHome (h : s.Canon) : (s.grantFromHome line r st).Canon := h.makeRoom.raiseRH.setX.setD.setDir

theorem State.Canon.getS (h : s.Canon) : (s.getS line r).Canon := by
  unfold State.getS
  dsimp only
  repeat' split
  exacts [h, h.grantFromHome.setCopy.receive, h, h.setDir, h.ownerDirty.writtenHome.setCopy.setD.setDir, h, h.setCopy.setDir.receive,
    h.wrote.setCopy.setCopy.setDir.receive, h.wrote.setCopy.setCopy.setDir.receive, h.setCopy.setCopy.setDir.receive,
    h.setCopy.setDir.receive]

theorem State.Canon.getM (h : s.Canon) : (s.getM line r).Canon := by
  unfold State.getM
  dsimp only
  repeat' split
  exacts [h, h.grantFromHome.setCopy.receive, h.recallLine, ((((h.foldl fun _ _ ht => ht.giveUp).raiseRH).setD).setCopy).setDir,
    (((((h.foldl fun _ _ ht => ht.giveUp).raiseRH).setD).setCopy).setDir).receive, h, ((h.foldl fun _ _ ht => ht.giveUp).setCopy).setDir,
    (((h.foldl fun _ _ ht => ht.giveUp).setCopy).setDir).receive]

theorem State.Canon.fill {write : Bool} (h : s.Canon) : (s.fill line write).Canon :=
  State.Canon.ite (State.Canon.ite h.getM h.getS) (State.Canon.ite h.setCopy h)

theorem State.Canon.takeFrame {f : Nat} (h : s.Canon) : (s.takeFrame f).Canon := h

theorem State.Canon.frameFirst (h : s.Canon) : (s.frameFirst pa).Canon := by
  unfold State.frameFirst
  repeat' split
  exacts [h.takeFrame, h, h]

theorem State.Canon.observeBy {tag : Nat} (h : s.Canon) : (s.observeBy tag pick line).Canon := State.Canon.ite h h
theorem State.Canon.observe (h : s.Canon) : (s.observe k line).Canon := h.observeBy

theorem State.Canon.noteTime {ctx : Nat} {inc : BitVec 12} {rcb : Nat} (h : s.Canon) : (s.noteTime ctx inc rcb t).Canon :=
    h.modCtx.modRegion

theorem State.Canon.placeWrite {e : Early} (h : s.Canon) : (s.placeWrite e).Canon := by
  refine State.Canon.noteTime (h.frameFirst.fill.rekey.storeLine.withCores (h.frameFirst.fill.rekey.storeLine.mapCores fun _ => ?_))
  split <;> rfl

theorem State.Canon.placeThose (h : s.Canon) : (s.placeThose pick).Canon := h.same.foldl fun _ _ ht => ht.placeWrite
theorem State.Canon.placeFor {core : Nat} (h : s.Canon) : (s.placeFor core line).Canon := State.Canon.ite h h.placeThose
theorem State.Canon.placeSeen (h : s.Canon) : (s.placeSeen k line).Canon := State.Canon.ite h h.placeThose
theorem State.Canon.raiseAgent (h : s.Canon) : (s.raiseAgent ag t).Canon := State.Canon.ite h h

theorem State.Canon.hwLoad (h : s.Canon) : (s.hwLoad ag pa n).2.Canon := by
  unfold State.hwLoad
  dsimp only
  repeat' split
  exacts [h, h.placeFor.fill.settle.raiseAgent]

theorem State.Canon.hwPut {wt : Bool} {key : Option Nat} (h : s.Canon) : (s.hwPut ag pa n v p wt key).Canon :=
  State.Canon.ite h.same h.placeFor.frameFirst.fill.rekey.storeLine.raiseAgent

theorem State.Canon.hwStore (h : s.Canon) : (s.hwStore ag pa n v p).Canon := h.hwPut

theorem State.Canon.raiseTime (h : s.Canon) : (s.raiseTime a t).Canon := by
  unfold State.raiseTime
  repeat' split
  exacts [h.raiseAgent, h, h.modCtx, h]

theorem State.Canon.placeAgent (h : s.Canon) : (s.placeAgent a line).Canon := by
  unfold State.placeAgent
  repeat' split
  exacts [h.placeFor, h.placeSeen, h]

theorem State.Canon.walkLoad {ag : Agent} (h : s.Canon) : (s.walkLoad ag pa).2.Canon := by
  unfold State.walkLoad
  dsimp only
  repeat' split
  exacts [h, h.placeAgent.fill.settle.raiseTime]

theorem State.Canon.homeLoad {t0 : Nat} (h : s.Canon) : (s.homeLoad t0 pa n).2.Canon := by
  unfold State.homeLoad
  dsimp only
  repeat' split
  exacts [h, h.fill.settle]
end

/-! ### Device space (spec 21 R363) -/
section
variable {s : State} {v : Dword} {n off pa : Nat}

theorem State.Canon.putDesc {q : Queue} (h : s.Canon) : (s.putDesc q off v).Canon := h.hwStore
theorem State.Canon.raiseIrq {i : IrqSource} (h : s.Canon) : (s.raiseIrq i).Canon := State.Canon.ite h h
theorem State.Canon.claimIrq {target : Nat} (h : s.Canon) : (s.claimIrq target).Canon := h

theorem State.Canon.stopQueue {addr : Dword} {fcode : Nat} (h : s.Canon) : (s.stopQueue n addr fcode).Canon := by
  unfold State.stopQueue
  split
  · exact h
  · exact State.Canon.same (State.Canon.ite h.putDesc.putDesc.putDesc.raiseIrq h.putDesc.putDesc.putDesc)

theorem State.Canon.doorbellTail (h : s.Canon) : (s.doorbellTail n v).Canon := by
  unfold State.doorbellTail
  repeat' split
  exacts [h, h, h, h.same.stopQueue]

theorem State.Canon.doorbellReset (h : s.Canon) : (s.doorbellReset n v).Canon := by
  unfold State.doorbellReset
  repeat' split
  exacts [h, h.putDesc, h.putDesc.same.stopQueue, h]

theorem State.Canon.commit (h : s.Canon) : s.commit.Canon := State.Canon.ite h (State.Canon.ite h.same h.same)

theorem State.Canon.endpointWrite (h : s.Canon) : (s.endpointWrite off v).Canon :=
  State.Canon.ite (State.Canon.ite h h.same) (State.Canon.ite (State.Canon.ite h.commit h) (State.Canon.ite h.same (State.Canon.ite
    (State.Canon.ite h h.same) h)))

theorem State.Canon.deviceRead (h : s.Canon) : (s.deviceRead pa).2.Canon := by
  unfold State.deviceRead
  dsimp only
  repeat' split
  exacts [h, h.modCtx, h, h, h, h, h]

theorem State.Canon.deviceWrite (h : s.Canon) : (s.deviceWrite pa v).Canon := by
  unfold State.deviceWrite
  dsimp only
  repeat' split
  exacts [h, h.windowStore.modCtx, h.windowStore, h.doorbellTail, h.doorbellReset, h, h.endpointWrite, h]
end

/-! ### Translation (spec 10 R216 to R220) -/
section
variable {s : State} {core k key line n off pa t v x : Nat} {va : Dword} {sp : Space} {acc : Access} {ag : Agent} {p : Place} {pois : Bool}
  {vas : List Dword}

theorem State.Canon.walkFrom {fuel : Nat} {asid : Nat} {y : Nat} (h : s.Canon) : (s.walkFrom ag asid va fuel y).2.Canon := by
  induction fuel generalizing s y with
  | zero => exact h
  | succ _ ih =>
    unfold State.walkFrom
    dsimp only
    repeat' split
    exacts [h.walkLoad, h.walkLoad, ih h.walkLoad, h.walkLoad, h.walkLoad]

theorem State.Canon.walk (h : s.Canon) : (s.walk ag sp va).2.Canon := by
  unfold State.walk
  split
  exacts [h, h.walkFrom]

theorem State.Canon.trimTlb {hd : TlbHolder} {cap : Nat} (h : s.Canon) : (s.trimTlb hd cap).Canon := by
  unfold State.trimTlb
  dsimp only
  split
  · exact h
  · split
    · exact h
    · exact h.same

theorem State.Canon.cacheLeaf {leaf : Dword} {lvl : Nat} (h : s.Canon) : (s.cacheLeaf core sp va leaf lvl).Canon := by
  unfold State.cacheLeaf
  dsimp only
  exact h.same.trimTlb.trimTlb.trimTlb

theorem State.Canon.uncache (h : s.Canon) : (s.uncache core sp va).Canon := h

theorem State.Canon.leafFor (h : s.Canon) : (s.leafFor ag core sp va).2.Canon := by
  have hwalk := h.walk (ag := ag) (sp := sp) (va := va)
  unfold State.leafFor
  generalize s.walk ag sp va = w at hwalk ⊢
  have hdrawn (n : Nat) : State.Canon { w.2 with fresh := n } := hwalk
  dsimp only
  split
  · exact h
  · split
    · exact h
    · split
      · dsimp only
        exact State.Canon.cacheLeaf (hdrawn _)
      · exact hdrawn _

theorem State.Canon.noteAffine {base : Nat} {size : Nat} {affine : Bool} (h : s.Canon) : (s.noteAffine base size affine).Canon :=
  State.Canon.ite h.same (State.Canon.ite h.same h)

theorem State.Canon.translateLeaf (h : s.Canon) : (s.translateLeaf ag core sp va acc n).2.Canon := by
  unfold State.translateLeaf
  dsimp only
  repeat' split
  exacts [h, h, h, h, h.leafFor.uncache, h.leafFor.uncache, h.leafFor.noteAffine]

theorem State.Canon.translate (h : s.Canon) : (s.translate ag core sp va acc n).2.Canon := h.translateLeaf

theorem keepsCanon_tryTranslate : KeepsCanon (tryTranslate va acc n) :=
  KeepsCanon.get_bind fun _ hs => (KeepsCanon.set hs.translate).bind fun _ => KeepsCanon.pure

theorem keepsCanon_guardPlane {write : Bool} : KeepsCanon (guardPlane p write) := by
  unfold guardPlane
  refine KeepsCanon.get_bind fun _ hs => ?_
  split
  · exact KeepsCanon.throw
  · split
    · split
      · exact KeepsCanon.pure
      · exact KeepsCanon.throw
    · exact KeepsCanon.pure

theorem keepsCanon_translateT : KeepsCanon (translateT va acc n) := by
  unfold translateT
  refine keepsCanon_tryTranslate.bind fun _ => ?_
  split
  · exact keepsCanon_guardPlane.bind fun _ => KeepsCanon.pure
  · exact KeepsCanon.throw

theorem keepsCanon_soundPlaces {l : List (Dword × Except Byte Place)} : KeepsCanon (soundPlaces l) := by
  unfold soundPlaces
  repeat' split
  exacts [KeepsCanon.throw, KeepsCanon.throw, KeepsCanon.pure]

theorem keepsCanon_checkPlaces : KeepsCanon (checkPlaces vas acc n) :=
  (KeepsCanon.mapM fun _ => keepsCanon_tryTranslate.bind fun _ => KeepsCanon.pure).bind fun _ => keepsCanon_soundPlaces

theorem keepsCanon_placesT : KeepsCanon (placesT vas acc n) :=
  keepsCanon_checkPlaces.bind fun _ => (KeepsCanon.mapM fun _ => keepsCanon_guardPlane).bind fun _ => KeepsCanon.pure

theorem State.Canon.placeOverdue (h : s.Canon) : (s.placeOverdue line).Canon := h.placeThose
theorem State.Canon.fillL1 {copy : L1Copy} (h : s.Canon) : (s.fillL1 core copy).Canon := State.Canon.ite h.modCore h.same.modCore
theorem State.Canon.fillICache {d : VReg} (h : s.Canon) : (s.fillICache core line d).Canon := State.Canon.ite h.modCore h.same.modCore

theorem State.Canon.coLoad {l1 : Bool} (h : s.Canon) : (s.coLoad k pa l1 key).2.Canon := by
  have hseen := h.placeOverdue (line := lineOf pa) |>.fill (line := lineOf pa) (write := false) |>.settle (line := lineOf pa)
    |>.observe (k := k) (line := lineOf pa)
  unfold State.coLoad
  dsimp only
  generalize State.observe _ k (lineOf pa) = u at hseen ⊢
  split
  · split
    exacts [State.Canon.fillL1 hseen.same, hseen.same]
  · split
    · exact hseen
    · split
      · exact hseen.same
      · split
        exacts [State.Canon.fillL1 hseen.same, hseen.same]

theorem State.Canon.remember (h : s.Canon) : (s.remember k line).Canon := h

theorem State.Canon.coStore {p : Bool} {wt : Bool} {own : Bool} (h : s.Canon) : (s.coStore k pa n v p wt own key).Canon :=
  State.Canon.ite h.placeOverdue.placeSeen.fill.rekey.remember.setCtx.storeLine.same.modCore
    h.placeOverdue.placeSeen.fill.rekey.remember.setCtx.storeLine

theorem State.Canon.uncachedLoad (h : s.Canon) : (s.uncachedLoad pa n key).2.Canon := by
  unfold State.uncachedLoad
  repeat' split
  exacts [h, h.maybeWriteBack]

theorem State.Canon.uncachedStore (h : s.Canon) : (s.uncachedStore pa n v pois key).Canon :=
    State.Canon.ite h.same h.frameFirst.rekey.storeDeviceMem

theorem State.Canon.scratchRead (h : s.Canon) : (s.scratchRead core off t).Canon := h.modCore

theorem State.Canon.scratchStore {p : Bool} (h : s.Canon) : (s.scratchStore core off n v p t).Canon :=
    h.setCore (Memory.wf_write _ _ _ _ h.getCore)

theorem State.Canon.scratchLoadBy (h : s.Canon) : (s.scratchLoadBy k off n).2.Canon := h.modCtx.scratchRead
theorem State.Canon.scratchStoreBy {p : Bool} (h : s.Canon) : (s.scratchStoreBy k off n v p).Canon := h.modCtx.scratchStore

theorem State.Canon.loadAt (h : s.Canon) : (s.loadAt k p n).2.Canon := by
  unfold State.loadAt
  repeat' split
  exacts [h.scratchLoadBy, h.coLoad, h.uncachedLoad, h.deviceRead]

theorem State.Canon.storeAt (h : s.Canon) : (s.storeAt k p n v pois).Canon := by
  unfold State.storeAt
  repeat' split
  exacts [h.scratchStoreBy, h.coStore, h.uncachedStore, h.deviceWrite]

theorem keepsCanon_loadE : KeepsCanon (loadE p n) := KeepsCanon.get_bind fun _ hs => (KeepsCanon.set hs.loadAt).bind fun _ =>
    KeepsCanon.pure

theorem keepsCanon_storeE : KeepsCanon (storeE p n v pois) := KeepsCanon.modify fun _ hs => hs.storeAt
theorem State.Canon.spHolds (h : s.Canon) : (s.spHolds core off n).Canon := State.Canon.ite h.same h

theorem State.Canon.spaceLoadFor {ctx : Option Nat} (h : s.Canon) : (s.spaceLoadFor ctx core sp va n).2.Canon := by
  unfold State.spaceLoadFor
  dsimp only
  split
  · exact h.translate
  · exact h.translate.raiseAgent.scratchRead.spHolds
  · refine State.Canon.hwLoad ?_
    split
    · exact h.translate
    · exact h.translate.placeSeen
  · exact h.translate.uncachedLoad
  · exact h.translate.deviceRead

theorem State.Canon.spaceLoad (h : s.Canon) : (s.spaceLoad core sp va n).2.Canon := h.spaceLoadFor

theorem State.Canon.spaceStore {p : Bool} (h : s.Canon) : (s.spaceStore core sp va n v p).2.Canon := by
  unfold State.spaceStore
  dsimp only
  repeat' split
  exacts [h.translate, h.translate.spHolds.raiseAgent.scratchStore, h.translate.hwPut, h.translate.uncachedStore, h.translate.deviceWrite]

theorem State.Canon.fetchWord (h : s.Canon) : (s.fetchWord k va).2.Canon := by
  unfold State.fetchWord
  dsimp only
  repeat' split
  exacts [h.translate, h.translate, h.translate.fill.settle.fillICache, h.translate.fill.settle, h.translate.fill.settle,
    h.translate.fill.settle.same.fillICache, h.translate.uncachedLoad, h.translate]

theorem State.Canon.fetchGroup {fuel : Nat} {y : Prefixes} {z : Group} (h : s.Canon) : (s.fetchGroup k fuel y z).2.2.Canon := by
  induction fuel generalizing s y z with
  | zero => exact h
  | succ _ ih =>
    unfold State.fetchGroup
    dsimp only
    split
    · exact h.fetchWord
    · split
      exacts [h.fetchWord, h.fetchWord, ih h.fetchWord]
end

/-! ### Events, the deck and the kitty, saggar records, squash and rollback (spec 07 R143 to R161, R164) -/
section
variable {s : State} {actor bound core dealer n rcb slot time va : Nat} {e : Event} {r : Record} {u : RUnit}

theorem State.Canon.dealerStore {v : Nat} {p : Bool} (h : s.Canon) : (s.dealerStore rcb core va n v p).Canon := by
  unfold State.dealerStore
  dsimp only
  repeat' split
  exacts [h, h.spaceStore, h.spaceStore.endRegion]

theorem State.Canon.dealerLoadFor {ctx : Option Nat} (h : s.Canon) : (s.dealerLoadFor ctx rcb core va n).2.Canon := by
  unfold State.dealerLoadFor
  dsimp only
  repeat' split
  exacts [h, h.spaceLoadFor, h.spaceLoadFor.endRegion]

theorem State.Canon.dealerLoad (h : s.Canon) : (s.dealerLoad rcb core va n).2.Canon := h.dealerLoadFor

theorem State.Canon.actorDesc (h : s.Canon) : (s.actorDesc rcb core actor).2.Canon := by
  unfold State.actorDesc
  dsimp only
  repeat' split
  exacts [h, h.dealerLoad, h.dealerLoad.dealerLoad]

theorem State.Canon.keepHome {key : Nat} {home : Nat} (h : s.Canon) : (s.keepHome core key home).Canon :=
    State.Canon.ite h.modCore h.same.modCore

theorem State.Canon.homeOf (h : s.Canon) : (s.homeOf rcb core actor).2.Canon := by
  unfold State.homeOf
  dsimp only
  repeat' split
  exacts [h, h.actorDesc, h.actorDesc.dealerLoad.keepHome]

theorem State.Canon.homeNow (h : s.Canon) : (s.homeNow rcb core actor).2.Canon := by
  unfold State.homeNow
  dsimp only
  repeat' split
  exacts [h.actorDesc, h.actorDesc.dealerLoad]

theorem State.Canon.sendEventTo {home : Nat × Nat} (h : s.Canon) : (s.sendEventTo rcb core home e).Canon :=
    State.Canon.push (h.setCore h.getCore)

theorem State.Canon.sendEvent (h : s.Canon) : (s.sendEvent rcb core e).Canon := h.homeOf.sendEventTo

theorem State.Canon.insertEvent (h : s.Canon) : (s.insertEvent rcb core e).Canon := by
  unfold State.insertEvent
  dsimp only
  split
  · refine State.Canon.modWork ?_
    split
    · exact h
    · exact h.dealerStore
  · split
    · refine State.Canon.modWork ?_
      split
      · exact h
      · exact h.dealerStore
    · exact h.endRegion

theorem State.Canon.refill (h : s.Canon) : (s.refill rcb core).Canon := by
  unfold State.refill
  repeat' split
  exacts [h, (h.foldl fun _ _ ht => ht.dealerLoad.dealerStore).modWork]

theorem State.Canon.fileEvent (h : s.Canon) : (s.fileEvent rcb core e).Canon := State.Canon.ite h.modWork.refill h.insertEvent

theorem State.Canon.forget (h : s.Canon) : (s.forget dealer rcb r).Canon :=
  State.Canon.foldl (State.Canon.ite h.dealerLoad.dealerStore h.dealerLoad) fun _ _ ht => ht.modWork.dealerStore

theorem State.Canon.reclaim (h : s.Canon) : (s.reclaim dealer rcb core).Canon := h.modWork.foldl fun _ _ ht => ht.forget

theorem State.Canon.undoUnit {actor : BitVec 48} (h : s.Canon) : (s.undoUnit rcb core actor u).Canon := by
  unfold State.undoUnit
  repeat' split
  exacts [h.dealerStore.raiseAgent, h.sendEvent, h]

theorem State.Canon.undoStep (h : s.Canon) : (s.undoStep core).Canon := by
  unfold State.undoStep
  repeat' split
  exacts [h, h.modCore.undoUnit]

theorem State.Canon.undoAll (h : s.Canon) : (s.undoAll rcb core).Canon := h.modCore.foldl fun _ _ ht => ht.undoUnit

theorem State.Canon.undoRecord {rrcb : Nat} {rcore : Nat} (h : s.Canon) : (s.undoRecord dealer rcb core time rrcb rcore r).Canon :=
  h.modCore.modWork.dealerStore.insertEvent

theorem State.Canon.dropFiring (h : s.Canon) : (s.dropFiring core slot).Canon := h.modCore.endCtx.modCtx.emptyShapes
theorem State.Canon.retireSp {j : SpJob} (h : s.Canon) : (s.retireSp core j).Canon := (h.foldl fun _ _ ht => ht.scratchStoreBy).modCtx

theorem State.Canon.retireBefore {off : Nat} {fuel : Nat} (h : s.Canon) : (s.retireBefore core off n fuel).Canon := by
  induction fuel generalizing s with
  | zero => exact h
  | succ _ ih =>
    unfold State.retireBefore
    repeat' split
    exacts [h, ih (h.modCore).retireSp, h]

theorem State.Canon.finishLanes (h : s.Canon) : (s.finishLanes core slot).Canon := by
  unfold State.finishLanes
  split
  · exact h
  · split
    · refine h.foldl fun _ _ ht => ?_
      split
      · exact ht.retireBefore.scratchStoreBy
      · exact ht
    · exact h

theorem State.Canon.squashFor (h : s.Canon) : (s.squashFor core slot time).Canon := by
  unfold State.squashFor
  dsimp only
  repeat' split
  exacts [h, h.finishLanes.dropFiring, h.finishLanes.dropFiring.undoRecord.dealerStore.reclaim]

theorem State.Canon.squash (h : s.Canon) : (s.squash core slot).Canon := by
  unfold State.squash
  repeat' split
  exacts [h, h.squashFor]

theorem State.Canon.rollback {actor : BitVec 48} (h : s.Canon) : (s.rollback rcb core actor bound).Canon := by
  unfold State.rollback
  dsimp only
  split
  · split
    · exact h
    · split
      · exact h
      · split
        · exact h.squashFor
        · exact h
  · refine State.Canon.foldl ?_ fun _ _ ht => ht.reclaim
    refine State.Canon.dealerStore ?_
    refine State.Canon.dealerStore ?_
    refine State.Canon.foldl ?_ fun _ _ ht => ht.undoRecord
    split
    · exact h
    · split
      · exact h
      · split
        · exact h.squashFor
        · exact h

theorem State.Canon.rollbackAtHome {actor : BitVec 48} (h : s.Canon) : (s.rollbackAtHome rcb core actor bound).Canon := h.homeNow.rollback

theorem State.Canon.obtain {rcb core key rec_ n fuel : Nat} {r : Nat × State} (h : s.Canon)
    (hr : s.obtain rcb core key rec_ n fuel = some r) : r.2.Canon := by
  induction fuel generalizing s with
  | zero => simp [State.obtain] at hr
  | succ fuel ih =>
    unfold State.obtain at hr
    dsimp only at hr
    split at hr
    · obtain rfl := Option.some.inj hr
      exact h.modWork
    · obtain ⟨-, hr⟩ | ⟨-, hr⟩ := ite_eq_iff.1 hr
      · simp at hr
      · cases hk : (s.getWork rcb core).highestAbove key <;> rw [hk] at hr
        · obtain rfl := Option.some.inj hr
          exact h.endRegion
        · exact ih h.rollbackAtHome hr

theorem keepsCanon_afterDealer (h : s.Canon) : KeepsCanon (afterDealer s) :=
  KeepsCanon.get_bind fun _ _ => (KeepsCanon.set h).bind fun _ => KeepsCanon.ite KeepsCanon.throw KeepsCanon.pure

theorem keepsCanon_appendUnit : KeepsCanon (appendUnit u) := by
  unfold appendUnit
  refine KeepsCanon.get_bind fun s hs => ?_
  dsimp only
  split
  · exact KeepsCanon.pure
  · split
    · exact KeepsCanon.throw
    · next hgot =>
      have h := hs.obtain hgot
      split
      · exact keepsCanon_afterDealer h
      · refine keepsCanon_afterDealer ?_
        split
        · refine State.Canon.modWork ?_
          split
          exacts [h.dealerStore.dealerStore, h.dealerStore]
        · refine State.Canon.dealerStore (State.Canon.modWork ?_)
          split
          exacts [h.dealerStore.dealerStore, h.dealerStore]

theorem keepsCanon_guardTimed {va : Dword} : KeepsCanon (guardTimed va n) := by
  unfold guardTimed
  refine keepsCanon_cx.bind fun _ => ?_
  split
  · exact KeepsCanon.pure
  · exact keepsCanon_guardTrap

theorem keepsCanon_logBlock {block : Nat} : KeepsCanon (logBlock block) := by
  unfold logBlock
  refine keepsCanon_cx.bind fun _ => ?_
  split
  · exact KeepsCanon.pure
  · split
    · exact KeepsCanon.pure
    · refine KeepsCanon.get_bind fun _ hs => ?_
      refine (keepsCanon_afterDealer hs.dealerLoadFor).bind fun _ => ?_
      exact keepsCanon_appendUnit.bind fun _ => KeepsCanon.ite keepsCanon_modCx KeepsCanon.pure

theorem keepsCanon_logStore {va : Dword} : KeepsCanon (logStore va n) := by
  unfold logStore
  refine keepsCanon_cx.bind fun _ => ?_
  split
  · exact KeepsCanon.pure
  · split
    · exact KeepsCanon.pure
    · exact keepsCanon_logBlock.bind fun _ => KeepsCanon.ite keepsCanon_logBlock KeepsCanon.pure

theorem State.Canon.beginWait {k : WaitKind} (h : s.Canon) : (s.beginWait k).Canon := h.modCx

theorem State.Canon.trapNow {cause : Byte} {v : Dword} (h : s.Canon) : (s.trapNow cause v).Canon :=
  State.Canon.ite (State.Canon.ite h h.beginWait) (State.Canon.ite h.modCx.takeTrap h.takeTrap)

theorem State.Canon.stop {e : Stop} (h : s.Canon) : (s.stop e).Canon := by
  unfold State.stop
  dsimp only
  repeat' split
  exacts [h.beginWait, h, h.squash, h.squash.modWork, h.squash.trapToS, h.trapNow]

theorem State.Canon.undone {u : State} (h : s.Canon) : (s.undone u).Canon :=
  State.Canon.ite h.same.raiseTime (h.same.raiseTime.foldl fun _ _ ht => ht.endRegion)

theorem State.Canon.finish {m : Exec Unit} (h : s.Canon) (hm : KeepsCanon m) : CanonNext (finish m s) := by
  have hrun := hm s h
  unfold Machine.finish
  rcases hms : m s with ⟨_ | a, t⟩ <;> rw [hms] at hrun
  · exact h.undone.stop
  · exact hrun

theorem keepsCanon_retireE : KeepsCanon retireE := KeepsCanon.modify fun _ hs => hs.retire
end

/-! ### Operand forms -/
section
variable {a d : Reg} {s : State}

theorem State.Canon.scalar2 {b : Reg} {f : Dword → Dword → Dword} (h : s.Canon) : (s.scalar2 d a b f).Canon := h.modCx.retire
theorem State.Canon.scalar1 {f : Dword → Dword} (h : s.Canon) : (s.scalar1 d a f).Canon := h.modCx.retire

theorem keepsCanon_srcV {r : Reg} : KeepsCanon (srcV r) := by
  unfold srcV
  refine keepsCanon_cx.bind fun _ => ?_
  split
  · exact KeepsCanon.pure
  · split
    · exact KeepsCanon.throw
    · exact KeepsCanon.pure

theorem keepsCanon_laneOp {w : Nat} {srcs : List Reg} {g : PReg} {f : List Nat → Nat} : KeepsCanon (laneOp w d srcs g f) :=
  (KeepsCanon.mapM fun _ => keepsCanon_srcV).bind fun _ => keepsCanon_cx.bind fun _ => keepsCanon_modCx.bind fun _ => keepsCanon_retireE

theorem keepsCanon_waitSpWords {p : Place} {n : Nat} : KeepsCanon (waitSpWords p n) := by
  unfold waitSpWords
  refine KeepsCanon.get_bind fun _ hs => ?_
  split
  · split
    · exact KeepsCanon.throw
    · exact KeepsCanon.pure
  · exact KeepsCanon.pure
end

/-! ### Every flag computation -/
section
variable {s : State}

theorem keepsCanon_laneOpF {w : Nat} {d : Reg} {srcs : List Reg} {g : PReg} {f : FpEnv → List Nat → Nat × FpFlags} :
    KeepsCanon (laneOpF w d srcs g f) :=
  (KeepsCanon.mapM fun _ => keepsCanon_srcV).bind fun _ => KeepsCanon.get_bind fun _ _ => keepsCanon_modCx.bind fun _ => keepsCanon_retireE
end

/-! ### Scalar loads and stores (spec 04 R81 to R83) -/
section
variable {s : State} {a b d : Reg} {z : Size} {i : BitVec 16} {n : CReg} {ea off : Dword} {k : BitVec 2} {bad : Bool} {_n : BitVec 15}

theorem keepsCanon_loadScalar {zext : Bool} : KeepsCanon (loadScalar d ea z zext bad) :=
  keepsCanon_guardTrap.bind fun _ => keepsCanon_translateT.bind fun _ => keepsCanon_guardPoison.bind fun _ =>
    keepsCanon_waitSpWords.bind fun _ => keepsCanon_loadE.bind fun _ => keepsCanon_modCx.bind fun _ => keepsCanon_retireE

theorem keepsCanon_storeScalar : KeepsCanon (storeScalar b ea z bad) :=
  keepsCanon_guardTrap.bind fun _ => keepsCanon_translateT.bind fun _ => keepsCanon_guardTimed.bind fun _ =>
    keepsCanon_guardPoison.bind fun _ => keepsCanon_waitSpWords.bind fun _ => keepsCanon_logStore.bind fun _ => keepsCanon_cx.bind fun _ =>
    keepsCanon_storeE.bind fun _ => keepsCanon_retireE

theorem State.Canon.execLd (h : s.Canon) : CanonNext (execLd d a z off s) := h.finish keepsCanon_loadScalar
theorem State.Canon.execLdn (h : s.Canon) : CanonNext (execLdn d a z off s) := h.finish keepsCanon_loadScalar
theorem State.Canon.execSt (h : s.Canon) : CanonNext (execSt b a z off s) := h.finish keepsCanon_storeScalar
theorem State.Canon.execLdx (h : s.Canon) : CanonNext (execLdx d a b k z s) := h.finish keepsCanon_loadScalar
theorem State.Canon.execLdnx (h : s.Canon) : CanonNext (execLdnx d a b k z s) := h.finish keepsCanon_loadScalar
theorem State.Canon.execStx (h : s.Canon) : CanonNext (execStx d a b k z s) := h.finish keepsCanon_storeScalar

theorem keepsCanon_branch {cond : Dword → Dword → Bool} : KeepsCanon (branch cond b a i) :=
  KeepsCanon.get_bind fun _ hs => keepsCanon_guardTrap.bind fun _ => keepsCanon_guardPoison.bind fun _ => KeepsCanon.ite
    (KeepsCanon.set hs.goto) keepsCanon_retireE

theorem State.Canon.execBeq (h : s.Canon) : CanonNext (execBeq b a i s) := h.finish keepsCanon_branch
theorem State.Canon.execBne (h : s.Canon) : CanonNext (execBne b a i s) := h.finish keepsCanon_branch
theorem State.Canon.execBlt (h : s.Canon) : CanonNext (execBlt b a i s) := h.finish keepsCanon_branch
theorem State.Canon.execBge (h : s.Canon) : CanonNext (execBge b a i s) := h.finish keepsCanon_branch
theorem State.Canon.execBltn (h : s.Canon) : CanonNext (execBltn b a i s) := h.finish keepsCanon_branch
theorem State.Canon.execBgen (h : s.Canon) : CanonNext (execBgen b a i s) := h.finish keepsCanon_branch

theorem State.Canon.execJal {i : BitVec 21} (h : s.Canon) : CanonNext (execJal d i s) :=
  h.finish (KeepsCanon.get_bind fun _ _ => keepsCanon_guardTrap.bind fun _ => keepsCanon_modCx.bind fun _ => KeepsCanon.modify fun _ ht =>
    ht.goto)

theorem State.Canon.execJalr (h : s.Canon) : CanonNext (execJalr d a off s) :=
  h.finish (KeepsCanon.get_bind fun _ _ => keepsCanon_guardTrap.bind fun _ => keepsCanon_guardTrap.bind fun _ =>
    keepsCanon_guardPoison.bind fun _ => keepsCanon_modCx.bind fun _ => KeepsCanon.modify fun _ ht => ht.goto)

theorem State.Canon.execLoop {n : BitVec 12} (h : s.Canon) : CanonNext (execLoop a n s) :=
  h.finish (KeepsCanon.get_bind fun _ _ => keepsCanon_guardPoison.bind fun _ => keepsCanon_modCx.bind fun _ => KeepsCanon.modify fun _ ht =>
    ht.goto)

theorem keepsCanon_guardPriv : KeepsCanon (guardPriv n) := KeepsCanon.get_bind fun _ _ => keepsCanon_guardTrap

theorem keepsCanon_waitUnits : KeepsCanon (waitUnits n) := by
  unfold waitUnits
  refine KeepsCanon.get_bind fun _ hs => ?_
  split
  · split
    · exact KeepsCanon.throw
    · split
      · exact KeepsCanon.throw
      · exact KeepsCanon.pure
  · split
    · exact KeepsCanon.throw
    · exact KeepsCanon.pure
  · exact KeepsCanon.pure

theorem State.Canon.execCrr (h : s.Canon) : CanonNext (execCrr d n s) :=
  h.finish (keepsCanon_guardPriv.bind fun _ => keepsCanon_waitUnits.bind fun _ => KeepsCanon.get_bind fun _ _ =>
    keepsCanon_modCx.bind fun _ => keepsCanon_retireE)

theorem keepsCanon_writeCr {kind : CrKind} : KeepsCanon (writeCr kind a n) :=
  keepsCanon_guardPriv.bind fun _ => keepsCanon_cx.bind fun _ => keepsCanon_guardPoison.bind fun _ => keepsCanon_waitUnits.bind fun _ =>
    KeepsCanon.get_bind fun _ _ => keepsCanon_modCx.bind fun _ => keepsCanon_retireE

theorem State.Canon.execCrw (h : s.Canon) : CanonNext (execCrw a n s) := h.finish keepsCanon_writeCr
theorem State.Canon.execCrs (h : s.Canon) : CanonNext (execCrs a n s) := h.finish keepsCanon_writeCr
theorem State.Canon.execCrc (h : s.Canon) : CanonNext (execCrc a n s) := h.finish keepsCanon_writeCr
theorem State.Canon.execNop (h : s.Canon) : CanonNext (execNop s) := h.retire
theorem State.Canon.execTrap (h : s.Canon) : CanonNext (execTrap _n s) := h.finish KeepsCanon.throw
theorem State.Canon.execBrkpt (h : s.Canon) : CanonNext (execBrkpt _n s) := h.finish KeepsCanon.throw
theorem State.Canon.parkS {core : Nat} (h : s.Canon) : (s.parkS core).Canon := State.Canon.ite h h.setCtx

theorem State.Canon.execEret (h : s.Canon) : CanonNext (execEret s) := by
  unfold Machine.execEret
  dsimp only
  split
  · split
    · exact State.Canon.parkS (State.Canon.eretS (State.Canon.ite h.modCore h))
    · exact h.finish KeepsCanon.throw
  · split
    · exact h.eretU
    · exact h.finish KeepsCanon.throw

theorem State.Canon.execWfe (h : s.Canon) : CanonNext (execWfe s) :=
  h.finish (keepsCanon_cx.bind fun _ => KeepsCanon.ite (keepsCanon_modCx.bind fun _ => keepsCanon_retireE) KeepsCanon.throw)

theorem State.Canon.execChkerr {m : BitVec 3} (h : s.Canon) : CanonNext (execChkerr m s) :=
  h.finish (KeepsCanon.get_bind fun _ _ => KeepsCanon.ite KeepsCanon.throw_bind (KeepsCanon.ite KeepsCanon.throw_bind
    (keepsCanon_guardTrap.bind fun _ => keepsCanon_retireE)))
end

/-! ### What the dealer of a core does (spec 06 R113 to R130, 07 R149, R150, R171, R174, 10 R207) -/
section
variable {s : State} {core dealer rcb slot : Nat} {succ : Option Task} {actor : BitVec 48}

theorem State.Canon.gate (h : s.Canon) : (s.gate core).Canon := h.setCore (Memory.wf_filter _ _ h.getCore)
theorem State.Canon.afterEnd (h : s.Canon) : (s.afterEnd core).Canon := State.Canon.ite h.gate h

theorem State.Canon.startCtx {t : Task} {caller : Option Caller} (h : s.Canon) : (s.startCtx rcb core slot t caller).Canon := by
  unfold State.startCtx
  repeat' split
  exacts [h, h.setCtx.modCore]

theorem State.Canon.releaseSlot (h : s.Canon) : (s.releaseSlot rcb core slot succ).Canon := by
  unfold State.releaseSlot
  dsimp only
  repeat' split
  exacts [h.modCtx.emptyShapes, h.startCtx, h.startCtx.modCtx, h.modCtx.emptyShapes.afterEnd]

theorem State.Canon.collect {k : Nat} (h : s.Canon) : (s.collect k).Canon := h.modRegion

theorem State.Canon.endTask {value : Dword} {pois : Bool} (h : s.Canon) : (s.endTask value pois succ).Canon := by
  unfold State.endTask
  repeat' split
  exacts [h.push.modCo.modCtx.retire, h.collect.endCtx.push.releaseSlot]

theorem State.Canon.serve (h : s.Canon) : (s.serve rcb core).Canon := by
  unfold State.serve
  repeat' split
  · exact h
  · exact h.modCore
  · exact State.Canon.modWork (h.setCore rfl)

theorem State.Canon.readDwords {va : Nat} {fuel : Nat} (h : s.Canon) : (s.readDwords rcb core va fuel).2.Canon := by
  induction fuel generalizing s va with
  | zero => exact h
  | succ _ ih => exact ih h.dealerLoad

theorem State.Canon.noticeAppend {w : Dword} (h : s.Canon) : (s.noticeAppend rcb core w actor).Canon := by
  unfold State.noticeAppend
  dsimp only
  repeat' split
  exacts [h, h, h.readDwords, h.readDwords.dealerStore, h.readDwords.dealerStore.dealerStore.dealerStore]

theorem State.Canon.runUnit {u : RUnit} (h : s.Canon) : (s.runUnit rcb core actor u).Canon := by
  unfold State.runUnit
  dsimp only
  repeat' split
  exacts [h, h.endRegion, h.spaceStore, h.spaceStore.endRegion, h.noticeAppend, h]

theorem State.Canon.collectRecord {r : Record} (h : s.Canon) : (s.collectRecord dealer rcb core r).Canon :=
  h.modWork.dealerStore.foldl fun _ _ ht => State.Canon.ite ht.runUnit ht

theorem State.Canon.fossil {soc : Nat} {cores : List Nat} {k : Dword} (h : s.Canon) : (s.fossil soc dealer cores k).Canon :=
  (h.foldl fun _ _ ht => ht.collectRecord).foldl fun _ _ ht => ht.reclaim

theorem State.Canon.adopt {old : Nat} (h : s.Canon) : (s.adopt old dealer).Canon := by
  refine State.Canon.ite h (State.Canon.foldl (h.withCores (h.mapCores fun _ => ?_)) fun _ _ ht => ht.fossil)
  split <;> rfl
end

/-! ### Task instructions (spec 08 R178 to R182) -/
section
variable {s : State} {a b d : Reg} {tag : Byte} {reply : Bool} {p : BitVec 2}

theorem keepsCanon_poisonBlock : KeepsCanon (poisonBlock b) := keepsCanon_cx.bind fun _ => keepsCanon_modCx
theorem keepsCanon_guardUntimed : KeepsCanon guardUntimed := keepsCanon_cx.bind fun _ => keepsCanon_guardTrap

theorem keepsCanon_sendRoom {flight : Bool} {ep : BitVec 40} : KeepsCanon (sendRoom flight ep) := by
  unfold sendRoom
  refine KeepsCanon.get_bind fun _ _ => ?_
  dsimp only
  split
  · exact KeepsCanon.pure
  · exact KeepsCanon.ite KeepsCanon.throw KeepsCanon.throw

theorem keepsCanon_enqueue {l : Nat} {p : Packet} : KeepsCanon (enqueue l tag reply p) := keepsCanon_modCx

theorem keepsCanon_sendReq {dst : BitVec 40} {body : BitVec 4 → Body} : KeepsCanon (sendReq dst tag reply body) :=
  keepsCanon_sendRoom.bind fun _ => KeepsCanon.get_bind fun _ _ => (KeepsCanon.modify fun _ ht => ht.modRegion).bind fun _ =>
    keepsCanon_enqueue

theorem keepsCanon_waitEngines : KeepsCanon waitEngines :=
  KeepsCanon.get_bind fun _ _ => KeepsCanon.ite KeepsCanon.throw_bind (KeepsCanon.ite KeepsCanon.throw KeepsCanon.pure)

theorem keepsCanon_guardIll {ok : Bool} : KeepsCanon (guardIll ok) := KeepsCanon.get_bind fun _ _ => keepsCanon_guardTrap

theorem State.Canon.execSpawn (h : s.Canon) : CanonNext (execSpawn a b s) :=
  h.finish (KeepsCanon.get_bind fun _ _ => keepsCanon_guardTrap.bind fun _ => keepsCanon_guardUntimed.bind fun _ =>
    keepsCanon_guardTrap.bind fun _ => keepsCanon_guardPoison.bind fun _ => keepsCanon_poisonBlock.bind fun _ =>
    (KeepsCanon.modify fun _ ht => ht.modWork).bind fun _ => keepsCanon_retireE)

theorem State.Canon.execCallat (h : s.Canon) : CanonNext (execCallat d a b s) :=
  h.finish (KeepsCanon.get_bind fun _ _ => keepsCanon_guardTrap.bind fun _ => keepsCanon_guardUntimed.bind fun _ =>
    keepsCanon_guardTrap.bind fun _ => keepsCanon_guardPoison.bind fun _ => keepsCanon_poisonBlock.bind fun _ =>
    keepsCanon_sendReq.bind fun _ => keepsCanon_retireE)

theorem State.Canon.execHalt (h : s.Canon) : CanonNext (execHalt s) :=
  h.finish (keepsCanon_cx.bind fun _ => keepsCanon_guardIll.bind fun _ => keepsCanon_waitEngines.bind fun _ => KeepsCanon.modify fun _ hs =>
    hs.endTask)

theorem State.Canon.execHaltR (h : s.Canon) : CanonNext (execHaltR a s) :=
  h.finish (keepsCanon_cx.bind fun _ => keepsCanon_guardIll.bind fun _ => keepsCanon_guardIll.bind fun _ =>
    keepsCanon_guardTrap.bind fun _ => keepsCanon_guardPoison.bind fun _ => keepsCanon_waitEngines.bind fun _ =>
    KeepsCanon.modify fun _ hs => hs.endTask)

theorem State.Canon.execTret (h : s.Canon) : CanonNext (execTret a s) :=
  h.finish (keepsCanon_cx.bind fun _ => keepsCanon_guardIll.bind fun _ => keepsCanon_waitEngines.bind fun _ => KeepsCanon.modify fun _ hs =>
    hs.endTask)

theorem State.Canon.execSend (h : s.Canon) : CanonNext (execSend a b s) :=
  h.finish (KeepsCanon.get_bind fun _ _ => keepsCanon_guardUntimed.bind fun _ => keepsCanon_guardPoison.bind fun _ =>
    keepsCanon_sendReq.bind fun _ => keepsCanon_retireE)

theorem State.Canon.execSendv (h : s.Canon) : CanonNext (execSendv a b s) :=
  h.finish (keepsCanon_guardUntimed.bind fun _ => keepsCanon_cx.bind fun _ => keepsCanon_guardPoison.bind fun _ =>
    keepsCanon_srcV.bind fun _ => keepsCanon_sendReq.bind fun _ => keepsCanon_modCx.bind fun _ => keepsCanon_retireE)

theorem State.Canon.execReply (h : s.Canon) : CanonNext (execReply a b s) :=
  h.finish (KeepsCanon.get_bind fun _ _ => keepsCanon_guardUntimed.bind fun _ => KeepsCanon.ite keepsCanon_retireE
    (keepsCanon_guardPoison.bind fun _ => (KeepsCanon.modify fun _ ht => ht.push).bind fun _ => keepsCanon_retireE))

theorem State.Canon.execBind (h : s.Canon) : CanonNext (execBind p a s) :=
  h.finish (keepsCanon_cx.bind fun _ => keepsCanon_guardPoison.bind fun _ => keepsCanon_modCx.bind fun _ => keepsCanon_retireE)

theorem State.Canon.execUnbind (h : s.Canon) : CanonNext (execUnbind p s) := h.modCx.retire

theorem State.Canon.execWait (h : s.Canon) : CanonNext (execWait d a b s) := by
  unfold Machine.execWait
  dsimp only
  refine h.finish ?_
  refine keepsCanon_cx.bind fun _ => ?_
  refine keepsCanon_guardPoison.bind fun _ => ?_
  split
  · exact keepsCanon_modCx.bind fun _ => keepsCanon_retireE
  · split
    · exact keepsCanon_modCx.bind fun _ => keepsCanon_retireE
    · exact KeepsCanon.throw

theorem State.Canon.execPoll (h : s.Canon) : CanonNext (execPoll d s) := h.modCx.retire

theorem State.Canon.execRecv (h : s.Canon) : CanonNext (execRecv d b s) := by
  unfold Machine.execRecv
  refine h.finish ?_
  refine keepsCanon_cx.bind fun _ => ?_
  split
  · exact KeepsCanon.throw
  · exact keepsCanon_modCx.bind fun _ => keepsCanon_retireE
end

/-! ### Actor instructions (spec 08 R190 to R196; 07 R143 to R153, R167, R170) -/
section
variable {s : State} {actor : BitVec 48} {a b d : Reg} {dealer desc issuer n old rcb soc va : Nat} {new : Nat × Nat}

theorem keepsCanon_loadAddr {va : Dword} : KeepsCanon (loadAddr va n) :=
  keepsCanon_translateT.bind fun _ => keepsCanon_waitSpWords.bind fun _ => keepsCanon_loadE

theorem keepsCanon_findDescriptor : KeepsCanon (findDescriptor actor) :=
  KeepsCanon.get_bind fun _ _ => keepsCanon_loadAddr.bind fun _ => KeepsCanon.ite KeepsCanon.pure (keepsCanon_loadAddr.bind fun _ =>
    KeepsCanon.pure)

theorem keepsCanon_orDesc {d : Except Dword Nat} : KeepsCanon (orDesc d) := by
  unfold orDesc
  repeat' split
  exacts [KeepsCanon.pure, KeepsCanon.throw]

theorem keepsCanon_descriptorOf : KeepsCanon (descriptorOf actor) := keepsCanon_findDescriptor.bind fun _ => keepsCanon_orDesc

theorem keepsCanon_resolveHome : KeepsCanon (resolveHome actor) := by
  unfold resolveHome
  dsimp only
  refine KeepsCanon.get_bind fun _ hs => ?_
  split
  · exact KeepsCanon.pure
  · exact keepsCanon_descriptorOf.bind fun _ => keepsCanon_loadAddr.bind fun _ => (KeepsCanon.modify fun _ ht => ht.keepHome).bind fun _ =>
      KeepsCanon.pure

theorem keepsCanon_dealerLoadE : KeepsCanon (dealerLoadE va n) :=
  KeepsCanon.get_bind fun _ hs => (keepsCanon_afterDealer hs.dealerLoad).bind fun _ => KeepsCanon.pure

theorem keepsCanon_dealerStoreE {v : Nat} : KeepsCanon (dealerStoreE va n v) :=
    KeepsCanon.get_bind fun _ hs => keepsCanon_afterDealer hs.dealerStore

theorem keepsCanon_eventSource {dst : BitVec 48} {time : Dword} : KeepsCanon (eventSource dst time) := by
  unfold eventSource
  dsimp only
  refine KeepsCanon.get_bind fun _ hs => ?_
  split
  · exact keepsCanon_guardTrap.bind fun _ => keepsCanon_dealerLoadE.bind fun _ => keepsCanon_guardTrap.bind fun _ =>
      keepsCanon_appendUnit.bind fun _ => KeepsCanon.pure
  · split
    · exact KeepsCanon.throw_bind
    · exact keepsCanon_guardTrap.bind fun _ => KeepsCanon.pure

theorem keepsCanon_advanceSerial {serial : BitVec 32} : KeepsCanon (advanceSerial serial) := by
  unfold advanceSerial
  refine keepsCanon_cx.bind fun _ => ?_
  split
  · exact keepsCanon_dealerStoreE
  · exact KeepsCanon.modify fun _ hs => hs.modCo

theorem keepsCanon_sendEventE {home : BitVec 40} {e : Event} : KeepsCanon (sendEventE home e) := by
  unfold sendEventE
  refine keepsCanon_sendRoom.bind fun _ => ?_
  refine KeepsCanon.get_bind fun _ hs => ?_
  refine (KeepsCanon.modify fun _ ht => ht.modCo).bind fun _ => ?_
  refine KeepsCanon.bind ?_ fun _ => keepsCanon_enqueue
  refine KeepsCanon.modify fun _ ht => ?_
  split
  · exact ht
  · exact ht

theorem State.Canon.execEsend (h : s.Canon) : CanonNext (execEsend d a b s) :=
  h.finish (keepsCanon_cx.bind fun _ => keepsCanon_resolveHome.bind fun _ => keepsCanon_eventSource.bind fun _ =>
    keepsCanon_guardPoison.bind fun _ => keepsCanon_cx.bind fun _ => keepsCanon_sendEventE.bind fun _ =>
    keepsCanon_advanceSerial.bind fun _ => keepsCanon_retireE)

theorem State.Canon.endFiring {f : Firing} (h : s.Canon) : (s.endFiring f).Canon := by
  unfold State.endFiring
  refine State.Canon.raiseAgent ?_
  refine State.Canon.dealerStore ?_
  split
  · exact h.modWork
  · exact h.modWork.dealerStore

theorem State.Canon.execFend (h : s.Canon) : CanonNext (execFend s) := by
  unfold Machine.execFend
  refine h.finish ?_
  refine keepsCanon_cx.bind fun _ => ?_
  split
  · exact keepsCanon_guardIll
  · exact keepsCanon_waitEngines.bind fun _ => KeepsCanon.modify fun _ hs => hs.endFiring.endTask

theorem State.Canon.execDefer {k : Size} (h : s.Canon) : CanonNext (execDefer k a b s) :=
  h.finish (keepsCanon_cx.bind fun _ => keepsCanon_guardIll.bind fun _ => keepsCanon_guardTrap.bind fun _ =>
    keepsCanon_guardTrap.bind fun _ => keepsCanon_appendUnit.bind fun _ => keepsCanon_guardPoison.bind fun _ => keepsCanon_retireE)

theorem State.Canon.execDeferN (h : s.Canon) : CanonNext (execDeferN a s) :=
  h.finish (keepsCanon_cx.bind fun _ => keepsCanon_guardIll.bind fun _ => keepsCanon_appendUnit.bind fun _ => keepsCanon_modCx.bind fun _ =>
    keepsCanon_retireE)

theorem State.Canon.execKwait (h : s.Canon) : CanonNext (execKwait a s) :=
  h.finish (KeepsCanon.get_bind fun _ _ => keepsCanon_guardTrap.bind fun _ => keepsCanon_guardPoison.bind fun _ => KeepsCanon.ite
    (keepsCanon_modCx.bind fun _ => keepsCanon_retireE) KeepsCanon.throw)

theorem State.Canon.entryNow {p : Place} (h : s.Canon) : (s.entryNow p).2.Canon := by
  unfold State.entryNow
  repeat' split
  all_goals exact h.loadAt

theorem keepsCanon_acrePlaces {desc : Dword} {actt : Dword} : KeepsCanon (acrePlaces desc actt) :=
  keepsCanon_tryTranslate.bind fun _ => keepsCanon_tryTranslate.bind fun _ => keepsCanon_soundPlaces.bind fun _ =>
    keepsCanon_guardPlane.bind fun _ => keepsCanon_guardPlane.bind fun _ => KeepsCanon.pure

theorem keepsCanon_acreChecks : KeepsCanon (acreChecks d a b) :=
  KeepsCanon.get_bind fun _ _ => keepsCanon_guardTrap.bind fun _ => keepsCanon_acrePlaces.bind fun _ => keepsCanon_waitSpWords.bind fun _ =>
    keepsCanon_loadE.bind fun _ => keepsCanon_loadE.bind fun _ => keepsCanon_loadE.bind fun _ => keepsCanon_loadE.bind fun _ =>
    keepsCanon_loadE.bind fun _ => keepsCanon_waitSpWords.bind fun _ => keepsCanon_loadE.bind fun _ => keepsCanon_guardTrap.bind fun _ =>
    keepsCanon_guardTrap.bind fun _ => keepsCanon_translateT.bind fun _ => keepsCanon_waitSpWords.bind fun _ =>
    keepsCanon_guardTrap.bind fun _ => keepsCanon_guardTrap.bind fun _ => keepsCanon_guardPoison.bind fun _ => KeepsCanon.pure

theorem State.Canon.execAcre (h : s.Canon) : CanonNext (execAcre d a b s) :=
  h.finish (keepsCanon_acreChecks.bind fun _ => keepsCanon_storeE.bind fun _ => keepsCanon_storeE.bind fun _ =>
    KeepsCanon.get_bind fun _ hs => (KeepsCanon.set hs.entryNow).bind fun _ => keepsCanon_guardTrap.bind fun _ =>
    keepsCanon_storeE.bind fun _ => keepsCanon_retireE)

theorem State.Canon.adoptUnfinished (h : s.Canon) : (s.adoptUnfinished soc dealer old actor).Canon :=
    h.foldl fun _ _ ht => ht.undoRecord.dealerStore

theorem State.Canon.moveUndo {new : Nat} {to_ : Nat} (h : s.Canon) : (s.moveUndo soc actor old new to_).Canon :=
    State.Canon.ite h h.modCore.modCore

theorem State.Canon.rehomeStop (h : s.Canon) : (s.rehomeStop rcb actor old dealer).Canon := by
  unfold State.rehomeStop
  repeat' split
  exacts [h.adopt.adoptUnfinished, h.squash, h]

theorem State.Canon.passEvents {l : List Event} (h : s.Canon) : (s.passEvents rcb dealer new l).Canon :=
  State.Canon.ite (h.foldl fun _ _ ht => ht.insertEvent) (h.foldl fun _ _ ht => ht.sendEventTo)

theorem State.Canon.tellCaches (h : s.Canon) : (s.tellCaches rcb actor dealer).Canon := by
  unfold State.tellCaches
  dsimp only
  split
  · exact h
  · exact h

theorem State.Canon.rehome (h : s.Canon) : (s.rehome rcb actor desc old new issuer).Canon :=
  (((h.rehomeStop.moveUndo.foldl fun _ _ ht => ht.modWork).passEvents).dealerStore).tellCaches

theorem State.Canon.moveAway (h : s.Canon) : (s.moveAway soc actor new).Canon := by
  unfold State.moveAway
  dsimp only
  repeat' split
  exacts [h, h.actorDesc, h.actorDesc.dealerLoad, h.actorDesc.dealerLoad.rehome]

theorem State.Canon.moveTo {old : Nat × Nat} {new : Nat} (h : s.Canon) : (s.moveTo rcb actor desc old new issuer).Canon := by
  have hmoved : State.Canon (if old.1 = s.pkgNum then s.rehome rcb actor desc old.2 (s.pkgNum, new) issuer
      else { s with outputs := s.outputs ++ [.rehomeRequest (s.socOf rcb) actor new] }) := h.rehome.ite h
  exact State.Canon.ite hmoved hmoved

theorem State.Canon.execArehome (h : s.Canon) : CanonNext (execArehome a b s) := by
  unfold Machine.execArehome
  dsimp only
  refine h.finish ?_
  refine KeepsCanon.get_bind fun _ hs => ?_
  split
  · refine KeepsCanon.get_bind fun _ ht => ?_
    split
    · exact KeepsCanon.modify fun _ hu => hu.beginWait
    · exact keepsCanon_retireE
  · refine keepsCanon_findDescriptor.bind fun _ => ?_
    split
    · refine keepsCanon_loadAddr.bind fun _ => ?_
      refine keepsCanon_guardUntimed.bind fun _ => ?_
      refine keepsCanon_orDesc.bind fun _ => ?_
      refine keepsCanon_guardTrap.bind fun _ => ?_
      refine keepsCanon_guardPoison.bind fun _ => ?_
      split
      · exact keepsCanon_retireE
      · refine (KeepsCanon.modify fun _ ht => ht.moveTo).bind fun _ => ?_
        refine KeepsCanon.get_bind fun _ ht => ?_
        split
        · exact KeepsCanon.modify fun _ hu => hu.beginWait
        · exact keepsCanon_retireE
    · refine KeepsCanon.pure.bind fun _ => ?_
      refine keepsCanon_guardUntimed.bind fun _ => ?_
      refine keepsCanon_orDesc.bind fun _ => ?_
      refine keepsCanon_guardTrap.bind fun _ => ?_
      refine keepsCanon_guardPoison.bind fun _ => ?_
      split
      · exact keepsCanon_retireE
      · refine (KeepsCanon.modify fun _ ht => ht.moveTo).bind fun _ => ?_
        refine KeepsCanon.get_bind fun _ ht => ?_
        split
        · exact KeepsCanon.modify fun _ hu => hu.beginWait
        · exact keepsCanon_retireE
end

/-! ### The register-register integer operations (spec 04 R77; 03 R52, R53) -/
section
variable {a b d : Reg} {s : State} {w : Bool} {imm : Dword} {c l p : BitVec 6}

theorem State.Canon.execAdd (h : s.Canon) : CanonNext (execAdd d a b w s) := h.scalar2
theorem State.Canon.execSub (h : s.Canon) : CanonNext (execSub d a b w s) := h.scalar2
theorem State.Canon.execAnd (h : s.Canon) : CanonNext (execAnd d a b s) := h.scalar2
theorem State.Canon.execOr (h : s.Canon) : CanonNext (execOr d a b s) := h.scalar2
theorem State.Canon.execXor (h : s.Canon) : CanonNext (execXor d a b s) := h.scalar2
theorem State.Canon.execAndn (h : s.Canon) : CanonNext (execAndn d a b s) := h.scalar2
theorem State.Canon.execSll (h : s.Canon) : CanonNext (execSll d a b w s) := h.scalar2
theorem State.Canon.execSrl (h : s.Canon) : CanonNext (execSrl d a b w s) := h.scalar2
theorem State.Canon.execSra (h : s.Canon) : CanonNext (execSra d a b w s) := h.scalar2
theorem State.Canon.execSlt (h : s.Canon) : CanonNext (execSlt d a b s) := h.scalar2
theorem State.Canon.execSltn (h : s.Canon) : CanonNext (execSltn d a b s) := h.scalar2
theorem State.Canon.execMin (h : s.Canon) : CanonNext (execMin d a b s) := h.scalar2
theorem State.Canon.execMax (h : s.Canon) : CanonNext (execMax d a b s) := h.scalar2
theorem State.Canon.execMinn (h : s.Canon) : CanonNext (execMinn d a b s) := h.scalar2
theorem State.Canon.execMaxn (h : s.Canon) : CanonNext (execMaxn d a b s) := h.scalar2
theorem State.Canon.execMul (h : s.Canon) : CanonNext (execMul d a b w s) := h.scalar2
theorem State.Canon.execMulh (h : s.Canon) : CanonNext (execMulh d a b s) := h.scalar2
theorem State.Canon.execMulhn (h : s.Canon) : CanonNext (execMulhn d a b s) := h.scalar2
theorem State.Canon.execMulhsn (h : s.Canon) : CanonNext (execMulhsn d a b s) := h.scalar2
theorem State.Canon.execDiv (h : s.Canon) : CanonNext (execDiv d a b w s) := h.scalar2
theorem State.Canon.execDivn (h : s.Canon) : CanonNext (execDivn d a b w s) := h.scalar2
theorem State.Canon.execRem (h : s.Canon) : CanonNext (execRem d a b w s) := h.scalar2
theorem State.Canon.execRemn (h : s.Canon) : CanonNext (execRemn d a b w s) := h.scalar2
theorem State.Canon.execClz (h : s.Canon) : CanonNext (execClz d a s) := h.scalar1
theorem State.Canon.execCtz (h : s.Canon) : CanonNext (execCtz d a s) := h.scalar1
theorem State.Canon.execPopc (h : s.Canon) : CanonNext (execPopc d a s) := h.scalar1
theorem State.Canon.execBswap (h : s.Canon) : CanonNext (execBswap d a s) := h.scalar1
theorem State.Canon.execAddi (h : s.Canon) : CanonNext (execAddi d a imm s) := h.scalar1
theorem State.Canon.execAndi (h : s.Canon) : CanonNext (execAndi d a imm s) := h.scalar1
theorem State.Canon.execOri (h : s.Canon) : CanonNext (execOri d a imm s) := h.scalar1
theorem State.Canon.execXori (h : s.Canon) : CanonNext (execXori d a imm s) := h.scalar1
theorem State.Canon.execSlti (h : s.Canon) : CanonNext (execSlti d a imm s) := h.scalar1
theorem State.Canon.execSltni (h : s.Canon) : CanonNext (execSltni d a imm s) := h.scalar1
theorem State.Canon.execSlli (h : s.Canon) : CanonNext (execSlli d a c s) := h.scalar1
theorem State.Canon.execSrli (h : s.Canon) : CanonNext (execSrli d a c s) := h.scalar1
theorem State.Canon.execSrai (h : s.Canon) : CanonNext (execSrai d a c s) := h.scalar1
theorem State.Canon.execBfx (h : s.Canon) : CanonNext (execBfx d a l p s) := h.scalar1
theorem State.Canon.execBfxs (h : s.Canon) : CanonNext (execBfxs d a l p s) := h.scalar1
theorem State.Canon.execBfi (h : s.Canon) : CanonNext (execBfi d a l p s) := h.scalar2
end

/-! ### Atomics, fences and cache instructions (spec 11 R232 to R245) -/
section
variable {s : State} {a b d : Reg} {z : Bool} {sc : Scope} {k line n : Nat} {p : Place}

theorem State.Canon.atomicRead (h : s.Canon) : (s.atomicRead k p n).2.Canon := by
  unfold State.atomicRead
  repeat' split
  exacts [h.loadAt, h.placeOverdue.placeSeen.fill.settle.rekey, h.uncachedLoad, h]

theorem State.Canon.atomicWrite {v : Nat} {pois : Bool} (h : s.Canon) : (s.atomicWrite k p n v pois).Canon := by
  unfold State.atomicWrite
  repeat' split
  exacts [h.coStore, h.storeAt]

theorem keepsCanon_atomicPlace : KeepsCanon (atomicPlace a n) :=
  keepsCanon_cx.bind fun _ => keepsCanon_guardTrap.bind fun _ => keepsCanon_translateT.bind fun _ => keepsCanon_guardTimed.bind fun _ =>
    keepsCanon_guardPoison.bind fun _ => keepsCanon_waitSpWords.bind fun _ => keepsCanon_logStore.bind fun _ => KeepsCanon.pure

theorem keepsCanon_amo {f : Nat → Nat → Nat → Nat × FpFlags} : KeepsCanon (amo d a b z f) :=
  keepsCanon_atomicPlace.bind fun _ => KeepsCanon.get_bind fun _ hs => (KeepsCanon.set hs.atomicRead.atomicWrite).bind fun _ =>
    keepsCanon_modCx.bind fun _ => keepsCanon_retireE

theorem State.Canon.execAmoAdd (h : s.Canon) : CanonNext (execAmoAdd d a b z s) := h.finish keepsCanon_amo
theorem State.Canon.execAmoAnd (h : s.Canon) : CanonNext (execAmoAnd d a b z s) := h.finish keepsCanon_amo
theorem State.Canon.execAmoOr (h : s.Canon) : CanonNext (execAmoOr d a b z s) := h.finish keepsCanon_amo
theorem State.Canon.execAmoXor (h : s.Canon) : CanonNext (execAmoXor d a b z s) := h.finish keepsCanon_amo
theorem State.Canon.execAmoMin (h : s.Canon) : CanonNext (execAmoMin d a b z s) := h.finish keepsCanon_amo
theorem State.Canon.execAmoMax (h : s.Canon) : CanonNext (execAmoMax d a b z s) := h.finish keepsCanon_amo
theorem State.Canon.execAmoMinn (h : s.Canon) : CanonNext (execAmoMinn d a b z s) := h.finish keepsCanon_amo
theorem State.Canon.execAmoMaxn (h : s.Canon) : CanonNext (execAmoMaxn d a b z s) := h.finish keepsCanon_amo
theorem State.Canon.execAmoSwap (h : s.Canon) : CanonNext (execAmoSwap d a b z s) := h.finish keepsCanon_amo
theorem State.Canon.execAmoFadd (h : s.Canon) : CanonNext (execAmoFadd d a b z s) := h.finish keepsCanon_amo

theorem State.Canon.execCas (h : s.Canon) : CanonNext (execCas d a b z s) :=
  h.finish (keepsCanon_atomicPlace.bind fun _ => KeepsCanon.get_bind fun _ hs => (KeepsCanon.set hs.atomicRead.atomicWrite).bind fun _ =>
    keepsCanon_modCx.bind fun _ => keepsCanon_retireE)

theorem State.Canon.fenced (h : s.Canon) : (s.fenced sc).Canon := by
  unfold State.fenced
  dsimp only
  refine State.Canon.modCx ?_
  split
  · exact State.Canon.placeThose (s := { s with past := _ }) h
  · exact h

theorem keepsCanon_fence : KeepsCanon (fence sc) :=
  KeepsCanon.get_bind fun _ _ => KeepsCanon.ite KeepsCanon.throw_bind (KeepsCanon.get_bind fun _ _ => KeepsCanon.ite KeepsCanon.throw_bind
    ((KeepsCanon.modify fun _ hu => hu.fenced).bind fun _ => keepsCanon_retireE))

theorem State.Canon.execFence (h : s.Canon) : CanonNext (execFence sc s) := h.finish keepsCanon_fence
theorem State.Canon.execFenceIo (h : s.Canon) : CanonNext (execFenceIo s) := h.finish keepsCanon_fence

theorem State.Canon.dropICache (h : s.Canon) : (s.dropICache sc line).Canon := by
  refine h.withCores (h.mapCores fun _ => ?_)
  split <;> rfl

theorem State.Canon.flushCopies (h : s.Canon) : (s.flushCopies line).Canon := State.Canon.ite h.getS h

theorem State.Canon.execCflush (h : s.Canon) : CanonNext (execCflush a sc s) := by
  unfold Machine.execCflush
  refine h.finish ?_
  refine keepsCanon_cx.bind fun _ => ?_
  refine keepsCanon_translateT.bind fun _ => ?_
  refine keepsCanon_guardPoison.bind fun _ => ?_
  split
  · refine (KeepsCanon.modify fun _ hs => hs.placeSeen).bind fun _ => ?_
    split
    · refine KeepsCanon.get_bind fun _ hs => ?_
      split
      · exact KeepsCanon.throw_bind
      · exact (KeepsCanon.set hs.flushCopies).bind fun _ => (KeepsCanon.modify fun _ ht => ht.writeBack.dropICache).bind fun _ =>
          keepsCanon_retireE
    · exact (KeepsCanon.modify fun _ hs => hs.writeBack.dropICache).bind fun _ => keepsCanon_retireE
  · exact keepsCanon_retireE

theorem keepsCanon_guardSuper : KeepsCanon guardSuper := KeepsCanon.get_bind fun _ _ => keepsCanon_guardTrap

theorem State.Canon.execCinval (h : s.Canon) : CanonNext (execCinval a sc s) := by
  unfold Machine.execCinval
  refine h.finish ?_
  refine keepsCanon_guardSuper.bind fun _ => ?_
  refine keepsCanon_cx.bind fun _ => ?_
  refine keepsCanon_translateT.bind fun _ => ?_
  refine keepsCanon_guardTrap.bind fun _ => ?_
  refine keepsCanon_guardPoison.bind fun _ => ?_
  split
  · exact (KeepsCanon.modify fun _ hs => hs.placeSeen.maybeWriteBack.coStore.dropICache).bind fun _ => keepsCanon_retireE
  · exact keepsCanon_retireE

theorem State.Canon.prefetchFill {pa : Nat} (h : s.Canon) : (s.prefetchFill pa).Canon := h.fill.same.fillL1

theorem State.Canon.execPrefetch {i : Bool} (h : s.Canon) : CanonNext (execPrefetch i a s) := by
  unfold Machine.execPrefetch
  dsimp only
  refine h.finish ?_
  refine keepsCanon_cx.bind fun _ => ?_
  split
  · exact keepsCanon_retireE
  · refine keepsCanon_tryTranslate.bind fun _ => ?_
    split
    · refine KeepsCanon.get_bind fun _ hs => ?_
      split
      · exact keepsCanon_retireE
      · split
        · exact (KeepsCanon.set hs.fill).bind fun _ => keepsCanon_retireE
        · exact (KeepsCanon.set hs.prefetchFill).bind fun _ => keepsCanon_retireE
    · exact keepsCanon_retireE
end

/-! ### Barriers and chain reductions (spec 06 R137 to R139; 08 R197 to R201) -/
section
variable {s : State} {a b d : Reg} {n : Nat} {ph : BitVec 32} {ch : Chain}

theorem State.Canon.modBarrier {rcb : Nat} {b : Nat} {f : Barrier → Barrier} (h : s.Canon) : (s.modBarrier rcb b f).Canon := h.modRegion

theorem keepsCanon_guardArrival {chain : Bool} : KeepsCanon (guardArrival b chain) :=
  KeepsCanon.get_bind fun _ _ => keepsCanon_guardUntimed.bind fun _ => keepsCanon_guardTrap.bind fun _ =>
    keepsCanon_guardPoison.bind fun _ => KeepsCanon.pure

theorem keepsCanon_arriveE : KeepsCanon (arriveE n) :=
  KeepsCanon.get_bind fun _ _ => KeepsCanon.ite KeepsCanon.throw_bind ((KeepsCanon.modify fun _ ht => ht.modBarrier).bind fun _ =>
    keepsCanon_modCx.bind fun _ => KeepsCanon.pure)

theorem State.Canon.execBarArr (h : s.Canon) : CanonNext (execBarArr d a s) :=
  h.finish (keepsCanon_guardArrival.bind fun _ => keepsCanon_arriveE.bind fun _ => keepsCanon_modCx.bind fun _ => keepsCanon_retireE)

theorem State.Canon.execBarWait (h : s.Canon) : CanonNext (execBarWait a s) := by
  unfold Machine.execBarWait
  dsimp only
  refine h.finish ?_
  refine keepsCanon_guardUntimed.bind fun _ => ?_
  refine KeepsCanon.get_bind fun _ hs => ?_
  refine keepsCanon_guardPoison.bind fun _ => ?_
  split
  · exact keepsCanon_retireE
  · split
    · exact KeepsCanon.throw_bind
    · exact keepsCanon_modCx.bind fun _ => keepsCanon_retireE

theorem keepsCanon_loadDwords {fuel : Nat} {y : Dword} : KeepsCanon (loadDwords fuel y) := by
  induction fuel generalizing y with
  | zero => exact KeepsCanon.pure
  | succ _ ih =>
    exact keepsCanon_translateT.bind fun _ => keepsCanon_waitSpWords.bind fun _ => keepsCanon_loadE.bind fun _ => ih.bind fun _ =>
      KeepsCanon.pure

theorem keepsCanon_loadBarRecord {va : Dword} : KeepsCanon (loadBarRecord va) :=
  keepsCanon_placesT.bind fun _ => (KeepsCanon.mapM fun _ => keepsCanon_waitSpWords.bind fun _ => keepsCanon_loadE).bind fun _ =>
    keepsCanon_loadDwords.bind fun _ => KeepsCanon.pure

theorem State.Canon.execBarCfg (h : s.Canon) : CanonNext (execBarCfg d a b s) := by
  unfold Machine.execBarCfg
  dsimp only
  refine h.finish ?_
  refine KeepsCanon.get_bind fun _ hs => ?_
  refine keepsCanon_guardTrap.bind fun _ => ?_
  refine keepsCanon_loadBarRecord.bind fun _ => ?_
  refine keepsCanon_guardUntimed.bind fun _ => ?_
  refine keepsCanon_guardPoison.bind fun _ => ?_
  split
  · exact keepsCanon_modCx.bind fun _ => keepsCanon_retireE
  · split
    · split
      · exact keepsCanon_modCx.bind fun _ => keepsCanon_retireE
      · exact (KeepsCanon.modify fun _ ht => ht.modBarrier).bind fun _ => keepsCanon_modCx.bind fun _ => keepsCanon_retireE
    · exact keepsCanon_modCx.bind fun _ => keepsCanon_retireE

theorem keepsCanon_chainResult {r : Dword} {p : Bool} {fl : FpFlags} : KeepsCanon (chainResult n d ph ch r p fl) :=
  (KeepsCanon.modify fun _ hs => hs.modBarrier).bind fun _ => keepsCanon_modCx.bind fun _ => keepsCanon_retireE

theorem keepsCanon_chainTake {own : Dword} {pois : Bool} : KeepsCanon (chainTake n d own pois ph ch) := by
  unfold chainTake
  dsimp only
  refine KeepsCanon.get_bind fun _ hs => ?_
  split
  · exact KeepsCanon.modify fun _ ht => ht.beginWait
  · exact (KeepsCanon.modify fun _ ht => ht.modBarrier).bind fun _ => keepsCanon_modCx.bind fun _ => keepsCanon_chainResult

theorem State.Canon.execChred (h : s.Canon) : CanonNext (execChred d a b s) := by
  unfold Machine.execChred
  refine h.finish ?_
  refine keepsCanon_cx.bind fun _ => ?_
  split
  · exact keepsCanon_chainTake
  · refine keepsCanon_guardArrival.bind fun _ => ?_
    refine KeepsCanon.get_bind fun _ hs => ?_
    exact keepsCanon_arriveE.bind fun _ => KeepsCanon.ite keepsCanon_chainTake keepsCanon_chainResult
end

/-! ### What the decoupled engines share (spec 13 R248 to R251, R256 to R258; 15 R289, R290) -/
section
variable {s : State} {o : CommandOrder} {core line n slot tag : Nat} {sp : Space} {va : Dword} {p : Place} {mask : BitVec 64} {v : VReg}
  {pois : Bool}

theorem keepsCanon_engineRoom {attn : Bool} {room : Bool} {bytes : Nat} : KeepsCanon (engineRoom attn room tag bytes) :=
  keepsCanon_cx.bind fun _ => KeepsCanon.ite KeepsCanon.pure KeepsCanon.throw

theorem keepsCanon_guardSteering {bad : Bool} : KeepsCanon (guardSteering bad) := keepsCanon_guardPoison
theorem State.Canon.noteCommand {t : Nat} (h : s.Canon) : (s.noteCommand o t).Canon := h.noteTime
theorem State.Canon.commandRead (h : s.Canon) : (s.commandRead o line).Canon := h.noteCommand.observeBy

theorem State.Canon.blockAt (h : s.Canon) : (s.blockAt core o p).2.Canon := by
  unfold State.blockAt
  dsimp only
  repeat' split
  exacts [h.spHolds.scratchRead.noteCommand, h.placeOverdue.homeLoad.commandRead, h.placeOverdue.homeLoad.same.commandRead,
    h.placeOverdue.homeLoad, h.uncachedLoad, h]

theorem State.Canon.uncachedBytes {pa : Nat} {key : Nat} (h : s.Canon) : (s.uncachedBytes pa mask v pois key).Canon :=
    h.foldl fun _ _ ht => ht.uncachedStore

theorem State.Canon.placeBefore (h : s.Canon) : (s.placeBefore o line).Canon := State.Canon.ite h h.placeThose

theorem State.Canon.putEarly {e : Early} (h : s.Canon) : (s.putEarly o e).Canon := by
  unfold State.putEarly
  repeat' split
  exacts [h.placeBefore.placeWrite, h.same.placeBefore.placeWrite, h.same.observeBy]

theorem State.Canon.putBlock (h : s.Canon) : (s.putBlock core o p mask v pois).Canon := by
  unfold State.putBlock
  split
  · exact h.spHolds.scratchStore.noteCommand
  · exact h.placeOverdue.putEarly
  · split
    · exact h.uncachedStore
    · exact h.uncachedBytes
  · exact h

theorem State.Canon.commandOver {ctx : Nat} {cmd : Nat} (h : s.Canon) : (s.commandOver ctx cmd).Canon := h

theorem State.Canon.enginePlace {t0 : Nat} {acc : Access} (h : s.Canon) : (s.enginePlace t0 core sp va acc).2.Canon := by
  unfold State.enginePlace
  dsimp only
  repeat' split
  all_goals exact h.translate

theorem State.Canon.tagPerformed {lt : Nat} (h : s.Canon) : (s.tagPerformed core slot tag n lt).Canon := h.modCtx
theorem State.Canon.tagAbandoned {reason : Byte} (h : s.Canon) : (s.tagAbandoned core slot tag n reason).Canon := h.modCtx

theorem State.Canon.engineLines {fuel : Nat} (h : s.Canon) : (s.engineLines core o sp va fuel).2.Canon := by
  induction fuel generalizing s va with
  | zero => exact h
  | succ _ ih =>
    unfold State.engineLines
    dsimp only
    repeat' split
    exacts [h.enginePlace, ih h.enginePlace.blockAt, ih h.enginePlace.blockAt]

theorem State.Canon.frontLoad (h : s.Canon) : (s.frontLoad sp va n).2.Canon := by
  unfold State.frontLoad
  repeat' split
  exacts [h.spaceLoad, h]

theorem State.Canon.frontStore {v : Nat} {p : Bool} (h : s.Canon) : (s.frontStore sp va n v p).2.Canon := by
  unfold State.frontStore
  repeat' split
  exacts [h.spaceStore, h]
end

/-! ### Attention (spec 13 R265 to R269; 15 R301; 17 R304 to R308) -/
section
variable {s : State} {o : CommandOrder} {a : AttnCmd} {cmd : Nat}

theorem keepsCanon_issueLoad {p : Place} {n : Nat} : KeepsCanon (issueLoad p n) := keepsCanon_waitSpWords.bind fun _ => keepsCanon_loadE

theorem keepsCanon_loadExtents {fuel : Nat} {y : Dword} : KeepsCanon (loadExtents fuel y) := by
  induction fuel generalizing y with
  | zero => exact KeepsCanon.pure
  | succ _ ih => exact keepsCanon_translateT.bind fun _ => keepsCanon_issueLoad.bind fun _ => ih.bind fun _ => KeepsCanon.pure

theorem State.Canon.execAttn {q : Reg} {t : Reg} {d : Reg} {g : BitVec 5} {acq : Bool} {rel : Bool} {c : Scope} (h : s.Canon) :
    CanonNext (execAttn q t d g acq rel c s) :=
  h.finish (keepsCanon_cx.bind fun _ => keepsCanon_guardTrap.bind fun _ => keepsCanon_guardTrap.bind fun _ =>
    keepsCanon_guardTrap.bind fun _ => keepsCanon_placesT.bind fun _ => (KeepsCanon.mapM fun _ => keepsCanon_issueLoad).bind fun _ =>
    keepsCanon_loadExtents.bind fun _ => keepsCanon_guardTrap.bind fun _ => keepsCanon_guardTrap.bind fun _ =>
    keepsCanon_guardTrap.bind fun _ => keepsCanon_guardSteering.bind fun _ => KeepsCanon.get_bind fun _ hs =>
    keepsCanon_engineRoom.bind fun _ => keepsCanon_modCx.bind fun _ => (KeepsCanon.modify fun _ ht => ht.same).bind fun _ =>
    keepsCanon_retireE)

theorem State.Canon.attnQuery (h : s.Canon) : (s.attnQuery o a).2.Canon := by
  unfold State.attnQuery
  dsimp only
  repeat' split
  exacts [h, h.engineLines, h.engineLines]

theorem State.Canon.attnCompute {b : AttnBlock} (h : s.Canon) : (s.attnCompute o a b).2.Canon := by
  unfold State.attnCompute
  dsimp only
  repeat' split
  exacts [h.attnQuery, h.attnQuery, h.attnQuery.engineLines, h.attnQuery.engineLines.engineLines, h.attnQuery.engineLines.engineLines]

theorem State.Canon.execAttnBlock (h : s.Canon) : CanonNext (execAttnBlock cmd s) := by
  unfold Machine.execAttnBlock
  dsimp only
  repeat' split
  exacts [h, h, h.attnCompute, h.attnCompute, h]

theorem State.Canon.resultPlaces {t0 : Nat} {core : Nat} {sp : Space} {x : List (Dword × Nat)} (h : s.Canon) :
    (s.resultPlaces t0 core sp x).2.Canon := by
  induction x generalizing s with
  | nil => exact h
  | cons x xs ih =>
    unfold State.resultPlaces
    dsimp only
    repeat' split
    exacts [h.enginePlace, ih h.enginePlace, ih h.enginePlace]

theorem State.Canon.execAttnResult (h : s.Canon) : CanonNext (execAttnResult cmd s) := by
  unfold Machine.execAttnResult
  dsimp only
  repeat' split
  exacts [h, h, h.same.tagAbandoned, h.resultPlaces.same.tagAbandoned, h, (((h.resultPlaces.same.foldl fun _ _ ht =>
    ht.putBlock).commandOver).tagPerformed).modCtx, ((h.resultPlaces.same.foldl fun _ _ ht => ht.putBlock).commandOver).tagPerformed]
end

/-! ### Pre-emption (spec 19 R348 to R355; 06 R121, R122; 02 R40) -/
section
variable {s : State} {core rcb slot : Nat} {r : Region} {x : Saved}

theorem State.Canon.liveMap {c : Context} {ix : Nat} (h : s.Canon) : (s.liveMap core c ix).2.Canon := by
  unfold State.liveMap
  dsimp only
  split
  · exact h.spaceLoad
  · split
    · exact h.spaceLoad.spaceLoad
    · exact h.spaceLoad.spaceLoad

theorem State.Canon.saveCtx {i : Nat} {lm : Option (Nat × Dword × Dword)} (h : s.Canon) : (s.saveCtx core slot i lm).Canon := by
  unfold State.saveCtx
  dsimp only
  repeat' split
  exacts [h.placeThose, ((((h.placeThose.foldl fun _ _ ht => ht.dealerStore).modRegion).modCtx).endCtx).releaseSlot]

theorem State.Canon.saveFull (h : s.Canon) : (s.saveFull core slot).Canon := by
  unfold State.saveFull
  dsimp only
  repeat' split
  exacts [h.modCtx.endCtx.releaseSlot, h, h.saveCtx, h]

theorem State.Canon.execSafe {xi : BitVec 16} (h : s.Canon) : CanonNext (execSafe xi s) := by
  unfold Machine.execSafe
  dsimp only
  refine h.finish ?_
  refine KeepsCanon.get_bind fun _ hs => ?_
  split
  · split
    · exact keepsCanon_retireE
    · split
      · exact KeepsCanon.throw
      · exact (KeepsCanon.set hs.liveMap).bind fun _ => keepsCanon_retireE.bind fun _ => KeepsCanon.modify fun _ ht => ht.saveCtx
  · exact keepsCanon_retireE

theorem State.Canon.askCtx {k : Nat} (h : s.Canon) : (s.askCtx k).Canon := State.Canon.ite h.setCtx h

theorem State.Canon.execYieldRequest (h : s.Canon) : CanonNext (execYieldRequest core slot s) :=
  CanonNext.ite (State.Canon.ite h.askCtx (State.Canon.ite h.askCtx.squash h.askCtx.saveFull)) h

theorem State.Canon.execPreemptTimeout (h : s.Canon) : CanonNext (execPreemptTimeout core slot s) := CanonNext.ite h.saveFull h
theorem State.Canon.requestYield (h : s.Canon) : (s.requestYield rcb core).Canon := h.foldl fun _ _ ht => ht.askCtx

theorem State.Canon.comeBack (h : s.Canon) : (s.comeBack rcb).Canon := by
  unfold State.comeBack
  repeat' split
  exacts [h, h.modRegion.foldl fun _ _ ht => ht.serve, h]

theorem State.Canon.stopRegion (h : s.Canon) : (s.stopRegion rcb r).Canon := h.modRegion.foldl fun _ _ ht => ht.requestYield

theorem State.Canon.execPriorityYield (h : s.Canon) : CanonNext (execPriorityYield core s) :=
  State.Canon.foldl (State.Canon.ite h.requestYield h) fun _ _ ht => ht.stopRegion

theorem State.Canon.execTimeSliceEnd (h : s.Canon) : CanonNext (execTimeSliceEnd core s) := CanonNext.ite h.requestYield.modCore h

theorem State.Canon.resumeIn (h : s.Canon) : (s.resumeIn rcb core slot r x).Canon := by
  unfold State.resumeIn
  exact h.readDwords.readDwords.readDwords.readDwords.startCtx.setCtx.modRegion

theorem State.Canon.resumeSomewhere (h : s.Canon) : (s.resumeSomewhere rcb r x).Canon := by
  unfold State.resumeSomewhere
  dsimp only
  repeat' split
  exacts [h, h, h.serve.resumeIn, h.serve.resumeIn.modCtx]

theorem State.Canon.resumeAll (h : s.Canon) : (s.resumeAll rcb r).Canon := h.foldl fun _ _ ht => ht.resumeSomewhere
end

/-! ### Vector loads and stores, gather and scatter (spec 05 R100 to R102, R112) -/
section
variable {n w : Nat} {p : LanePlan} {g : PReg} {addrs : List (Nat × Dword)} {a b d : Reg} {s : State} {pops : List Reg} {ea : Dword} {bad :
  Bool} {z : Size} {off : BitVec 11} {x : Nat × Dword × Place} {t : ETy}

theorem keepsCanon_laneChecks {acc : Access} : KeepsCanon (laneChecks addrs acc n) := keepsCanon_checkPlaces.bind fun _ => KeepsCanon.pure

theorem keepsCanon_laneTimed : KeepsCanon (laneTimed addrs n) :=
    (KeepsCanon.mapM fun _ => keepsCanon_guardTimed).bind fun _ => KeepsCanon.pure

theorem keepsCanon_takeLanes : KeepsCanon (takeLanes p) :=
  KeepsCanon.get_bind fun _ _ => KeepsCanon.ite KeepsCanon.pure (keepsCanon_draw.bind fun _ => KeepsCanon.pure)

theorem keepsCanon_loadLane : KeepsCanon (loadLane p x) := keepsCanon_loadE.bind fun _ => KeepsCanon.pure

theorem keepsCanon_logLane {va : Dword} : KeepsCanon (logLane p va) :=
  keepsCanon_cx.bind fun _ => KeepsCanon.ite KeepsCanon.pure (keepsCanon_logBlock.bind fun _ => KeepsCanon.pure)

theorem keepsCanon_storeLane : KeepsCanon (storeLane p x) := keepsCanon_logLane.bind fun _ => keepsCanon_storeE.bind fun _ =>
    KeepsCanon.pure

theorem keepsCanon_runLanes : KeepsCanon (runLanes p) := by
  refine keepsCanon_takeLanes.bind fun _ => KeepsCanon.bind (KeepsCanon.foldlM fun _ _ => ?_) fun _ => ?_
  · split
    exacts [keepsCanon_storeLane, keepsCanon_loadLane]
  · exact KeepsCanon.ite KeepsCanon.pure ((KeepsCanon.modify fun _ hs => hs.beginWait).bind fun _ => KeepsCanon.pure)

theorem keepsCanon_loadLanes {cut : Option Nat} {ls : List (Nat × Dword × Place)} : KeepsCanon (loadLanes ea n cut ls) := by
  unfold loadLanes
  repeat' split
  exacts [keepsCanon_guardPlane.bind fun _ => (KeepsCanon.mapM fun _ => keepsCanon_waitSpWords).bind fun _ => keepsCanon_loadE.bind fun _ =>
    KeepsCanon.pure, keepsCanon_runLanes, KeepsCanon.pure]

theorem keepsCanon_putLoaded : KeepsCanon (putLoaded w d pops g p) := by
  unfold putLoaded
  split
  · exact KeepsCanon.pure
  · refine keepsCanon_cx.bind fun _ => ?_
    refine keepsCanon_modCx.bind fun _ => ?_
    split
    · exact keepsCanon_retireE
    · exact keepsCanon_modCx.bind fun _ => keepsCanon_retireE

theorem keepsCanon_loadFrom {begin_ : Exec LanePlan} (hbegin_ : KeepsCanon begin_) : KeepsCanon (loadFrom w d pops g begin_) := by
  unfold loadFrom
  refine keepsCanon_cx.bind fun _ => ?_
  split
  · exact keepsCanon_runLanes.bind fun _ => keepsCanon_putLoaded
  · exact hbegin_.bind fun _ => keepsCanon_putLoaded

theorem keepsCanon_beginLoad : KeepsCanon (beginLoad ea n addrs bad) :=
  keepsCanon_laneChecks.bind fun _ => keepsCanon_guardPoison.bind fun _ => keepsCanon_loadLanes

theorem State.Canon.execVld (h : s.Canon) : CanonNext (execVld d a g z off s) :=
  h.finish (keepsCanon_loadFrom (keepsCanon_cx.bind fun _ => keepsCanon_guardTrap.bind fun _ => keepsCanon_beginLoad))

theorem keepsCanon_laneTranslations : KeepsCanon (laneTranslations addrs n) :=
  KeepsCanon.mapM fun _ => KeepsCanon.get_bind fun _ hs => (KeepsCanon.set hs.translateLeaf).bind fun _ => KeepsCanon.pure

theorem keepsCanon_beginLoadFirst : KeepsCanon (beginLoadFirst ea n addrs bad) :=
  keepsCanon_laneTranslations.bind fun _ => keepsCanon_soundPlaces.bind fun _ => keepsCanon_guardPoison.bind fun _ => keepsCanon_loadLanes

theorem State.Canon.execVldff (h : s.Canon) : CanonNext (execVldff d a g z off s) :=
  h.finish (keepsCanon_loadFrom (keepsCanon_cx.bind fun _ => keepsCanon_guardTrap.bind fun _ => keepsCanon_beginLoadFirst))

theorem State.Canon.storeMasked {k : Nat} {p : Place} {v : VReg} {mask : BitVec 64} {pois : Bool} (h : s.Canon) :
    (s.storeMasked k p v mask pois).Canon := by
  unfold State.storeMasked
  repeat' split
  exacts [h.scratchStoreBy, h.placeOverdue.placeSeen.fill.rekey.coStore, h]

theorem keepsCanon_storeChecks : KeepsCanon (storeChecks addrs n bad) :=
  keepsCanon_laneChecks.bind fun _ => keepsCanon_laneTimed.bind fun _ => keepsCanon_guardPoison.bind fun _ => KeepsCanon.pure

theorem keepsCanon_goOnStoring : KeepsCanon (goOnStoring pops p) :=
  keepsCanon_runLanes.bind fun _ => KeepsCanon.ite (keepsCanon_modCx.bind fun _ => keepsCanon_retireE) KeepsCanon.pure

theorem keepsCanon_storeFrom {v : VReg × Bool} {begin_ : Exec (Option (List (Nat × Dword × Place)))} (hbegin_ : KeepsCanon begin_) :
    KeepsCanon (storeFrom n pops v begin_) := by
  unfold storeFrom
  refine keepsCanon_cx.bind fun _ => ?_
  split
  · exact keepsCanon_goOnStoring
  · refine hbegin_.bind fun _ => ?_
    split
    · exact keepsCanon_goOnStoring
    · exact keepsCanon_modCx.bind fun _ => keepsCanon_retireE

theorem State.Canon.execVst (h : s.Canon) : CanonNext (execVst b a g z off s) := by
  unfold Machine.execVst
  refine h.finish ?_
  refine keepsCanon_srcV.bind fun _ => ?_
  refine keepsCanon_storeFrom ?_
  refine keepsCanon_cx.bind fun _ => ?_
  refine keepsCanon_guardTrap.bind fun _ => ?_
  refine keepsCanon_storeChecks.bind fun _ => ?_
  split
  · split
    · exact keepsCanon_guardPlane.bind fun _ => (KeepsCanon.mapM fun _ => keepsCanon_waitSpWords).bind fun _ =>
        keepsCanon_logStore.bind fun _ => (KeepsCanon.modify fun _ hs => hs.storeMasked).bind fun _ => KeepsCanon.pure
    · exact KeepsCanon.pure
  · exact KeepsCanon.pure

theorem State.Canon.execVgather (h : s.Canon) : CanonNext (execVgather d a b g t s) :=
  h.finish (keepsCanon_srcV.bind fun _ => keepsCanon_loadFrom (keepsCanon_cx.bind fun _ => keepsCanon_guardTrap.bind fun _ =>
    keepsCanon_beginLoad))

theorem State.Canon.execVscatter (h : s.Canon) : CanonNext (execVscatter d a b g t s) :=
  h.finish (keepsCanon_srcV.bind fun _ => keepsCanon_srcV.bind fun _ => keepsCanon_storeFrom (keepsCanon_cx.bind fun _ =>
    keepsCanon_guardTrap.bind fun _ => keepsCanon_storeChecks.bind fun _ => KeepsCanon.pure))
end

/-! ### The steps of the dealer (spec 01 R23; 04 R93; 06 R114 to R130; 07 R149 to R153, R157, R174; 19 R354) -/
section
variable {s : State} {core rcb slot : Nat} {p : Packet} {e : Event}

theorem State.Canon.execYield (h : s.Canon) : CanonNext (execYield s) :=
  h.finish (KeepsCanon.get_bind fun _ _ => keepsCanon_guardIll.bind fun _ => keepsCanon_retireE.bind fun _ =>
    KeepsCanon.ite keepsCanon_modCx KeepsCanon.pure)

theorem State.Canon.execQueuedTrapEntry (h : s.Canon) : CanonNext (execQueuedTrapEntry core s) := by
  unfold Machine.execQueuedTrapEntry
  dsimp only
  repeat' split
  exacts [h, h, h.modCtx.enterS]

theorem State.Canon.execWfeTimeout (h : s.Canon) : CanonNext (execWfeTimeout core slot s) := State.Canon.ite h.modCtx h
theorem State.Canon.execDealerPark (h : s.Canon) : CanonNext (execDealerPark core slot s) := State.Canon.ite h.modCtx h
theorem State.Canon.endPause (h : s.Canon) : (s.endPause core).Canon := h.modCore
theorem State.Canon.execDealerWake (h : s.Canon) : CanonNext (execDealerWake core slot s) := State.Canon.ite h.endPause.modCtx h
theorem State.Canon.execWakeDone (h : s.Canon) : CanonNext (execWakeDone core slot s) := State.Canon.ite h.modCtx h

theorem State.Canon.execTaskStart (h : s.Canon) : CanonNext (execTaskStart core s) := by
  unfold Machine.execTaskStart
  repeat' split
  exacts [h, h, h, h.endPause.modWork.comeBack.serve.startCtx]

theorem State.Canon.execSavedContextResume (h : s.Canon) : CanonNext (execSavedContextResume core s) := by
  unfold Machine.execSavedContextResume
  repeat' split
  exacts [h.endRegion, h, h, h, h.endPause.comeBack.serve.resumeIn, h.endPause.comeBack.resumeAll]

theorem State.Canon.execTagHoldRelease (h : s.Canon) : CanonNext (execTagHoldRelease core slot s) := by
  unfold Machine.execTagHoldRelease
  repeat' split
  exacts [h.releaseSlot, h]

theorem State.Canon.execStealProbe (h : s.Canon) : CanonNext (execStealProbe core s) := by
  unfold Machine.execStealProbe
  split
  · exact h
  · exact State.Canon.push (h.setCore h.getCore)

theorem State.Canon.execStealProbeReceive (h : s.Canon) : CanonNext (execStealProbeReceive p s) := State.Canon.ite h h.same.modWork.push

theorem State.Canon.execStealProbeAnswer (h : s.Canon) : CanonNext (execStealProbeAnswer p s) := by
  have hset {c : Core} (hc : c.Canon) : (({ s with net := s.net.erase p } : State).setCore (epCore p.dst) c).Canon :=
    State.Canon.setCore h.same hc
  unfold Machine.execStealProbeAnswer
  dsimp only
  repeat' split
  · exact h
  · exact State.Canon.modWork (hset h.getCore)
  all_goals exact hset h.getCore

theorem State.Canon.execStealPauseExpiry (h : s.Canon) : CanonNext (execStealPauseExpiry core s) := State.Canon.ite h.endPause h

theorem State.Canon.openRecord {rcb core desc : Nat} {e : Event} {done : Bool} {r : (Nat × Dword) × State} (h : s.Canon)
    (hr : s.openRecord rcb core e desc done = some r) : r.2.Canon := by
  unfold State.openRecord at hr
  split at hr
  · simp at hr
  · next hgot =>
    have hroom := h.obtain hgot
    dsimp only at hr
    split at hr
    · obtain rfl := Option.some.inj hr
      exact hroom
    · obtain rfl := Option.some.inj hr
      exact hroom.dealerLoad.dealerLoad.modWork.dealerStore.dealerStore.dealerStore

theorem State.Canon.handlerOf (h : s.Canon) : (s.handlerOf rcb core e).2.Canon := by
  unfold State.handlerOf
  dsimp only
  split
  exacts [h.actorDesc.dealerLoad.dealerLoad, h.actorDesc.dealerLoad.dealerLoad.dealerLoad]

theorem State.Canon.readEvent (h : s.Canon) : (s.readEvent rcb core e).Canon := by
  unfold State.readEvent
  split
  exacts [h, h.dealerLoad]

theorem State.Canon.startFiring {rec_ : Nat} {desc : Nat} {handler : Dword} {rngk : Dword} {rngc : Dword} {base : Nat} {size : Nat}
    (h : s.Canon) : (s.startFiring rcb core slot e rec_ desc handler rngk rngc base size).Canon :=
  State.Canon.ite h.startCtx.modCtx h.startCtx.modCtx.takeTrap

theorem State.Canon.fire {slot : Option Nat} {displaced : Bool} (h : s.Canon) : (s.fire rcb core slot e displaced).Canon := by
  unfold State.fire
  dsimp only
  split
  · exact h
  · next hopened =>
    have hrec := State.Canon.openRecord h.actorDesc.handlerOf.readEvent.readDwords hopened
    split
    · exact hrec
    · split
      · exact hrec.modWork.refill.comeBack.serve.modWork.startFiring
      · exact hrec.modWork.refill

theorem State.Canon.execFiringStart (h : s.Canon) : CanonNext (execFiringStart core s) := by
  unfold Machine.execFiringStart
  dsimp only
  repeat' split
  exacts [h, h, h.endPause.fire, h.endPause, h.endPause.fire, h.endPause.squash, h.endPause, h.endPause, h.endPause]

theorem State.Canon.execFiringSquash (h : s.Canon) : CanonNext (execFiringSquash core slot s) := State.Canon.ite h.squash h
end

/-! ### Packets that land, and the send queues (spec 06 R131 to R136; 08 R177, R184, R185, R201; 19 R337; 22 R385) -/
section
variable {s : State} {p : Packet} {core slot : Nat} {i : BitVec 4}

theorem State.Canon.takeOff (h : s.Canon) : (s.takeOff p).Canon := State.Canon.ite h.same.modCore h
theorem State.Canon.holdReq (h : s.Canon) : (s.holdReq p).Canon := h.modCore

theorem State.Canon.depart (h : s.Canon) : (s.depart p).Canon :=
  State.Canon.ite h.takeOff.push (State.Canon.ite h.takeOff.same (State.Canon.ite h.takeOff.push h.takeOff.same))

theorem State.Canon.landReq {land : State → State} (h : s.Canon) (hland : ∀ t, State.Canon t → (land t).Canon) : (s.landReq p land).Canon :=
  State.Canon.ite h.depart (State.Canon.ite h (State.Canon.ite h.takeOff.push (State.Canon.ite h.takeOff.push (hland _ h))))

theorem State.Canon.execMessageArrival (h : s.Canon) : CanonNext (execMessageArrival p s) := by
  unfold Machine.execMessageArrival
  dsimp only
  split
  · exact h.landReq (fun _ ht => State.Canon.ite ht.holdReq (State.Canon.ite ht.takeOff.modCtx ht.takeOff.modCtx.push))
  · exact h

theorem State.Canon.execPortPacketArrival (h : s.Canon) : CanonNext (execPortPacketArrival p s) := by
  unfold Machine.execPortPacketArrival
  split
  · refine h.landReq fun _ ht => ?_
    split
    · exact ht.takeOff.push
    · exact ht.holdReq.ite ht.takeOff.modCtx.push
  · exact h

theorem State.Canon.execCallatTaskArrival (h : s.Canon) : CanonNext (execCallatTaskArrival p s) := by
  unfold Machine.execCallatTaskArrival
  dsimp only
  repeat' split
  exacts [h.depart, h, h.takeOff.push, h.holdReq, h.takeOff.modWork, h]

theorem State.Canon.answered {ep : BitVec 40} (h : s.Canon) : (s.answered ep i).Canon := h

theorem State.Canon.landRpl {land : Context → Context} (h : s.Canon) : (s.landRpl p i land).Canon :=
  State.Canon.ite h.depart (State.Canon.ite h.takeOff.answered (State.Canon.ite h.takeOff.modCtx h.takeOff.modCtx.answered))

theorem State.Canon.execReplyArrival (h : s.Canon) : CanonNext (execReplyArrival p s) := by
  unfold Machine.execReplyArrival
  repeat' split
  exacts [h.landRpl, h]

theorem State.Canon.execErrorReply (h : s.Canon) : CanonNext (execErrorReply p s) := by
  unfold Machine.execErrorReply
  dsimp only
  repeat' split
  exacts [h.landRpl, h.depart, h.takeOff, h.modCore.landRpl, h.modCore.takeOff, h.modCore.takeOff, h]

theorem State.Canon.execAckArrival (h : s.Canon) : CanonNext (execAckArrival p s) := by
  unfold Machine.execAckArrival
  repeat' split
  exacts [h.landRpl, h]

theorem State.Canon.execSendQueueDrain (h : s.Canon) : CanonNext (execSendQueueDrain core slot s) := by
  unfold Machine.execSendQueueDrain
  dsimp only
  repeat' split
  exacts [h, h.modCtx.push]

theorem State.Canon.execSendStallTimeout (h : s.Canon) : CanonNext (execSendStallTimeout core slot s) := by
  unfold Machine.execSendStallTimeout
  dsimp only
  repeat' split
  exacts [h, h.takeTrap]

theorem State.Canon.execChredPartialArrival (h : s.Canon) : CanonNext (execChredPartialArrival core slot s) := by
  unfold Machine.execChredPartialArrival
  dsimp only
  repeat' split
  exacts [h.same.finish keepsCanon_chainTake, h, h, h]

theorem State.Canon.execLtTick (h : s.Canon) : CanonNext (execLtTick s) := h
end

/-! ### Events that arrive, kiln sweeps and fossil collection (spec 07 R149, R158 to R169; 08 R191; 09 R202; 19 R339; 22 R399) -/
section
variable {s : State} {core rcb soc : Nat} {p : Packet} {e : Event} {k : Dword}

theorem State.Canon.arriveEvent (h : s.Canon) : (s.arriveEvent rcb core e).Canon := by
  unfold State.arriveEvent
  split
  · exact h.fileEvent
  · refine State.Canon.refill ?_
    refine State.Canon.insertEvent ?_
    split
    · exact h
    · split
      · exact h.rollback
      · exact h

theorem State.Canon.dropPending (h : s.Canon) : (s.dropPending soc core e).Canon := by
  unfold State.dropPending
  repeat' split
  exacts [h, h.modWork.refill]

theorem State.Canon.arriveCancel (h : s.Canon) : (s.arriveCancel rcb core e).Canon :=
  State.Canon.ite h.dropPending (State.Canon.ite h.rollback.dropPending h.insertEvent)

theorem State.Canon.modSoc {f : Society → Society} (h : s.Canon) : (s.modSoc soc f).Canon := by
  unfold State.modSoc
  repeat' split
  exacts [h, h]

theorem State.Canon.pushedElsewhere (h : s.Canon) : (s.pushedElsewhere soc).Canon := by
  unfold State.pushedElsewhere
  repeat' split
  exacts [h, h, h.same.modSoc, h.same.modSoc]

theorem State.Canon.landEvent {rs : Option (BitVec 4)} {id : Nat} {file : State → Nat → Nat → Event → State} (h : s.Canon)
    (hfile : ∀ t rcb core e, State.Canon t → (file t rcb core e).Canon) : (s.landEvent p e rs id file).Canon :=
  State.Canon.ite h.depart (State.Canon.ite h (State.Canon.ite h.takeOff.push (State.Canon.ite (State.Canon.push (hfile _ _ _ _
    (State.Canon.ite h.takeOff.homeNow h.takeOff.homeNow.pushedElsewhere))) h.takeOff.homeNow.push)))

theorem State.Canon.execEventArrival (h : s.Canon) : CanonNext (execEventArrival p s) := by
  unfold Machine.execEventArrival
  split
  · exact State.Canon.ite h (h.landEvent fun _ _ _ _ ht => ht.arriveEvent)
  · exact h

theorem State.Canon.execCancelArrival (h : s.Canon) : CanonNext (execCancelArrival p s) := by
  unfold Machine.execCancelArrival
  split
  · exact State.Canon.ite (h.landEvent fun _ _ _ _ ht => ht.arriveCancel) h
  · exact h

theorem State.Canon.execInFlightAck (h : s.Canon) : CanonNext (execInFlightAck p s) := by
  unfold Machine.execInFlightAck
  dsimp only
  repeat' split
  exacts [h.depart, h.takeOff.modCore.modCtx, h.takeOff.modCore, h.takeOff.modCore, h]

theorem State.Canon.resend {f : Flight} (h : s.Canon) : (s.resend core f).Canon := h.homeNow.modCore.push

theorem State.Canon.execSealedEventResend {flight : Nat} (h : s.Canon) : CanonNext (execSealedEventResend core flight s) := by
  unfold Machine.execSealedEventResend
  repeat' split
  exacts [h, h.resend, h]

theorem State.Canon.execHomeCacheInvalidate (h : s.Canon) : CanonNext (execHomeCacheInvalidate p s) := by
  unfold Machine.execHomeCacheInvalidate
  repeat' split
  exacts [h.takeOff.modCore.foldl fun _ _ ht => ht.resend, h]

theorem State.Canon.execSweepStart (h : s.Canon) : CanonNext (execSweepStart soc s) := by
  unfold Machine.execSweepStart
  split
  · exact h
  · split
    · exact h.modSoc
    · exact h

theorem State.Canon.execSweepSample (h : s.Canon) : CanonNext (execSweepSample soc core s) := by
  unfold Machine.execSweepSample
  repeat' split
  exacts [h, h, h.modSoc.modCore, h]

theorem State.Canon.collectAt (h : s.Canon) : (s.collectAt soc k core).Canon := by
  unfold State.collectAt
  repeat' split
  exacts [h.fossil, h, h, h.fossil]

theorem State.Canon.kilnAt (h : s.Canon) : (s.kilnAt soc k core).Canon := h.collectAt.modCore.foldl fun _ _ ht => ht.modCtx

theorem State.Canon.execKilnPublish (h : s.Canon) : CanonNext (execKilnPublish soc s) := by
  unfold Machine.execKilnPublish
  repeat' split
  exacts [h, h, h.modSoc, h]

theorem State.Canon.kilnArrives (h : s.Canon) : (s.kilnArrives soc core).Canon := by
  unfold State.kilnArrives
  repeat' split
  exacts [h, h.modSoc.kilnAt]

theorem State.Canon.execUnpublishedSweepInstant (h : s.Canon) : CanonNext (execUnpublishedSweepInstant soc s) := by
  unfold Machine.execUnpublishedSweepInstant
  repeat' split
  exacts [h, h, h.modSoc, h]
end

/-! ### The end of a region (spec 06 R140; 19 R343, R344; 21 R372) -/
section
variable {s : State} {rcb : Nat} {reason : Option Byte} {r : Region}

theorem State.Canon.putStatus {sp : Space} {done : Bool} (h : s.Canon) : (s.putStatus sp rcb done reason).Canon := h.frontLoad.frontStore

theorem State.Canon.clearRegion (h : s.Canon) : (s.clearRegion rcb).Canon := by
  have hended : State.Canon ((s.liveIn rcb).foldl (fun (t : State) k =>
      if (t.getCtx k).firing.isSome then t.squash (k / 64) (k % 64)
      else ((t.modCtx k (fun c => { c with sendq := [] })).endCtx k).releaseSlot rcb (k / 64) (k % 64) none) s) :=
    h.foldl fun _ _ ht => ht.squash.ite ht.modCtx.endCtx.releaseSlot
  have hundone (l : List (Nat × Core)) := State.Canon.foldl (l := l) hended fun t x ht => ht.undoAll (rcb := rcb) (core := x.1)
  exact State.Canon.withCores (hundone _).modRegion ((hundone _).modRegion.mapCores fun _ => rfl)

theorem State.Canon.dropSociety {soc : Nat} (h : s.Canon) : (s.dropSociety soc).Canon :=
    State.Canon.ite h (h.withCores (h.mapCores fun _ => rfl))

theorem State.Canon.stopDomain (h : s.Canon) : (s.stopDomain rcb r).Canon := State.Canon.ite h (h.foldl fun _ _ ht => ht.endRegion)
theorem State.Canon.placeRegion (h : s.Canon) : (s.placeRegion rcb).Canon := h.placeThose

theorem State.Canon.finishRegion (h : s.Canon) : (s.finishRegion rcb r reason).Canon := by
  have htold : State.Canon (((s.placeRegion rcb).raiseAgent agFront ((s.placeRegion rcb).regionTime rcb)).putStatus
      (s.ownerSpace r.owner) rcb true reason) := h.placeRegion.raiseAgent.putStatus
  have hserved {t : State} (ht : t.Canon) : ∀ x ∈ t.cores.map fun (x : Nat × Core) =>
      (x.1, if x.2.serving = some rcb then { x.2 with serving := none } else x.2), x.2.Canon :=
    ht.mapCores fun _ => by split <;> rfl
  cases reason with
  | none => exact State.Canon.dropSociety (htold.withCores (hserved htold))
  | some => exact State.Canon.dropSociety (htold.stopDomain.withCores (hserved htold.stopDomain))

theorem State.Canon.execRegionDoneReport (h : s.Canon) : CanonNext (execRegionDoneReport rcb s) := by
  unfold Machine.execRegionDoneReport
  dsimp only
  repeat' split
  exacts [h, h, h.finishRegion, h.clearRegion, h.clearRegion.finishRegion]

theorem State.Canon.execRegionStop (h : s.Canon) : CanonNext (execRegionStop rcb s) := by
  unfold Machine.execRegionStop
  repeat' split
  exacts [h, h, h.modRegion.foldl fun _ _ ht => ht.requestYield]
end

/-! ### Command queues (spec 21 R364 to R369, R373 to R378) -/
section
variable {s : State} {n q : Nat} {l : Level} {sp : Space} {v : Dword}

theorem State.Canon.packetLine {line : Nat} (h : s.Canon) : (s.packetLine sp l line).2.2.Canon := by
  unfold State.packetLine
  dsimp only
  repeat' split
  exacts [h, h.frontLoad, h.frontLoad]

theorem State.Canon.packetUnit {a : Nat} (h : s.Canon) : (s.packetUnit sp l a).2.2.Canon := by
  unfold State.packetUnit
  dsimp only
  repeat' split
  all_goals exact h.packetLine

theorem State.Canon.readAhead {x : List Nat} (h : s.Canon) : (s.readAhead sp l x).2.Canon := by
  induction x generalizing s l with
  | nil => exact h
  | cons x xs ih =>
    unfold State.readAhead
    dsimp only
    split
    · exact h.packetLine
    · exact ih h.packetLine

theorem State.Canon.fetchAhead {q : Queue} (h : s.Canon) : (s.fetchAhead q l).2.Canon := by
  unfold State.fetchAhead
  dsimp only
  repeat' split
  exacts [h, h.same.readAhead]

theorem State.Canon.governs {q : Queue} {pos : Nat} {fuel : Nat} (h : s.Canon) : (State.governs q s l pos fuel).2.2.Canon := by
  induction fuel generalizing s l pos with
  | zero => exact h
  | succ _ ih =>
    unfold State.governs
    dsimp only
    repeat' split
    exacts [h, h, h, h.packetUnit, h.packetUnit, h.packetUnit, ih h.packetUnit]

theorem State.Canon.putLevels {ls : List Level} (h : s.Canon) : (s.putLevels n ls).Canon := by
  unfold State.putLevels
  repeat' split
  exacts [h, h, h.same.putDesc, h]

theorem State.Canon.bytesDone {q : Queue} {b : Nat} (h : s.Canon) : (s.bytesDone n q b).Canon := by
  unfold State.bytesDone
  repeat' split
  exacts [h.stopQueue, h.putLevels]

theorem State.Canon.packetDone {q : Queue} {p : Pkt} (h : s.Canon) : (s.packetDone n q p).Canon := h.bytesDone
theorem State.Canon.putQueue {q : Queue} (h : s.Canon) : (s.putQueue n q).Canon := h
theorem State.Canon.idleQueues (h : s.Canon) : s.idleQueues.Canon := h

/-- The memories are in canonical form in the state that the beginning of a packet leaves. -/
def CanonBegun (b : Begun) : Prop :=
  match b with
  | .absent => True
  | .bad _ _ s => s.Canon
  | .ok _ _ s => s.Canon

theorem State.Canon.beginPacket {q : Queue} (h : s.Canon) : CanonBegun (s.beginPacket q) := by
  have hhead := h.packetUnit (sp := q.space) (l := q.level) (a := q.at_)
  unfold State.beginPacket
  dsimp only
  generalize s.packetUnit q.space q.level q.at_ = r at hhead ⊢
  split
  · trivial
  · split
    · exact hhead
    · next x _ =>
      split
      · exact hhead
      · split
        · exact hhead
        · split
          · trivial
          · have htail : ((if (Pkt.of x 0).len = 2 ∧ (Pkt.of x 0).opc ≠ 0 then r.2.2.packetUnit q.space r.2.1 (q.at_ + 16) else (.ok 0,
              r.2)).2.2).Canon := by
              split
              exacts [hhead.packetUnit, hhead]
            generalize (if (Pkt.of x 0).len = 2 ∧ (Pkt.of x 0).opc ≠ 0 then r.2.2.packetUnit q.space r.2.1 (q.at_ + 16) else (.ok 0,
              r.2)) = t at htail ⊢
            split
            · exact htail
            · next y _ =>
              have hgov : ((if (Pkt.of x y).opc = 4 then State.governs q t.2.2 t.2.1 (q.level.pos + 16) (Pkt.of x y).sub else (true,
                t.2)).2.2).Canon := by
                split
                exacts [htail.governs, htail]
              split
              exacts [hgov, hgov]

theorem State.Canon.packetStep {opc : Nat} {perform : Queue → Pkt → State → State} (h : s.Canon)
    (hperform : ∀ q p t, State.Canon t → (perform q p t).Canon) : CanonNext (packetStep n opc perform s) := by
  unfold Machine.packetStep
  split
  · exact h
  · next q _ =>
    refine CanonNext.ite h ?_
    have hbegun := h.beginPacket (q := q)
    split
    · exact h
    · next hb =>
      rw [hb] at hbegun
      exact CanonNext.ite (State.Canon.stopQueue hbegun) h
    · next p l s1 hb =>
      rw [hb] at hbegun
      have hahead := State.Canon.fetchAhead (q := q) (l := l) hbegun
      refine CanonNext.ite h (CanonNext.ite (hperform _ _ _ hahead.putQueue) ?_)
      exact State.Canon.ite hahead.putLevels hahead.packetDone

theorem State.Canon.packetFault {q : Queue} {code : Nat} (h : s.Canon) : (s.packetFault n q code).Canon := h.stopQueue

theorem State.Canon.testCond {q : Queue} {cmp : Nat} {addr : Dword} {ref : Dword} {mask : Dword} (h : s.Canon) :
    (s.testCond q cmp addr ref mask).2.Canon := by
  unfold State.testCond
  dsimp only
  repeat' split
  all_goals exact h.frontLoad

theorem State.Canon.execNopPacket (h : s.Canon) : CanonNext (execNopPacket q s) := h.packetStep fun _ _ _ ht => ht.packetDone

theorem State.Canon.execIb (h : s.Canon) : CanonNext (execIb q s) := by
  unfold Machine.execIb
  dsimp only
  exact h.packetStep (fun _ _ _ ht => ht.putQueue)

theorem State.Canon.execPred (h : s.Canon) : CanonNext (execPred q s) := by
  unfold Machine.execPred
  dsimp only
  refine h.packetStep (fun _ _ _ ht => ?_)
  split
  · exact ht.testCond.packetFault
  · exact ht.testCond.packetDone
  · exact ht.testCond.packetDone

theorem State.Canon.execLoopPacket (h : s.Canon) : CanonNext (execLoopPacket q s) := h.packetStep fun _ _ _ ht => ht.putLevels

theorem State.Canon.execWrite (h : s.Canon) : CanonNext (execWrite q s) := by
  unfold Machine.execWrite
  dsimp only
  refine h.packetStep (fun _ _ _ ht => ?_)
  split
  · exact ht.frontStore.packetFault
  · exact ht.frontStore.packetDone

theorem State.Canon.fenceWait {q : Queue} (h : s.Canon) : (s.fenceWait n q).Canon := h.putQueue

theorem State.Canon.execFencePacket (h : s.Canon) : CanonNext (execFencePacket q s) :=
    h.packetStep fun _ _ _ ht => ht.packetDone.ite ht.fenceWait

theorem State.Canon.raiseVector {q : Queue} {vector : Nat} (h : s.Canon) : (s.raiseVector n q vector).Canon :=
  State.Canon.ite h (State.Canon.ite h.same h.same.raiseIrq)

theorem State.Canon.execSignal (h : s.Canon) : CanonNext (execSignal q s) := by
  unfold Machine.execSignal
  dsimp only
  refine h.packetStep (fun _ _ _ ht => ?_)
  split
  · exact ht.fenceWait
  · split
    · exact ht.frontStore.packetFault
    · exact ht.frontStore.packetDone.raiseVector

theorem State.Canon.execWaitPacket (h : s.Canon) : CanonNext (execWaitPacket q s) := by
  unfold Machine.execWaitPacket
  dsimp only
  refine h.packetStep (fun _ _ _ ht => ?_)
  split
  · exact ht.testCond.packetFault
  · exact ht.testCond.packetDone
  · exact ht.testCond.putQueue

theorem State.Canon.execWaitPacketTest (h : s.Canon) : CanonNext (execWaitPacketTest q s) := by
  unfold Machine.execWaitPacketTest
  dsimp only
  repeat' split
  exacts [h, h, h.testCond.packetFault, h.testCond.bytesDone, h.testCond.putQueue, h]

theorem State.Canon.execFfence (h : s.Canon) : CanonNext (execFfence q s) := h.packetStep fun _ _ _ ht => ht.packetDone

theorem State.Canon.execPromote (h : s.Canon) : CanonNext (execPromote q s) := by
  have hasked {t : State} {l : List (Nat × Request)} (ht : t.Canon) : State.Canon { t with requests := l } := ht
  refine h.packetStep fun _ _ _ ht => ?_
  dsimp only
  split
  · exact ht.frontLoad.packetFault
  · split
    · exact ht.frontLoad.frontLoad.packetFault
    · exact (hasked ht.frontLoad.frontLoad).packetDone

theorem State.Canon.execDoorbellTail (h : s.Canon) : CanonNext (execDoorbellTail q v s) := h.doorbellTail
theorem State.Canon.execDoorbellReset (h : s.Canon) : CanonNext (execDoorbellReset q v s) := h.doorbellReset
end

/-! ### LAUNCH (spec 06 R118 to R121; 12 R204; 21 R370 to R372) -/
section
variable {s : State} {sp : Space} {n rcb : Nat} {r : Region} {cores : List Nat} {q : Queue}

theorem State.Canon.frontBlock {a : Dword} (h : s.Canon) : (s.frontBlock sp a).2.Canon := by
  unfold State.frontBlock
  dsimp only
  repeat' split
  exacts [h.frontLoad, h.frontLoad.frontLoad, h.frontLoad.frontLoad]

theorem State.Canon.readChain {parent : Nat} {fuel : Nat} (h : s.Canon) : (s.readChain sp parent fuel).2.Canon := by
  induction fuel generalizing s parent with
  | zero =>
    unfold State.readChain
    split <;> exact h
  | succ _ ih =>
    unfold State.readChain
    dsimp only
    repeat' split
    exacts [h, h, h.frontBlock, ih h.frontBlock, ih h.frontBlock]

theorem State.Canon.joinSociety (h : s.Canon) : (s.joinSociety r).2.Canon := by
  unfold State.joinSociety
  repeat' split
  all_goals exact h

theorem State.Canon.shareKiln {soc : Nat} (h : s.Canon) : (s.shareKiln soc cores).Canon := by
  unfold State.shareKiln
  repeat' split
  exacts [h, h, h.foldl fun _ _ ht => ht.modCore]

theorem State.Canon.admitRegion {root : Task} (h : s.Canon) : (s.admitRegion rcb n q r cores root).Canon :=
    h.joinSociety.shareKiln.setRegion.modWork

theorem State.Canon.launchFrom {record : Nat} {own : Nat} (h : s.Canon) : (s.launchFrom n q rcb record own).Canon := by
  have hread := h.readChain (sp := q.space) (parent := rcbField own 0 0 64) (fuel := 7)
  unfold State.launchFrom
  generalize s.readChain q.space (rcbField own 0 0 64) 7 = chain at hread ⊢
  dsimp only
  split
  · exact hread.putStatus
  · split
    · exact hread.putStatus
    · split
      exacts [hread.admitRegion, hread.admitRegion.putQueue]

theorem State.Canon.ownBlock (h : s.Canon) : (s.ownBlock sp rcb).2.Canon := by
  unfold State.ownBlock
  repeat' split
  exacts [h.frontBlock, h.frontLoad]

theorem State.Canon.clearBlock (h : s.Canon) : (s.clearBlock sp rcb).2.Canon := by
  unfold State.clearBlock
  dsimp only
  repeat' split
  exacts [h.ownBlock, h.ownBlock.frontStore, h.ownBlock.frontStore.frontStore]

theorem State.Canon.countLaunch (h : s.Canon) : s.countLaunch.Canon := h

theorem State.Canon.execLaunch {q : Nat} (h : s.Canon) : CanonNext (execLaunch q s) := by
  unfold Machine.execLaunch
  dsimp only
  refine h.packetStep (fun _ _ _ ht => ?_)
  split
  · exact ht.frontBlock.packetFault
  · split
    · exact ht.frontBlock.packetFault
    · split
      · exact ht.frontBlock.packetFault
      · split
        · exact ht.frontBlock.clearBlock.packetFault
        · refine State.Canon.packetDone ?_
          split
          · exact ht.frontBlock.clearBlock.countLaunch.putStatus
          · exact ht.frontBlock.clearBlock.countLaunch.launchFrom
end

/-! ### The endpoint and firmware (spec 21 R366, R379 to R382; 22 R406, R408, R409) -/
section
variable {s : State} {v : Dword} {core pa soc version : Nat} {isWrite on : Bool} {ps : List (Nat × List Byte)} {data : List Byte}

theorem State.Canon.queueResult {r : Nat} (h : s.Canon) : (s.queueResult r).Canon := h

theorem State.Canon.execQcmdRegister (h : s.Canon) : CanonNext (execQcmdRegister s) := by
  unfold Machine.execQcmdRegister
  dsimp only
  repeat' split
  exacts [h, h.queueResult, h.queueResult, h.queueResult, h.same.queueResult]

theorem State.Canon.execQcmdUnregister (h : s.Canon) : CanonNext (execQcmdUnregister s) := by
  unfold Machine.execQcmdUnregister
  dsimp only
  repeat' split
  exacts [h, h.queueResult, h.queueResult, h, h.same.queueResult]

theorem State.Canon.execCommit (h : s.Canon) : CanonNext (execCommit s) := h.commit
theorem State.Canon.setOwner {o : Nat} {f : Space → Space} (h : s.Canon) : (s.setOwner o f).Canon := h
theorem State.Canon.assignKey {k : Nat} (h : s.Canon) : (s.assignKey k v).Canon := State.Canon.ite h h

theorem State.Canon.setSupWork (h : s.Canon) : (s.setSupWork core on).Canon :=
    State.Canon.ite h.modCore.modCtx (State.Canon.ite h.modCore h.modCore.parkS)

theorem State.Canon.setGateway {entry : Nat} (h : s.Canon) : (s.setGateway entry v).Canon := State.Canon.ite h h.modDom
theorem State.Canon.widenSociety (h : s.Canon) : (s.widenSociety soc v).Canon := State.Canon.ite h.modSoc (State.Canon.ite h.modSoc h)
theorem State.Canon.haltCtx {slot : Nat} (h : s.Canon) : (s.haltCtx core slot on).Canon := State.Canon.ite h.modCtx.askCtx h.modCtx

theorem State.Canon.floorElsewhere (h : s.Canon) : (s.floorElsewhere soc v).Canon :=
  State.Canon.ite h.pushedElsewhere (State.Canon.ite h (State.Canon.ite h.same h.same.pushedElsewhere))

theorem State.Canon.setApp {f : AppCore → AppCore} (h : s.Canon) : (s.setApp core f).Canon := h
theorem State.Canon.setTcm {off : Nat} (h : s.Canon) : (s.setTcm core off v).Canon := State.Canon.ite h.same h

theorem State.Canon.commitLoop {n : Nat} {accepted : Nat} {ctr : Dword} (h : s.Canon) : (s.commitLoop n accepted ctr).Canon := by
  unfold State.commitLoop
  repeat' split
  exacts [h, h]

theorem State.Canon.execRegisterWrite {r : HostReg} (h : s.Canon) : CanonNext (execRegisterWrite r v s) := match r with
  | .endpoint _ => State.Canon.ite h h.endpointWrite
  | .ckper | .ckstep | .otherLaunches => h
  | .memoryKey _ => h.assignKey
  | .ownerRoot _ | .ownerAsid _ => h.setOwner
  | .gateway _ => h.setGateway
  | .supWork _ => h.setSupWork
  | .halt .. => h.haltCtx
  | .societyScope _ => h.widenSociety
  | .otherFloor _ => h.floorElsewhere.modSoc
  | .moveHome .. => h.moveAway
  | .moved .. => h.modDom
  | .appCore .. => h.setApp
  | .raise _ => h.raiseIrq
  | .irqPriority _ | .irqEnable .. | .irqThreshold _ | .complete _ => h.same
  | .claim _ => h.claimIrq
  | .tcm .. => h.setTcm
  | .loopStart .. | .loopEnd _ => h.same
  | .loopCommit .. => h.commitLoop

theorem State.Canon.execEndpointReset (h : s.Canon) : CanonNext (execEndpointReset s) := h

theorem State.Canon.importTable (h : s.Canon) : (s.importTable version).Canon := by
  have hloops : State.Canon (if version < 2 then { s with loops := [] } else s) := State.Canon.ite h h
  exact State.Canon.ite hloops.same hloops

theorem State.Canon.execLiveUpdate {security : Nat} {signed : Bool} (h : s.Canon) : CanonNext (execLiveUpdate version security signed s) :=
  CanonNext.ite h (CanonNext.ite h.same (CanonNext.ite h.same h.importTable.same))

theorem State.Canon.booted (h : s.Canon) : s.booted.Canon := by
  obtain ⟨-, -, himages, -⟩ := h
  refine ⟨rfl, fun x hx => ?_, himages, nofun⟩
  obtain ⟨y, -, rfl⟩ := List.mem_map.1 hx
  rfl

theorem State.Canon.unbooted (h : s.Canon) : s.unbooted.Canon := h.booted.withCores fun x hx => by
  obtain ⟨y, -, rfl⟩ := List.mem_map.1 hx
  rfl

theorem State.Canon.execPackageReset {verified : BootCheck} (h : s.Canon) : CanonNext (execPackageReset verified s) :=
  State.Canon.ite h.unbooted (State.Canon.ite h.booted h.booted.same)

theorem State.Canon.execAttestation {nonce : BitVec 256} (h : s.Canon) : CanonNext (execAttestation nonce s) := CanonNext.ite h.same h

theorem State.Canon.execMonitorSample {m : Sample} (h : s.Canon) : CanonNext (execMonitorSample m s) :=
  State.Canon.ite h.same (State.Canon.ite h.same (State.Canon.ite h.same h))

theorem State.Canon.sysRead (h : s.Canon) : (s.sysRead ps).2.Canon := by
  unfold State.sysRead
  generalize ([] : List Byte) = bytes
  induction ps generalizing s bytes with
  | nil => exact h
  | cons p ps ih => exact ih h.spaceLoad _

theorem State.Canon.sysWrite (h : s.Canon) : (s.sysWrite ps).Canon := h.foldl fun _ _ ht => ht.spaceStore

theorem State.Canon.execHostDeviceAccess (h : s.Canon) : CanonNext (execHostDeviceAccess isWrite pa data s) :=
  CanonNext.ite h (CanonNext.ite (h.foldl fun _ _ ht => ht.uncachedStore) h.sysRead.same)

theorem State.Canon.execApplicationCoreAccess (h : s.Canon) : CanonNext (execApplicationCoreAccess isWrite pa data s) :=
  CanonNext.ite h (CanonNext.ite h.sysWrite h.sysRead.same)
end

/-! ### The coherence domain around the package (spec 22 R386, R389 to R397) -/
section
variable {s : State} {line pkg plane : Nat} {data : VReg} {pois : Bool} {e : DirEntry}

theorem State.Canon.execLinkReplay {link : Nat} (h : s.Canon) : CanonNext (execLinkReplay link s) := CanonNext.ite h h
theorem State.Canon.execGets (h : s.Canon) : CanonNext (execGets line pkg s) := State.Canon.ite h h.getS
theorem State.Canon.execGetm (h : s.Canon) : CanonNext (execGetm line pkg s) := State.Canon.ite h h.getM
theorem State.Canon.bringHome (h : s.Canon) : (s.bringHome line data pois).Canon := State.Canon.ite h.arrive h
theorem State.Canon.homeAlone (h : s.Canon) : (s.homeAlone line).Canon := h.setX.setD.freeDir
theorem State.Canon.releaseRecovering (h : s.Canon) : (s.releaseRecovering line pkg).Canon := h.giveUp.setD.modDom

theorem State.Canon.execPuts (h : s.Canon) : CanonNext (execPuts line pkg s) := by
  unfold Machine.execPuts
  dsimp only
  repeat' split
  exacts [h.releaseRecovering, h, h.giveUp.setD.homeAlone, h.giveUp.setD.setDir, h]

theorem State.Canon.execPute (h : s.Canon) : CanonNext (execPute line pkg s) := by
  unfold Machine.execPute
  repeat' split
  exacts [h.releaseRecovering, h, h.giveUp.homeAlone, h]

theorem State.Canon.execPutm (h : s.Canon) : CanonNext (execPutm line pkg data pois s) := by
  unfold Machine.execPutm
  repeat' split
  exacts [h.bringHome.releaseRecovering, h, h.bringHome.giveUp.homeAlone, h]

theorem State.Canon.execPuto (h : s.Canon) : CanonNext (execPuto line pkg data pois s) := by
  unfold Machine.execPuto
  repeat' split
  exacts [h.bringHome.releaseRecovering, h, h.bringHome.giveUp.setD.homeAlone, h.bringHome.giveUp.setD.setDir, h]

theorem State.Canon.execForward {k : FwdKind} (h : s.Canon) : CanonNext (execForward line pkg k s) := by
  unfold Machine.execForward
  repeat' split
  exacts [h.setCopy, h.setCopy, h, h.giveUp, h.giveUp]

theorem State.Canon.execRecall (h : s.Canon) : CanonNext (execRecall line s) := h.makeRoom
theorem State.Canon.dropSweeps (h : s.Canon) : (s.dropSweeps plane).Canon := State.Canon.ite h h

theorem State.Canon.declareLost (h : s.Canon) : (s.declareLost plane).Canon :=
    State.Canon.ite h ((h.dropSweeps.modDom.foldl fun _ _ ht => ht.giveUp).same)

theorem State.Canon.replayMoved (h : s.Canon) : (s.replayMoved plane).Canon := h.modDom.foldl fun _ _ ht => ht
theorem State.Canon.finishRecovery (h : s.Canon) : (s.finishRecovery plane).Canon := h.same.replayMoved
theorem State.Canon.endRecovery (h : s.Canon) : s.endRecovery.Canon := h.foldl fun _ _ ht => ht.finishRecovery

theorem State.Canon.execHeartbeat {arrived : Bool} (h : s.Canon) : CanonNext (execHeartbeat plane arrived s) :=
  CanonNext.ite h.modDom (State.Canon.ite h.modDom.declareLost h.modDom)

theorem State.Canon.execPlaneLost (h : s.Canon) : CanonNext (execPlaneLost plane s) := h.declareLost
theorem State.Canon.execRecoveryReport (h : s.Canon) : CanonNext (execRecoveryReport pkg s) := h.modDom.endRecovery

theorem State.Canon.ownerLost (h : s.Canon) : (s.ownerLost pkg line e).Canon :=
  State.Canon.ite (State.Canon.setDir (State.Canon.setD (State.Canon.ite h.arriveFree h))) (State.Canon.homeAlone
    (State.Canon.ite h.same h))

theorem State.Canon.afterLoss (h : s.Canon) : (s.afterLoss pkg line e).Canon :=
  State.Canon.ite h.ownerLost (State.Canon.ite (State.Canon.ite h.homeAlone h.setDir) h)

theorem State.Canon.execPackageLost (h : s.Canon) : CanonNext (execPackageLost pkg s) :=
  CanonNext.ite (h.foldl fun _ _ ht => ht.endRegion) (CanonNext.ite h ((((h.foldl fun _ _ ht => ht.afterLoss).modDom).push).endRecovery))
end

/-! ### Checkpoint and restore (spec 22 R400 to R404) -/
section
variable {s : State} {img : Image}

theorem State.Canon.execCheckpointStart (h : s.Canon) : CanonNext (execCheckpointStart s) :=
  CanonNext.ite h (State.Canon.foldl h fun _ _ ht => ht.foldl fun _ _ hu => hu.requestYield)

theorem State.Canon.writeKsave (h : s.Canon) : s.writeKsave.Canon := h.foldl fun _ _ ht => ht.frontStore
theorem State.Canon.cleanCopies (h : s.Canon) : s.cleanCopies.Canon := (h.foldl fun _ _ ht => ht.getS).foldl fun _ _ ht => ht.getS
theorem State.Canon.unask (h : s.Canon) : s.unask.Canon := h

/-- The bytes that a snapshot takes are in canonical form. -/
theorem State.Canon.imageMemory (h : s.Canon) : s.imageMemory.wf = true := by
  obtain ⟨hmem, -⟩ := h
  refine Memory.wf_filter _ _ ?_
  generalize s.mem = m at hmem ⊢
  induction s.behind generalizing m with
  | nil => exact hmem
  | cons x xs ih =>
    refine ih _ ?_
    dsimp only
    split
    · exact hmem
    · exact Memory.wf_write _ _ _ _ hmem

theorem State.Canon.execCheckpointSnapshot (h : s.Canon) : CanonNext (execCheckpointSnapshot s) := by
  have hplaced := h.placeThose (pick := fun _ => true) |>.cleanCopies |>.writeKsave
  unfold Machine.execCheckpointSnapshot
  dsimp only
  repeat' split
  · exact h
  · exact h
  · exact h
  · obtain ⟨hmem, hcores, -⟩ := id hplaced
    obtain ⟨-, -, himages, -⟩ := h
    refine ⟨hmem, hcores, himages, fun i hi => ?_⟩
    obtain rfl := Option.some.inj hi
    exact hplaced.imageMemory

theorem State.Canon.streamed (h : s.Canon) (himg : img.mem.wf = true) : (s.streamed img).Canon := by
  obtain ⟨hmem, hcores, himages, -⟩ := h
  refine ⟨hmem, hcores, fun i hi => ?_, nofun⟩
  obtain rfl | hi := List.mem_cons.1 hi
  · exact himg
  · exact himages i (List.mem_of_mem_take hi)

theorem State.Canon.frameInTurn {f : Nat} (h : s.Canon) (himg : img.mem.wf = true) : (s.frameInTurn f img).Canon := by
  unfold State.frameInTurn
  dsimp only
  repeat' split
  exacts [h, h, State.Canon.streamed h himg, State.Canon.streamed h himg]

theorem State.Canon.execCheckpointFrame (h : s.Canon) : CanonNext (execCheckpointFrame s) := by
  obtain ⟨hmem, hcores, himages, hpending⟩ := id h
  unfold Machine.execCheckpointFrame
  split
  · next himg =>
    refine State.Canon.ite ⟨hmem, hcores, himages, nofun⟩ ?_
    split
    · exact State.Canon.takeFrame h
    · exact State.Canon.frameInTurn h (hpending _ himg)
  · exact h

theorem State.Canon.emptied (h : s.Canon) (himg : img.mem.wf = true) : (s.emptied img).Canon := by
  obtain ⟨-, -, himages, -⟩ := h
  refine ⟨himg, fun x hx => ?_, himages, nofun⟩
  obtain ⟨y, -, rfl⟩ := List.mem_map.1 hx
  rfl

theorem State.Canon.restoreKiln {rcb : Nat} {r : Region} (h : s.Canon) : (s.restoreKiln rcb r).Canon :=
    (h.foldl fun _ _ ht => ht.modCore).modSoc

theorem State.Canon.execRestore (h : s.Canon) : CanonNext (execRestore s) := by
  obtain ⟨-, -, himages, -⟩ := id h
  unfold Machine.execRestore
  split
  · exact h
  · next himg =>
    refine CanonNext.ite h (State.Canon.same (State.Canon.foldl (h.emptied (himages _ ?_)) fun _ _ ht => ht.restoreKiln))
    simp [himg]
end

/-! ### Copies and tags (spec 13 R252 to R258; 15 R290 to R295) -/
section
variable {s : State} {a d : Reg} {ra : Dword}

theorem keepsCanon_recordPlaces : KeepsCanon (recordPlaces ra) :=
  (KeepsCanon.mapM fun _ => keepsCanon_tryTranslate.bind fun _ => KeepsCanon.pure).bind fun _ => keepsCanon_soundPlaces

theorem keepsCanon_recordLoad {p : Place} : KeepsCanon (recordLoad p) :=
  keepsCanon_guardPlane.bind fun _ => keepsCanon_waitSpWords.bind fun _ => keepsCanon_loadE

theorem keepsCanon_fetchLayout : KeepsCanon (fetchLayout ra) := by
  unfold fetchLayout
  dsimp only
  refine KeepsCanon.get_bind fun _ hs => ?_
  split
  · exact (KeepsCanon.modify fun _ ht => ht.same).bind fun _ => KeepsCanon.pure
  · refine keepsCanon_recordPlaces.bind fun _ => ?_
    refine (KeepsCanon.mapM fun _ => keepsCanon_recordLoad).bind fun _ => ?_
    split
    · exact (KeepsCanon.modify fun _ ht => ht.same).bind fun _ => KeepsCanon.pure
    · exact KeepsCanon.pure

theorem State.Canon.execDcopy {r : Reg} {sr : Reg} {t : BitVec 5} {q : Bool} {l : Bool} {c : Scope} (h : s.Canon) :
    CanonNext (execDcopy r sr d t q l c s) :=
  h.finish (keepsCanon_cx.bind fun _ => keepsCanon_guardTrap.bind fun _ => keepsCanon_fetchLayout.bind fun _ =>
    keepsCanon_guardTrap.bind fun _ => keepsCanon_guardTrap.bind fun _ => keepsCanon_guardTrap.bind fun _ =>
    keepsCanon_guardTrap.bind fun _ => keepsCanon_guardSteering.bind fun _ => KeepsCanon.get_bind fun _ hs =>
    KeepsCanon.get_bind fun _ ht => keepsCanon_engineRoom.bind fun _ => keepsCanon_modCx.bind fun _ => (KeepsCanon.modify fun _ hu =>
    hu.same).bind fun _ => keepsCanon_retireE)

theorem keepsCanon_tagWaitEnd {m : Dword} : KeepsCanon (tagWaitEnd m a) :=
  keepsCanon_cx.bind fun _ => keepsCanon_guardTrap.bind fun _ => keepsCanon_guardPoison

theorem State.Canon.execDwaitAny (h : s.Canon) : CanonNext (execDwaitAny d a s) :=
  h.finish (keepsCanon_cx.bind fun _ => KeepsCanon.ite KeepsCanon.throw_bind (keepsCanon_tagWaitEnd.bind fun _ =>
    keepsCanon_modCx.bind fun _ => keepsCanon_retireE))

theorem State.Canon.execDwaitAll (h : s.Canon) : CanonNext (execDwaitAll a s) :=
  h.finish (keepsCanon_cx.bind fun _ => KeepsCanon.ite KeepsCanon.throw_bind (keepsCanon_tagWaitEnd.bind fun _ => keepsCanon_retireE))

theorem State.Canon.execDffr (h : s.Canon) : CanonNext (execDffr d a s) :=
  h.finish (keepsCanon_cx.bind fun _ => keepsCanon_guardPoison.bind fun _ => keepsCanon_modCx.bind fun _ => keepsCanon_retireE)

theorem State.Canon.execRflush (h : s.Canon) : CanonNext (execRflush a s) :=
  h.finish (keepsCanon_cx.bind fun _ => keepsCanon_guardPoison.bind fun _ => (KeepsCanon.modify fun _ hs => hs.same).bind fun _ =>
    keepsCanon_retireE)

theorem State.Canon.execDtagst {b : Reg} (h : s.Canon) : CanonNext (execDtagst d a b s) :=
  h.finish (keepsCanon_cx.bind fun _ => keepsCanon_guardPoison.bind fun _ => keepsCanon_modCx.bind fun _ => keepsCanon_retireE)

theorem State.Canon.execCopyPiece {cmd : Nat} (h : s.Canon) : CanonNext (execCopyPiece cmd s) := by
  unfold Machine.execCopyPiece
  dsimp only
  split
  · exact h
  · split
    · exact h.enginePlace.same.commandOver.tagAbandoned
    · split
      · exact h.enginePlace.enginePlace.same.commandOver.tagAbandoned
      · split
        · exact h
        · refine State.Canon.tagPerformed ?_
          split
          · exact h.enginePlace.enginePlace.blockAt.putBlock
          · exact h.enginePlace.enginePlace.blockAt.putBlock.same.commandOver
end

/-! ### Errors of the hardware, containment notices and the context window (spec 19 R334 to R341, R356, R357; 01 R415) -/
section
variable {s : State} {cmd core line off slot : Nat}

theorem State.Canon.poisonSlice (h : s.Canon) : (s.poisonSlice line).Canon := h.storeLine

theorem State.Canon.poisonMemory (h : s.Canon) : (s.poisonMemory line).Canon := by
  unfold State.poisonMemory
  repeat' split
  all_goals exact h

theorem State.Canon.failCopy (h : s.Canon) : (s.failCopy cmd).Canon := by
  unfold State.failCopy
  repeat' split
  exacts [h, h.same.commandOver.tagAbandoned]

theorem State.Canon.failAttn (h : s.Canon) : (s.failAttn cmd).Canon := by
  unfold State.failAttn
  repeat' split
  exacts [h, h.same.commandOver.tagAbandoned]

theorem State.Canon.reportCounts (h : s.Canon) : (s.reportCounts core).Canon := h

theorem State.Canon.countRetry (h : s.Canon) : (s.countRetry core).Canon := by
  have hcounted {f : Core → Core} (hf : ∀ c, (f c).scratch = c.scratch) : (s.modCore core f).Canon := h.modCore hf
  exact State.Canon.reportCounts (State.Canon.ite (hcounted fun _ => rfl) (State.Canon.withFlash (hcounted fun _ => rfl)))

theorem State.Canon.execUncorrectableError {p : ErrPlace} (h : s.Canon) : CanonNext (execUncorrectableError p s) := match p with
  | .check _ => h.countRetry.seal
  | .l1 .. => h.modCore fun _ => by split <;> rfl
  | .tlb .. => by
    unfold Machine.execUncorrectableError
    dsimp only
    split
    exacts [h, h]
  | .pool _ => h.seal
  | .slice line => h.poisonSlice (line := line)
  | .memory line => h.poisonMemory (line := line)
  | .copyEngine cmd => h.failCopy (cmd := cmd)
  | .attnUnit cmd => h.failAttn (cmd := cmd)
  | .wedging _ => by
    unfold Machine.execUncorrectableError
    dsimp only
    split
    exacts [h, h]

theorem State.Canon.execCorrectableError {e : Corrected} (h : s.Canon) : CanonNext (execCorrectableError e s) :=
  State.Canon.ite h.countRetry h.modCore.reportCounts

theorem State.Canon.enterNotice {sup : Nat} {sealed_ : Nat} (h : s.Canon) : (s.enterNotice sup sealed_).Canon := h.modCtx

theorem State.Canon.execContainmentNotice {p : Packet} (h : s.Canon) : CanonNext (execContainmentNotice p s) := by
  unfold Machine.execContainmentNotice
  repeat' split
  exacts [h.takeOff.modCore.enterNotice, h, h]

theorem State.Canon.execWindowRead (h : s.Canon) : CanonNext (execWindowRead core slot off s) := CanonNext.ite h h

theorem State.Canon.execWindowWrite {v : Dword} (h : s.Canon) : CanonNext (execWindowWrite core slot off v s) :=
    CanonNext.ite h h.windowStore
end

/-! ### The matrix unit (spec 13 R259 to R264; 03 R66 to R70; 15 R289, R296 to R300, R413) -/
section
variable {m : BitVec 7} {s : State} {a b : Reg} {r : MatRecord}

theorem keepsCanon_guardTile : KeepsCanon (guardTile m) := KeepsCanon.get_bind fun _ _ => keepsCanon_guardIll
theorem keepsCanon_accept {op : MatOp} : KeepsCanon (accept m op) := KeepsCanon.modify fun _ hs => hs.modCo
theorem keepsCanon_waitTile : KeepsCanon (waitTile m) := KeepsCanon.get_bind fun _ _ => KeepsCanon.ite KeepsCanon.throw KeepsCanon.pure
theorem keepsCanon_loadWait {p : Place} {n : Nat} : KeepsCanon (loadWait p n) := keepsCanon_waitSpWords.bind fun _ => keepsCanon_loadE

theorem State.Canon.execMatrixRetire {core : Nat} (h : s.Canon) : CanonNext (execMatrixRetire core s) := by
  unfold Machine.execMatrixRetire
  repeat' split
  exacts [h, h, h.modCore.modCtx]

theorem keepsCanon_loadPair {ps : List Place} : KeepsCanon (loadPair ps) :=
    (KeepsCanon.mapM fun _ => keepsCanon_loadWait).bind fun _ => KeepsCanon.pure

theorem keepsCanon_MatRecord_aligned : KeepsCanon (MatRecord.aligned r) := by
  unfold MatRecord.aligned
  refine keepsCanon_guardTrap.bind fun _ => ?_
  split
  · exact KeepsCanon.pure
  · exact keepsCanon_guardTrap

theorem keepsCanon_MatRecord_places : KeepsCanon (MatRecord.places r) := by
  unfold MatRecord.places
  refine (KeepsCanon.mapM fun _ => keepsCanon_translateT).bind fun _ => ?_
  split
  · exact KeepsCanon.pure
  · exact keepsCanon_translateT.bind fun _ => KeepsCanon.pure

theorem keepsCanon_loadLines {x : List Place} : KeepsCanon (loadLines x) := by
  induction x with
  | nil => exact KeepsCanon.pure
  | cons p ps ih => exact keepsCanon_loadWait.bind fun _ => ih.bind fun _ => KeepsCanon.pure

theorem keepsCanon_MatRecord_load {ps : List Place × Option Place} : KeepsCanon (MatRecord.load r ps) := by
  unfold MatRecord.load
  refine keepsCanon_loadLines.bind fun _ => ?_
  split
  · exact KeepsCanon.pure
  · exact keepsCanon_loadWait.bind fun _ => KeepsCanon.pure

theorem State.Canon.execMma {y : Bool} {x : Bool} (h : s.Canon) : CanonNext (execMma m a b y x s) :=
  h.finish (keepsCanon_guardTile.bind fun _ => keepsCanon_cx.bind fun _ => keepsCanon_guardTrap.bind fun _ =>
    keepsCanon_guardTrap.bind fun _ => keepsCanon_placesT.bind fun _ => keepsCanon_loadPair.bind fun _ => keepsCanon_loadPair.bind fun _ =>
    keepsCanon_MatRecord_aligned.bind fun _ => keepsCanon_MatRecord_aligned.bind fun _ => keepsCanon_MatRecord_places.bind fun _ =>
    keepsCanon_MatRecord_places.bind fun _ => keepsCanon_guardTrap.bind fun _ => keepsCanon_guardTrap.bind fun _ =>
    keepsCanon_guardSteering.bind fun _ => keepsCanon_MatRecord_load.bind fun _ => keepsCanon_MatRecord_load.bind fun _ =>
    keepsCanon_accept.bind fun _ => keepsCanon_retireE)

theorem State.Canon.execMzero (h : s.Canon) : CanonNext (execMzero m s) :=
  h.finish (keepsCanon_guardTile.bind fun _ => keepsCanon_accept.bind fun _ => keepsCanon_retireE)

theorem keepsCanon_rowPlaces {acc : Access} : KeepsCanon (rowPlaces a b acc) :=
  keepsCanon_cx.bind fun _ => keepsCanon_guardTrap.bind fun _ => keepsCanon_guardTrap.bind fun _ => keepsCanon_placesT

theorem State.Canon.execMld (h : s.Canon) : CanonNext (execMld m a b s) :=
  h.finish (keepsCanon_guardTile.bind fun _ => keepsCanon_rowPlaces.bind fun _ => keepsCanon_cx.bind fun _ =>
    keepsCanon_guardSteering.bind fun _ => keepsCanon_loadLines.bind fun _ => keepsCanon_accept.bind fun _ => keepsCanon_retireE)

theorem keepsCanon_goOnBlocks {p : LanePlan} : KeepsCanon (goOnBlocks p) :=
  keepsCanon_runLanes.bind fun _ => KeepsCanon.ite (keepsCanon_modCx.bind fun _ => keepsCanon_retireE) KeepsCanon.pure

theorem State.Canon.execMst (h : s.Canon) : CanonNext (execMst m a b s) := by
  unfold Machine.execMst
  refine h.finish ?_
  refine keepsCanon_cx.bind fun _ => ?_
  split
  · exact keepsCanon_goOnBlocks
  · exact keepsCanon_guardTile.bind fun _ => keepsCanon_waitTile.bind fun _ => keepsCanon_rowPlaces.bind fun _ =>
      keepsCanon_cx.bind fun _ => (KeepsCanon.mapM fun _ => keepsCanon_guardTimed).bind fun _ => keepsCanon_guardSteering.bind fun _ =>
      KeepsCanon.get_bind fun _ hs => keepsCanon_goOnBlocks

theorem State.Canon.execMstc (h : s.Canon) : CanonNext (execMstc m a b s) := by
  unfold Machine.execMstc
  refine h.finish ?_
  refine keepsCanon_cx.bind fun _ => ?_
  split
  · exact keepsCanon_goOnBlocks
  · exact keepsCanon_guardTile.bind fun _ => keepsCanon_waitTile.bind fun _ => keepsCanon_cx.bind fun _ =>
      keepsCanon_guardTrap.bind fun _ => keepsCanon_placesT.bind fun _ => keepsCanon_guardTrap.bind fun _ => (KeepsCanon.mapM fun _ =>
      keepsCanon_guardTimed).bind fun _ => keepsCanon_guardSteering.bind fun _ => KeepsCanon.get_bind fun _ hs => keepsCanon_goOnBlocks

theorem State.Canon.execCbld (h : s.Canon) : CanonNext (execCbld a s) :=
  h.finish (keepsCanon_cx.bind fun _ => keepsCanon_guardTrap.bind fun _ => keepsCanon_translateT.bind fun _ =>
    keepsCanon_guardSteering.bind fun _ => keepsCanon_loadWait.bind fun _ => keepsCanon_modCx.bind fun _ => keepsCanon_retireE)
end

/-! ### Sampling (spec 17 R315, R317 to R327) -/
section
variable {a d : Reg} {s : State} {rows : List Dword} {stores : Bool}

theorem keepsCanon_linePlaces {ls : List Nat} {acc : Access} : KeepsCanon (linePlaces ls acc) :=
  KeepsCanon.mapM fun _ => keepsCanon_translateT.bind fun _ => KeepsCanon.pure

theorem keepsCanon_bytePlaces {bytes : List Nat} : KeepsCanon (bytePlaces bytes) := by
  unfold bytePlaces
  refine KeepsCanon.mapM fun _ => ?_
  refine keepsCanon_tryTranslate.bind fun _ => ?_
  split
  · exact keepsCanon_guardPlane.bind fun _ => KeepsCanon.pure
  · exact KeepsCanon.throw

theorem keepsCanon_readLines {x : List (Nat × Place)} : KeepsCanon (readLines x) := by
  induction x with
  | nil => exact KeepsCanon.pure
  | cons p ps ih => exact keepsCanon_waitSpWords.bind fun _ => keepsCanon_loadE.bind fun _ => ih.bind fun _ => KeepsCanon.pure

theorem keepsCanon_sampHeader : KeepsCanon (sampHeader rows stores) :=
  keepsCanon_cx.bind fun _ => (KeepsCanon.mapM fun _ => keepsCanon_guardTrap).bind fun _ => keepsCanon_translateT.bind fun _ =>
    KeepsCanon.ite (keepsCanon_translateT.bind fun _ => KeepsCanon.pure.bind fun _ => keepsCanon_waitSpWords.bind fun _ =>
    keepsCanon_loadE.bind fun _ => keepsCanon_guardTrap.bind fun _ => KeepsCanon.pure) (KeepsCanon.pure.bind fun _ =>
    keepsCanon_waitSpWords.bind fun _ => keepsCanon_loadE.bind fun _ => keepsCanon_guardTrap.bind fun _ => KeepsCanon.pure)

theorem keepsCanon_sampRows {bad : Bool} : KeepsCanon (sampRows rows stores bad) :=
  keepsCanon_sampHeader.bind fun _ => keepsCanon_linePlaces.bind fun _ => keepsCanon_cx.bind fun _ => KeepsCanon.ite
    (keepsCanon_guardTimed.bind fun _ => keepsCanon_guardPoison.bind fun _ => keepsCanon_readLines.bind fun _ => KeepsCanon.pure)
    (keepsCanon_guardPoison.bind fun _ => keepsCanon_readLines.bind fun _ => KeepsCanon.pure)

theorem State.Canon.execSpivot (h : s.Canon) : CanonNext (execSpivot d a s) := by
  unfold Machine.execSpivot
  refine h.finish ?_
  refine keepsCanon_cx.bind fun _ => ?_
  refine keepsCanon_sampRows.bind fun _ => ?_
  refine keepsCanon_draw.bind fun _ => ?_
  split
  · exact keepsCanon_modCx.bind fun _ => keepsCanon_retireE
  · exact keepsCanon_waitSpWords.bind fun _ => keepsCanon_logStore.bind fun _ => keepsCanon_storeE.bind fun _ =>
      keepsCanon_modCx.bind fun _ => keepsCanon_retireE

theorem State.Canon.execSdraw (h : s.Canon) : CanonNext (execSdraw d a s) :=
  h.finish (keepsCanon_cx.bind fun _ => keepsCanon_sampRows.bind fun _ => keepsCanon_draw.bind fun _ => keepsCanon_modCx.bind fun _ =>
    keepsCanon_retireE)

theorem State.Canon.execSverify {b : Reg} (h : s.Canon) : CanonNext (execSverify d a b s) :=
  h.finish (keepsCanon_cx.bind fun _ => keepsCanon_sampRows.bind fun _ => keepsCanon_draw.bind fun _ => keepsCanon_modCx.bind fun _ =>
    keepsCanon_retireE)

theorem keepsCanon_bumpByte {va : Dword} {p : Place} : KeepsCanon (bumpByte va p) :=
  keepsCanon_waitSpWords.bind fun _ => keepsCanon_logStore.bind fun _ => KeepsCanon.get_bind fun _ hs =>
    KeepsCanon.set hs.atomicRead.atomicWrite

theorem State.Canon.execCfinc (h : s.Canon) : CanonNext (execCfinc a s) :=
  h.finish (keepsCanon_cx.bind fun _ => keepsCanon_placesT.bind fun _ => keepsCanon_guardTimed.bind fun _ =>
    keepsCanon_guardTimed.bind fun _ => keepsCanon_guardPoison.bind fun _ => (KeepsCanon.mapM fun _ => keepsCanon_bumpByte).bind fun _ =>
    keepsCanon_retireE)

theorem keepsCanon_cfapplyStores : KeepsCanon (cfapplyStores a) :=
  keepsCanon_cx.bind fun _ => keepsCanon_sampHeader.bind fun _ => keepsCanon_linePlaces.bind fun _ => keepsCanon_bytePlaces.bind fun _ =>
    keepsCanon_readLines.bind fun _ => (KeepsCanon.mapM fun _ => keepsCanon_translateT.bind fun _ => KeepsCanon.pure).bind fun _ =>
    (KeepsCanon.mapM fun _ => keepsCanon_guardTimed).bind fun _ => keepsCanon_guardPoison.bind fun _ => KeepsCanon.pure

theorem State.Canon.execCfapply (h : s.Canon) : CanonNext (execCfapply a s) := by
  unfold Machine.execCfapply
  refine h.finish ?_
  refine keepsCanon_cx.bind fun _ => ?_
  split
  · exact keepsCanon_goOnStoring
  · refine keepsCanon_cfapplyStores.bind fun _ => ?_
    split
    · exact keepsCanon_retireE
    · exact KeepsCanon.modify fun _ hs => hs.beginWait
end

/-! ### The sum-product engine (spec 14 R270 to R288; 16 R302, R303; 03 R71, R72) -/
section
variable {s : State} {k : BitVec 6} {n : Byte} {l w : Reg} {down sp : Bool} {core : Nat}

theorem keepsCanon_spOff {va : Dword} {n : Nat} : KeepsCanon (spOff va n) :=
  KeepsCanon.get_bind fun _ _ => keepsCanon_guardTrap.bind fun _ => KeepsCanon.pure

theorem State.Canon.execSpshape {a : Reg} (h : s.Canon) : CanonNext (execSpshape a k s) :=
  h.finish (keepsCanon_cx.bind fun _ => keepsCanon_guardTrap.bind fun _ => keepsCanon_translateT.bind fun _ =>
    keepsCanon_waitSpWords.bind fun _ => KeepsCanon.get_bind fun _ hs => KeepsCanon.ite KeepsCanon.throw_bind
    (keepsCanon_loadE.bind fun _ => keepsCanon_guardTrap.bind fun _ => keepsCanon_guardPoison.bind fun _ => (KeepsCanon.modify fun _ ht =>
    ht.modCo).bind fun _ => keepsCanon_retireE))

theorem keepsCanon_spOperands : KeepsCanon (spOperands n l w k sp down) := by
  unfold spOperands
  dsimp only
  refine keepsCanon_cx.bind fun _ => ?_
  refine keepsCanon_guardTrap.bind fun _ => ?_
  refine keepsCanon_guardTrap.bind fun _ => ?_
  refine keepsCanon_spOff.bind fun _ => ?_
  split
  · refine KeepsCanon.pure.bind fun _ => ?_
    refine KeepsCanon.get_bind fun _ hs => ?_
    split
    · exact KeepsCanon.throw_bind
    · refine (KeepsCanon.mapM fun _ => keepsCanon_spOff.bind fun _ => KeepsCanon.pure).bind fun _ => ?_
      refine keepsCanon_spOff.bind fun _ => ?_
      split
      · refine (KeepsCanon.mapM fun _ => keepsCanon_spOff.bind fun _ => KeepsCanon.pure).bind fun _ => ?_
        split
        · exact KeepsCanon.throw
        · exact keepsCanon_guardPoison.bind fun _ => KeepsCanon.pure
      · refine KeepsCanon.pure.bind fun _ => ?_
        split
        · exact KeepsCanon.throw
        · exact keepsCanon_guardPoison.bind fun _ => KeepsCanon.pure
  · refine keepsCanon_spOff.bind fun _ => ?_
    refine KeepsCanon.pure.bind fun _ => ?_
    refine KeepsCanon.get_bind fun _ hs => ?_
    split
    · exact KeepsCanon.throw_bind
    · refine (KeepsCanon.mapM fun _ => keepsCanon_spOff.bind fun _ => KeepsCanon.pure).bind fun _ => ?_
      refine keepsCanon_spOff.bind fun _ => ?_
      split
      · refine (KeepsCanon.mapM fun _ => keepsCanon_spOff.bind fun _ => KeepsCanon.pure).bind fun _ => ?_
        split
        · exact KeepsCanon.throw
        · exact keepsCanon_guardPoison.bind fun _ => KeepsCanon.pure
      · refine KeepsCanon.pure.bind fun _ => ?_
        split
        · exact KeepsCanon.throw
        · exact keepsCanon_guardPoison.bind fun _ => KeepsCanon.pure

theorem State.Canon.spGroup {reads : List Nat} {writes : List Nat} (h : s.Canon) : (s.spGroup reads writes).Canon :=
  h.modCx.foldl fun _ _ ht => ht.scratchRead

theorem keepsCanon_spIssue : KeepsCanon (spIssue n l w k sp down) :=
  keepsCanon_spOperands.bind fun _ => KeepsCanon.get_bind fun _ hs => KeepsCanon.ite KeepsCanon.throw
    ((KeepsCanon.set hs.spGroup.modCo).bind fun _ => keepsCanon_retireE)

theorem State.Canon.execSpup (h : s.Canon) : CanonNext (execSpup n l w k sp s) := h.finish keepsCanon_spIssue
theorem State.Canon.execSpdown (h : s.Canon) : CanonNext (execSpdown n l w k sp s) := h.finish keepsCanon_spIssue

theorem State.Canon.execSpAccept {slot : Nat} (h : s.Canon) : CanonNext (execSpAccept core slot s) := by
  unfold Machine.execSpAccept
  dsimp only
  repeat' split
  exacts [h, h.same.finish keepsCanon_spIssue, h, h]

theorem State.Canon.execSpRetire (h : s.Canon) : CanonNext (execSpRetire core s) := by
  unfold Machine.execSpRetire
  repeat' split
  exacts [h, h, h.modCore.retireSp]
end

/-! ### The wedging engine (spec 17 R309 to R316) -/
section
variable {sp : Space} {i n slice table tag v va x y z : Nat} {r : Request} {p : Pool} {broken : Option Nat} {s : State}

theorem keepsCanon_wLoadP : KeepsCanon (wLoadP sp va n) := by
  unfold wLoadP
  refine KeepsCanon.get_bind fun _ hs => ?_
  refine (KeepsCanon.set hs.frontLoad).bind fun _ => ?_
  split
  · exact KeepsCanon.pure
  · exact KeepsCanon.throw

theorem keepsCanon_wLoad : KeepsCanon (wLoad sp va n) := keepsCanon_wLoadP.bind fun _ => KeepsCanon.pure

theorem keepsCanon_wStoreP {p : Bool} : KeepsCanon (wStoreP sp va n v p) := by
  unfold wStoreP
  refine KeepsCanon.get_bind fun _ hs => ?_
  refine (KeepsCanon.set hs.frontStore).bind fun _ => ?_
  split
  · exact KeepsCanon.pure
  · exact KeepsCanon.throw

theorem keepsCanon_wStore : KeepsCanon (wStore sp va n v) := keepsCanon_wStoreP

theorem keepsCanon_loadPool {desc : Nat} : KeepsCanon (loadPool sp desc) :=
  keepsCanon_wLoad.bind fun _ => keepsCanon_wLoad.bind fun _ => keepsCanon_wLoad.bind fun _ => keepsCanon_wLoad.bind fun _ =>
    KeepsCanon.pure

theorem keepsCanon_Pool_push {k : Nat} : KeepsCanon (Pool.push p sp k i) :=
    keepsCanon_wLoad.bind fun _ => keepsCanon_wStore.bind fun _ => keepsCanon_wStore

theorem keepsCanon_Pool_leastOrder {fuel : Nat} : KeepsCanon (Pool.leastOrder p sp fuel y) := by
  induction fuel generalizing y with
  | zero => exact KeepsCanon.pure
  | succ _ ih => exact keepsCanon_wLoad.bind fun _ => KeepsCanon.ite KeepsCanon.pure ih

theorem keepsCanon_Pool_split {fuel : Nat} : KeepsCanon (Pool.split p sp i fuel) := by
  induction fuel with
  | zero => exact KeepsCanon.pure
  | succ _ ih => exact keepsCanon_wStore.bind fun _ => keepsCanon_Pool_push.bind fun _ => ih

theorem keepsCanon_Pool_alloc : KeepsCanon (Pool.alloc p sp) := by
  refine keepsCanon_Pool_leastOrder.bind fun _ => ?_
  split
  · exact KeepsCanon.pure
  · exact keepsCanon_wLoad.bind fun _ => keepsCanon_wLoad.bind fun _ => keepsCanon_wStore.bind fun _ =>
      keepsCanon_Pool_split.bind fun _ => keepsCanon_wStore.bind fun _ => KeepsCanon.pure

theorem keepsCanon_Pool_unlink {fuel : Nat} : KeepsCanon (Pool.unlink p sp i fuel y) := by
  induction fuel generalizing y with
  | zero => exact KeepsCanon.pure
  | succ _ ih =>
    exact keepsCanon_wLoad.bind fun _ => KeepsCanon.ite KeepsCanon.pure (KeepsCanon.ite (keepsCanon_wLoad.bind fun _ =>
      keepsCanon_wStore) ih)

theorem keepsCanon_Pool_merge {fuel : Nat} : KeepsCanon (Pool.merge p sp fuel y z) := by
  induction fuel generalizing y z with
  | zero => exact keepsCanon_wStore.bind fun _ => keepsCanon_Pool_push
  | succ n ih =>
    have hgo (m : Nat) : KeepsCanon (if m = z then do
          p.unlink sp (y ^^^ 2 ^ z) (p.nblk + 1) (p.freeAt z)
          wStore sp (p.map + max y (y ^^^ 2 ^ z)) 1 0xFE
          p.merge sp n (min y (y ^^^ 2 ^ z)) (z + 1)
        else do
          wStore sp (p.map + y) 1 z
          p.push sp z y) :=
      KeepsCanon.ite (keepsCanon_Pool_unlink.bind fun _ => keepsCanon_wStore.bind fun _ => ih) (keepsCanon_wStore.bind fun _ =>
        keepsCanon_Pool_push)
    unfold Pool.merge
    dsimp only
    split
    · exact keepsCanon_wLoad.bind hgo
    · exact KeepsCanon.pure.bind hgo

theorem keepsCanon_Pool_free : KeepsCanon (Pool.free p sp i) := keepsCanon_wLoad.bind fun _ => keepsCanon_Pool_merge

theorem keepsCanon_loadIds {fuel : Nat} : KeepsCanon (loadIds sp fuel y) := by
  induction fuel generalizing y with
  | zero => exact KeepsCanon.pure
  | succ _ ih => exact keepsCanon_wLoad.bind fun _ => ih.bind fun _ => KeepsCanon.pure

theorem keepsCanon_probe {fuel : Nat} {arr : Nat} {nb : Nat} {key : Dword × Dword} {ids : List Nat} {idsAt : Nat} {block : Nat} :
    KeepsCanon (probe sp arr nb key ids idsAt block tag fuel y) := by
  induction fuel generalizing y with
  | zero => exact KeepsCanon.pure
  | succ _ ih =>
    unfold probe
    refine keepsCanon_wLoad.bind fun _ => KeepsCanon.ite ?_ ?_
    · exact keepsCanon_wStore.bind fun _ => keepsCanon_wStore.bind fun _ => keepsCanon_wStore.bind fun _ =>
        keepsCanon_wStore.bind fun _ => keepsCanon_wStore.bind fun _ => KeepsCanon.pure
    · refine keepsCanon_wLoad.bind fun _ => keepsCanon_wLoad.bind fun _ => KeepsCanon.ite ?_ ih
      refine keepsCanon_wLoad.bind fun _ => keepsCanon_loadIds.bind fun _ => KeepsCanon.ite ?_ ih
      exact keepsCanon_wLoad.bind fun _ => keepsCanon_wStore.bind fun _ => KeepsCanon.pure

theorem keepsCanon_copyLines {fuel : Nat} {w : Nat} : KeepsCanon (copyLines sp fuel y z w) := by
  induction fuel generalizing y z w with
  | zero => exact KeepsCanon.pure
  | succ _ ih => exact keepsCanon_wLoadP.bind fun _ => keepsCanon_wStoreP.bind fun _ => ih

theorem keepsCanon_poisonLines {fuel : Nat} : KeepsCanon (poisonLines sp fuel y) := by
  induction fuel generalizing y with
  | zero => exact KeepsCanon.pure
  | succ _ ih => exact keepsCanon_wLoad.bind fun _ => keepsCanon_wStoreP.bind fun _ => ih

theorem keepsCanon_copyTail {fuel : Nat} {dim : Nat} {tail : Nat} {new : Nat} {tagAt : Nat} :
    KeepsCanon (copyTail sp dim tail new tagAt broken fuel y) := by
  induction fuel generalizing y with
  | zero => exact KeepsCanon.pure
  | succ _ ih =>
    exact keepsCanon_copyLines.bind fun _ => keepsCanon_copyLines.bind fun _ => keepsCanon_wLoad.bind fun _ =>
      KeepsCanon.ite KeepsCanon.pure ih

theorem keepsCanon_wExtents {fuel : Nat} : KeepsCanon (wExtents sp fuel y) := by
  induction fuel generalizing y with
  | zero => exact KeepsCanon.pure
  | succ _ ih => exact keepsCanon_wLoad.bind fun _ => ih.bind fun _ => KeepsCanon.pure

theorem keepsCanon_crcLines {fuel : Nat} : KeepsCanon (crcLines sp fuel y z) := by
  induction fuel generalizing y z with
  | zero => exact KeepsCanon.pure
  | succ _ ih => exact keepsCanon_wLoad.bind fun _ => ih

theorem keepsCanon_tailTable : KeepsCanon (tailTable sp table) := by
  unfold tailTable
  dsimp only
  refine keepsCanon_wLoad.bind fun _ => ?_
  refine keepsCanon_wExtents.bind fun _ => ?_
  split
  · exact KeepsCanon.throw_bind
  · split
    · exact KeepsCanon.throw
    · split
      · exact KeepsCanon.throw
      · exact KeepsCanon.pure

theorem keepsCanon_wHeader : KeepsCanon (wHeader table sp) := keepsCanon_wLoad.bind fun _ => KeepsCanon.pure

theorem keepsCanon_Request_wants : KeepsCanon (Request.wants r) := by
  unfold Request.wants
  repeat' split
  exacts [keepsCanon_tailTable.bind fun _ => KeepsCanon.pure, keepsCanon_wHeader.bind fun _ => KeepsCanon.pure,
    keepsCanon_wHeader.bind fun _ => KeepsCanon.pure, keepsCanon_wHeader.bind fun _ => KeepsCanon.pure, KeepsCanon.pure]

theorem keepsCanon_Request_holds : KeepsCanon (Request.holds r) := by
  unfold Request.holds
  repeat' split
  exacts [keepsCanon_wHeader.bind fun _ => KeepsCanon.pure, keepsCanon_wHeader.bind fun _ => KeepsCanon.pure,
    keepsCanon_wHeader.bind fun _ => KeepsCanon.pure, keepsCanon_wHeader.bind fun _ => KeepsCanon.pure, KeepsCanon.pure]

theorem keepsCanon_Request_take : KeepsCanon (Request.take r slice) := by
  unfold Request.take
  refine keepsCanon_Request_wants.bind fun _ => ?_
  split
  · exact KeepsCanon.pure
  · exact keepsCanon_wStore

theorem keepsCanon_Request_drop : KeepsCanon (Request.drop r) := by
  unfold Request.drop
  refine keepsCanon_Request_holds.bind fun _ => ?_
  split
  · exact KeepsCanon.pure
  · exact keepsCanon_wStore

theorem keepsCanon_wAllocate : KeepsCanon (wAllocate r) :=
  keepsCanon_wHeader.bind fun _ => keepsCanon_loadPool.bind fun _ => keepsCanon_Pool_alloc.bind fun _ =>
    keepsCanon_Request_drop.bind fun _ => KeepsCanon.pure

theorem keepsCanon_wFill : KeepsCanon (wFill r broken i) := by
  unfold wFill
  dsimp only
  refine keepsCanon_tailTable.bind fun _ => ?_
  refine keepsCanon_loadPool.bind fun _ => ?_
  refine keepsCanon_copyTail.bind fun _ => ?_
  split
  · exact keepsCanon_poisonLines.bind fun _ => KeepsCanon.pure
  · exact keepsCanon_crcLines.bind fun _ => keepsCanon_wStore.bind fun _ => KeepsCanon.pure

theorem keepsCanon_wKey {t : BlockTable} : KeepsCanon (wKey sp t) := by
  unfold wKey
  dsimp only
  exact keepsCanon_loadIds.bind fun _ => KeepsCanon.pure

theorem keepsCanon_wIndex : KeepsCanon (wIndex r i tag) := by
  unfold wIndex
  dsimp only
  refine keepsCanon_tailTable.bind fun _ => ?_
  refine keepsCanon_loadPool.bind fun _ => ?_
  refine keepsCanon_wKey.bind fun _ => ?_
  refine keepsCanon_wLoad.bind fun _ => ?_
  refine keepsCanon_wLoad.bind fun _ => ?_
  split
  · exact KeepsCanon.pure.bind fun _ => keepsCanon_Request_drop.bind fun _ => KeepsCanon.pure
  · exact keepsCanon_probe.bind fun _ => keepsCanon_Request_drop.bind fun _ => KeepsCanon.pure

theorem keepsCanon_wReplace {shared : Option Nat} : KeepsCanon (wReplace r i shared) :=
  keepsCanon_tailTable.bind fun _ => keepsCanon_loadPool.bind fun _ => keepsCanon_wKey.bind fun _ => keepsCanon_wStore.bind fun _ =>
    keepsCanon_wStore.bind fun _ => KeepsCanon.pure

theorem keepsCanon_Request_advance : KeepsCanon (Request.advance r slice broken) := by
  unfold Request.advance
  split
  · exact keepsCanon_Request_take.bind fun _ => KeepsCanon.pure
  · exact keepsCanon_wAllocate
  · exact keepsCanon_wFill
  · exact keepsCanon_Request_take.bind fun _ => KeepsCanon.pure
  · exact keepsCanon_wHeader.bind fun _ => keepsCanon_loadPool.bind fun _ => keepsCanon_Pool_free.bind fun _ =>
      keepsCanon_Request_drop.bind fun _ => KeepsCanon.pure
  · exact keepsCanon_Request_take.bind fun _ => KeepsCanon.pure
  · exact keepsCanon_wIndex
  · exact keepsCanon_wReplace
  · exact keepsCanon_Request_take.bind fun _ => KeepsCanon.pure
  · refine keepsCanon_wHeader.bind fun _ => ?_
    refine keepsCanon_loadPool.bind fun _ => ?_
    refine keepsCanon_Pool_free.bind fun _ => ?_
    split
    · exact keepsCanon_Pool_free.bind fun _ => keepsCanon_Request_drop.bind fun _ => KeepsCanon.pure
    · exact keepsCanon_Request_drop.bind fun _ => KeepsCanon.pure
  · exact KeepsCanon.pure

theorem State.Canon.execPromotion {request : Nat} {s : State} (h : s.Canon) : CanonNext (execPromotion request s) := by
  unfold Machine.execPromotion
  split
  · exact h
  · next r _ =>
    refine CanonNext.ite h ?_
    split
    · exact State.Canon.frontStore h
    · have hrun := keepsCanon_Request_advance (r := r) (slice := (s.requestSlice r).getD 0)
        (broken := if r.broken then some (Config.choose s.fresh % 16) else none) { s with fresh := s.fresh + 1 } h
      dsimp only
      split
      · next ha => rw [ha] at hrun; exact hrun
      · exact keepsCanon_Request_drop _ (State.Canon.undone h)
end

/-! ### `tlbinv` (spec 11 R243, R244) -/
section
variable {s : State}

theorem State.Canon.execTlbinv {k : TlbKind} {a : Reg} {b : Reg} {sc : Scope} {s : State} (h : s.Canon) :
    CanonNext (execTlbinv k a b sc s) :=
  h.finish (keepsCanon_guardSuper.bind fun _ => keepsCanon_cx.bind fun _ => keepsCanon_guardPoison.bind fun _ =>
    KeepsCanon.get_bind fun _ hs => KeepsCanon.ite KeepsCanon.throw_bind ((KeepsCanon.set hs.same).bind fun _ => keepsCanon_retireE))
end

/-! ### The vector, predicate and conversion instructions but for vector memory (spec 05 R94 to R99, R103 to R111) -/
section
variable {s : State} {a b c d : Reg} {g p : PReg} {e t : ETy} {u : Bool}

theorem keepsCanon_valu2 {fi : Nat → Nat → Nat → Nat} {ff : FFmt → FpEnv → Nat → Nat → Nat × FpFlags} :
    KeepsCanon (valu2 t fi ff d a b g) :=
  keepsCanon_laneOpF

theorem keepsCanon_valu1 {fi : Nat → Nat → Nat} {ff : FFmt → FpEnv → Nat → Nat × FpFlags} : KeepsCanon (valu1 t fi ff d a g) :=
    keepsCanon_laneOpF

theorem keepsCanon_bits2 {f : Nat → Nat → Nat → Nat} : KeepsCanon (bits2 t f d a b g) := keepsCanon_laneOp
theorem State.Canon.execVadd (h : s.Canon) : CanonNext (execVadd d a b g t s) := h.finish keepsCanon_valu2
theorem State.Canon.execVsub (h : s.Canon) : CanonNext (execVsub d a b g t s) := h.finish keepsCanon_valu2
theorem State.Canon.execVmul (h : s.Canon) : CanonNext (execVmul d a b g t s) := h.finish keepsCanon_valu2
theorem State.Canon.execVmin (h : s.Canon) : CanonNext (execVmin d a b g t s) := h.finish keepsCanon_valu2
theorem State.Canon.execVmax (h : s.Canon) : CanonNext (execVmax d a b g t s) := h.finish keepsCanon_valu2
theorem State.Canon.execVminn (h : s.Canon) : CanonNext (execVminn d a b g t s) := h.finish keepsCanon_bits2
theorem State.Canon.execVmaxn (h : s.Canon) : CanonNext (execVmaxn d a b g t s) := h.finish keepsCanon_bits2
theorem State.Canon.execVabs (h : s.Canon) : CanonNext (execVabs d a g t s) := h.finish keepsCanon_valu1
theorem State.Canon.execVneg (h : s.Canon) : CanonNext (execVneg d a g t s) := h.finish keepsCanon_valu1
theorem State.Canon.execVand (h : s.Canon) : CanonNext (execVand d a b g t s) := h.finish keepsCanon_bits2
theorem State.Canon.execVor (h : s.Canon) : CanonNext (execVor d a b g t s) := h.finish keepsCanon_bits2
theorem State.Canon.execVxor (h : s.Canon) : CanonNext (execVxor d a b g t s) := h.finish keepsCanon_bits2
theorem State.Canon.execVandn (h : s.Canon) : CanonNext (execVandn d a b g t s) := h.finish keepsCanon_bits2
theorem State.Canon.execVsll (h : s.Canon) : CanonNext (execVsll d a b g t s) := h.finish keepsCanon_bits2
theorem State.Canon.execVsrl (h : s.Canon) : CanonNext (execVsrl d a b g t s) := h.finish keepsCanon_bits2
theorem State.Canon.execVsra (h : s.Canon) : CanonNext (execVsra d a b g t s) := h.finish keepsCanon_bits2
theorem State.Canon.execVaddsat (h : s.Canon) : CanonNext (execVaddsat d a b g t s) := h.finish keepsCanon_bits2
theorem State.Canon.execVsubsat (h : s.Canon) : CanonNext (execVsubsat d a b g t s) := h.finish keepsCanon_bits2
theorem State.Canon.execVaddsatn (h : s.Canon) : CanonNext (execVaddsatn d a b g t s) := h.finish keepsCanon_bits2
theorem State.Canon.execVsubsatn (h : s.Canon) : CanonNext (execVsubsatn d a b g t s) := h.finish keepsCanon_bits2
theorem State.Canon.execVdiv (h : s.Canon) : CanonNext (execVdiv d a b g t s) := h.finish keepsCanon_valu2
theorem State.Canon.execVsqrt (h : s.Canon) : CanonNext (execVsqrt d a g t s) := h.finish keepsCanon_valu1
theorem State.Canon.execVmulh (h : s.Canon) : CanonNext (execVmulh d a b g t s) := h.finish keepsCanon_bits2
theorem State.Canon.execVmulhn (h : s.Canon) : CanonNext (execVmulhn d a b g t s) := h.finish keepsCanon_bits2

theorem State.Canon.execVsel (h : s.Canon) : CanonNext (execVsel d a b g t s) :=
  h.finish (keepsCanon_srcV.bind fun _ => keepsCanon_srcV.bind fun _ => keepsCanon_cx.bind fun _ => keepsCanon_modCx.bind fun _ =>
    keepsCanon_retireE)

theorem State.Canon.execVrcp (h : s.Canon) : CanonNext (execVrcp d a g s) := h.finish keepsCanon_laneOpF
theorem State.Canon.execVrsqrt (h : s.Canon) : CanonNext (execVrsqrt d a g s) := h.finish keepsCanon_laneOpF
theorem State.Canon.execVexp2 (h : s.Canon) : CanonNext (execVexp2 d a g s) := h.finish keepsCanon_laneOpF
theorem State.Canon.execVlog2 (h : s.Canon) : CanonNext (execVlog2 d a g s) := h.finish keepsCanon_laneOpF
theorem State.Canon.execVtanh (h : s.Canon) : CanonNext (execVtanh d a g s) := h.finish keepsCanon_laneOpF
theorem State.Canon.execVfma (h : s.Canon) : CanonNext (execVfma d a b c g t s) := h.finish keepsCanon_laneOpF
theorem State.Canon.execVfms (h : s.Canon) : CanonNext (execVfms d a b c g t s) := h.finish keepsCanon_laneOpF
theorem State.Canon.execVfnma (h : s.Canon) : CanonNext (execVfnma d a b c g t s) := h.finish keepsCanon_laneOpF
theorem State.Canon.execVfnms (h : s.Canon) : CanonNext (execVfnms d a b c g t s) := h.finish keepsCanon_laneOpF

theorem keepsCanon_compare {f : FpEnv → Nat → Nat → Bool × FpFlags} : KeepsCanon (compare t p a b g f) :=
  keepsCanon_srcV.bind fun _ => keepsCanon_srcV.bind fun _ => KeepsCanon.get_bind fun _ _ => keepsCanon_modCx.bind fun _ =>
    keepsCanon_retireE

theorem State.Canon.execVcmpEq (h : s.Canon) : CanonNext (execVcmpEq p a b g t s) := h.finish keepsCanon_compare
theorem State.Canon.execVcmpNe (h : s.Canon) : CanonNext (execVcmpNe p a b g t s) := h.finish keepsCanon_compare
theorem State.Canon.execVcmpLt (h : s.Canon) : CanonNext (execVcmpLt p a b g t s) := h.finish keepsCanon_compare
theorem State.Canon.execVcmpLe (h : s.Canon) : CanonNext (execVcmpLe p a b g t s) := h.finish keepsCanon_compare
theorem State.Canon.execVcmpLtn (h : s.Canon) : CanonNext (execVcmpLtn p a b g t s) := h.finish keepsCanon_compare
theorem State.Canon.execVcmpLen (h : s.Canon) : CanonNext (execVcmpLen p a b g t s) := h.finish keepsCanon_compare
theorem State.Canon.execVcmpUnord (h : s.Canon) : CanonNext (execVcmpUnord p a b g t s) := h.finish keepsCanon_compare
theorem State.Canon.execPand {d : PReg} {a : PReg} {b : PReg} (h : s.Canon) : CanonNext (execPand d a b s) := h.modCx.retire
theorem State.Canon.execPor {d : PReg} {a : PReg} {b : PReg} (h : s.Canon) : CanonNext (execPor d a b s) := h.modCx.retire
theorem State.Canon.execPxor {d : PReg} {a : PReg} {b : PReg} (h : s.Canon) : CanonNext (execPxor d a b s) := h.modCx.retire
theorem State.Canon.execPnot {d : PReg} {a : PReg} (h : s.Canon) : CanonNext (execPnot d a s) := h.modCx.retire

theorem State.Canon.execPcnt {d : PReg} (h : s.Canon) : CanonNext (execPcnt d a s) :=
  h.finish (keepsCanon_cx.bind fun _ => keepsCanon_guardPoison.bind fun _ => keepsCanon_modCx.bind fun _ => keepsCanon_retireE)

theorem State.Canon.execPpop {a : PReg} (h : s.Canon) : CanonNext (execPpop d a s) := h.modCx.retire
theorem State.Canon.execPfirst {d : PReg} {a : PReg} (h : s.Canon) : CanonNext (execPfirst d a s) := h.modCx.retire
theorem State.Canon.execPbrk {d : PReg} {a : PReg} (h : s.Canon) : CanonNext (execPbrk d a s) := h.modCx.retire

theorem State.Canon.execVbcast (h : s.Canon) : CanonNext (execVbcast d a g t s) :=
  h.finish (keepsCanon_cx.bind fun _ => keepsCanon_modCx.bind fun _ => keepsCanon_retireE)

theorem State.Canon.execVins (h : s.Canon) : CanonNext (execVins d a b g t s) :=
  h.finish (keepsCanon_cx.bind fun _ => keepsCanon_guardPoison.bind fun _ => keepsCanon_modCx.bind fun _ => keepsCanon_retireE)

theorem State.Canon.execVext (h : s.Canon) : CanonNext (execVext d a b t s) :=
  h.finish (keepsCanon_srcV.bind fun _ => keepsCanon_cx.bind fun _ => keepsCanon_guardPoison.bind fun _ => keepsCanon_modCx.bind fun _ =>
    keepsCanon_retireE)

theorem State.Canon.execVperm (h : s.Canon) : CanonNext (execVperm d a b g t s) :=
  h.finish (keepsCanon_srcV.bind fun _ => keepsCanon_srcV.bind fun _ => keepsCanon_guardPoison.bind fun _ => keepsCanon_cx.bind fun _ =>
    keepsCanon_modCx.bind fun _ => keepsCanon_retireE)

theorem State.Canon.execVslide (h : s.Canon) : CanonNext (execVslide d a b g t s) :=
  h.finish (keepsCanon_srcV.bind fun _ => keepsCanon_cx.bind fun _ => keepsCanon_guardPoison.bind fun _ => keepsCanon_modCx.bind fun _ =>
    keepsCanon_retireE)

theorem State.Canon.execVcompress (h : s.Canon) : CanonNext (execVcompress d a g t s) :=
  h.finish (keepsCanon_srcV.bind fun _ => keepsCanon_cx.bind fun _ => keepsCanon_modCx.bind fun _ => keepsCanon_retireE)

theorem State.Canon.execVcvt (h : s.Canon) : CanonNext (execVcvt d a u e g t s) := h.finish keepsCanon_laneOpF

theorem keepsCanon_writeLanes {w : Nat} {two : Bool} {srcs : List Reg} {srcP : Bool} {full : Bool} {f : Nat → Option (Nat × FpFlags)} :
    KeepsCanon (writeLanes w d two srcs srcP full f) :=
  keepsCanon_cx.bind fun _ => keepsCanon_modCx.bind fun _ => keepsCanon_retireE

theorem State.Canon.execVcvtw (h : s.Canon) : CanonNext (execVcvtw d a u e g t s) :=
  h.finish (keepsCanon_srcV.bind fun _ => KeepsCanon.get_bind fun _ _ => keepsCanon_writeLanes)

theorem State.Canon.execVcvtn (h : s.Canon) : CanonNext (execVcvtn d a u e g t s) :=
  h.finish (keepsCanon_srcV.bind fun _ => keepsCanon_srcV.bind fun _ => KeepsCanon.get_bind fun _ _ => keepsCanon_writeLanes)

theorem State.Canon.execVcvtq (h : s.Canon) : CanonNext (execVcvtq d a b g s) :=
  h.finish (keepsCanon_srcV.bind fun _ => KeepsCanon.get_bind fun _ _ => keepsCanon_guardPoison.bind fun _ => keepsCanon_writeLanes)

theorem State.Canon.execVcvte (h : s.Canon) : CanonNext (execVcvte d a b g s) :=
  h.finish (keepsCanon_srcV.bind fun _ => KeepsCanon.get_bind fun _ _ => keepsCanon_guardPoison.bind fun _ => keepsCanon_writeLanes)

theorem State.Canon.execVcbx (h : s.Canon) : CanonNext (execVcbx d a g s) :=
  h.finish (keepsCanon_srcV.bind fun _ => keepsCanon_cx.bind fun _ => keepsCanon_writeLanes)

theorem State.Canon.execVcvtsp (h : s.Canon) : CanonNext (execVcvtsp d a g s) := h.finish keepsCanon_laneOpF
theorem State.Canon.execVcvtfs (h : s.Canon) : CanonNext (execVcvtfs d a g s) := h.finish keepsCanon_laneOpF

theorem keepsCanon_reduce {op : FpEnv → Nat → Nat → Nat × FpFlags} {ident : Nat} : KeepsCanon (reduce t d a g op ident) :=
  keepsCanon_srcV.bind fun _ => KeepsCanon.get_bind fun _ _ => keepsCanon_modCx.bind fun _ => keepsCanon_retireE

theorem State.Canon.execVredsum (h : s.Canon) : CanonNext (execVredsum d a g t s) := h.finish keepsCanon_reduce
theorem State.Canon.execVredmin (h : s.Canon) : CanonNext (execVredmin d a g t s) := h.finish keepsCanon_reduce
theorem State.Canon.execVredmax (h : s.Canon) : CanonNext (execVredmax d a g t s) := h.finish keepsCanon_reduce
theorem State.Canon.execVredminn (h : s.Canon) : CanonNext (execVredminn d a g t s) := h.finish keepsCanon_reduce
theorem State.Canon.execVredmaxn (h : s.Canon) : CanonNext (execVredmaxn d a g t s) := h.finish keepsCanon_reduce
theorem State.Canon.execVredand (h : s.Canon) : CanonNext (execVredand d a g t s) := h.finish keepsCanon_reduce
theorem State.Canon.execVredor (h : s.Canon) : CanonNext (execVredor d a g t s) := h.finish keepsCanon_reduce
end

/-! ### The dispatch of an instruction or step to its meaning, one arm per constructor of `Instr` -/
section
variable {s : State}

theorem State.Canon.exec {i : Instr} (h : s.Canon) : CanonNext (exec i s) :=
  match i with
  | .add .. => h.execAdd
  | .sub .. => h.execSub
  | .and .. => h.execAnd
  | .or .. => h.execOr
  | .xor .. => h.execXor
  | .andn .. => h.execAndn
  | .sll .. => h.execSll
  | .srl .. => h.execSrl
  | .sra .. => h.execSra
  | .slt .. => h.execSlt
  | .sltn .. => h.execSltn
  | .min .. => h.execMin
  | .max .. => h.execMax
  | .minn .. => h.execMinn
  | .maxn .. => h.execMaxn
  | .mul .. => h.execMul
  | .mulh .. => h.execMulh
  | .mulhn .. => h.execMulhn
  | .mulhsn .. => h.execMulhsn
  | .div .. => h.execDiv
  | .divn .. => h.execDivn
  | .rem .. => h.execRem
  | .remn .. => h.execRemn
  | .clz .. => h.execClz
  | .ctz .. => h.execCtz
  | .popc .. => h.execPopc
  | .bswap .. => h.execBswap
  | .addi .. => h.execAddi
  | .andi .. => h.execAndi
  | .ori .. => h.execOri
  | .xori .. => h.execXori
  | .slti .. => h.execSlti
  | .sltni .. => h.execSltni
  | .slli .. => h.execSlli
  | .srli .. => h.execSrli
  | .srai .. => h.execSrai
  | .bfx .. => h.execBfx
  | .bfxs .. => h.execBfxs
  | .bfi .. => h.execBfi
  | .ld .. => h.execLd
  | .ldn .. => h.execLdn
  | .st .. => h.execSt
  | .ldx .. => h.execLdx
  | .ldnx .. => h.execLdnx
  | .stx .. => h.execStx
  | .beq .. => h.execBeq
  | .bne .. => h.execBne
  | .blt .. => h.execBlt
  | .bge .. => h.execBge
  | .bltn .. => h.execBltn
  | .bgen .. => h.execBgen
  | .jal .. => h.execJal
  | .jalr .. => h.execJalr
  | .loop .. => h.execLoop
  | .crr .. => h.execCrr
  | .crw .. => h.execCrw
  | .crs .. => h.execCrs
  | .crc .. => h.execCrc
  | .nop .. => h.execNop
  | .trap n => h.execTrap (_n := n)
  | .eret .. => h.execEret
  | .brkpt n => h.execBrkpt (_n := n)
  | .wfe .. => h.execWfe
  | .chkerr .. => h.execChkerr
  | .amoAdd .. => h.execAmoAdd
  | .amoAnd .. => h.execAmoAnd
  | .amoOr .. => h.execAmoOr
  | .amoXor .. => h.execAmoXor
  | .amoMin .. => h.execAmoMin
  | .amoMax .. => h.execAmoMax
  | .amoMinn .. => h.execAmoMinn
  | .amoMaxn .. => h.execAmoMaxn
  | .amoSwap .. => h.execAmoSwap
  | .amoFadd .. => h.execAmoFadd
  | .cas .. => h.execCas
  | .fence .. => h.execFence
  | .fenceIo .. => h.execFenceIo
  | .cflush .. => h.execCflush
  | .cinval .. => h.execCinval
  | .prefetch .. => h.execPrefetch
  | .tlbinv .. => h.execTlbinv
  | .vadd .. => h.execVadd
  | .vsub .. => h.execVsub
  | .vmul .. => h.execVmul
  | .vmin .. => h.execVmin
  | .vmax .. => h.execVmax
  | .vminn .. => h.execVminn
  | .vmaxn .. => h.execVmaxn
  | .vabs .. => h.execVabs
  | .vneg .. => h.execVneg
  | .vand .. => h.execVand
  | .vor .. => h.execVor
  | .vxor .. => h.execVxor
  | .vandn .. => h.execVandn
  | .vsll .. => h.execVsll
  | .vsrl .. => h.execVsrl
  | .vsra .. => h.execVsra
  | .vaddsat .. => h.execVaddsat
  | .vsubsat .. => h.execVsubsat
  | .vaddsatn .. => h.execVaddsatn
  | .vsubsatn .. => h.execVsubsatn
  | .vdiv .. => h.execVdiv
  | .vsqrt .. => h.execVsqrt
  | .vmulh .. => h.execVmulh
  | .vmulhn .. => h.execVmulhn
  | .vsel .. => h.execVsel
  | .vrcp .. => h.execVrcp
  | .vrsqrt .. => h.execVrsqrt
  | .vexp2 .. => h.execVexp2
  | .vlog2 .. => h.execVlog2
  | .vtanh .. => h.execVtanh
  | .vfma .. => h.execVfma
  | .vfms .. => h.execVfms
  | .vfnma .. => h.execVfnma
  | .vfnms .. => h.execVfnms
  | .vld .. => h.execVld
  | .vldff .. => h.execVldff
  | .vst .. => h.execVst
  | .vgather .. => h.execVgather
  | .vscatter .. => h.execVscatter
  | .vcmpEq .. => h.execVcmpEq
  | .vcmpNe .. => h.execVcmpNe
  | .vcmpLt .. => h.execVcmpLt
  | .vcmpLe .. => h.execVcmpLe
  | .vcmpLtn .. => h.execVcmpLtn
  | .vcmpLen .. => h.execVcmpLen
  | .vcmpUnord .. => h.execVcmpUnord
  | .pand .. => h.execPand
  | .por .. => h.execPor
  | .pxor .. => h.execPxor
  | .pnot .. => h.execPnot
  | .pcnt .. => h.execPcnt
  | .ppop .. => h.execPpop
  | .pfirst .. => h.execPfirst
  | .pbrk .. => h.execPbrk
  | .vbcast .. => h.execVbcast
  | .vins .. => h.execVins
  | .vext .. => h.execVext
  | .vperm .. => h.execVperm
  | .vslide .. => h.execVslide
  | .vcompress .. => h.execVcompress
  | .vcvt .. => h.execVcvt
  | .vcvtw .. => h.execVcvtw
  | .vcvtn .. => h.execVcvtn
  | .vcvtq .. => h.execVcvtq
  | .vcvte .. => h.execVcvte
  | .vcbx .. => h.execVcbx
  | .vcvtsp .. => h.execVcvtsp
  | .vcvtfs .. => h.execVcvtfs
  | .vredsum .. => h.execVredsum
  | .vredmin .. => h.execVredmin
  | .vredmax .. => h.execVredmax
  | .vredminn .. => h.execVredminn
  | .vredmaxn .. => h.execVredmaxn
  | .vredand .. => h.execVredand
  | .vredor .. => h.execVredor
  | .spawn .. => h.execSpawn
  | .callat .. => h.execCallat
  | .halt .. => h.execHalt
  | .haltR .. => h.execHaltR
  | .yield .. => h.execYield
  | .tret .. => h.execTret
  | .send .. => h.execSend
  | .sendv .. => h.execSendv
  | .reply .. => h.execReply
  | .bind .. => h.execBind
  | .unbind .. => h.execUnbind
  | .wait .. => h.execWait
  | .poll .. => h.execPoll
  | .recv .. => h.execRecv
  | .esend .. => h.execEsend
  | .fend .. => h.execFend
  | .defer .. => h.execDefer
  | .deferN .. => h.execDeferN
  | .kwait .. => h.execKwait
  | .acre .. => h.execAcre
  | .arehome .. => h.execArehome
  | .barArr .. => h.execBarArr
  | .barWait .. => h.execBarWait
  | .barCfg .. => h.execBarCfg
  | .chred .. => h.execChred
  | .dcopy .. => h.execDcopy
  | .dwaitAny .. => h.execDwaitAny
  | .dwaitAll .. => h.execDwaitAll
  | .dffr .. => h.execDffr
  | .rflush .. => h.execRflush
  | .dtagst .. => h.execDtagst
  | .mma .. => h.execMma
  | .mzero .. => h.execMzero
  | .mld .. => h.execMld
  | .mst .. => h.execMst
  | .mstc .. => h.execMstc
  | .cbld .. => h.execCbld
  | .spup .. => h.execSpup
  | .spdown .. => h.execSpdown
  | .attn .. => h.execAttn
  | .spivot .. => h.execSpivot
  | .sdraw .. => h.execSdraw
  | .sverify .. => h.execSverify
  | .cfinc .. => h.execCfinc
  | .cfapply .. => h.execCfapply
  | .spshape .. => h.execSpshape
  | .safe .. => h.execSafe
  | .queuedTrapEntry .. => h.execQueuedTrapEntry
  | .wfeTimeout .. => h.execWfeTimeout
  | .dealerPark .. => h.execDealerPark
  | .dealerWake .. => h.execDealerWake
  | .wakeDone .. => h.execWakeDone
  | .taskStart .. => h.execTaskStart
  | .stealProbe .. => h.execStealProbe
  | .stealProbeReceive .. => h.execStealProbeReceive
  | .stealProbeAnswer .. => h.execStealProbeAnswer
  | .stealPauseExpiry .. => h.execStealPauseExpiry
  | .timeSliceEnd .. => h.execTimeSliceEnd
  | .priorityYield .. => h.execPriorityYield
  | .yieldRequest .. => h.execYieldRequest
  | .preemptTimeout .. => h.execPreemptTimeout
  | .savedContextResume .. => h.execSavedContextResume
  | .firingStart .. => h.execFiringStart
  | .firingSquash .. => h.execFiringSquash
  | .tagHoldRelease .. => h.execTagHoldRelease
  | .eventArrival .. => h.execEventArrival
  | .cancelArrival .. => h.execCancelArrival
  | .inFlightAck .. => h.execInFlightAck
  | .sweepStart .. => h.execSweepStart
  | .sweepSample .. => h.execSweepSample
  | .kilnPublish .. => h.execKilnPublish
  | .homeCacheInvalidate .. => h.execHomeCacheInvalidate
  | .messageArrival .. => h.execMessageArrival
  | .portPacketArrival .. => h.execPortPacketArrival
  | .callatTaskArrival .. => h.execCallatTaskArrival
  | .replyArrival .. => h.execReplyArrival
  | .errorReply .. => h.execErrorReply
  | .ackArrival .. => h.execAckArrival
  | .sendQueueDrain .. => h.execSendQueueDrain
  | .sendStallTimeout .. => h.execSendStallTimeout
  | .chredPartialArrival .. => h.execChredPartialArrival
  | .regionDoneReport .. => h.execRegionDoneReport
  | .ltTick .. => h.execLtTick
  | .copyPiece .. => h.execCopyPiece
  | .attnBlock .. => h.execAttnBlock
  | .attnResult .. => h.execAttnResult
  | .matrixRetire .. => h.execMatrixRetire
  | .spRetire .. => h.execSpRetire
  | .spAccept .. => h.execSpAccept
  | .promotion .. => h.execPromotion
  | .uncorrectableError .. => h.execUncorrectableError
  | .containmentNotice .. => h.execContainmentNotice
  | .sealedEventResend .. => h.execSealedEventResend
  | .windowRead .. => h.execWindowRead
  | .windowWrite .. => h.execWindowWrite
  | .doorbellTail .. => h.execDoorbellTail
  | .doorbellReset .. => h.execDoorbellReset
  | .nopPacket .. => h.execNopPacket
  | .launch .. => h.execLaunch
  | .ib .. => h.execIb
  | .pred .. => h.execPred
  | .loopPacket .. => h.execLoopPacket
  | .write .. => h.execWrite
  | .signal .. => h.execSignal
  | .waitPacket .. => h.execWaitPacket
  | .waitPacketTest .. => h.execWaitPacketTest
  | .fencePacket .. => h.execFencePacket
  | .ffence .. => h.execFfence
  | .promote .. => h.execPromote
  | .qcmdRegister .. => h.execQcmdRegister
  | .qcmdUnregister .. => h.execQcmdUnregister
  | .commit .. => h.execCommit
  | .registerWrite .. => h.execRegisterWrite
  | .liveUpdate .. => h.execLiveUpdate
  | .packageReset .. => h.execPackageReset
  | .attestation .. => h.execAttestation
  | .monitorSample .. => h.execMonitorSample
  | .linkReplay .. => h.execLinkReplay
  | .gets .. => h.execGets
  | .getm .. => h.execGetm
  | .puts .. => h.execPuts
  | .pute .. => h.execPute
  | .putm .. => h.execPutm
  | .puto .. => h.execPuto
  | .forward .. => h.execForward
  | .recall .. => h.execRecall
  | .heartbeat .. => h.execHeartbeat
  | .planeLost .. => h.execPlaneLost
  | .recoveryReport .. => h.execRecoveryReport
  | .packageLost .. => h.execPackageLost
  | .checkpointStart .. => h.execCheckpointStart
  | .checkpointSnapshot .. => h.execCheckpointSnapshot
  | .checkpointFrame .. => h.execCheckpointFrame
  | .restore .. => h.execRestore
  | .unpublishedSweepInstant .. => h.execUnpublishedSweepInstant
  | .correctableError .. => h.execCorrectableError
  | .endpointReset .. => h.execEndpointReset
  | .hostDeviceAccess .. => h.execHostDeviceAccess
  | .applicationCoreAccess .. => h.execApplicationCoreAccess
  | .regionStop .. => h.execRegionStop
end

/-! ### The supervisor code of the resident kernel (spec 19 R340, R414) -/
section
variable {s : State} {k : Nat}

theorem State.Canon.rehomeAll {core : Nat} {issuer : Nat} (h : s.Canon) : (s.rehomeAll core issuer).Canon := by
  unfold State.rehomeAll
  dsimp only
  refine h.foldl fun _ _ ht => ?_
  refine ht.foldl fun _ _ hu => ?_
  split
  · exact hu
  · exact hu.same.rehome

theorem State.Canon.mapPage (h : s.Canon) : (s.mapPage k).Canon := by
  unfold State.mapPage
  dsimp only
  repeat' split
  exacts [h, h.same.hwStore]

theorem State.Canon.kernelHandles (h : s.Canon) : (s.kernelHandles k).Canon :=
  State.Canon.ite h.rehomeAll (State.Canon.ite h.modCtx (State.Canon.ite h.same.mapPage h.same.endRegion))

theorem State.Canon.kernelStep (h : s.Canon) : (s.kernelStep k).Canon := h.kernelHandles.same.eretS
end

/-! ### What may happen next -/
section
variable {s : State} {m : Move}

theorem State.Canon.placeEarly {n : Nat} (h : s.Canon) : (s.placeEarly n).Canon := by
  unfold State.placeEarly
  repeat' split
  exacts [h, h.same.placeWrite]

theorem State.Canon.passing {l : List Move} (h : s.Canon) : (s.passing l m).Canon := h

theorem State.Canon.nextMove {ms : List Move} (h : s.Canon) : (s.nextMove m ms).2.Canon := by
  unfold State.nextMove
  repeat' split
  exacts [h, h.passing, h.same.passing]

theorem State.Canon.heldBack {t : State} (h : s.Canon) (ht : t.Canon) : (s.heldBack t).Canon := State.Canon.ite h.same ht
theorem State.Canon.placeAllOverdue (h : s.Canon) : s.placeAllOverdue.Canon := State.Canon.ite h h.placeThose
theorem State.Canon.tick (h : s.Canon) : s.tick.Canon := h.same.idleQueues.placeAllOverdue
end

/-! ### One step of the machine -/
section
variable {s : State}

theorem State.Canon.ticked {o : Host.Outcome State Fault Refusal} (h : s.Canon) (ho : CanonNext o) : CanonNext (ticked s o) := by
  cases o with
  | next t => exact State.Canon.tick (h.heldBack ho)
  | fault | refused => trivial

theorem State.Canon.issueStep {k : Nat} (h : s.Canon) : CanonNext (issueStep s k) := by
  unfold Machine.issueStep
  dsimp only
  split
  · split
    · exact h.same.exec
    · exact h
  · split
    · exact h.kernelStep
    · split
      · exact h.fetchGroup.same.stop
      · exact h.fetchGroup.same.exec

theorem State.Canon.actStep {i : Instr} (h : s.Canon) : CanonNext (actStep s i) := by
  refine CanonNext.ite ?_ h.exec
  have hrun : CanonNext (Machine.exec i { s with inputs := s.inputs.drop 1 }) := State.Canon.exec h
  split
  · next hx =>
    rw [hx] at hrun
    exact State.Canon.ite hrun.same hrun
  · exact hrun

theorem State.Canon.packetMove {q : Nat} {opc : Nat} (h : s.Canon) : CanonNext (packetMove s q opc) := by
  unfold Machine.packetMove
  repeat' split
  exacts [h.execNopPacket, h.execLaunch, h.execIb, h.execPred, h.execLoopPacket, h.execWrite, h.execSignal, h.execWaitPacket,
    h.execFencePacket, h.execFfence, h.execPromote, h]

theorem State.Canon.moveStep {m : Move} (h : s.Canon) : CanonNext (moveStep s m) := by
  unfold Machine.moveStep
  repeat' split
  exacts [h.issueStep, h.actStep, h.packetMove, h.execWaitPacketTest, h.execSpAccept, h.execPromotion, h.execContainmentNotice,
    h.execSealedEventResend, h.execUnpublishedSweepInstant, h.execRecoveryReport, h.execPackageLost, h.undoStep, h.placeEarly, h.sealNow,
    h.kilnArrives]

theorem State.Canon.step (h : s.Canon) : CanonNext (step s) := by
  unfold Machine.step
  split
  · split
    exacts [trivial, h.tick]
  · exact State.Canon.ticked h.nextMove h.nextMove.moveStep
end

end Sys2Proof.Machine
end
section
/-! SUPPORT. What settles O60. -/

namespace Sys2Proof.Claims
open Sys2Proof.Machine

/-- Settles O60, by one lemma per operation that a step is composed of. -/
theorem stepsKeepMemoryCanonical : Obligations.StepsKeepMemoryCanonical := by
  unfold Obligations.StepsKeepMemoryCanonical
  intro s t h hstep
  have hnext := h.step
  rw [hstep] at hnext
  exact hnext

end Sys2Proof.Claims
end

section
/-! Issuing `dcopy` and `attn` (spec 13 R248, R250, R252; 15 R289 to R291, R301), and the settling of O42. Each check that passes is one step of the
computation; `simp` is kept from comparing the states, whose commands hold quotients by large powers of two. -/

namespace Sys2Proof.Machine

/-- A command whose queue has room and whose tag can count its bytes is not held up. -/
theorem engineRoom_free {s : State} {attn room : Bool} {tag bytes : Nat} (hroom : room = true) (htag : Claims.TagHas s.cx tag bytes) :
    engineRoom attn room tag bytes s = (.ok (), s) := by
  have hcount : decide ((vget s.cx.tags tag Tag.reset).pending + bytes ≤ tagMax) = true := decide_eq_true htag
  simp only [engineRoom, Exec.bind_run, cx_run, Exec.andThen_ok, hroom, hcount]
  rfl

theorem Context.commandTime_tagIssue (c : Context) (tag n : Nat) (q : Bool) : (c.tagIssue tag n).commandTime q = c.commandTime q := rfl

/-- Steering operands without poison pass. -/
theorem guardSteering_ok {s : State} {bad : Bool} (h : bad = false) : guardSteering bad s = (.ok (), s) := by
  rw [h]
  rfl

theorem guardTrap_ok {s : State} {ok : Bool} {cause : Byte} {v : Dword} (h : ok = true) : guardTrap ok cause v s = (.ok (), s) := by
  rw [h, guardTrap_true]

section
variable {s u : State} {r a q t d : Reg} {g : BitVec 5} {acq rel : Bool} {c : Scope}

theorem dcopy_issues {lay : Layout × Bool} (hr : (s.cx.s r).toNat % 64 = 0)
    (hfetch : fetchLayout (s.cx.s r) s = (.ok lay, u)) (hok : lay.1.ok = true) (ha : (s.cx.s a).toNat % lay.1.bytes = 0)
    (hd : (s.cx.s d).toNat % lay.1.bytes = 0) (htimed : s.cx.timed = true → spanInScratch (lay.1.span (s.cx.s d)) = true)
    (hpois : (s.cx.sp r || s.cx.sp a || s.cx.sp d || lay.2) = false) (hroom : u.quadCopies (u.coreNum / 4) < 32)
    (htag : Claims.TagHas u.cx g.toNat (lay.1.count * lay.1.bytes)) :
    exec (.dcopy r a d g acq rel c) s = .next (State.retire { u.modCx (fun y => y.tagIssue g.toNat (lay.1.count * lay.1.bytes)) with
      copies := u.copies ++ [(nextId u.copies, {
          core := u.coreNum, slot := u.slotNum, inc := s.cx.inc, rcb := s.cx.rgn, tag := g.toNat, lay := lay.1, src := s.cx.s a, dst := s.cx.s d, next := 0,
          wrote := [], acq := acq, rel := rel, scope := c, lt := u.cx.commandTime acq, space := s.cx.space })] }) := by
  refine finish_ok _ _ _ ?_
  refine (Exec.bind_ok (cx_run s) _).trans ?_
  refine (Exec.bind_ok (guardTrap_ok (decide_eq_true hr)) _).trans ?_
  refine (Exec.bind_ok hfetch _).trans ?_
  refine (Exec.bind_ok (guardTrap_ok (by simp [ha])) _).trans ?_
  refine (Exec.bind_ok (guardTrap_ok (by simp [hd])) _).trans ?_
  refine (Exec.bind_ok (guardTrap_ok hok) _).trans ?_
  refine (Exec.bind_ok (guardTrap_ok (by rw [Bool.or_eq_true, Bool.not_eq_true', ← Bool.not_eq_true, ← imp_iff_not_or]; exact htimed)) _).trans ?_
  refine (Exec.bind_ok (guardSteering_ok hpois) _).trans ?_
  refine (Exec.bind_ok (Exec.get_run u) _).trans ?_
  refine (Exec.bind_ok (Exec.get_run u) _).trans ?_
  refine (Exec.bind_ok (engineRoom_free (decide_eq_true hroom) htag) _).trans ?_
  refine (Exec.bind_ok (modCx_run ..) _).trans ?_
  refine (Exec.bind_ok (Exec.modify_run ..) _).trans ?_
  rw [retireE_run, State.cx_modCx, Context.commandTime_tagIssue]
  rfl

theorem dcopy_unaligned (hr : (s.cx.s r).toNat % 64 ≠ 0) :
    Traps (.dcopy r a d g acq rel c) s cALIGN (s.cx.s r) :=
  traps_of_error rfl (by simp [hr]) (by decide) (by decide)

theorem attn_query_unaligned (hq : (s.cx.s q).toNat % 64 ≠ 0) :
    Traps (.attn q t d g acq rel c) s cALIGN (s.cx.s q) :=
  traps_of_error rfl (by simp [hq]) (by decide) (by decide)

theorem attn_table_unaligned (hq : (s.cx.s q).toNat % 64 = 0)
    (ht : (s.cx.s t).toNat % 64 ≠ 0) : Traps (.attn q t d g acq rel c) s cALIGN (s.cx.s t) :=
  traps_of_error rfl (by simp [hq, ht]) (by decide) (by decide)

theorem attn_destination_unaligned (hq : (s.cx.s q).toNat % 64 = 0)
    (ht : (s.cx.s t).toNat % 64 = 0) (hd : (s.cx.s d).toNat % 64 ≠ 0) : Traps (.attn q t d g acq rel c) s cALIGN (s.cx.s d) :=
  traps_of_error rfl (by simp [hq, ht, hd]) (by decide) (by decide)

theorem attn_issues {p₁ p₂ : Place} {qd hd : Nat × Bool} {ex : List Extent × Bool}
    {u₀ u₁ u₂ : State} {tab : BlockTable} {nq dim : Nat} {bs : List AttnBlock} (htab : { hdr := hd.1, exts := ex.1 } = tab)
    (hnq : qd.1 / 2 ^ (64 + 32) % 64 + 1 = nq) (hdim : headDim tab.dcode = dim) (hbs : tab.attnBlocks (u.homeSlice s.cx.space) = bs)
    (hq : (s.cx.s q).toNat % 64 = 0) (ht : (s.cx.s t).toNat % 64 = 0) (hd64 : (s.cx.s d).toNat % 64 = 0)
    (hplaces : placesT [s.cx.s q, s.cx.s t] .load 64 s = (.ok [p₁, p₂], u₀)) (hquery : issueLoad p₁ 64 u₀ = (.ok qd, u₁))
    (hheader : issueLoad p₂ 64 u₁ = (.ok hd, u₂)) (hexts : loadExtents (hd.1 / 2 ^ 256 % 128) (s.cx.s t + 64) u₂ = (.ok ex, u))
    (hqok : queryOk qd.1 = true) (htok : tab.ok = true) (htimed : s.cx.timed = false)
    (hpois : (s.cx.sp q || s.cx.sp t || s.cx.sp d || qd.2 || hd.2 || ex.2) = false) (hroom : u.attnRoom bs = true)
    (htag : Claims.TagHas u.cx g.toNat (4 * dim * nq)) :
    exec (.attn q t d g acq rel c) s = .next (State.retire { u.modCx (fun y => y.tagIssue g.toNat (4 * dim * nq)) with
      attns := u.attns ++ [(nextId u.attns, {
          core := u.coreNum, slot := u.slotNum, inc := s.cx.inc, rcb := s.cx.rgn, tag := g.toNat, qaddr := qd.1 % 2 ^ 64, nq := nq, dim := dim,
          fmt := BitVec.ofNat 8 tab.fmt, scale := qd.1 / 2 ^ 64 % 2 ^ 32, qpos := qd.1 / 2 ^ 128 % 2 ^ 64, win := qd.1 / 2 ^ 192 % 2 ^ 64,
          blocks := bs, query := none, dst := s.cx.s d, done := [], failed := none, pois := false, acq := acq, rel := rel, scope := c,
          lt := u.cx.commandTime acq, space := s.cx.space })] }) := by
  subst htab hnq hdim hbs
  have hload : ([p₁, p₂].mapM fun p => issueLoad p 64 : Exec _) u₀ = (.ok [qd, hd], u₂) := by
    simp [List.mapM_cons, hquery, hheader]
  refine finish_ok _ _ _ ?_
  refine (Exec.bind_ok (cx_run s) _).trans ?_
  refine (Exec.bind_ok (guardTrap_ok (decide_eq_true hq)) _).trans ?_
  refine (Exec.bind_ok (guardTrap_ok (decide_eq_true ht)) _).trans ?_
  refine (Exec.bind_ok (guardTrap_ok (decide_eq_true hd64)) _).trans ?_
  refine (Exec.bind_ok hplaces _).trans ?_
  refine (Exec.bind_ok hload _).trans ?_
  refine (Exec.bind_ok hexts _).trans ?_
  refine (Exec.bind_ok (guardTrap_ok hqok) _).trans ?_
  refine (Exec.bind_ok (guardTrap_ok htok) _).trans ?_
  refine (Exec.bind_ok (guardTrap_ok (by rw [htimed]; rfl)) _).trans ?_
  refine (Exec.bind_ok (guardSteering_ok hpois) _).trans ?_
  refine (Exec.bind_ok (Exec.get_run u) _).trans ?_
  refine (Exec.bind_ok (engineRoom_free hroom htag) _).trans ?_
  refine (Exec.bind_ok (modCx_run ..) _).trans ?_
  refine (Exec.bind_ok (Exec.modify_run ..) _).trans ?_
  rw [retireE_run, State.cx_modCx, Context.commandTime_tagIssue]
  rfl
end

end Sys2Proof.Machine

namespace Sys2Proof.Claims
open Sys2Proof.Machine

/-- Settles O42: each command by the state that it leaves (`dcopy_issues`, `attn_issues`), which completes behind it, and each operand off its
boundary by the first check that meets it. -/
theorem copiesAndAttentionAreIssued : Obligations.CopiesAndAttentionAreIssued := by
  unfold Obligations.CopiesAndAttentionAreIssued
  intro s
  refine ⟨?_, fun r a d t q l c hr => dcopy_unaligned hr, ?_,
    fun q t d g acq rel c => ⟨attn_query_unaligned, attn_table_unaligned, attn_destination_unaligned⟩⟩
  · intro r a d t q l c lay u n hr hfetch hok ha hd htimed hpois hroom htag
    exact ⟨_, dcopy_issues hr hfetch hok ha hd htimed hpois hroom htag, from_retire _⟩
  · intro q t d g acq rel c p₁ p₂ qd hd ex u₀ u₁ u₂ u tab nq dim bs hq ht hd64 hplaces hquery hheader hexts hqok htok htimed hpois hroom htag
    exact ⟨_, attn_issues rfl rfl rfl rfl hq ht hd64 hplaces hquery hheader hexts hqok htok htimed hpois hroom htag,
      from_retire _⟩

end Sys2Proof.Claims
end

section
/-! The steps of the engines (spec 10 R227; 13 R248 to R269; 14 R279 to R281; 16 R303; 17 R312, R313;
19 R334 to R338, R356, R357), each under what it waits for, and the settling of O51. -/

namespace Sys2Proof.Machine
open Claims (Steps)

/-! ### Copies (R254, R256) -/

section
variable {s t u : State} {id : Nat} {c : CopyCmd} {a b : Place} {x : Byte}

/-- A copy that ends with a reason: what it has not moved is abandoned on its tag. -/
def State.copyFails (t : State) (id : Nat) (c : CopyCmd) (x : Byte) : State :=
  ({ t with copies := kdel t.copies id }.commandOver (ctxKey c.core c.slot) (2 * id)).tagAbandoned c.core c.slot c.tag
    ((c.lay.count - c.next) * c.lay.bytes) x

theorem copyPiece_sourceFails (hc : kget s.copies id = some c)
    (ha : s.enginePlace c.lt c.core c.space ((c.from_ c.next) &&& ~~~63) .load = (.error x, t)) :
    Steps (.copyPiece id) s (t.copyFails id c x) := by
  show execCopyPiece id s = _
  simp only [execCopyPiece, hc, CopyCmd.order, ha]
  rfl

theorem copyPiece_targetFails (hc : kget s.copies id = some c)
    (ha : s.enginePlace c.lt c.core c.space ((c.from_ c.next) &&& ~~~63) .load = (.ok a, t))
    (hb : t.enginePlace c.lt c.core c.space ((c.to_ c.next) &&& ~~~63) .store = (.error x, u)) :
    Steps (.copyPiece id) s (u.copyFails id c x) := by
  show execCopyPiece id s = _
  simp only [execCopyPiece, hc, CopyCmd.order, ha, hb]
  rfl

theorem copyPiece_moves (hc : kget s.copies id = some c)
    (ha : s.enginePlace c.lt c.core c.space ((c.from_ c.next) &&& ~~~63) .load = (.ok a, t))
    (hb : t.enginePlace c.lt c.core c.space ((c.to_ c.next) &&& ~~~63) .store = (.ok b, u))
    (hread : u.stalls a false = false) (hwrite : u.stalls b true = false) :
    let x := u.blockAt c.core { c.order id with acq := c.acq || c.rereads a } a
    let w := x.2.putBlock c.core (c.order id) b c.mask (c.moved (a.sameBlock b) x.1.1 (if a.sameBlock b then x.1.1 else 0)) x.1.2
    let k := c.piece.length
    Steps (.copyPiece id) s ((if c.next + k < c.lay.count then { w with copies := kset w.copies id { c with next := c.next + k, wrote := c.wroteAt b } }
      else { w with copies := kdel w.copies id }.commandOver (ctxKey c.core c.slot) (2 * id)).tagPerformed c.core c.slot
        c.tag (k * c.lay.bytes) (w.writeTime b)) := by
  show execCopyPiece id s = _
  simp only [execCopyPiece, hc, CopyCmd.order, ha, hb, hread, hwrite, Bool.or_self, Bool.false_eq_true, if_false]
end

/-! ### Attention commands (R265 to R269) -/

section
variable {s u : State} {id : Nat} {a r : AttnCmd} {b : AttnBlock} {bs : List AttnBlock} {x : Byte}

theorem attnBlock_computed (ha : kget s.attns id = some a) (hf : a.failed = none) (hb : a.blocks.drop a.done.length = b :: bs)
    (hstall : s.attnStalls a b = false) (hstart : s.attnStarts id a = true) (hr : s.attnCompute (a.order id) a b = (.ok r, u)) :
    Steps (.attnBlock id) s { u with attns := kset u.attns id r } := by
  show execAttnBlock id s = _
  simp only [execAttnBlock, ha, hf, hb, hstall, hstart, hr]
  rfl

theorem attnBlock_fails (ha : kget s.attns id = some a) (hf : a.failed = none) (hb : a.blocks.drop a.done.length = b :: bs)
    (hstall : s.attnStalls a b = false) (hstart : s.attnStarts id a = true) (hr : s.attnCompute (a.order id) a b = (.error x, u)) :
    Steps (.attnBlock id) s { u with attns := kset u.attns id { a with failed := some x } } := by
  show execAttnBlock id s = _
  simp only [execAttnBlock, ha, hf, hb, hstall, hstart, hr]
  rfl

theorem attnResult_abandoned (ha : kget s.attns id = some a) (hf : a.failed = some x) : Steps (.attnResult id) s
    ({ s with attns := kdel s.attns id }.tagAbandoned a.core a.slot a.tag (4 * a.dim * a.nq) x) := by
  show execAttnResult id s = _
  have hready : a.ready = true := by rw [AttnCmd.ready, hf]; rfl
  simp only [execAttnResult, ha, hready, hf]
  rfl

theorem attnResult_written {ps : List (Place × Nat)} (ha : kget s.attns id = some a) (hf : a.failed = none) (hdone : a.blocks.length ≤ a.done.length)
    (hps : s.resultPlaces a.lt a.core a.space a.result = (.ok ps, u)) (hfree : ∀ p ∈ ps, u.stalls p.1 true = false) :
    let w := ps.foldl (fun (t : State) p => t.putBlock a.core (a.order id) p.1 (BitVec.allOnes 64) (BitVec.ofNat 512 p.2) a.pois)
      { u with attns := kdel u.attns id }
    let v := (w.commandOver (ctxKey a.core a.slot) (2 * id + 1)).tagPerformed a.core a.slot a.tag (4 * a.dim * a.nq)
      (ps.foldl (fun (m : Nat) p => max m (w.writeTime p.1)) 0)
    Steps (.attnResult id) s (if a.pois then v.modCtx (ctxKey a.core a.slot) (fun c => c.chk 1) else v) := by
  show execAttnResult id s = _
  have hready : a.ready = true := by rw [AttnCmd.ready, hf]; exact decide_eq_true hdone
  have hany : ps.any (fun p => u.stalls p.1 true) = false := List.any_eq_false.2 fun p hp => by rw [hfree p hp]; exact Bool.false_ne_true
  simp only [execAttnResult, ha, hready, hf, show (a.order id).lt = a.lt from rfl, hps, hany]
  rfl
end

/-! ### The matrix unit (R259, R413) -/

theorem matrixRetire_oldest {s : State} {core : Nat} {j : MatJob} {js : List MatJob} (hq : (s.getCore core).matq = j :: js) (hdue : j.due ≤ s.cycle) :
    let r := j.op.apply ((s.getCore core).tile j.tile)
    Steps (.matrixRetire core) s ((s.modCore core (fun c => { c with matq := js, tiles := kset c.tiles j.tile r.1 })).modCtx
      (ctxKey core j.slot) (fun c => c.addFlags r.2)) := by
  show execMatrixRetire core s = _
  simp only [execMatrixRetire, hq, if_neg (Nat.not_lt.2 hdue)]

/-- The exact sum of products speaks of the pairs alone, so what of a row has no partner does not count. -/
theorem dot_take (xs ys : List FVal) {n : Nat} (h : xs.length ≤ n) : dot (xs.take n) (ys.take n) = dot xs ys := by
  have hpairs : (xs.take n).zip (ys.take n) = xs.zip ys := by
    rw [List.zip, ← List.take_zipWith, List.take_of_length_le]
    rw [← List.zip]
    exact (List.length_zip ▸ Nat.min_le_left ..).trans h
  unfold dot
  rw [hpairs]

/-- A row of a format other than the table's 4-bit codes holds no more elements than one block does. -/
theorem length_matElems_le {fmt : Nat} (h : fmt ≠ 0x21) (cb : BitVec 128) (v : Nat) :
    (matElems fmt cb v).length ≤ if matWide fmt then 32 else 64 := by
  have hlen (n : Nat) : (rangeFrom 0 n).length = n := by rw [rangeFrom_eq_range, List.length_range]
  unfold matElems
  split
  · simp [matWide, hlen]
  · exact absurd rfl h
  · simp [matWide, hlen]
  · simp [matWide, hlen]
  · simp [matWide, hlen]
  · next h20 h21 h22 h23 h24 =>
    have hwide : matWide fmt = false := by
      simp only [matWide, Bool.or_eq_false_iff, beq_eq_false_iff_ne]
      exact ⟨⟨h22, h23⟩, h24⟩
    rw [hwide]
    dsimp only
    split
    · exact Nat.zero_le _
    · exact (List.length_map _).trans (hlen 64) |>.le

theorem getD_operandElems {fmt : Nat} {cb : BitVec 128} {d : BitVec 8192} {i : Nat} (hi : i < 16) :
    (operandElems fmt cb d).getD i [] = matElems fmt cb (d.toNat / 2 ^ (512 * i) % 2 ^ 512) := by
  unfold operandElems
  rw [rangeFrom_eq_range, List.getD_eq_getElem _ _ (by rw [List.length_map, List.length_range]; exact hi), List.getElem_map, List.getElem_range]

/-- Every element is rounded once after the exact sum of its products, and once where it is added to what the tile held (R69, R70, R260, R261). -/
theorem mma_element {fa fb : Byte} {a b : BitVec 8192} {cb : BitVec 128} {p : Bool} (hfa : fa.toNat ≠ 0x21) (t : Tile) {m n : Nat} (hm : m < 16)
    (hn : n < 16) : ((MatOp.mma fa fb a b none none cb p).apply t).1.data.toNat / 2 ^ (32 * (16 * m + n)) % 2 ^ 32 =
      (FFmt.f32.add FpEnv.plain (t.data.toNat / 2 ^ (32 * (16 * m + n)) % 2 ^ 32) (FFmt.f32.result FpEnv.plain (scaled
        (dot (matElems fa.toNat cb (a.toNat / 2 ^ (512 * m) % 2 ^ 512)) (matElems fb.toNat cb (b.toNat / 2 ^ (512 * n) % 2 ^ 512))).1
        127 127)).1).1 % 2 ^ 32 := by
  have hi : 16 * m + n < 256 := by omega
  have hrow : (16 * m + n) / 16 = m := by omega
  have hcol : (16 * m + n) % 16 = n := by omega
  unfold MatOp.apply
  simp only [if_neg hfa, rangeFrom, List.foldl_cons, List.foldl_nil]
  rw [toNat_ofLanes, ofLanes_lane]
  · simp only [List.getElem_map, List.getElem_zipIdx, Tile.elems, rangeFrom_eq_range, List.getElem_range, Nat.zero_add, hrow, hcol, scaleOf, accumulate,
      Nat.mul_zero, List.drop_zero, getD_operandElems hm, getD_operandElems hn]
    rw [dot_take _ _ (length_matElems_le hfa cb _)]
  all_goals
    simp only [List.length_map, List.length_zipIdx, Tile.elems, rangeFrom_eq_range, List.length_range]
    omega

/-! ### The sum-product engine (R279 to R281, R303) -/

theorem spRetire_oldest {s : State} {core : Nat} {j : SpJob} {js : List SpJob} (hq : (s.getCore core).spq = j :: js) (hdue : j.due ≤ s.cycle) :
    Steps (.spRetire core) s ((s.modCore core (fun c => { c with spq := js, spDone := s.cycle })).retireSp core j) := by
  show execSpRetire core s = _
  simp only [execSpRetire, hq, if_neg (Nat.not_lt.2 hdue)]

theorem spAccept_accepts {s : State} {core slot : Nat} {w : Wait} {n : Byte} {l x : Reg} {kk : BitVec 6} {sp down : Bool} {o : SpOperands}
    (hready : s.spReady core slot = true) (hw : (s.getCtx (ctxKey core slot)).wait = some w) (hk : w.kind = .spDep n l x kk sp down) {u : State}
    (hu : { s with cur := ctxKey core slot, grp := w.grp } = u) (ho : spOperands n l x kk sp down u = (.ok o, u))
    (howned : u.co.spOwned o.touched = false) (haccepts : u.co.spAccepts u.cycle = true) (hdone : u.co.spDone < u.cycle) :
    Steps (.spAccept core slot) s (Claims.spAccepted u o sp down).retire := by
  show execSpAccept core slot s = _
  simp only [execSpAccept, hready, hw, hk, hu]
  refine finish_ok _ _ _ ?_
  refine (Exec.bind_ok ho _).trans ?_
  refine (Exec.bind_ok (Exec.get_run u) _).trans ?_
  have hlate : decide (u.cycle ≤ u.co.spDone) = false := decide_eq_false (Nat.not_le.2 hdone)
  simp only [howned, haccepts, hlate, Bool.and_false, Bool.not_true, Bool.or_self]
  rfl

/-! ### The wedging engine (R312, R313) -/

section
variable {s : State} {id : Nat} {r : Request}

theorem promotion_answers (hr : kget s.requests id = some r) (hdue : s.promotionDue id r = true) {c : Nat} (hc : r.stage = .finished c) :
    Steps (.promotion id) s ({ s with requests := kdel s.requests id }.frontStore r.space (BitVec.ofNat 64 r.done) 8 c false).2 := by
  show execPromotion id s = _
  simp only [execPromotion, hr, hdue, hc]
  rfl

theorem promotion_goesOn {g : WedgeStage} {t : State} (hr : kget s.requests id = some r) (hdue : s.promotionDue id r = true) (hb : r.broken = false)
    (hc : ∀ c, r.stage ≠ .finished c) (ha : r.advance ((s.requestSlice r).getD 0) none { s with fresh := s.fresh + 1 } = (.ok g, t)) :
    Steps (.promotion id) s { t with requests := kset t.requests id { r with stage := g } } := by
  show execPromotion id s = _
  unfold execPromotion
  simp only [hr, hdue, hb, Bool.not_true, Bool.false_eq_true, if_false, ha]

theorem promotion_givesUp {c : Nat} {t : State} (hr : kget s.requests id = some r) (hdue : s.promotionDue id r = true) (hb : r.broken = false)
    (hc : ∀ c, r.stage ≠ .finished c) (ha : r.advance ((s.requestSlice r).getD 0) none { s with fresh := s.fresh + 1 } = (.error c, t)) :
    let w := (r.drop (State.undone { s with fresh := s.fresh + 1 } t)).2
    Steps (.promotion id) s { w with requests := kset w.requests id { r with stage := r.failed c } } := by
  show execPromotion id s = _
  unfold execPromotion
  simp only [hr, hdue, hb, Bool.not_true, Bool.false_eq_true, if_false, ha]

theorem Wedge.bind_ok {α β : Type} {m : Wedge α} {s t : State} {a : α} (h : m s = (.ok a, t)) (f : α → Wedge β) : (m >>= f) s = f a t := by
  simp only [Bind.bind, ExceptT.bind, ExceptT.mk, StateT.bind, ExceptT.bindCont, h]

/-- The first stage takes the LOCK of the pool that the last extent's table names. -/
theorem advance_start {slice : Nat} {tab : BlockTable} {e : Extent} {u t w : State} (hstage : r.stage = .start)
    (htab : tailTable r.space r.table u = (.ok (tab, e), t)) (hlock : wStore r.space tab.poolLock 8 (wedgeHolder slice) t = (.ok (), w)) :
    r.advance slice none u = (.ok .allocate, w) := by
  have hwants : r.wants u = (.ok (some tab.poolLock), t) := by
    unfold Request.wants
    rw [hstage]
    exact Wedge.bind_ok htab _
  have htake : r.take slice u = (.ok (), w) := by
    unfold Request.take
    exact (Wedge.bind_ok hwants _).trans hlock
  unfold Request.advance
  rw [hstage]
  exact Wedge.bind_ok htake _
end

/-! ### Errors of the hardware (R334, R335, R338) -/

theorem State.getCore_reportCounts (s : State) (core n : Nat) : (s.reportCounts core).getCore n = s.getCore n := rfl
theorem State.getCore_withFlash (s : State) (f : Flash) (n : Nat) : ({ s with flash := f } : State).getCore n = s.getCore n := rfl

theorem State.retries_countRetry (s : State) (core : Nat) : ((s.countRetry core).getCore core).retries = (s.getCore core).retries + 1 := by
  unfold State.countRetry
  dsimp only
  rw [State.getCore_reportCounts]
  split
  · rw [State.getCore_modCore_self]
  · rw [State.getCore_withFlash, State.getCore_modCore_self]

theorem containmentNotice_taken {s : State} {p : Packet} {core : Nat} (hp : p.body = .sealNotice core)
    (hs : (s.getCtx (ctxKey (s.supervisor (dieOf core)) 0)).cr.sstat.getLsbD 16 = false)
    (hm : (s.getCtx (ctxKey (s.supervisor (dieOf core)) 0)).midway = false) : Steps (.containmentNotice p) s
      (((s.takeOff p).modCore core (fun c => { c with sealed := c.sealed.map (fun q => { q with taken := some (s.supervisor (dieOf core)) }) })).enterNotice
        (s.supervisor (dieOf core)) core) := by
  show execContainmentNotice p s = _
  have hdue : s.noticeDue core = true := by rw [State.noticeDue, hs, hm]; rfl
  simp only [execContainmentNotice, hp, hdue, if_true]

/-! ### The context window (R356, R357) -/

theorem windowRead_answers {s : State} {core slot off : Nat} (h : windowOk core slot off = true) : Steps (.windowRead core slot off) s
    { s with outputs := s.outputs ++ [.windowValue (s.windowDword core slot off).1 (s.windowDword core slot off).2] } := by
  show execWindowRead core slot off s = _
  simp only [execWindowRead, h]
  rfl

theorem windowWrite_stores {s : State} {core slot off : Nat} {v : Dword} (h : windowOk core slot off = true) :
    Steps (.windowWrite core slot off v) s { (s.windowStore core slot off v).2 with
      outputs := (s.windowStore core slot off v).2.outputs ++ [.windowValue 0 (s.windowStore core slot off v).1] } := by
  show execWindowWrite core slot off v s = _
  simp only [execWindowWrite, h]
  rfl

end Sys2Proof.Machine

namespace Sys2Proof.Claims
open Sys2Proof.Machine

/-- Settles O51, engine by engine; the element of `mma` by `mma_element`, the LOCK of a promotion's first stage by `advance_start`. -/
theorem enginesGoOn : Obligations.EnginesGoOn := by
  unfold Obligations.EnginesGoOn
  intro s
  refine ⟨?_, ?_, ?_, ?_, ?_, ?_, ?_, ?_, ?_, ?_⟩
  · intro id c hc from_ fail
    refine ⟨fun x hx => copyPiece_sourceFails hc (Prod.ext hx rfl), ?_⟩
    intro a ha to_
    refine ⟨fun x hx => ?_, ?_⟩
    · exact copyPiece_targetFails hc (Prod.ext ha rfl) (Prod.ext hx rfl)
    · intro b hb hread hwrite
      exact copyPiece_moves hc (Prod.ext ha rfl) (Prod.ext hb rfl) hread hwrite
  · intro id a b bs u ha hf hb hstall hstart
    exact ⟨fun r hr => attnBlock_computed ha hf hb hstall hstart hr, fun x hx => attnBlock_fails ha hf hb hstall hstart hx⟩
  · intro id a ha
    exact ⟨fun x hf => attnResult_abandoned ha hf, fun ps u hf hdone hps hfree => attnResult_written ha hf hdone hps hfree⟩
  · intro core j js hq hdue r
    refine ⟨matrixRetire_oldest hq hdue, fun fa fb a b cb p hop hfa m n hm hn => ?_⟩
    exact (congrArg (fun op : MatOp => (op.apply _).1.data.toNat / _ % _) hop).trans (mma_element hfa _ hm hn)
  · exact fun core j js hq hdue => spRetire_oldest hq hdue
  · intro core slot w n l x kk sp down o k u hready hw hk ho howned haccepts hdone
    exact spAccept_accepts hready hw hk rfl ho howned haccepts hdone
  · intro id r hr hdue
    refine ⟨fun c hc => promotion_answers hr hdue hc, ?_⟩
    intro hb u slice goOn
    refine ⟨fun tab e t w hstart htab hlock => ?_, fun hc => ⟨fun g t ha => ?_, fun c t ha => ?_⟩⟩
    · exact promotion_goesOn hr hdue hb (by rw [hstart]; exact nofun) (advance_start hstart htab hlock)
    · exact promotion_goesOn hr hdue hb hc ha
    · exact promotion_givesUp hr hdue hb hc ha
  · exact fun core line => ⟨rfl, rfl, rfl, rfl, rfl, rfl, State.retries_countRetry s core⟩
  · intro p core hp sup hs hm
    exact containmentNotice_taken hp hs hm
  · exact fun core slot off v h => ⟨windowRead_answers h, windowWrite_stores h⟩

end Sys2Proof.Claims
end
